-- ==== Sys2Proof/Word.lean ====
section
/-! DEFINITION. The word types of the PHV-5128 and the operand types that commands carry. -/

namespace Sys2Proof

/-- One byte (00_scope, Notation: byte 0 of a frame is the first byte on the wire). -/
abbrev Byte := BitVec 8

/-- A 32-bit register (R452). -/
abbrev W32 := BitVec 32

/-- A 64-bit word: counters, instructions, waybill words, descriptors. -/
abbrev W64 := BitVec 64

/-- One of the 128 ports, and the lane of the same number (R9). -/
abbrev Port := Fin 128

/-- One of the 128 compositors (R9). -/
abbrev Comp := Fin 128

/-- One of the 16 cases (R9). -/
abbrev Case := Fin 16

/-- One of the 8 regions (R9). -/
abbrev Region := Fin 8

/-- One of the 16,384 egress queues (R9). -/
abbrev QNum := Fin 16384

/-- One of the 512 host rings (R311). -/
abbrev Ring := Fin 512

/-- One of the 32 DMA channels (R311). -/
abbrev Chan := Fin 32

/-- A forme tag, 0 or 1 (R12). -/
abbrev Tag := Fin 2

/-- A general register number g0 to g31 (R72). -/
abbrev GReg := Fin 32

/-- The fetch of one Binis instruction: the compositor that issues it, and whether the parity bit of the program
memory word was bad at this fetch (R98). -/
structure Fetch where
  comp : Comp
  parityBad : Bool
  deriving DecidableEq, Repr

/-- A requester of one Galley cell (R41, R46), with the frame it asks for. -/
inductive CellReq where
  /-- Region ingress, for the oldest uncommitted frame of port `p` that still needs a cell: a data cell, or its
  edit cell (R53). -/
  | ingress (p : Port)
  /-- The recirculation path of region `r`: a pass-record cell (R126). -/
  | recirc (r : Region)
  /-- Capture: the record cell of the request at the head of the capture queue (R354). -/
  | capture
  /-- Host DMA, for the frame that ring `k` is injecting (R317). -/
  | hostDma (k : Ring)
  deriving DecidableEq, Repr

/-- What a read of ECC-protected memory found (R67, R347). -/
inductive EccRead where
  | clean
  | corrected
  | uncorrectable
  deriving DecidableEq, Repr

/-- What the reads of one access find in its parts, by place in the access: the 64-byte bursts of a DDR access (R347),
the cells of a Galley read (R67). A part that is not listed reads clean. -/
abbrev EccFinds := List (Nat × EccRead)

/-- What a read finds in part `k`. -/
def EccFinds.at_ (fs : EccFinds) (k : Nat) : EccRead := ((fs.find? fun x => x.1 == k).map Prod.snd).getD .clean

/-- The outcomes of an access that begins `n` places on. -/
def EccFinds.after (fs : EccFinds) (n : Nat) : EccFinds :=
  fs.filterMap fun x => if n ≤ x.1 then some (x.1 - n, x.2) else none

/-- What the decoder can do with one LDPC codeword of a NAND page (R363): the bits that the first hard decoding
corrects, if it succeeds; the first read-retry level at which hard decoding succeeds, from 1; and whether soft decoding
does. -/
structure CodewordRead where
  hard : Option Nat
  retry : Option Nat
  soft : Bool
  deriving DecidableEq, Repr

/-- What the decoder can do with the four codewords of a NAND page (R363). -/
structure NandRead where
  w0 : CodewordRead
  w1 : CodewordRead
  w2 : CodewordRead
  w3 : CodewordRead
  deriving DecidableEq, Repr

/-- How a NAND page read decoded (R363). -/
inductive NandOutcome where
  /-- Decoded hard at the first try; the number of bits the worst codeword corrected. -/
  | hard (bits : Nat)
  /-- Decoded hard after read-retry. -/
  | retry
  /-- Decoded soft. -/
  | soft
  | uncorrectable
  deriving DecidableEq, Repr

/-- The decoding procedure of R363, with the declared number of read-retry levels. -/
def NandRead.outcome (r : NandRead) (levels : Nat) : NandOutcome :=
  let ws := [r.w0, r.w1, r.w2, r.w3]
  let retried := fun (w : CodewordRead) => w.hard.isSome || (match w.retry with
    | some l => decide (l ≤ levels)
    | none => false)
  if ws.all (·.hard.isSome) then .hard (ws.foldl (fun m w => max m (w.hard.getD 0)) 0)
  else if ws.all retried then .retry
  else if ws.all fun w => retried w || w.soft then .soft
  else .uncorrectable

/-- A page that decodes without a corrected bit. -/
def NandRead.clean : NandRead := ⟨⟨some 0, none, true⟩, ⟨some 0, none, true⟩, ⟨some 0, none, true⟩, ⟨some 0, none, true⟩⟩

/-- What a NAND die's parameter page says of it (R362). -/
structure DieParams where
  dataBytes : Nat
  spareBytes : Nat
  pages : Nat
  blocks : Nat
  planes : Nat
  readRetry : Bool
  deriving DecidableEq, Repr

/-- The Ledger entries, by table and address, whose parity is bad when the Keeper reads them (R153). -/
abbrev ParityBad := List (Fin 6 × BitVec 18)

/-- The entry at address `a` of table `t` has bad parity. -/
def ParityBad.has (b : ParityBad) (t a : Nat) : Bool := b.any fun x => x.1.val == t && x.2.toNat == a

/-- What the memories answer to one control instruction of a block: the Ledger entries whose parity is bad (R153), the
DDR's reads (R347) and the NAND's (R363). -/
structure Found where
  parity : ParityBad
  ddr : EccFinds
  nand : List NandRead
  deriving DecidableEq, Repr

/-- Every read is clean. -/
def Found.clean : Found := ⟨[], [], []⟩

/-- A PLL that may lose lock, with what it serves (R376). -/
inductive PllServes where
  | region (r : Region)
  | chip
  deriving DecidableEq, Repr

/-- The four 64-bit words of a DMA descriptor but its write-back word, as the engine read them (R312). -/
structure Desc where
  buf : W64
  word1 : W64
  request : W64
  deriving DecidableEq, Repr

/-- What the host sets in the endpoint's configuration space beside Bus Master Enable and the BARs (R300): Max Payload
Size and Max Read Request Size as powers of two over 128 bytes, the requester's 10-bit tags, Relaxed Ordering, the
completion timeout's value and whether it is off, and the generation and checking of ECRC. -/
structure PcieConfig where
  mps : Fin 3
  mrrs : Fin 6
  tag10 : Bool
  relaxed : Bool
  cplTimeout : BitVec 4
  cplTimeoutOff : Bool
  ecrcGen : Bool
  ecrcCheck : Bool
  deriving DecidableEq, Repr

/-- What the built-in self-test of a cold start found in one unit: its SOURCE (R398, R425). -/
abbrev BistFail := BitVec 12

/-- What the environment contributes to one start: outcomes that the spec leaves to the parts themselves
(R424, R425, R340, R427, R341). -/
structure StartFacts where
  /-- Units that fail self-test (cold start, R425). -/
  bistFails : List BistFail
  /-- The QSPI device is absent or a read errs (R424). -/
  qspiError : Bool
  /-- Subchannels that fail DDR training (R340). -/
  trainFails : BitVec 4
  /-- The first subchannel whose check pattern differs at a warm start (R341). -/
  ddrCheckFail : Option (Fin 4)
  /-- The first kept item that fails its retention check at a warm start: 1 image, 2 control store, 3 firmware,
  4 retention registers (R427, R429); with the cases whose image failed. -/
  retainedFail : Option (Fin 5)
  imageFails : BitVec 16
  /-- Microseconds from the start to READY (BOOT_START_TIME, R449). -/
  startUs : Nat
  /-- The straps as driven at the start: MGMT_EN in bit 3, HOST_EN in bit 2, I2C_ADDR1 and I2C_ADDR0 (R423, R468). -/
  straps : BitVec 4
  deriving DecidableEq, Repr

end Sys2Proof
end

