-- ==== Sys2Proof/Machine/Bits.lean ====
section
/-! DEFINITION. Bit fields, byte order, sign extension and the CRCs that the spec names. -/

namespace Sys2Proof.Machine

/-- Bits [hi:lo] of a word, as a number. -/
def bitsOf {w : Nat} (v : BitVec w) (hi lo : Nat) : Nat := v.toNat / 2 ^ lo % 2 ^ (hi + 1 - lo)

/-- Bit `i` of a word. -/
def bitOf {w : Nat} (v : BitVec w) (i : Nat) : Bool := v.getLsbD i

/-- `v` with bits [hi:lo] set to the low bits of `x`. -/
def setBits {w : Nat} (v : BitVec w) (hi lo x : Nat) : BitVec w :=
  BitVec.ofNat w (v.toNat - bitsOf v hi lo * 2 ^ lo + x % 2 ^ (hi + 1 - lo) * 2 ^ lo)

/-- A bit as a number. -/
def b2n (b : Bool) : Nat := if b then 1 else 0

/-- The number whose bit `i` is `f i`, for the `n` lowest bits. -/
def maskOf (n : Nat) (f : Nat → Bool) : Nat := (List.range n).foldl (fun a i => a + b2n (f i) * 2 ^ i) 0

/-- A number of `w` bits read as two's complement. -/
def signed (w n : Nat) : Int := if 2 ^ (w - 1) ≤ n then (n : Int) - (2 ^ w : Nat) else n

/-- An integer as an unsigned number of `w` bits, wrapping. -/
def wrap (w : Nat) (i : Int) : Nat := (i % (2 ^ w : Nat)).toNat

/-- The number that bytes spell, most significant first. -/
def beNat (bs : List Byte) : Nat := bs.foldl (fun a b => a * 256 + b.toNat) 0

/-- The number that bytes spell, least significant first. -/
def leNat : List Byte → Nat
  | [] => 0
  | b :: bs => b.toNat + 256 * leNat bs

/-- The low `n` bytes of a number, least significant first. -/
def toLE : Nat → Nat → List Byte
  | 0, _ => []
  | n + 1, v => BitVec.ofNat 8 v :: toLE n (v / 256)

/-- The low `n` bytes of a number, most significant first. -/
def toBE (n v : Nat) : List Byte := (toLE n v).reverse

/-- Byte `i` of a list; zero beyond its end. -/
def byteAt (bs : List Byte) (i : Nat) : Byte := bs.getD i 0

/-- `n` bytes from `off`, zeros beyond the end. -/
def bytesAt (bs : List Byte) (off n : Nat) : List Byte :=
  let got := (bs.drop off).take n
  got ++ List.replicate (n - got.length) 0

/-- The `n`-byte big-endian number at `off`. -/
def beAt (bs : List Byte) (off n : Nat) : Nat := beNat (bytesAt bs off n)

/-- `bs` with the bytes from `off` overwritten by `new` (as far as `bs` reaches). -/
def overwrite (bs : List Byte) (off : Nat) (new : List Byte) : List Byte :=
  bs.take off ++ (new.take (bs.length - off)) ++ bs.drop (off + new.length)

/-- `bs` with `new` inserted at `off`. -/
def insertAt (bs : List Byte) (off : Nat) (new : List Byte) : List Byte := bs.take off ++ new ++ bs.drop off

/-- `bs` without the `n` bytes from `off`. -/
def removeAt (bs : List Byte) (off n : Nat) : List Byte := bs.take off ++ bs.drop (off + n)

/-- `bs` cut or filled with zeros to exactly `n` bytes. -/
def padTo (n : Nat) (bs : List Byte) : List Byte := bytesAt bs 0 n

/-- `n` rounds of a reflected CRC with polynomial `poly`. -/
def crcRounds (poly : Nat) : Nat → Nat → Nat
  | 0, c => c
  | n + 1, c => crcRounds poly n (if c % 2 = 1 then (c / 2) ^^^ poly else c / 2)

/-- A reflected CRC over bytes from a state, with no final XOR. -/
def crcStep (poly c : Nat) (b : Byte) : Nat := crcRounds poly 8 (c ^^^ b.toNat)

/-- CRC-32C state after bytes (R110: Castagnoli polynomial 0x1EDC_6F41, reflected). -/
def crc32cState (st : Nat) (bs : List Byte) : Nat := bs.foldl (crcStep 0x82F63B78) st

/-- CRC-32C finished with the final XOR (R110), from seed `st`. -/
def crc32c (st : Nat) (bs : List Byte) : Nat := crc32cState st bs ^^^ 0xFFFFFFFF

/-- The IEEE 802.3 frame check sequence of bytes, as its four bytes on the wire (PRESUMED from IEEE 802.3: the spec
names the FCS and gives no polynomial; log entry 15). -/
def fcsOf (bs : List Byte) : List Byte := toLE 4 (bs.foldl (crcStep 0xEDB88320) 0xFFFFFFFF ^^^ 0xFFFFFFFF)

/-- ⌈a / b⌉. -/
def ceilDiv (a b : Nat) : Nat := (a + b - 1) / b

/-- The 64-bit word of a number. -/
def w64 (n : Nat) : W64 := BitVec.ofNat 64 n

end Sys2Proof.Machine
end

