-- ==== Sys2Proof/Machine/Crypto.lean ====
section
/-! DEFINITION. The ciphers and hashes that the spec names by their standards (R436, R443, R446): SHA-256, RSASSA-PSS with
SHA-256 and MGF1, and AES-256-GCM. The spec names the standards and gives no algorithm: PRESUMED from FIPS 180-4,
PKCS #1 v2.2, FIPS 197 and SP 800-38D (log entry 16). -/

namespace Sys2Proof.Machine

/-! ### SHA-256 -/

/-- The eight 32-bit words that a 256-bit number packs, the first one on top. -/
def packedWords (n : Nat) : List Nat := (List.range 8).map fun i => n / 2 ^ (224 - 32 * i) % 2 ^ 32

/-- The round constants, eight to a number. -/
def shaK : List Nat :=
  (packedWords 0x428a2f9871374491b5c0fbcfe9b5dba53956c25b59f111f1923f82a4ab1c5ed5) ++
  (packedWords 0xd807aa9812835b01243185be550c7dc372be5d7480deb1fe9bdc06a7c19bf174) ++
  (packedWords 0xe49b69c1efbe47860fc19dc6240ca1cc2de92c6f4a7484aa5cb0a9dc76f988da) ++
  (packedWords 0x983e5152a831c66db00327c8bf597fc7c6e00bf3d5a7914706ca635114292967) ++
  (packedWords 0x27b70a852e1b21384d2c6dfc53380d13650a7354766a0abb81c2c92e92722c85) ++
  (packedWords 0xa2bfe8a1a81a664bc24b8b70c76c51a3d192e819d6990624f40e3585106aa070) ++
  (packedWords 0x19a4c1161e376c082748774c34b0bcb5391c0cb34ed8aa4a5b9cca4f682e6ff3) ++
  (packedWords 0x748f82ee78a5636f84c878148cc7020890befffaa4506cebbef9a3f7c67178f2)

/-- The initial hash value. -/
def shaInit : List Nat :=
  packedWords 0x6a09e667bb67ae853c6ef372a54ff53a510e527f9b05688c1f83d9ab5be0cd19

def add32 (a b : Nat) : Nat := (a + b) % 2 ^ 32

def rotr32 (n a : Nat) : Nat := (a / 2 ^ n) ||| (a * 2 ^ (32 - n) % 2 ^ 32)

/-- `n` more words of the message schedule; the list holds the words so far, newest first. -/
def shaSchedule : Nat → List Nat → List Nat
  | 0, w => w
  | n + 1, w =>
    let w2 := w.getD 1 0
    let w15 := w.getD 14 0
    let s0 := rotr32 7 w15 ^^^ rotr32 18 w15 ^^^ w15 / 2 ^ 3
    let s1 := rotr32 17 w2 ^^^ rotr32 19 w2 ^^^ w2 / 2 ^ 10
    shaSchedule n (add32 (add32 (add32 s1 (w.getD 6 0)) s0) (w.getD 15 0) :: w)

/-- One round on the working variables a to h. -/
def shaRound (v : List Nat) (kw : Nat × Nat) : List Nat :=
  match v with
  | [a, b, c, d, e, f, g, h] =>
    let s1 := rotr32 6 e ^^^ rotr32 11 e ^^^ rotr32 25 e
    let ch := (e &&& f) ^^^ ((e ^^^ 0xFFFFFFFF) &&& g)
    let t1 := add32 (add32 (add32 (add32 h s1) ch) kw.1) kw.2
    let s0 := rotr32 2 a ^^^ rotr32 13 a ^^^ rotr32 22 a
    let mj := (a &&& b) ^^^ (a &&& c) ^^^ (b &&& c)
    [add32 t1 (add32 s0 mj), a, b, c, add32 d t1, e, f, g]
  | _ => v

/-- The big-endian words of a block. -/
def beWords : Nat → List Byte → List Nat
  | 0, _ => []
  | n + 1, bs => beNat (bs.take 4) :: beWords n (bs.drop 4)

def shaBlock (h : List Nat) (block : List Byte) : List Nat :=
  let w := (shaSchedule 48 (beWords 16 block).reverse).reverse
  List.zipWith add32 h ((List.zip shaK w).foldl shaRound h)

def shaBlocks : Nat → List Nat → List Byte → List Nat
  | 0, h, _ => h
  | n + 1, h, bs => shaBlocks n (shaBlock h (bs.take 64)) (bs.drop 64)

def shaPad (bs : List Byte) : List Byte :=
  let zeros := (119 - bs.length % 64) % 64
  bs ++ 0x80 :: (List.replicate zeros 0 ++ toBE 8 (8 * bs.length))

/-- SHA-256 of bytes, as 32 bytes. -/
def sha256 (bs : List Byte) : List Byte :=
  let p := shaPad bs
  (shaBlocks (p.length / 64) shaInit p).flatMap (toBE 4)

/-! ### RSASSA-PSS -/

/-- b^e mod m by squaring; `fuel` bounds the bits of e. -/
def powMod (m : Nat) : Nat → Nat → Nat → Nat → Nat
  | 0, _, _, acc => acc
  | fuel + 1, b, e, acc => powMod m fuel (b * b % m) (e / 2) (if e % 2 = 1 then acc * b % m else acc)

def mgf1 (seed : List Byte) (len : Nat) : List Byte :=
  ((List.range (ceilDiv len 32)).flatMap (fun i => sha256 (seed ++ toBE 4 i))).take len

def xorBytes (a b : List Byte) : List Byte := List.zipWith (· ^^^ ·) a b

/-- EMSA-PSS encoding of a hash with a salt, for a 3,072-bit modulus: 384 bytes, the top bit clear. -/
def pssEncode (mHash salt : List Byte) : List Byte :=
  let h := sha256 (List.replicate 8 0 ++ mHash ++ salt)
  let db := List.replicate (384 - 32 - 32 - 2) 0 ++ 0x01 :: salt
  let masked := xorBytes db (mgf1 h (384 - 33))
  (byteAt masked 0 &&& 0x7F) :: masked.drop 1 ++ h ++ [0xBC]

/-- RSASSA-PSS verification with a 32-byte salt (R436). -/
def pssVerify (modulus exponent : Nat) (msg : List Byte) (signature : Nat) : Bool :=
  if modulus ≤ signature then false else
  let em := toBE 384 (powMod modulus 3072 (signature % modulus) exponent 1)
  let masked := em.take 351
  let h := (em.drop 351).take 32
  let db0 := xorBytes masked (mgf1 h 351)
  let db := (byteAt db0 0 &&& 0x7F) :: db0.drop 1
  let salt := db.drop 319
  decide (byteAt em 383 = 0xBC) && decide (byteAt masked 0 &&& 0x80 = 0) &&
  decide (db.take 318 = List.replicate 318 0) && decide (byteAt db 318 = 0x01) &&
  decide (h = sha256 (List.replicate 8 0 ++ sha256 msg ++ salt))

/-- RSASSA-PSS signature with a given salt (R446). -/
def pssSign (modulus exponent : Nat) (msg salt : List Byte) : List Byte :=
  toBE 384 (powMod modulus 3072 (beNat (pssEncode (sha256 msg) salt) % modulus) exponent 1)

/-! ### AES-256-GCM -/

def xtime (a : Nat) : Nat := if 128 ≤ a then (2 * a ^^^ 0x11B) % 256 else 2 * a

/-- Product in the AES field. -/
def aesMul : Nat → Nat → Nat → Nat
  | 0, _, _ => 0
  | n + 1, a, b => (if b % 2 = 1 then a else 0) ^^^ aesMul n (xtime a) (b / 2)

def aesPow : Nat → Nat → Nat
  | 0, _ => 1
  | n + 1, a => aesMul 8 a (aesPow n a)

def rotl8 (n a : Nat) : Nat := (a * 2 ^ n ||| a / 2 ^ (8 - n)) % 256

def aesSbox (a : Nat) : Nat :=
  let i := aesPow 254 a
  i ^^^ rotl8 1 i ^^^ rotl8 2 i ^^^ rotl8 3 i ^^^ rotl8 4 i ^^^ 0x63

/-- `n` more round-key words, newest first; `i` is the index of the next. -/
def aesExpand : Nat → Nat → Nat → List (List Nat) → List (List Nat)
  | 0, _, _, ws => ws
  | n + 1, i, rcon, ws =>
    let t := ws.getD 0 []
    let t' :=
      if i % 8 = 0 then
        match (t.drop 1 ++ t.take 1).map aesSbox with
        | x :: xs => (x ^^^ rcon) :: xs
        | [] => []
      else if i % 8 = 4 then t.map aesSbox else t
    let w := List.zipWith (· ^^^ ·) (ws.getD 7 []) t'
    aesExpand n (i + 1) (if i % 8 = 0 then xtime rcon else rcon) (w :: ws)

def chunk4 : Nat → List Nat → List (List Nat)
  | 0, _ => []
  | n + 1, xs => xs.take 4 :: chunk4 n (xs.drop 4)

/-- The 15 round keys of a 32-byte key. -/
def aesKeys (key : List Nat) : List (List Nat) :=
  let ws := (aesExpand 52 8 1 (chunk4 8 key).reverse).reverse
  (List.range 15).map (fun r => ((ws.drop (4 * r)).take 4).flatten)

def aesShift (st : List Nat) : List Nat := (List.range 16).map (fun i => st.getD ((i + 4 * (i % 4)) % 16) 0)

def aesMix (col : List Nat) : List Nat :=
  (List.range 4).map (fun i =>
    aesMul 8 2 (col.getD i 0) ^^^ aesMul 8 3 (col.getD ((i + 1) % 4) 0) ^^^ col.getD ((i + 2) % 4) 0 ^^^
      col.getD ((i + 3) % 4) 0)

/-- AES-256 of one 16-byte block. -/
def aesBlock (keys : List (List Nat)) (block : List Nat) : List Nat :=
  let x := List.zipWith (· ^^^ ·) block (keys.getD 0 [])
  let y := ((keys.drop 1).take 13).foldl
    (fun st k => List.zipWith (· ^^^ ·) ((chunk4 4 (aesShift (st.map aesSbox))).flatMap aesMix) k) x
  List.zipWith (· ^^^ ·) (aesShift (y.map aesSbox)) (keys.getD 14 [])

/-- Product in the GHASH field, on 128-bit numbers with bit 127 first. -/
def ghashMul : Nat → Nat → Nat → Nat → Nat
  | 0, _, _, z => z
  | n + 1, x, v, z =>
    ghashMul n x (if v % 2 = 1 then v / 2 ^^^ 0xE1000000000000000000000000000000 else v / 2)
      (if x / 2 ^ n % 2 = 1 then z ^^^ v else z)

def natsOf (bs : List Byte) : List Nat := bs.map BitVec.toNat

def ghashBlocks : Nat → Nat → Nat → List Byte → Nat
  | 0, _, y, _ => y
  | n + 1, h, y, bs => ghashBlocks n h (ghashMul 128 (y ^^^ beNat (padTo 16 (bs.take 16))) h 0) (bs.drop 16)

/-- AES-256-GCM decryption with a 12-byte nonce: the plaintext, or none when the tag does not match. -/
def gcmOpen (key nonce aad cipher tag : List Byte) : Option (List Byte) :=
  let keys := aesKeys (natsOf key)
  let enc := fun (ctr : Nat) => (aesBlock keys (natsOf (nonce ++ toBE 4 ctr))).map (BitVec.ofNat 8)
  let h := beNat ((aesBlock keys (List.replicate 16 0)).map (BitVec.ofNat 8))
  let y1 := ghashBlocks (ceilDiv aad.length 16) h 0 aad
  let y2 := ghashBlocks (ceilDiv cipher.length 16) h y1 cipher
  let y3 := ghashMul 128 (y2 ^^^ (8 * aad.length * 2 ^ 64 + 8 * cipher.length)) h 0
  if xorBytes (toBE 16 y3) (enc 1) = tag then
    some (xorBytes cipher ((List.range (ceilDiv cipher.length 16)).flatMap (fun i => enc (i + 2))))
  else none

end Sys2Proof.Machine
end

