-- ==== Sys2Proof/Config.lean ====
section
/-! DEFINITION. What the spec leaves open: free values with no body. Nothing in Lean can evaluate one, so a statement
about one holds for every value. -/

namespace Sys2Proof.Config

/-- A free bit string of `w` bits: the `n`-th open value of the run (log entry 2). `n` is `State.free`, which the step
reads and advances. -/
opaque freeValue (w : Nat) (n : Nat) : BitVec w

/-- The timing parameters that a DDR timing set holds at reset: "per RATE" in R351, of which the spec gives no number
(log entry 12). Indexed by the register's offset. -/
opaque ddrTiming (off : Nat) : W32

/-- The equaliser values of a lane's receiver: PRT_RX_EQ bits [20:16] and [11:8] (R37), which the spec leaves to the
lane (log entry 13). Indexed by the port and the cycle at which the receiver stood at them. -/
opaque rxEq (p cycle : Nat) : W32

/-- The 252 undefined bytes of a FREE cell (R43), by cell and byte (log entry 14). -/
opaque freeCellByte (cell byte : Nat) : Byte

/-- The layout of the capture ring's time index, which R357 leaves open (log entry 46): the word of the last MiB that
records the position of the first record of a ms, and its value. -/
opaque ringIndex (ms pos : Nat) : BitVec 17 × W64

/-- What manufacture writes into OTP and ROM (R31, R302, R437, R443, R444): the device base address, the serial number,
the hash of key slot 0, the errata key, the modulus and private exponent of the identity key, its certificate and the
boot ROM (log entry 3). -/
opaque otpMacBase : Nat
opaque otpSerial : Nat
opaque otpKeyHash : Nat
opaque otpErrataKey : Nat
opaque otpIdModulus : Nat
opaque otpIdExponent : Nat
opaque otpCert : List Byte
opaque otpRom : List Byte

/-- Bytes of the board's QSPI device above the 16 MiB that every board has (R433). -/
opaque qspiExtra : Nat

end Sys2Proof.Config
end

