-- ==== Sys2Proof/Machine/RegTable.lean ====
section
/-! DEFINITION. The register map of BAR0 (R458 and the register tables of every chapter): the offset of each register,
its fields, and one descriptor per register family with its reset value and its access masks (R6, R457). -/

namespace Sys2Proof.Machine

/-- One field of one register: the register's BAR0 offset and the field's bits [hi:lo]. -/
structure Fld where
  off : Nat
  hi : Nat
  lo : Nat
  deriving DecidableEq, Repr

/-- One register family: its first offset, its index ranges (count and stride, widest stride first), whether its
registers are 64 bits wide (R452), its reset value and its masks: bits that a write sets (RW, RWS), bits that a 1
clears (W1C), bits that survive a warm start (RWS), bits that only power-on resets (R457), and whether they are 64-bit
counters (R296). -/
structure RegDesc where
  base : Nat
  dims : List (Nat × Nat)
  wide : Bool
  rst : W64
  rw : W64
  w1c : W64
  rws : W64
  powerOn : W64
  counter : Bool
  deriving DecidableEq, Repr


/-! ### Boot -/

def R.BOOT_CHIP_ID : Nat := 0x0 -- R4
def F.BOOT_CHIP_ID_DEVICE : Fld := ⟨0x0, 31, 16⟩
def F.BOOT_CHIP_ID_STEP_MAJOR : Fld := ⟨0x0, 15, 12⟩
def F.BOOT_CHIP_ID_STEP_MINOR : Fld := ⟨0x0, 11, 8⟩
def F.BOOT_CHIP_ID_VARIANT : Fld := ⟨0x0, 7, 4⟩
def R.BOOT_STATUS : Nat := 0x4 -- R449
def F.BOOT_STATUS_READY : Fld := ⟨0x4, 31, 31⟩
def F.BOOT_STATUS_WARM : Fld := ⟨0x4, 30, 30⟩
def F.BOOT_STATUS_RECOVERY : Fld := ⟨0x4, 29, 29⟩
def F.BOOT_STATUS_STEP : Fld := ⟨0x4, 27, 24⟩
def F.BOOT_STATUS_FORCE_COLD : Fld := ⟨0x4, 23, 23⟩
def F.BOOT_STATUS_WARM_FAILS : Fld := ⟨0x4, 21, 20⟩
def F.BOOT_STATUS_COLD_FAILS : Fld := ⟨0x4, 17, 16⟩
def F.BOOT_STATUS_MGMT_EN : Fld := ⟨0x4, 1, 1⟩
def F.BOOT_STATUS_HOST_EN : Fld := ⟨0x4, 0, 0⟩
def R.BOOT_LAST : Nat := 0x8 -- R449
def F.BOOT_LAST_CAUSE : Fld := ⟨0x8, 31, 24⟩
def F.BOOT_LAST_STEP : Fld := ⟨0x8, 23, 20⟩
def F.BOOT_LAST_WARM : Fld := ⟨0x8, 16, 16⟩
def F.BOOT_LAST_DETAIL : Fld := ⟨0x8, 15, 0⟩
def R.BOOT_RESTART : Nat := 0xc -- R449
def F.BOOT_RESTART_KEY : Fld := ⟨0xc, 31, 16⟩
def F.BOOT_RESTART_CLR_FAILS : Fld := ⟨0xc, 2, 2⟩
def F.BOOT_RESTART_MODE : Fld := ⟨0xc, 1, 0⟩
def R.BOOT_START_TIME : Nat := 0x10 -- R449
def F.BOOT_START_TIME_US : Fld := ⟨0x10, 19, 0⟩
def R.BOOT_QSPI_CTRL : Nat := 0x20 -- R449
def F.BOOT_QSPI_CTRL_GO : Fld := ⟨0x20, 31, 31⟩
def F.BOOT_QSPI_CTRL_BUSY : Fld := ⟨0x20, 30, 30⟩
def F.BOOT_QSPI_CTRL_RESULT : Fld := ⟨0x20, 29, 28⟩
def F.BOOT_QSPI_CTRL_OP : Fld := ⟨0x20, 25, 24⟩
def F.BOOT_QSPI_CTRL_LEN : Fld := ⟨0x20, 8, 0⟩
def R.BOOT_QSPI_ADDR : Nat := 0x24 -- R449
def F.BOOT_QSPI_ADDR_ADDR : Fld := ⟨0x24, 31, 0⟩
def R.BOOT_QSPI_BUF (i : Nat) : Nat := 0x100 + 4 * i -- R449
def F.BOOT_QSPI_BUF_DATA (i : Nat) : Fld := ⟨0x100 + 4 * i, 31, 0⟩
def R.SEC_KEY_SLOT (i : Nat) : Nat := 0x8000 + 64 * i -- R449
def F.SEC_KEY_SLOT_PROGRAMMED (i : Nat) : Fld := ⟨0x8000 + 64 * i, 31, 31⟩
def F.SEC_KEY_SLOT_REVOKED (i : Nat) : Fld := ⟨0x8000 + 64 * i, 30, 30⟩
def F.SEC_KEY_SLOT_RUNNING (i : Nat) : Fld := ⟨0x8000 + 64 * i, 29, 29⟩
def R.SEC_KEY_HASH (i j : Nat) : Nat := 0x8020 + 64 * i + 4 * j -- R449
def F.SEC_KEY_HASH_HASH (i j : Nat) : Fld := ⟨0x8020 + 64 * i + 4 * j, 31, 0⟩
def R.SEC_KEY_CTRL : Nat := 0x8100 -- R449
def F.SEC_KEY_CTRL_GO : Fld := ⟨0x8100, 31, 31⟩
def F.SEC_KEY_CTRL_BUSY : Fld := ⟨0x8100, 30, 30⟩
def F.SEC_KEY_CTRL_RESULT : Fld := ⟨0x8100, 29, 28⟩
def F.SEC_KEY_CTRL_OP : Fld := ⟨0x8100, 25, 24⟩
def F.SEC_KEY_CTRL_SLOT : Fld := ⟨0x8100, 17, 16⟩
def F.SEC_KEY_CTRL_CONFIRM : Fld := ⟨0x8100, 15, 0⟩
def R.SEC_KEY_DATA (i : Nat) : Nat := 0x8120 + 4 * i -- R449
def F.SEC_KEY_DATA_HASH (i : Nat) : Fld := ⟨0x8120 + 4 * i, 31, 0⟩
def R.SEC_ATTEST_CTRL : Nat := 0x8200 -- R449
def F.SEC_ATTEST_CTRL_GO : Fld := ⟨0x8200, 31, 31⟩
def F.SEC_ATTEST_CTRL_BUSY : Fld := ⟨0x8200, 30, 30⟩
def F.SEC_ATTEST_CTRL_VALID : Fld := ⟨0x8200, 29, 29⟩
def R.SEC_ATTEST_NONCE (i : Nat) : Nat := 0x8220 + 4 * i -- R449
def F.SEC_ATTEST_NONCE_NONCE (i : Nat) : Fld := ⟨0x8220 + 4 * i, 31, 0⟩
def R.SEC_ID_CERT_LEN : Nat := 0x8300 -- R449
def F.SEC_ID_CERT_LEN_LEN : Fld := ⟨0x8300, 11, 0⟩
def R.SEC_ATTEST_REPORT (i : Nat) : Nat := 0x9000 + 4 * i -- R449
def F.SEC_ATTEST_REPORT_REPORT (i : Nat) : Fld := ⟨0x9000 + 4 * i, 31, 0⟩
def R.SEC_ID_PUB (i : Nat) : Nat := 0x9800 + 4 * i -- R449
def F.SEC_ID_PUB_MODULUS (i : Nat) : Fld := ⟨0x9800 + 4 * i, 31, 0⟩
def R.SEC_ID_CERT (i : Nat) : Nat := 0xa000 + 4 * i -- R449
def F.SEC_ID_CERT_CERT (i : Nat) : Fld := ⟨0xa000 + 4 * i, 31, 0⟩

def regsBoot : List RegDesc := [
  ⟨0x0, [], false, 0x51281120, 0x0, 0x0, 0x0, 0x0, false⟩,
  ⟨0x4, [], false, 0x0, 0x0, 0x0, 0x0, 0xb30000, false⟩,
  ⟨0x8, [], false, 0x0, 0x0, 0x0, 0x0, 0xfff1ffff, false⟩,
  ⟨0xc, [], false, 0x0, 0x0, 0x0, 0x0, 0x0, false⟩,
  ⟨0x10, [], false, 0x0, 0x0, 0x0, 0x0, 0x0, false⟩,
  ⟨0x20, [], false, 0x0, 0x0, 0x0, 0x0, 0x0, false⟩,
  ⟨0x24, [], false, 0x0, 0xffffffff, 0x0, 0x0, 0x0, false⟩,
  ⟨0x100, [(64, 4)], false, 0x0, 0xffffffff, 0x0, 0x0, 0x0, false⟩,
  ⟨0x8000, [(4, 64)], false, 0x0, 0x0, 0x0, 0x0, 0x0, false⟩,
  ⟨0x8020, [(4, 64), (8, 4)], false, 0x0, 0x0, 0x0, 0x0, 0x0, false⟩,
  ⟨0x8100, [], false, 0x0, 0x0, 0x0, 0x0, 0x0, false⟩,
  ⟨0x8120, [(8, 4)], false, 0x0, 0xffffffff, 0x0, 0x0, 0x0, false⟩,
  ⟨0x8200, [], false, 0x0, 0x0, 0x0, 0x0, 0x0, false⟩,
  ⟨0x8220, [(8, 4)], false, 0x0, 0xffffffff, 0x0, 0x0, 0x0, false⟩,
  ⟨0x8300, [], false, 0x0, 0x0, 0x0, 0x0, 0x0, false⟩,
  ⟨0x9000, [(256, 4)], false, 0x0, 0x0, 0x0, 0x0, 0x0, false⟩,
  ⟨0x9800, [(96, 4)], false, 0x0, 0x0, 0x0, 0x0, 0x0, false⟩,
  ⟨0xa000, [(512, 4)], false, 0x0, 0x0, 0x0, 0x0, 0x0, false⟩]

/-! ### Flt -/

def R.FLT_STATUS : Nat := 0x100000 -- R417
def F.FLT_STATUS_LOST : Fld := ⟨0x100000, 31, 31⟩
def F.FLT_STATUS_SAFE_HOLD : Fld := ⟨0x100000, 30, 30⟩
def F.FLT_STATUS_ASSERTED : Fld := ⟨0x100000, 29, 29⟩
def F.FLT_STATUS_MAXLEVEL : Fld := ⟨0x100000, 28, 26⟩
def F.FLT_STATUS_UNCLEARED : Fld := ⟨0x100000, 24, 16⟩
def F.FLT_STATUS_HEAD : Fld := ⟨0x100000, 7, 0⟩
def R.FLT_ACK : Nat := 0x100004 -- R417
def F.FLT_ACK_ALL : Fld := ⟨0x100004, 31, 31⟩
def F.FLT_ACK_INDEX : Fld := ⟨0x100004, 7, 0⟩
def R.FLT_CLEAR : Nat := 0x100008 -- R417
def F.FLT_CLEAR_ALL : Fld := ⟨0x100008, 31, 31⟩
def F.FLT_CLEAR_INDEX : Fld := ⟨0x100008, 7, 0⟩
def R.FLT_UNFENCE : Nat := 0x10000c -- R417
def F.FLT_UNFENCE_GO : Fld := ⟨0x10000c, 31, 31⟩
def F.FLT_UNFENCE_SOURCE : Fld := ⟨0x10000c, 11, 0⟩
def R.FLT_UNFENCE_STATUS : Nat := 0x100010 -- R417
def F.FLT_UNFENCE_STATUS_BUSY : Fld := ⟨0x100010, 31, 31⟩
def F.FLT_UNFENCE_STATUS_RESULT : Fld := ⟨0x100010, 29, 28⟩
def R.FLT_INJECT : Nat := 0x100014 -- R417
def F.FLT_INJECT_GO : Fld := ⟨0x100014, 31, 31⟩
def F.FLT_INJECT_LEVEL : Fld := ⟨0x100014, 30, 28⟩
def F.FLT_INJECT_SOURCE : Fld := ⟨0x100014, 11, 0⟩
def R.FLT_CTRL : Nat := 0x100018 -- R417
def F.FLT_CTRL_FORCE : Fld := ⟨0x100018, 0, 0⟩
def R.FLT_RECHECK : Nat := 0x100020 -- R417
def F.FLT_RECHECK_VALID : Fld := ⟨0x100020, 31, 31⟩
def F.FLT_RECHECK_BUSY : Fld := ⟨0x100020, 30, 30⟩
def F.FLT_RECHECK_TAG : Fld := ⟨0x100020, 28, 28⟩
def F.FLT_RECHECK_FIRST : Fld := ⟨0x100020, 27, 16⟩
def F.FLT_RECHECK_COUNT : Fld := ⟨0x100020, 12, 0⟩
def R.FLT_FENCED_CMP (i : Nat) : Nat := 0x100100 + 4 * i -- R417
def F.FLT_FENCED_CMP_FENCED (i : Nat) : Fld := ⟨0x100100 + 4 * i, 31, 0⟩
def R.FLT_FENCED_BLK : Nat := 0x100110 -- R417
def F.FLT_FENCED_BLK_BANK_GROUP : Fld := ⟨0x100110, 31, 24⟩
def F.FLT_FENCED_BLK_REGION : Fld := ⟨0x100110, 23, 16⟩
def F.FLT_FENCED_BLK_CASE : Fld := ⟨0x100110, 15, 0⟩
def R.FLT_FENCED_CHIP : Nat := 0x100114 -- R417
def F.FLT_FENCED_CHIP_UNIT : Fld := ⟨0x100114, 8, 0⟩
def R.FLT_FENCED_LANE (i : Nat) : Nat := 0x100120 + 4 * i -- R417
def F.FLT_FENCED_LANE_FENCED (i : Nat) : Fld := ⟨0x100120 + 4 * i, 31, 0⟩
def R.FLT_FENCED_QUAD : Nat := 0x100130 -- R417
def F.FLT_FENCED_QUAD_FENCED : Fld := ⟨0x100130, 31, 0⟩
def R.FLT_FENCED_QG (i : Nat) : Nat := 0x100140 + 4 * i -- R417
def F.FLT_FENCED_QG_FENCED (i : Nat) : Fld := ⟨0x100140 + 4 * i, 31, 0⟩
def R.FLT_LOG (i j : Nat) : Nat := 0x101000 + 32 * i + 8 * j -- R417
def R.FLT_C_FAULTS : Nat := 0x100800 -- R418
def R.FLT_C_ESCALATIONS : Nat := 0x100808 -- R418
def R.FLT_C_FENCES : Nat := 0x100810 -- R418
def R.FLT_C_WIRE_FAULTS : Nat := 0x100818 -- R418
def R.FLT_C_LOG_DROPPED : Nat := 0x100820 -- R418
def R.FLT_C_UNFENCES : Nat := 0x100828 -- R418

def regsFlt0 : List RegDesc := [
  ⟨0x100000, [], false, 0x0, 0x0, 0x80000000, 0x0, 0x800000ff, false⟩,
  ⟨0x100004, [], false, 0x0, 0x0, 0x0, 0x0, 0x0, false⟩,
  ⟨0x100008, [], false, 0x0, 0x0, 0x0, 0x0, 0x0, false⟩,
  ⟨0x10000c, [], false, 0x0, 0x0, 0x0, 0x0, 0x0, false⟩,
  ⟨0x100010, [], false, 0x0, 0x0, 0x0, 0x0, 0x0, false⟩,
  ⟨0x100014, [], false, 0x0, 0x0, 0x0, 0x0, 0x0, false⟩,
  ⟨0x100018, [], false, 0x0, 0x1, 0x0, 0x0, 0x0, false⟩,
  ⟨0x100020, [], false, 0x0, 0x0, 0x80000000, 0x0, 0x0, false⟩,
  ⟨0x100100, [(4, 4)], false, 0x0, 0x0, 0x0, 0x0, 0x0, false⟩,
  ⟨0x100110, [], false, 0x0, 0x0, 0x0, 0x0, 0x0, false⟩,
  ⟨0x100114, [], false, 0x0, 0x0, 0x0, 0x0, 0x0, false⟩,
  ⟨0x100120, [(4, 4)], false, 0x0, 0x0, 0x0, 0x0, 0x0, false⟩,
  ⟨0x100130, [], false, 0x0, 0x0, 0x0, 0x0, 0x0, false⟩,
  ⟨0x100140, [(32, 4)], false, 0x0, 0x0, 0x0, 0x0, 0x0, false⟩,
  ⟨0x101000, [(256, 32), (4, 8)], true, 0x0, 0x0, 0x0, 0x0, 0xffffffffffffffff, false⟩,
  ⟨0x100800, [], true, 0x0, 0x0, 0x0, 0x0, 0xffffffffffffffff, true⟩,
  ⟨0x100808, [], true, 0x0, 0x0, 0x0, 0x0, 0xffffffffffffffff, true⟩,
  ⟨0x100810, [], true, 0x0, 0x0, 0x0, 0x0, 0xffffffffffffffff, true⟩,
  ⟨0x100818, [], true, 0x0, 0x0, 0x0, 0x0, 0xffffffffffffffff, true⟩,
  ⟨0x100820, [], true, 0x0, 0x0, 0x0, 0x0, 0xffffffffffffffff, true⟩]

def regsFlt1 : List RegDesc := [
  ⟨0x100828, [], true, 0x0, 0x0, 0x0, 0x0, 0xffffffffffffffff, true⟩]

def regsFlt : List RegDesc := regsFlt0 ++ regsFlt1

/-! ### Pwr -/

def R.PWR_STATUS : Nat := 0x200000 -- R393
def F.PWR_STATUS_TSTOP_LAST : Fld := ⟨0x200000, 31, 31⟩
def F.PWR_STATUS_CAP_ACTIVE : Fld := ⟨0x200000, 30, 30⟩
def F.PWR_STATUS_CAP_UNMET : Fld := ⟨0x200000, 29, 29⟩
def F.PWR_STATUS_SHED_LEVEL : Fld := ⟨0x200000, 27, 24⟩
def F.PWR_STATUS_HOTTEST : Fld := ⟨0x200000, 15, 8⟩
def F.PWR_STATUS_SENSOR : Fld := ⟨0x200000, 4, 0⟩
def R.PWR_THERM_CFG : Nat := 0x200004 -- R393
def F.PWR_THERM_CFG_BOOST_EN : Fld := ⟨0x200004, 31, 31⟩
def F.PWR_THERM_CFG_T_THROTTLE : Fld := ⟨0x200004, 7, 0⟩
def R.PWR_CAP : Nat := 0x200008 -- R393
def F.PWR_CAP_CAP_EN : Fld := ⟨0x200008, 31, 31⟩
def F.PWR_CAP_CAP : Fld := ⟨0x200008, 15, 0⟩
def R.PWR_CAP_CFG : Nat := 0x20000c -- R393
def F.PWR_CAP_CFG_DDR_LOW_EN : Fld := ⟨0x20000c, 31, 31⟩
def F.PWR_CAP_CFG_WINDOW : Fld := ⟨0x20000c, 6, 0⟩
def R.PWR_EST : Nat := 0x200010 -- R393
def F.PWR_EST_GUARANTEED : Fld := ⟨0x200010, 31, 16⟩
def F.PWR_EST_ESTIMATE : Fld := ⟨0x200010, 15, 0⟩
def R.PWR_SLEEP_CFG : Nat := 0x200014 -- R393
def F.PWR_SLEEP_CFG_IDLE_US : Fld := ⟨0x200014, 9, 0⟩
def R.PWR_AVS_CFG : Nat := 0x200018 -- R393
def F.PWR_AVS_CFG_AVS_EN : Fld := ⟨0x200018, 31, 31⟩
def F.PWR_AVS_CFG_ADDR_BASE : Fld := ⟨0x200018, 6, 0⟩
def R.PWR_CASE (i : Nat) : Nat := 0x200100 + 4 * i -- R393
def F.PWR_CASE_STATE (i : Nat) : Fld := ⟨0x200100 + 4 * i, 31, 30⟩
def F.PWR_CASE_POINT (i : Nat) : Fld := ⟨0x200100 + 4 * i, 29, 28⟩
def F.PWR_CASE_LOWER (i : Nat) : Fld := ⟨0x200100 + 4 * i, 27, 26⟩
def F.PWR_CASE_SHEDDING (i : Nat) : Fld := ⟨0x200100 + 4 * i, 25, 25⟩
def F.PWR_CASE_THROTTLED (i : Nat) : Fld := ⟨0x200100 + 4 * i, 24, 24⟩
def F.PWR_CASE_TEMP (i : Nat) : Fld := ⟨0x200100 + 4 * i, 7, 0⟩
def R.PWR_REGION (i : Nat) : Nat := 0x200200 + 4 * i -- R393
def F.PWR_REGION_TEMP (i : Nat) : Fld := ⟨0x200200 + 4 * i, 31, 24⟩
def F.PWR_REGION_TRIM (i : Nat) : Fld := ⟨0x200200 + 4 * i, 23, 16⟩
def F.PWR_REGION_VOUT (i : Nat) : Fld := ⟨0x200200 + 4 * i, 15, 0⟩
def R.CLK_RUN (i : Nat) : Nat := 0x208000 + 4 * i -- R393
def F.CLK_RUN_RUN (i : Nat) : Fld := ⟨0x208000 + 4 * i, 31, 0⟩
def R.PWR_C_SHED_DROP (i : Nat) : Nat := 0x201000 + 8 * i -- R394
def R.PWR_C_CASE_WAKES : Nat := 0x201040 -- R394
def R.PWR_C_THROTTLE_US : Nat := 0x201048 -- R394
def R.PWR_C_CAP_US : Nat := 0x201050 -- R394
def R.PWR_C_POINT_CHANGES : Nat := 0x201058 -- R394

def regsPwr : List RegDesc := [
  ⟨0x200000, [], false, 0x0, 0x0, 0x80000000, 0x0, 0x0, false⟩,
  ⟨0x200004, [], false, 0x69, 0x800000ff, 0x0, 0x0, 0x0, false⟩,
  ⟨0x200008, [], false, 0x672, 0x8000ffff, 0x0, 0x0, 0x0, false⟩,
  ⟨0x20000c, [], false, 0xa, 0x8000007f, 0x0, 0x0, 0x0, false⟩,
  ⟨0x200010, [], false, 0x0, 0x0, 0x0, 0x0, 0x0, false⟩,
  ⟨0x200014, [], false, 0xa, 0x3ff, 0x0, 0x0, 0x0, false⟩,
  ⟨0x200018, [], false, 0x80000040, 0x8000007f, 0x0, 0x8000007f, 0x0, false⟩,
  ⟨0x200100, [(16, 4)], false, 0x10000000, 0x0, 0x0, 0x0, 0x0, false⟩,
  ⟨0x200200, [(8, 4)], false, 0x0, 0x0, 0x0, 0x0, 0x0, false⟩,
  ⟨0x208000, [(4, 4)], false, 0x0, 0x0, 0x0, 0x0, 0x0, false⟩,
  ⟨0x201000, [(8, 8)], true, 0x0, 0x0, 0x0, 0x0, 0x0, true⟩,
  ⟨0x201040, [], true, 0x0, 0x0, 0x0, 0x0, 0x0, true⟩,
  ⟨0x201048, [], true, 0x0, 0x0, 0x0, 0x0, 0x0, true⟩,
  ⟨0x201050, [], true, 0x0, 0x0, 0x0, 0x0, 0x0, true⟩,
  ⟨0x201058, [], true, 0x0, 0x0, 0x0, 0x0, 0x0, true⟩]

/-! ### Evt -/

def R.EVT_LIVE (i : Nat) : Nat := 0x300000 + 4 * i -- R464
def F.EVT_LIVE_LIVE (i : Nat) : Fld := ⟨0x300000 + 4 * i, 31, 0⟩
def R.EVT_LATCH (i : Nat) : Nat := 0x300100 + 4 * i -- R464
def F.EVT_LATCH_LATCH (i : Nat) : Fld := ⟨0x300100 + 4 * i, 31, 0⟩
def R.EVT_ENABLE (i : Nat) : Nat := 0x300200 + 4 * i -- R464
def F.EVT_ENABLE_ENABLE (i : Nat) : Fld := ⟨0x300200 + 4 * i, 31, 0⟩
def R.EVT_SET (i : Nat) : Nat := 0x300300 + 4 * i -- R464
def F.EVT_SET_SET (i : Nat) : Fld := ⟨0x300300 + 4 * i, 31, 0⟩
def R.EVT_SUMMARY_LO : Nat := 0x300400 -- R464
def F.EVT_SUMMARY_LO_GROUPS : Fld := ⟨0x300400, 31, 0⟩
def R.EVT_SUMMARY_HI : Nat := 0x300404 -- R464
def F.EVT_SUMMARY_HI_GROUPS : Fld := ⟨0x300404, 15, 0⟩
def R.EVT_VEC_LEVEL_LO : Nat := 0x300410 -- R464
def F.EVT_VEC_LEVEL_LO_LEVEL : Fld := ⟨0x300410, 31, 0⟩
def R.EVT_VEC_LEVEL_HI : Nat := 0x300414 -- R464
def F.EVT_VEC_LEVEL_HI_LEVEL : Fld := ⟨0x300414, 31, 0⟩
def R.EVT_VEC_ACK : Nat := 0x300420 -- R464
def F.EVT_VEC_ACK_VECTOR : Fld := ⟨0x300420, 5, 0⟩
def R.EVT_IRQ_STATUS : Nat := 0x300430 -- R464
def F.EVT_IRQ_STATUS_ASSERTED : Fld := ⟨0x300430, 0, 0⟩
def R.EVT_TARGET (i : Nat) : Nat := 0x301000 + 4 * i -- R464
def F.EVT_TARGET_IRQ (i : Nat) : Fld := ⟨0x301000 + 4 * i, 31, 31⟩
def F.EVT_TARGET_VECTOR (i : Nat) : Fld := ⟨0x301000 + 4 * i, 5, 0⟩

def regsEvt : List RegDesc := [
  ⟨0x300000, [(48, 4)], false, 0x0, 0x0, 0x0, 0x0, 0x0, false⟩,
  ⟨0x300100, [(48, 4)], false, 0x0, 0x0, 0xffffffff, 0x0, 0x0, false⟩,
  ⟨0x300200, [(48, 4)], false, 0x0, 0xffffffff, 0x0, 0xffffffff, 0x0, false⟩,
  ⟨0x300300, [(48, 4)], false, 0x0, 0x0, 0x0, 0x0, 0x0, false⟩,
  ⟨0x300400, [], false, 0x0, 0x0, 0x0, 0x0, 0x0, false⟩,
  ⟨0x300404, [], false, 0x0, 0x0, 0x0, 0x0, 0x0, false⟩,
  ⟨0x300410, [], false, 0x0, 0x0, 0x0, 0x0, 0x0, false⟩,
  ⟨0x300414, [], false, 0x0, 0x0, 0x0, 0x0, 0x0, false⟩,
  ⟨0x300420, [], false, 0x0, 0x0, 0x0, 0x0, 0x0, false⟩,
  ⟨0x300430, [], false, 0x0, 0x0, 0x0, 0x0, 0x0, false⟩,
  ⟨0x301000, [(1536, 4)], false, 0x0, 0x8000003f, 0x0, 0x8000003f, 0x0, false⟩]

/-! ### Hst -/

def R.HST_STATUS : Nat := 0x400000 -- R335
def F.HST_STATUS_FROZEN : Fld := ⟨0x400000, 31, 31⟩
def F.HST_STATUS_BME : Fld := ⟨0x400000, 30, 30⟩
def F.HST_STATUS_LINK_UP : Fld := ⟨0x400000, 29, 29⟩
def F.HST_STATUS_SPEED : Fld := ⟨0x400000, 28, 26⟩
def F.HST_STATUS_WIDTH : Fld := ⟨0x400000, 25, 22⟩
def F.HST_STATUS_TAG10 : Fld := ⟨0x400000, 21, 21⟩
def R.HST_FREEZE : Nat := 0x400004 -- R335
def F.HST_FREEZE_RELEASE : Fld := ⟨0x400004, 31, 31⟩
def F.HST_FREEZE_REL_REFUSED : Fld := ⟨0x400004, 30, 30⟩
def F.HST_FREEZE_CAUSE : Fld := ⟨0x400004, 4, 0⟩
def R.HST_WIN_ERR : Nat := 0x400008 -- R335
def F.HST_WIN_ERR_VALID : Fld := ⟨0x400008, 31, 31⟩
def F.HST_WIN_ERR_OVF : Fld := ⟨0x400008, 30, 30⟩
def F.HST_WIN_ERR_KIND : Fld := ⟨0x400008, 29, 28⟩
def F.HST_WIN_ERR_READ : Fld := ⟨0x400008, 27, 27⟩
def F.HST_WIN_ERR_WINDOW : Fld := ⟨0x400008, 26, 23⟩
def R.HST_WIN_ERR_OFF : Nat := 0x40000c -- R335
def F.HST_WIN_ERR_OFF_OFFSET : Fld := ⟨0x40000c, 31, 0⟩
def R.HST_BAR_ERR : Nat := 0x400010 -- R335
def F.HST_BAR_ERR_VALID : Fld := ⟨0x400010, 31, 31⟩
def F.HST_BAR_ERR_OVF : Fld := ⟨0x400010, 30, 30⟩
def F.HST_BAR_ERR_READ : Fld := ⟨0x400010, 29, 29⟩
def F.HST_BAR_ERR_OFFSET : Fld := ⟨0x400010, 25, 0⟩
def R.HST_WIN (i : Nat) : Nat := 0x400100 + 8 * i -- R335
def R.HST_PUNT_MAP (i : Nat) : Nat := 0x400400 + 4 * i -- R335
def F.HST_PUNT_MAP_VALID (i : Nat) : Fld := ⟨0x400400 + 4 * i, 31, 31⟩
def F.HST_PUNT_MAP_RING (i : Nat) : Fld := ⟨0x400400 + 4 * i, 8, 0⟩
def R.DMA_CH_CTRL (i : Nat) : Nat := 0x410000 + 64 * i -- R335
def F.DMA_CH_CTRL_START (i : Nat) : Fld := ⟨0x410000 + 64 * i, 31, 31⟩
def F.DMA_CH_CTRL_STOP (i : Nat) : Fld := ⟨0x410000 + 64 * i, 30, 30⟩
def F.DMA_CH_CTRL_WEIGHT (i : Nat) : Fld := ⟨0x410000 + 64 * i, 3, 0⟩
def R.DMA_CH_STATUS (i : Nat) : Nat := 0x410004 + 64 * i -- R335
def F.DMA_CH_STATUS_STATE (i : Nat) : Fld := ⟨0x410004 + 64 * i, 31, 30⟩
def F.DMA_CH_STATUS_STOP_CODE (i : Nat) : Fld := ⟨0x410004 + 64 * i, 26, 24⟩
def R.DMA_RING_CFG (i : Nat) : Nat := 0x420000 + 64 * i -- R335
def F.DMA_RING_CFG_EN (i : Nat) : Fld := ⟨0x420000 + 64 * i, 31, 31⟩
def F.DMA_RING_CFG_KIND (i : Nat) : Fld := ⟨0x420000 + 64 * i, 30, 28⟩
def F.DMA_RING_CFG_VECTOR (i : Nat) : Fld := ⟨0x420000 + 64 * i, 27, 22⟩
def F.DMA_RING_CFG_IRQ_HOLD (i : Nat) : Fld := ⟨0x420000 + 64 * i, 19, 10⟩
def F.DMA_RING_CFG_PQ_LIMIT (i : Nat) : Fld := ⟨0x420000 + 64 * i, 9, 0⟩
def R.DMA_RING_HEAD (i : Nat) : Nat := 0x420008 + 64 * i -- R335
def F.DMA_RING_HEAD_ADDR (i : Nat) : Fld := ⟨0x420008 + 64 * i, 63, 5⟩
def R.DMA_RING_CUR (i : Nat) : Nat := 0x420010 + 64 * i -- R335
def F.DMA_RING_CUR_ADDR (i : Nat) : Fld := ⟨0x420010 + 64 * i, 63, 5⟩
def R.DMA_RING_STATE (i : Nat) : Nat := 0x420018 + 64 * i -- R335
def F.DMA_RING_STATE_STATE (i : Nat) : Fld := ⟨0x420018 + 64 * i, 31, 30⟩
def F.DMA_RING_STATE_DB_PEND (i : Nat) : Fld := ⟨0x420018 + 64 * i, 29, 29⟩
def F.DMA_RING_STATE_PQ_DEPTH (i : Nat) : Fld := ⟨0x420018 + 64 * i, 9, 0⟩
def R.DMA_RING_DB (i : Nat) : Nat := 0x42001c + 64 * i -- R335
def F.DMA_RING_DB_RING (i : Nat) : Fld := ⟨0x42001c + 64 * i, 0, 0⟩
def R.DMA_RING_PEND (i : Nat) : Nat := 0x430000 + 4 * i -- R335
def F.DMA_RING_PEND_PEND (i : Nat) : Fld := ⟨0x430000 + 4 * i, 31, 0⟩
def R.MSIX_ADDR_LO (i : Nat) : Nat := 0x408000 + 16 * i -- R332
def F.MSIX_ADDR_LO_ADDR (i : Nat) : Fld := ⟨0x408000 + 16 * i, 31, 0⟩
def R.MSIX_ADDR_HI (i : Nat) : Nat := 0x408004 + 16 * i -- R332
def F.MSIX_ADDR_HI_ADDR (i : Nat) : Fld := ⟨0x408004 + 16 * i, 31, 0⟩
def R.MSIX_DATA (i : Nat) : Nat := 0x408008 + 16 * i -- R332
def F.MSIX_DATA_DATA (i : Nat) : Fld := ⟨0x408008 + 16 * i, 31, 0⟩
def R.MSIX_CTRL (i : Nat) : Nat := 0x40800c + 16 * i -- R332
def F.MSIX_CTRL_MASK (i : Nat) : Fld := ⟨0x40800c + 16 * i, 0, 0⟩
def R.MSIX_PBA : Nat := 0x409000 -- R332
def R.HST_C_WIN_REFUSED : Nat := 0x400800 -- R337
def R.HST_C_FROZEN_DROP : Nat := 0x400808 -- R337
def R.HST_C_BAR_ERRS : Nat := 0x400810 -- R337
def R.HST_C_CORR_ERRS : Nat := 0x400818 -- R337
def R.HST_C_FREEZES : Nat := 0x400820 -- R337
def R.HST_C_FLRS : Nat := 0x400828 -- R337
def R.HST_C_LINK_RESETS : Nat := 0x400830 -- R337
def R.HST_C_PUNT_NOMAP : Nat := 0x400838 -- R337
def R.HST_C_LATE_CPL : Nat := 0x400840 -- R337
def R.DMA_RING_C_DESC_DONE (i : Nat) : Nat := 0x440000 + 32 * i -- R336
def R.DMA_RING_C_BYTES (i : Nat) : Nat := 0x440008 + 32 * i -- R336
def R.DMA_RING_C_PUNT_DROP (i : Nat) : Nat := 0x440010 + 32 * i -- R336
def R.DMA_RING_C_DESC_ERR (i : Nat) : Nat := 0x440018 + 32 * i -- R336

def regsHst0 : List RegDesc := [
  ⟨0x400000, [], false, 0x0, 0x0, 0x0, 0x0, 0x0, false⟩,
  ⟨0x400004, [], false, 0x0, 0x0, 0x40000000, 0x0, 0x0, false⟩,
  ⟨0x400008, [], false, 0x0, 0x0, 0xc0000000, 0x0, 0x0, false⟩,
  ⟨0x40000c, [], false, 0x0, 0x0, 0x0, 0x0, 0x0, false⟩,
  ⟨0x400010, [], false, 0x0, 0x0, 0xc0000000, 0x0, 0x0, false⟩,
  ⟨0x400100, [(16, 8)], true, 0x0, 0xffffffffffffffff, 0x0, 0x0, 0x0, false⟩,
  ⟨0x400400, [(256, 4)], false, 0x0, 0x800001ff, 0x0, 0x0, 0x0, false⟩,
  ⟨0x410000, [(32, 64)], false, 0x1, 0xf, 0x0, 0x0, 0x0, false⟩,
  ⟨0x410004, [(32, 64)], false, 0x0, 0x0, 0x0, 0x0, 0x0, false⟩,
  ⟨0x420000, [(512, 64)], false, 0x100, 0xffcfffff, 0x0, 0x0, 0x0, false⟩,
  ⟨0x420008, [(512, 64)], true, 0x0, 0xffffffffffffffe0, 0x0, 0x0, 0x0, false⟩,
  ⟨0x420010, [(512, 64)], true, 0x0, 0x0, 0x0, 0x0, 0x0, false⟩,
  ⟨0x420018, [(512, 64)], false, 0x0, 0x0, 0x0, 0x0, 0x0, false⟩,
  ⟨0x42001c, [(512, 64)], false, 0x0, 0x0, 0x0, 0x0, 0x0, false⟩,
  ⟨0x430000, [(16, 4)], false, 0x0, 0x0, 0xffffffff, 0x0, 0x0, false⟩,
  ⟨0x408000, [(64, 16)], false, 0x0, 0xffffffff, 0x0, 0x0, 0x0, false⟩,
  ⟨0x408004, [(64, 16)], false, 0x0, 0xffffffff, 0x0, 0x0, 0x0, false⟩,
  ⟨0x408008, [(64, 16)], false, 0x0, 0xffffffff, 0x0, 0x0, 0x0, false⟩,
  ⟨0x40800c, [(64, 16)], false, 0x1, 0x1, 0x0, 0x0, 0x0, false⟩,
  ⟨0x409000, [], true, 0x0, 0x0, 0x0, 0x0, 0x0, false⟩]

def regsHst1 : List RegDesc := [
  ⟨0x400800, [], true, 0x0, 0x0, 0x0, 0x0, 0x0, true⟩,
  ⟨0x400808, [], true, 0x0, 0x0, 0x0, 0x0, 0x0, true⟩,
  ⟨0x400810, [], true, 0x0, 0x0, 0x0, 0x0, 0x0, true⟩,
  ⟨0x400818, [], true, 0x0, 0x0, 0x0, 0x0, 0x0, true⟩,
  ⟨0x400820, [], true, 0x0, 0x0, 0x0, 0x0, 0x0, true⟩,
  ⟨0x400828, [], true, 0x0, 0x0, 0x0, 0x0, 0x0, true⟩,
  ⟨0x400830, [], true, 0x0, 0x0, 0x0, 0x0, 0x0, true⟩,
  ⟨0x400838, [], true, 0x0, 0x0, 0x0, 0x0, 0x0, true⟩,
  ⟨0x400840, [], true, 0x0, 0x0, 0x0, 0x0, 0x0, true⟩,
  ⟨0x440000, [(512, 32)], true, 0x0, 0x0, 0x0, 0x0, 0x0, true⟩,
  ⟨0x440008, [(512, 32)], true, 0x0, 0x0, 0x0, 0x0, 0x0, true⟩,
  ⟨0x440010, [(512, 32)], true, 0x0, 0x0, 0x0, 0x0, 0x0, true⟩,
  ⟨0x440018, [(512, 32)], true, 0x0, 0x0, 0x0, 0x0, 0x0, true⟩]

def regsHst : List RegDesc := regsHst0 ++ regsHst1

/-! ### Cmd -/

def R.CMD_STATUS : Nat := 0x500000 -- R298
def F.CMD_STATUS_BUSY : Fld := ⟨0x500000, 31, 31⟩
def F.CMD_STATUS_QUEUED : Fld := ⟨0x500000, 30, 24⟩
def F.CMD_STATUS_SRC : Fld := ⟨0x500000, 23, 16⟩
def F.CMD_STATUS_SEQ : Fld := ⟨0x500000, 15, 0⟩
def R.CMD_ROLE_HOST : Nat := 0x500004 -- R298
def F.CMD_ROLE_HOST_ROLE : Fld := ⟨0x500004, 1, 0⟩
def R.CMD_ROLE_I2C : Nat := 0x500008 -- R298
def F.CMD_ROLE_I2C_ROLE : Fld := ⟨0x500008, 1, 0⟩
def R.CMD_NET_CFG : Nat := 0x50000c -- R298
def F.CMD_NET_CFG_ETHERTYPE : Fld := ⟨0x50000c, 31, 16⟩
def F.CMD_NET_CFG_QOFF : Fld := ⟨0x50000c, 6, 0⟩
def R.CMD_RING_BASE_LO : Nat := 0x500010 -- R298
def F.CMD_RING_BASE_LO_ADDR_LO : Fld := ⟨0x500010, 31, 12⟩
def R.CMD_RING_BASE_HI : Nat := 0x500014 -- R298
def F.CMD_RING_BASE_HI_ADDR_HI : Fld := ⟨0x500014, 31, 0⟩
def R.CMD_RING_CFG : Nat := 0x500018 -- R298
def F.CMD_RING_CFG_EN : Fld := ⟨0x500018, 31, 31⟩
def F.CMD_RING_CFG_CPL_EN : Fld := ⟨0x500018, 30, 30⟩
def F.CMD_RING_CFG_LOG2N : Fld := ⟨0x500018, 3, 0⟩
def R.CMD_RING_PI : Nat := 0x50001c -- R298
def F.CMD_RING_PI_PI : Fld := ⟨0x50001c, 15, 0⟩
def R.CMD_RING_CI : Nat := 0x500020 -- R298
def F.CMD_RING_CI_ERR : Fld := ⟨0x500020, 31, 31⟩
def F.CMD_RING_CI_CI : Fld := ⟨0x500020, 15, 0⟩
def R.CMD_CPL_BASE_LO : Nat := 0x500024 -- R298
def F.CMD_CPL_BASE_LO_ADDR_LO : Fld := ⟨0x500024, 31, 12⟩
def R.CMD_CPL_BASE_HI : Nat := 0x500028 -- R298
def F.CMD_CPL_BASE_HI_ADDR_HI : Fld := ⟨0x500028, 31, 0⟩
def R.CMD_I2C_CTRL : Nat := 0x500030 -- R298
def F.CMD_I2C_CTRL_GO : Fld := ⟨0x500030, 31, 31⟩
def F.CMD_I2C_CTRL_BUSY : Fld := ⟨0x500030, 30, 30⟩
def F.CMD_I2C_CTRL_REFUSED : Fld := ⟨0x500030, 29, 29⟩
def R.CMD_MAILBOX (i : Nat) : Nat := 0x501000 + 4 * i -- R298
def F.CMD_MAILBOX_DATA (i : Nat) : Fld := ⟨0x501000 + 4 * i, 31, 0⟩
def R.CMD_RESULT (i j : Nat) : Nat := 0x510000 + 4096 * i + 8 * j -- R294
def R.CMD_C_BLOCKS : Nat := 0x500100 -- R299
def R.CMD_C_INSTRS : Nat := 0x500108 -- R299
def R.CMD_C_ROLE_DROP_HOST : Nat := 0x500110 -- R299
def R.CMD_C_ROLE_DROP_I2C : Nat := 0x500118 -- R299
def R.CMD_C_MALFORMED : Nat := 0x500120 -- R299
def R.CMD_C_QFULL_DROP : Nat := 0x500128 -- R299
def R.CMD_C_RING_ERR : Nat := 0x500130 -- R299
def R.CMD_C_REPLY_DROP : Nat := 0x500138 -- R299

def regsCmd0 : List RegDesc := [
  ⟨0x500000, [], false, 0x0, 0x0, 0x0, 0x0, 0x0, false⟩,
  ⟨0x500004, [], false, 0x0, 0x3, 0x0, 0x3, 0x0, false⟩,
  ⟨0x500008, [], false, 0x1, 0x3, 0x0, 0x3, 0x0, false⟩,
  ⟨0x50000c, [], false, 0x88b50070, 0xffff007f, 0x0, 0x0, 0x0, false⟩,
  ⟨0x500010, [], false, 0x0, 0xfffff000, 0x0, 0x0, 0x0, false⟩,
  ⟨0x500014, [], false, 0x0, 0xffffffff, 0x0, 0x0, 0x0, false⟩,
  ⟨0x500018, [], false, 0x1, 0xc000000f, 0x0, 0x0, 0x0, false⟩,
  ⟨0x50001c, [], false, 0x0, 0xffff, 0x0, 0x0, 0x0, false⟩,
  ⟨0x500020, [], false, 0x0, 0x0, 0x80000000, 0x0, 0x0, false⟩,
  ⟨0x500024, [], false, 0x0, 0xfffff000, 0x0, 0x0, 0x0, false⟩,
  ⟨0x500028, [], false, 0x0, 0xffffffff, 0x0, 0x0, 0x0, false⟩,
  ⟨0x500030, [], false, 0x0, 0x0, 0x20000000, 0x0, 0x0, false⟩,
  ⟨0x501000, [(1024, 4)], false, 0x0, 0xffffffff, 0x0, 0x0, 0x0, false⟩,
  ⟨0x510000, [(130, 4096), (512, 8)], true, 0x0, 0x0, 0x0, 0x0, 0x0, false⟩,
  ⟨0x500100, [], true, 0x0, 0x0, 0x0, 0x0, 0x0, true⟩,
  ⟨0x500108, [], true, 0x0, 0x0, 0x0, 0x0, 0x0, true⟩,
  ⟨0x500110, [], true, 0x0, 0x0, 0x0, 0x0, 0x0, true⟩,
  ⟨0x500118, [], true, 0x0, 0x0, 0x0, 0x0, 0x0, true⟩,
  ⟨0x500120, [], true, 0x0, 0x0, 0x0, 0x0, 0x0, true⟩,
  ⟨0x500128, [], true, 0x0, 0x0, 0x0, 0x0, 0x0, true⟩]

def regsCmd1 : List RegDesc := [
  ⟨0x500130, [], true, 0x0, 0x0, 0x0, 0x0, 0x0, true⟩,
  ⟨0x500138, [], true, 0x0, 0x0, 0x0, 0x0, 0x0, true⟩]

def regsCmd : List RegDesc := regsCmd0 ++ regsCmd1

/-! ### Frm -/

def R.FRM_STATUS : Nat := 0x600000 -- R258
def F.FRM_STATUS_WR_IGNORED : Fld := ⟨0x600000, 31, 31⟩
def F.FRM_STATUS_SETTLED : Fld := ⟨0x600000, 11, 11⟩
def F.FRM_STATUS_FLIPPING : Fld := ⟨0x600000, 10, 10⟩
def F.FRM_STATUS_VALID : Fld := ⟨0x600000, 9, 9⟩
def F.FRM_STATUS_ACTIVE_TAG : Fld := ⟨0x600000, 8, 8⟩
def F.FRM_STATUS_STATE1 : Fld := ⟨0x600000, 6, 4⟩
def F.FRM_STATUS_STATE0 : Fld := ⟨0x600000, 2, 0⟩
def R.FRM_DRAIN_CFG : Nat := 0x600004 -- R258
def F.FRM_DRAIN_CFG_TIMEOUT : Fld := ⟨0x600004, 9, 0⟩
def R.FRM_TAG_FRAMES (i : Nat) : Nat := 0x600008 + 4 * i -- R258
def F.FRM_TAG_FRAMES_FRAMES (i : Nat) : Fld := ⟨0x600008 + 4 * i, 19, 0⟩
def R.FRM_FLIP_TIME : Nat := 0x600010 -- R258
def F.FRM_FLIP_TIME_SEC : Fld := ⟨0x600010, 63, 32⟩
def F.FRM_FLIP_TIME_NS : Fld := ⟨0x600010, 31, 0⟩
def R.FRM_PARAM_CLS (i : Nat) : Nat := 0x600100 + 64 * i -- R258
def F.FRM_PARAM_CLS_NDECL (i : Nat) : Fld := ⟨0x600100 + 64 * i, 20, 8⟩
def F.FRM_PARAM_CLS_ADM_CLASSES (i : Nat) : Fld := ⟨0x600100 + 64 * i, 7, 0⟩
def R.FRM_PARAM_ALPHA (i : Nat) : Nat := 0x600104 + 64 * i -- R258
def F.FRM_PARAM_ALPHA_ALPHA (i : Nat) : Fld := ⟨0x600104 + 64 * i, 31, 0⟩
def R.FRM_PARAM_RC (i : Nat) : Nat := 0x600108 + 64 * i -- R258
def F.FRM_PARAM_RC_RC_BE_BYTES (i : Nat) : Fld := ⟨0x600108 + 64 * i, 31, 16⟩
def F.FRM_PARAM_RC_WATCH_ADM (i : Nat) : Fld := ⟨0x600108 + 64 * i, 5, 0⟩
def R.FRM_CASE_CFG (i j : Nat) : Nat := 0x600400 + 64 * i + 4 * j -- R258
def F.FRM_CASE_CFG_RESERVE (i j : Nat) : Fld := ⟨0x600400 + 64 * i + 4 * j, 11, 8⟩
def F.FRM_CASE_CFG_SLEEP (i j : Nat) : Fld := ⟨0x600400 + 64 * i + 4 * j, 4, 4⟩
def F.FRM_CASE_CFG_FLOOR (i j : Nat) : Fld := ⟨0x600400 + 64 * i + 4 * j, 1, 0⟩
def R.FRM_PORT_DECL (i j : Nat) : Nat := 0x600800 + 512 * i + 4 * j -- R258
def F.FRM_PORT_DECL_DEF_CLASS (i j : Nat) : Fld := ⟨0x600800 + 512 * i + 4 * j, 26, 24⟩
def F.FRM_PORT_DECL_PROFILE (i j : Nat) : Fld := ⟨0x600800 + 512 * i + 4 * j, 21, 16⟩
def F.FRM_PORT_DECL_PREEMPT (i j : Nat) : Fld := ⟨0x600800 + 512 * i + 4 * j, 8, 8⟩
def F.FRM_PORT_DECL_FEC (i j : Nat) : Fld := ⟨0x600800 + 512 * i + 4 * j, 5, 4⟩
def F.FRM_PORT_DECL_MODE (i j : Nat) : Fld := ⟨0x600800 + 512 * i + 4 * j, 2, 0⟩
def R.FRM_BUDGET (i j : Nat) : Nat := 0x600c00 + 256 * i + 4 * j -- R258
def F.FRM_BUDGET_BUDGET (i j : Nat) : Fld := ⟨0x600c00 + 256 * i + 4 * j, 13, 0⟩
def R.FRM_MIRROR (i j : Nat) : Nat := 0x600200 + 64 * i + 4 * j -- R258
def F.FRM_MIRROR_VALID (i j : Nat) : Fld := ⟨0x600200 + 64 * i + 4 * j, 31, 31⟩
def F.FRM_MIRROR_QOFF (i j : Nat) : Fld := ⟨0x600200 + 64 * i + 4 * j, 14, 8⟩
def F.FRM_MIRROR_PORT (i j : Nat) : Fld := ⟨0x600200 + 64 * i + 4 * j, 6, 0⟩
def R.FRM_TOEPLITZ (i j k : Nat) : Nat := 0x600e00 + 256 * i + 64 * j + 4 * k -- R258
def F.FRM_TOEPLITZ_KEY (i j k : Nat) : Fld := ⟨0x600e00 + 256 * i + 64 * j + 4 * k, 31, 0⟩
def R.FRM_DECL (i j k : Nat) : Nat := 0x620000 + 131072 * i + 32 * j + 8 * k -- R258
def R.ADM_SUMMARY : Nat := 0x601000 -- R258
def F.ADM_SUMMARY_RESULT : Fld := ⟨0x601000, 31, 28⟩
def F.ADM_SUMMARY_HINT : Fld := ⟨0x601000, 27, 24⟩
def F.ADM_SUMMARY_OVF : Fld := ⟨0x601000, 23, 23⟩
def F.ADM_SUMMARY_COUNT : Fld := ⟨0x601000, 8, 0⟩
def R.ADM_TERM_SEL : Nat := 0x601004 -- R258
def F.ADM_TERM_SEL_TAG : Fld := ⟨0x601004, 12, 12⟩
def F.ADM_TERM_SEL_RECORD : Fld := ⟨0x601004, 11, 0⟩
def R.ADM_TERM (i : Nat) : Nat := 0x601010 + 4 * i -- R258
def F.ADM_TERM_TERM (i : Nat) : Fld := ⟨0x601010 + 4 * i, 31, 0⟩
def R.ADM_REFUSE (i j : Nat) : Nat := 0x604000 + 16 * i + 8 * j -- R258
def R.ADM_C_LOCKUPS : Nat := 0x601100 -- R259
def R.ADM_C_REFUSALS : Nat := 0x601108 -- R259
def R.ADM_C_RECLASS_DROP : Nat := 0x601110 -- R259
def R.ADM_C_DRAIN_DROP : Nat := 0x601118 -- R259

def regsFrm0 : List RegDesc := [
  ⟨0x600000, [], false, 0x0, 0x0, 0x80000000, 0x0, 0x0, false⟩,
  ⟨0x600004, [], false, 0xc8, 0x3ff, 0x0, 0x0, 0x0, false⟩,
  ⟨0x600008, [(2, 4)], false, 0x0, 0x0, 0x0, 0x0, 0x0, false⟩,
  ⟨0x600010, [], true, 0x0, 0x0, 0x0, 0x0, 0x0, false⟩,
  ⟨0x600100, [(2, 64)], false, 0x0, 0x1fffff, 0x0, 0x0, 0x0, false⟩,
  ⟨0x600104, [(2, 64)], false, 0x0, 0xffffffff, 0x0, 0x0, 0x0, false⟩,
  ⟨0x600108, [(2, 64)], false, 0x26000000, 0xffff003f, 0x0, 0x0, 0x0, false⟩,
  ⟨0x600400, [(2, 64), (16, 4)], false, 0x1, 0xf13, 0x0, 0x0, 0x0, false⟩,
  ⟨0x600800, [(2, 512), (128, 4)], false, 0x0, 0x73f0137, 0x0, 0x0, 0x0, false⟩,
  ⟨0x600c00, [(2, 256), (64, 4)], false, 0x3fff, 0x3fff, 0x0, 0x0, 0x0, false⟩,
  ⟨0x600200, [(2, 64), (16, 4)], false, 0x0, 0x80007f7f, 0x0, 0x0, 0x0, false⟩,
  ⟨0x600e00, [(2, 256), (4, 64), (10, 4)], false, 0x0, 0xffffffff, 0x0, 0x0, 0x0, false⟩,
  ⟨0x620000, [(2, 131072), (4096, 32), (4, 8)], true, 0x0, 0xffffffffffffffff, 0x0, 0x0, 0x0, false⟩,
  ⟨0x601000, [], false, 0x0, 0x0, 0x0, 0x0, 0x0, false⟩,
  ⟨0x601004, [], false, 0x0, 0x1fff, 0x0, 0x0, 0x0, false⟩,
  ⟨0x601010, [(9, 4)], false, 0x0, 0x0, 0x0, 0x0, 0x0, false⟩,
  ⟨0x604000, [(256, 16), (2, 8)], true, 0x0, 0x0, 0x0, 0x0, 0x0, false⟩,
  ⟨0x601100, [], true, 0x0, 0x0, 0x0, 0x0, 0x0, true⟩,
  ⟨0x601108, [], true, 0x0, 0x0, 0x0, 0x0, 0x0, true⟩,
  ⟨0x601110, [], true, 0x0, 0x0, 0x0, 0x0, 0x0, true⟩]

def regsFrm1 : List RegDesc := [
  ⟨0x601118, [], true, 0x0, 0x0, 0x0, 0x0, 0x0, true⟩]

def regsFrm : List RegDesc := regsFrm0 ++ regsFrm1

/-! ### Tim -/

def R.TIM_NOW_FRAC : Nat := 0x700000 -- R272
def F.TIM_NOW_FRAC_FRAC : Fld := ⟨0x700000, 15, 0⟩
def R.TIM_NOW_NS : Nat := 0x700004 -- R272
def F.TIM_NOW_NS_NS : Fld := ⟨0x700004, 29, 0⟩
def R.TIM_NOW_SEC_LO : Nat := 0x700008 -- R272
def F.TIM_NOW_SEC_LO_SEC_LO : Fld := ⟨0x700008, 31, 0⟩
def R.TIM_NOW_SEC_HI : Nat := 0x70000c -- R272
def F.TIM_NOW_SEC_HI_SEC_HI : Fld := ⟨0x70000c, 15, 0⟩
def R.TIM_SET_SEC_LO : Nat := 0x700010 -- R272
def F.TIM_SET_SEC_LO_SEC_LO : Fld := ⟨0x700010, 31, 0⟩
def R.TIM_SET_SEC_HI : Nat := 0x700014 -- R272
def F.TIM_SET_SEC_HI_SEC_HI : Fld := ⟨0x700014, 15, 0⟩
def R.TIM_SET_NS : Nat := 0x700018 -- R272
def F.TIM_SET_NS_NS : Fld := ⟨0x700018, 29, 0⟩
def R.TIM_SET_CMD : Nat := 0x70001c -- R272
def F.TIM_SET_CMD_GO : Fld := ⟨0x70001c, 0, 0⟩
def R.TIM_FREQ : Nat := 0x700020 -- R272
def F.TIM_FREQ_FREQ : Fld := ⟨0x700020, 31, 0⟩
def R.TIM_ADJ : Nat := 0x700024 -- R272
def F.TIM_ADJ_OFFSET : Fld := ⟨0x700024, 31, 0⟩
def R.TIM_ADJ_CMD : Nat := 0x700028 -- R272
def F.TIM_ADJ_CMD_MODE : Fld := ⟨0x700028, 1, 1⟩
def F.TIM_ADJ_CMD_GO : Fld := ⟨0x700028, 0, 0⟩
def R.TIM_STATUS : Nat := 0x70002c -- R272
def F.TIM_STATUS_SLEWING : Fld := ⟨0x70002c, 31, 31⟩
def F.TIM_STATUS_STEPS : Fld := ⟨0x70002c, 15, 0⟩
def R.TIM_LAST_STEP : Nat := 0x700030 -- R272
def F.TIM_LAST_STEP_OFFSET : Fld := ⟨0x700030, 31, 0⟩
def R.TIM_PPS_OUT_CFG : Nat := 0x700040 -- R272
def F.TIM_PPS_OUT_CFG_PPS_OUT_EN : Fld := ⟨0x700040, 31, 31⟩
def F.TIM_PPS_OUT_CFG_WIDTH : Fld := ⟨0x700040, 9, 0⟩
def R.TIM_PPS_IN_CFG : Nat := 0x700044 -- R272
def F.TIM_PPS_IN_CFG_PPS_IN_EN : Fld := ⟨0x700044, 31, 31⟩
def F.TIM_PPS_IN_CFG_LOAD : Fld := ⟨0x700044, 30, 30⟩
def R.TIM_PPS_IN_TS : Nat := 0x700048 -- R272
def F.TIM_PPS_IN_TS_VALID : Fld := ⟨0x700048, 31, 31⟩
def F.TIM_PPS_IN_TS_OVF : Fld := ⟨0x700048, 30, 30⟩
def F.TIM_PPS_IN_TS_NS : Fld := ⟨0x700048, 29, 0⟩
def R.TIM_PPS_IN_SEC : Nat := 0x70004c -- R272
def F.TIM_PPS_IN_SEC_SEC_LO : Fld := ⟨0x70004c, 31, 0⟩
def R.TIM_PPS_LOAD_SEC : Nat := 0x700050 -- R272
def F.TIM_PPS_LOAD_SEC_LOAD_SEC : Fld := ⟨0x700050, 31, 0⟩
def R.TIM_PDELAY_CFG : Nat := 0x700060 -- R272
def F.TIM_PDELAY_CFG_ONE_STEP : Fld := ⟨0x700060, 31, 31⟩
def F.TIM_PDELAY_CFG_QOFF : Fld := ⟨0x700060, 14, 8⟩
def F.TIM_PDELAY_CFG_DOMAIN : Fld := ⟨0x700060, 7, 0⟩
def R.TIM_CF_MAX : Nat := 0x700064 -- R272
def F.TIM_CF_MAX_MAX : Fld := ⟨0x700064, 31, 0⟩
def R.TIM_CLOCK_ID_LO : Nat := 0x700068 -- R272
def F.TIM_CLOCK_ID_LO_ID_LO : Fld := ⟨0x700068, 31, 0⟩
def R.TIM_CLOCK_ID_HI : Nat := 0x70006c -- R272
def F.TIM_CLOCK_ID_HI_ID_HI : Fld := ⟨0x70006c, 31, 0⟩
def R.TIM_PDELAY_PORT (i : Nat) : Nat := 0x700070 + 4 * i -- R272
def F.TIM_PDELAY_PORT_PORT_EN (i : Nat) : Fld := ⟨0x700070 + 4 * i, 31, 0⟩
def R.TIM_TXTS_STATUS : Nat := 0x700080 -- R272
def F.TIM_TXTS_STATUS_COUNT : Fld := ⟨0x700080, 10, 0⟩
def R.TIM_PORT_CFG (i : Nat) : Nat := 0x701000 + 16 * i -- R274
def F.TIM_PORT_CFG_P2P (i : Nat) : Fld := ⟨0x701000 + 16 * i, 0, 0⟩
def R.TIM_PORT_LAT (i : Nat) : Nat := 0x701004 + 16 * i -- R274
def F.TIM_PORT_LAT_TX_LAT (i : Nat) : Fld := ⟨0x701004 + 16 * i, 31, 16⟩
def F.TIM_PORT_LAT_RX_LAT (i : Nat) : Fld := ⟨0x701004 + 16 * i, 15, 0⟩
def R.TIM_PORT_LINK_DELAY (i : Nat) : Nat := 0x701008 + 16 * i -- R274
def F.TIM_PORT_LINK_DELAY_DELAY (i : Nat) : Fld := ⟨0x701008 + 16 * i, 31, 0⟩
def R.TIM_TXTS_POP : Nat := 0x700088 -- R273
def F.TIM_TXTS_POP_VALID : Fld := ⟨0x700088, 63, 63⟩
def F.TIM_TXTS_POP_PORT : Fld := ⟨0x700088, 62, 56⟩
def F.TIM_TXTS_POP_IDENT : Fld := ⟨0x700088, 55, 48⟩
def F.TIM_TXTS_POP_SEC : Fld := ⟨0x700088, 47, 0⟩
def R.TIM_TXTS_POP1 : Nat := 0x700090 -- R273
def F.TIM_TXTS_POP1_NS : Fld := ⟨0x700090, 63, 34⟩
def F.TIM_TXTS_POP1_FRAC : Fld := ⟨0x700090, 15, 0⟩
def R.TIM_C_TXTS_DROP : Nat := 0x700100 -- R275
def R.TIM_C_CF_RANGE : Nat := 0x700108 -- R275
def R.TIM_C_PDELAY_ANSWERED : Nat := 0x700110 -- R275
def R.TIM_C_PDELAY_DROP : Nat := 0x700118 -- R275
def R.TIM_C_PPS_IN_EDGES : Nat := 0x700120 -- R275

def regsTim0 : List RegDesc := [
  ⟨0x700000, [], false, 0x0, 0x0, 0x0, 0x0, 0x0, false⟩,
  ⟨0x700004, [], false, 0x0, 0x0, 0x0, 0x0, 0x0, false⟩,
  ⟨0x700008, [], false, 0x0, 0x0, 0x0, 0x0, 0x0, false⟩,
  ⟨0x70000c, [], false, 0x0, 0x0, 0x0, 0x0, 0x0, false⟩,
  ⟨0x700010, [], false, 0x0, 0xffffffff, 0x0, 0x0, 0x0, false⟩,
  ⟨0x700014, [], false, 0x0, 0xffff, 0x0, 0x0, 0x0, false⟩,
  ⟨0x700018, [], false, 0x0, 0x3fffffff, 0x0, 0x0, 0x0, false⟩,
  ⟨0x70001c, [], false, 0x0, 0x0, 0x0, 0x0, 0x0, false⟩,
  ⟨0x700020, [], false, 0x0, 0xffffffff, 0x0, 0x0, 0x0, false⟩,
  ⟨0x700024, [], false, 0x0, 0xffffffff, 0x0, 0x0, 0x0, false⟩,
  ⟨0x700028, [], false, 0x0, 0x2, 0x0, 0x0, 0x0, false⟩,
  ⟨0x70002c, [], false, 0x0, 0x0, 0x0, 0x0, 0x0, false⟩,
  ⟨0x700030, [], false, 0x0, 0x0, 0x0, 0x0, 0x0, false⟩,
  ⟨0x700040, [], false, 0x64, 0x800003ff, 0x0, 0x0, 0x0, false⟩,
  ⟨0x700044, [], false, 0x0, 0xc0000000, 0x0, 0x0, 0x0, false⟩,
  ⟨0x700048, [], false, 0x0, 0x0, 0xc0000000, 0x0, 0x0, false⟩,
  ⟨0x70004c, [], false, 0x0, 0x0, 0x0, 0x0, 0x0, false⟩,
  ⟨0x700050, [], false, 0x0, 0xffffffff, 0x0, 0x0, 0x0, false⟩,
  ⟨0x700060, [], false, 0x80007000, 0x80007fff, 0x0, 0x0, 0x0, false⟩,
  ⟨0x700064, [], false, 0x989680, 0xffffffff, 0x0, 0x0, 0x0, false⟩]

def regsTim1 : List RegDesc := [
  ⟨0x700068, [], false, 0x0, 0xffffffff, 0x0, 0x0, 0x0, false⟩,
  ⟨0x70006c, [], false, 0x0, 0xffffffff, 0x0, 0x0, 0x0, false⟩,
  ⟨0x700070, [(4, 4)], false, 0xffffffff, 0xffffffff, 0x0, 0x0, 0x0, false⟩,
  ⟨0x700080, [], false, 0x0, 0x0, 0x0, 0x0, 0x0, false⟩,
  ⟨0x701000, [(128, 16)], false, 0x0, 0x1, 0x0, 0x0, 0x0, false⟩,
  ⟨0x701004, [(128, 16)], false, 0x0, 0xffffffff, 0x0, 0x0, 0x0, false⟩,
  ⟨0x701008, [(128, 16)], false, 0x0, 0xffffffff, 0x0, 0x0, 0x0, false⟩,
  ⟨0x700088, [], true, 0x0, 0x0, 0x0, 0x0, 0x0, false⟩,
  ⟨0x700090, [], true, 0x0, 0x0, 0x0, 0x0, 0x0, false⟩,
  ⟨0x700100, [], true, 0x0, 0x0, 0x0, 0x0, 0x0, true⟩,
  ⟨0x700108, [], true, 0x0, 0x0, 0x0, 0x0, 0x0, true⟩,
  ⟨0x700110, [], true, 0x0, 0x0, 0x0, 0x0, 0x0, true⟩,
  ⟨0x700118, [], true, 0x0, 0x0, 0x0, 0x0, 0x0, true⟩,
  ⟨0x700120, [], true, 0x0, 0x0, 0x0, 0x0, 0x0, true⟩]

def regsTim : List RegDesc := regsTim0 ++ regsTim1

/-! ### Prt -/

def R.PRT_MODE (i : Nat) : Nat := 0x800000 + 32768 * i -- R37
def F.PRT_MODE_LOOP (i : Nat) : Fld := ⟨0x800000 + 32768 * i, 10, 9⟩
def F.PRT_MODE_AN_EN (i : Nat) : Fld := ⟨0x800000 + 32768 * i, 8, 8⟩
def F.PRT_MODE_FEC (i : Nat) : Fld := ⟨0x800000 + 32768 * i, 5, 4⟩
def F.PRT_MODE_MODE (i : Nat) : Fld := ⟨0x800000 + 32768 * i, 2, 0⟩
def R.PRT_STATUS (i : Nat) : Nat := 0x800004 + 32768 * i -- R37
def F.PRT_STATUS_AN_DONE (i : Nat) : Fld := ⟨0x800004 + 32768 * i, 16, 16⟩
def F.PRT_STATUS_REFUSE_CODE (i : Nat) : Fld := ⟨0x800004 + 32768 * i, 15, 12⟩
def F.PRT_STATUS_TRAINING (i : Nat) : Fld := ⟨0x800004 + 32768 * i, 11, 11⟩
def F.PRT_STATUS_ACTIVE_MODE (i : Nat) : Fld := ⟨0x800004 + 32768 * i, 10, 8⟩
def F.PRT_STATUS_FUSED_SUB (i : Nat) : Fld := ⟨0x800004 + 32768 * i, 7, 7⟩
def F.PRT_STATUS_HOLDING (i : Nat) : Fld := ⟨0x800004 + 32768 * i, 6, 6⟩
def F.PRT_STATUS_REMOTE_FAULT (i : Nat) : Fld := ⟨0x800004 + 32768 * i, 5, 5⟩
def F.PRT_STATUS_LOCAL_FAULT (i : Nat) : Fld := ⟨0x800004 + 32768 * i, 4, 4⟩
def F.PRT_STATUS_HI_BER (i : Nat) : Fld := ⟨0x800004 + 32768 * i, 3, 3⟩
def F.PRT_STATUS_SIGNAL (i : Nat) : Fld := ⟨0x800004 + 32768 * i, 2, 2⟩
def F.PRT_STATUS_PCS_LOCK (i : Nat) : Fld := ⟨0x800004 + 32768 * i, 1, 1⟩
def F.PRT_STATUS_LINK_UP (i : Nat) : Fld := ⟨0x800004 + 32768 * i, 0, 0⟩
def R.PRT_MAC_CFG (i : Nat) : Nat := 0x800008 + 32768 * i -- R37
def F.PRT_MAC_CFG_MAX_FRAME (i : Nat) : Fld := ⟨0x800008 + 32768 * i, 15, 2⟩
def F.PRT_MAC_CFG_TX_EN (i : Nat) : Fld := ⟨0x800008 + 32768 * i, 1, 1⟩
def F.PRT_MAC_CFG_RX_EN (i : Nat) : Fld := ⟨0x800008 + 32768 * i, 0, 0⟩
def R.PRT_MERGE_CFG (i : Nat) : Nat := 0x80000c + 32768 * i -- R37
def F.PRT_MERGE_CFG_TX_ADD_FRAG_SIZE (i : Nat) : Fld := ⟨0x80000c + 32768 * i, 11, 10⟩
def F.PRT_MERGE_CFG_VERIFY_TIME (i : Nat) : Fld := ⟨0x80000c + 32768 * i, 9, 2⟩
def F.PRT_MERGE_CFG_VERIFY_DIS (i : Nat) : Fld := ⟨0x80000c + 32768 * i, 1, 1⟩
def F.PRT_MERGE_CFG_MERGE_EN (i : Nat) : Fld := ⟨0x80000c + 32768 * i, 0, 0⟩
def R.PRT_MERGE_STATUS (i : Nat) : Nat := 0x800010 + 32768 * i -- R37
def F.PRT_MERGE_STATUS_LAPSE (i : Nat) : Fld := ⟨0x800010 + 32768 * i, 2, 2⟩
def F.PRT_MERGE_STATUS_VERIFY_STATE (i : Nat) : Fld := ⟨0x800010 + 32768 * i, 1, 0⟩
def R.PRT_LINK_TIMING (i : Nat) : Nat := 0x800014 + 32768 * i -- R37
def F.PRT_LINK_TIMING_UP_DEB (i : Nat) : Fld := ⟨0x800014 + 32768 * i, 31, 24⟩
def F.PRT_LINK_TIMING_DOWN_DEB (i : Nat) : Fld := ⟨0x800014 + 32768 * i, 23, 16⟩
def F.PRT_LINK_TIMING_HOLD (i : Nat) : Fld := ⟨0x800014 + 32768 * i, 15, 0⟩
def R.PRT_ROLE (i : Nat) : Nat := 0x800018 + 32768 * i -- R37
def F.PRT_ROLE_ROLE (i : Nat) : Fld := ⟨0x800018 + 32768 * i, 1, 0⟩
def R.PRT_OWN_ADDR_LO (i : Nat) : Nat := 0x800020 + 32768 * i -- R37
def F.PRT_OWN_ADDR_LO_ADDR_LO (i : Nat) : Fld := ⟨0x800020 + 32768 * i, 31, 0⟩
def R.PRT_OWN_ADDR_HI (i : Nat) : Nat := 0x800024 + 32768 * i -- R37
def F.PRT_OWN_ADDR_HI_ADDR_HI (i : Nat) : Fld := ⟨0x800024 + 32768 * i, 15, 0⟩
def R.PRT_TX_EQ (i : Nat) : Nat := 0x800030 + 32768 * i -- R37
def F.PRT_TX_EQ_POST (i : Nat) : Fld := ⟨0x800030 + 32768 * i, 21, 16⟩
def F.PRT_TX_EQ_MAIN (i : Nat) : Fld := ⟨0x800030 + 32768 * i, 13, 8⟩
def F.PRT_TX_EQ_PRE (i : Nat) : Fld := ⟨0x800030 + 32768 * i, 5, 0⟩
def R.PRT_RX_EQ (i : Nat) : Nat := 0x800034 + 32768 * i -- R37
def F.PRT_RX_EQ_DFE1 (i : Nat) : Fld := ⟨0x800034 + 32768 * i, 20, 16⟩
def F.PRT_RX_EQ_CTLE (i : Nat) : Fld := ⟨0x800034 + 32768 * i, 11, 8⟩
def F.PRT_RX_EQ_FREEZE (i : Nat) : Fld := ⟨0x800034 + 32768 * i, 0, 0⟩
def R.PRT_C_RX_FRAMES_OK (i : Nat) : Nat := 0x801000 + 32768 * i -- R24
def R.PRT_C_RX_BYTES_OK (i : Nat) : Nat := 0x801008 + 32768 * i -- R24
def R.PRT_C_RX_FCS_ERR (i : Nat) : Nat := 0x801010 + 32768 * i -- R24
def R.PRT_C_RX_RUNT (i : Nat) : Nat := 0x801018 + 32768 * i -- R24
def R.PRT_C_RX_OVERSIZE (i : Nat) : Nat := 0x801020 + 32768 * i -- R24
def R.PRT_C_RX_FRAGMENT (i : Nat) : Nat := 0x801028 + 32768 * i -- R24
def R.PRT_C_RX_STOMPED (i : Nat) : Nat := 0x801030 + 32768 * i -- R24
def R.PRT_C_RX_CUT_BAD (i : Nat) : Nat := 0x801038 + 32768 * i -- R24
def R.PRT_C_RX_PAUSE_DROP (i : Nat) : Nat := 0x801040 + 32768 * i -- R24
def R.PRT_C_RX_PRE_LOCKUP_DROP (i : Nat) : Nat := 0x801048 + 32768 * i -- R24
def R.PRT_C_PUNT_POLICE_DROP (i : Nat) : Nat := 0x801050 + 32768 * i -- R24
def R.PRT_C_CMD_ROLE_DROP (i : Nat) : Nat := 0x801058 + 32768 * i -- R24
def R.PRT_C_FEC_CORRECTED (i : Nat) : Nat := 0x801060 + 32768 * i -- R24
def R.PRT_C_FEC_UNCORRECTED (i : Nat) : Nat := 0x801068 + 32768 * i -- R24
def R.PRT_C_TX_FRAMES_OK (i : Nat) : Nat := 0x801070 + 32768 * i -- R24
def R.PRT_C_TX_BYTES_OK (i : Nat) : Nat := 0x801078 + 32768 * i -- R24
def R.PRT_C_TX_STOMPED (i : Nat) : Nat := 0x801080 + 32768 * i -- R24
def R.PRT_C_TX_ABORTED (i : Nat) : Nat := 0x801088 + 32768 * i -- R24
def R.PRT_C_LD_ADMITTED_DISCARD (i : Nat) : Nat := 0x801090 + 32768 * i -- R24
def R.PRT_C_LD_BE_FLUSH (i : Nat) : Nat := 0x801098 + 32768 * i -- R24
def R.PRT_C_LD_AGE_DROP (i : Nat) : Nat := 0x8010a0 + 32768 * i -- R24
def R.PRT_C_MERGE_TX_FRAGMENTS (i : Nat) : Nat := 0x8010a8 + 32768 * i -- R24
def R.PRT_C_MERGE_RX_FRAGMENTS (i : Nat) : Nat := 0x8010b0 + 32768 * i -- R24
def R.PRT_C_MERGE_RX_ASSEMBLY_ERR (i : Nat) : Nat := 0x8010b8 + 32768 * i -- R24
def R.PRT_C_MERGE_RX_SMD_ERR (i : Nat) : Nat := 0x8010c0 + 32768 * i -- R24
def R.PRT_C_MERGE_TX_HOLDS (i : Nat) : Nat := 0x8010c8 + 32768 * i -- R24
def R.PRT_C_STAGING_DROP (i j : Nat) : Nat := 0x801100 + 32768 * i + 8 * j -- R24
def R.PRT_C_POOL_DROP (i j : Nat) : Nat := 0x801140 + 32768 * i + 8 * j -- R24

def regsPrt0 : List RegDesc := [
  ⟨0x800000, [(128, 32768)], false, 0x0, 0x737, 0x0, 0x0, 0x0, false⟩,
  ⟨0x800004, [(128, 32768)], false, 0x0, 0x0, 0x0, 0x0, 0x0, false⟩,
  ⟨0x800008, [(128, 32768)], false, 0x17b8, 0xffff, 0x0, 0x0, 0x0, false⟩,
  ⟨0x80000c, [(128, 32768)], false, 0x28, 0xfff, 0x0, 0x0, 0x0, false⟩,
  ⟨0x800010, [(128, 32768)], false, 0x0, 0x0, 0x4, 0x0, 0x0, false⟩,
  ⟨0x800014, [(128, 32768)], false, 0xa050014, 0xffffffff, 0x0, 0x0, 0x0, false⟩,
  ⟨0x800018, [(128, 32768)], false, 0x0, 0x3, 0x0, 0x3, 0x0, false⟩,
  ⟨0x800020, [(128, 32768)], false, 0x0, 0xffffffff, 0x0, 0x0, 0x0, false⟩,
  ⟨0x800024, [(128, 32768)], false, 0x0, 0xffff, 0x0, 0x0, 0x0, false⟩,
  ⟨0x800030, [(128, 32768)], false, 0x3f00, 0x3f3f3f, 0x0, 0x0, 0x0, false⟩,
  ⟨0x800034, [(128, 32768)], false, 0x0, 0x1, 0x0, 0x0, 0x0, false⟩,
  ⟨0x801000, [(128, 32768)], true, 0x0, 0x0, 0x0, 0x0, 0x0, true⟩,
  ⟨0x801008, [(128, 32768)], true, 0x0, 0x0, 0x0, 0x0, 0x0, true⟩,
  ⟨0x801010, [(128, 32768)], true, 0x0, 0x0, 0x0, 0x0, 0x0, true⟩,
  ⟨0x801018, [(128, 32768)], true, 0x0, 0x0, 0x0, 0x0, 0x0, true⟩,
  ⟨0x801020, [(128, 32768)], true, 0x0, 0x0, 0x0, 0x0, 0x0, true⟩,
  ⟨0x801028, [(128, 32768)], true, 0x0, 0x0, 0x0, 0x0, 0x0, true⟩,
  ⟨0x801030, [(128, 32768)], true, 0x0, 0x0, 0x0, 0x0, 0x0, true⟩,
  ⟨0x801038, [(128, 32768)], true, 0x0, 0x0, 0x0, 0x0, 0x0, true⟩,
  ⟨0x801040, [(128, 32768)], true, 0x0, 0x0, 0x0, 0x0, 0x0, true⟩]

def regsPrt1 : List RegDesc := [
  ⟨0x801048, [(128, 32768)], true, 0x0, 0x0, 0x0, 0x0, 0x0, true⟩,
  ⟨0x801050, [(128, 32768)], true, 0x0, 0x0, 0x0, 0x0, 0x0, true⟩,
  ⟨0x801058, [(128, 32768)], true, 0x0, 0x0, 0x0, 0x0, 0x0, true⟩,
  ⟨0x801060, [(128, 32768)], true, 0x0, 0x0, 0x0, 0x0, 0x0, true⟩,
  ⟨0x801068, [(128, 32768)], true, 0x0, 0x0, 0x0, 0x0, 0x0, true⟩,
  ⟨0x801070, [(128, 32768)], true, 0x0, 0x0, 0x0, 0x0, 0x0, true⟩,
  ⟨0x801078, [(128, 32768)], true, 0x0, 0x0, 0x0, 0x0, 0x0, true⟩,
  ⟨0x801080, [(128, 32768)], true, 0x0, 0x0, 0x0, 0x0, 0x0, true⟩,
  ⟨0x801088, [(128, 32768)], true, 0x0, 0x0, 0x0, 0x0, 0x0, true⟩,
  ⟨0x801090, [(128, 32768)], true, 0x0, 0x0, 0x0, 0x0, 0x0, true⟩,
  ⟨0x801098, [(128, 32768)], true, 0x0, 0x0, 0x0, 0x0, 0x0, true⟩,
  ⟨0x8010a0, [(128, 32768)], true, 0x0, 0x0, 0x0, 0x0, 0x0, true⟩,
  ⟨0x8010a8, [(128, 32768)], true, 0x0, 0x0, 0x0, 0x0, 0x0, true⟩,
  ⟨0x8010b0, [(128, 32768)], true, 0x0, 0x0, 0x0, 0x0, 0x0, true⟩,
  ⟨0x8010b8, [(128, 32768)], true, 0x0, 0x0, 0x0, 0x0, 0x0, true⟩,
  ⟨0x8010c0, [(128, 32768)], true, 0x0, 0x0, 0x0, 0x0, 0x0, true⟩,
  ⟨0x8010c8, [(128, 32768)], true, 0x0, 0x0, 0x0, 0x0, 0x0, true⟩,
  ⟨0x801100, [(128, 32768), (8, 8)], true, 0x0, 0x0, 0x0, 0x0, 0x0, true⟩,
  ⟨0x801140, [(128, 32768), (8, 8)], true, 0x0, 0x0, 0x0, 0x0, 0x0, true⟩]

def regsPrt : List RegDesc := regsPrt0 ++ regsPrt1

/-! ### Gal -/

def R.GAL_POOL_FREE : Nat := 0xc00000 -- R69
def F.GAL_POOL_FREE_FREE : Fld := ⟨0xc00000, 18, 0⟩
def R.GAL_POOL_FENCED : Nat := 0xc00004 -- R69
def F.GAL_POOL_FENCED_FENCED : Fld := ⟨0xc00004, 18, 0⟩
def R.GAL_RESV : Nat := 0xc00008 -- R69
def F.GAL_RESV_SIZE : Fld := ⟨0xc00008, 18, 0⟩
def R.GAL_RESV_USED : Nat := 0xc0000c -- R69
def F.GAL_RESV_USED_USED : Fld := ⟨0xc0000c, 18, 0⟩
def R.GAL_FREE_UNRESV : Nat := 0xc00010 -- R69
def F.GAL_FREE_UNRESV_FU : Fld := ⟨0xc00010, 18, 0⟩
def R.GAL_LOW_MARK : Nat := 0xc00014 -- R69
def F.GAL_LOW_MARK_MARK : Fld := ⟨0xc00014, 18, 0⟩
def R.GAL_ALPHA : Nat := 0xc00018 -- R69
def F.GAL_ALPHA_ALPHA : Fld := ⟨0xc00018, 31, 0⟩
def R.GAL_RESIDUE_CFG : Nat := 0xc0001c -- R69
def F.GAL_RESIDUE_CFG_TIMEOUT : Fld := ⟨0xc0001c, 9, 0⟩
def R.GAL_RESIDUE_STATUS : Nat := 0xc00020 -- R69
def F.GAL_RESIDUE_STATUS_IN_USE : Fld := ⟨0xc00020, 14, 0⟩
def R.GAL_CUT_CLASS : Nat := 0xc00024 -- R69
def F.GAL_CUT_CLASS_CLASS_EN : Fld := ⟨0xc00024, 7, 0⟩
def R.GAL_CUT_PORT (i : Nat) : Nat := 0xc00030 + 4 * i -- R69
def F.GAL_CUT_PORT_PORT_EN (i : Nat) : Fld := ⟨0xc00030 + 4 * i, 31, 0⟩
def R.GAL_FREE_ERR : Nat := 0xc00040 -- R69
def F.GAL_FREE_ERR_VALID : Fld := ⟨0xc00040, 31, 31⟩
def F.GAL_FREE_ERR_OVF : Fld := ⟨0xc00040, 30, 30⟩
def F.GAL_FREE_ERR_KIND : Fld := ⟨0xc00040, 29, 28⟩
def F.GAL_FREE_ERR_REQUESTER : Fld := ⟨0xc00040, 24, 19⟩
def F.GAL_FREE_ERR_CELL : Fld := ⟨0xc00040, 18, 0⟩
def R.GAL_FREE_ERR_ADDR : Nat := 0xc00044 -- R69
def F.GAL_FREE_ERR_ADDR_OFFSET : Fld := ⟨0xc00044, 31, 0⟩
def R.GAL_CELL_QUERY : Nat := 0xc00050 -- R69
def F.GAL_CELL_QUERY_CELL : Fld := ⟨0xc00050, 18, 0⟩
def R.GAL_CELL_INFO : Nat := 0xc00054 -- R69
def F.GAL_CELL_INFO_STATE : Fld := ⟨0xc00054, 31, 30⟩
def F.GAL_CELL_INFO_OWNER : Fld := ⟨0xc00054, 29, 24⟩
def F.GAL_CELL_INFO_LAST : Fld := ⟨0xc00054, 19, 19⟩
def F.GAL_CELL_INFO_NEXT : Fld := ⟨0xc00054, 18, 0⟩
def R.GAL_BANK_FREE (i : Nat) : Nat := 0xc00200 + 4 * i -- R69
def F.GAL_BANK_FREE_SWEEP (i : Nat) : Fld := ⟨0xc00200 + 4 * i, 31, 31⟩
def F.GAL_BANK_FREE_FENCED (i : Nat) : Fld := ⟨0xc00200 + 4 * i, 30, 30⟩
def F.GAL_BANK_FREE_COUNT (i : Nat) : Fld := ⟨0xc00200 + 4 * i, 13, 0⟩
def R.GAL_C_NONE_INGRESS : Nat := 0xc00100 -- R70
def R.GAL_C_NONE_CAPTURE : Nat := 0xc00108 -- R70
def R.GAL_C_NONE_DMA : Nat := 0xc00110 -- R70
def R.GAL_C_NONE_RECIRC : Nat := 0xc00118 -- R70
def R.GAL_C_GAP_MARKS : Nat := 0xc00120 -- R70
def R.GAL_C_RESIDUE_TIMEOUT_DROP : Nat := 0xc00128 -- R70
def R.GAL_C_RESIDUE_FULL_DROP : Nat := 0xc00130 -- R70
def R.GAL_C_RESV_OVERFLOW : Nat := 0xc00138 -- R70
def R.GAL_C_CUT_STOMPED : Nat := 0xc00140 -- R70
def R.GAL_C_LIST_BREAK : Nat := 0xc00148 -- R70
def R.GAL_C_ECC_CORRECTED : Nat := 0xc00150 -- R70
def R.GAL_C_ECC_UNCORRECTED : Nat := 0xc00158 -- R70
def R.GAL_C_THRESH_DROP (i : Nat) : Nat := 0xc00180 + 8 * i -- R70
def R.GAL_C_RECIRC_DROP (i : Nat) : Nat := 0xc001c0 + 8 * i -- R70

def regsGal0 : List RegDesc := [
  ⟨0xc00000, [], false, 0x60000, 0x0, 0x0, 0x0, 0x0, false⟩,
  ⟨0xc00004, [], false, 0x0, 0x0, 0x0, 0x0, 0x0, false⟩,
  ⟨0xc00008, [], false, 0x0, 0x0, 0x0, 0x0, 0x0, false⟩,
  ⟨0xc0000c, [], false, 0x0, 0x0, 0x0, 0x0, 0x0, false⟩,
  ⟨0xc00010, [], false, 0x60000, 0x0, 0x0, 0x0, 0x0, false⟩,
  ⟨0xc00014, [], false, 0x8000, 0x7ffff, 0x0, 0x0, 0x0, false⟩,
  ⟨0xc00018, [], false, 0x0, 0x0, 0x0, 0x0, 0x0, false⟩,
  ⟨0xc0001c, [], false, 0x32, 0x3ff, 0x0, 0x0, 0x0, false⟩,
  ⟨0xc00020, [], false, 0x0, 0x0, 0x0, 0x0, 0x0, false⟩,
  ⟨0xc00024, [], false, 0x0, 0xff, 0x0, 0x0, 0x0, false⟩,
  ⟨0xc00030, [(4, 4)], false, 0x0, 0xffffffff, 0x0, 0x0, 0x0, false⟩,
  ⟨0xc00040, [], false, 0x0, 0x0, 0xc0000000, 0x0, 0x0, false⟩,
  ⟨0xc00044, [], false, 0x0, 0x0, 0x0, 0x0, 0x0, false⟩,
  ⟨0xc00050, [], false, 0x0, 0x7ffff, 0x0, 0x0, 0x0, false⟩,
  ⟨0xc00054, [], false, 0x0, 0x0, 0x0, 0x0, 0x0, false⟩,
  ⟨0xc00200, [(32, 4)], false, 0x3000, 0x0, 0x0, 0x0, 0x0, false⟩,
  ⟨0xc00100, [], true, 0x0, 0x0, 0x0, 0x0, 0x0, true⟩,
  ⟨0xc00108, [], true, 0x0, 0x0, 0x0, 0x0, 0x0, true⟩,
  ⟨0xc00110, [], true, 0x0, 0x0, 0x0, 0x0, 0x0, true⟩,
  ⟨0xc00118, [], true, 0x0, 0x0, 0x0, 0x0, 0x0, true⟩]

def regsGal1 : List RegDesc := [
  ⟨0xc00120, [], true, 0x0, 0x0, 0x0, 0x0, 0x0, true⟩,
  ⟨0xc00128, [], true, 0x0, 0x0, 0x0, 0x0, 0x0, true⟩,
  ⟨0xc00130, [], true, 0x0, 0x0, 0x0, 0x0, 0x0, true⟩,
  ⟨0xc00138, [], true, 0x0, 0x0, 0x0, 0x0, 0x0, true⟩,
  ⟨0xc00140, [], true, 0x0, 0x0, 0x0, 0x0, 0x0, true⟩,
  ⟨0xc00148, [], true, 0x0, 0x0, 0x0, 0x0, 0x0, true⟩,
  ⟨0xc00150, [], true, 0x0, 0x0, 0x0, 0x0, 0x0, true⟩,
  ⟨0xc00158, [], true, 0x0, 0x0, 0x0, 0x0, 0x0, true⟩,
  ⟨0xc00180, [(8, 8)], true, 0x0, 0x0, 0x0, 0x0, 0x0, true⟩,
  ⟨0xc001c0, [(8, 8)], true, 0x0, 0x0, 0x0, 0x0, 0x0, true⟩]

def regsGal : List RegDesc := regsGal0 ++ regsGal1

/-! ### Cmp -/

def R.CMP_CASE_STATUS (i : Nat) : Nat := 0xd00000 + 65536 * i -- R100
def F.CMP_CASE_STATUS_COMP_FENCED (i : Nat) : Fld := ⟨0xd00000 + 65536 * i, 23, 16⟩
def F.CMP_CASE_STATUS_COMP_BUSY (i : Nat) : Fld := ⟨0xd00000 + 65536 * i, 15, 8⟩
def F.CMP_CASE_STATUS_REPAIR (i : Nat) : Fld := ⟨0xd00000 + 65536 * i, 1, 1⟩
def F.CMP_CASE_STATUS_FENCED (i : Nat) : Fld := ⟨0xd00000 + 65536 * i, 0, 0⟩
def R.CMP_CASE_CFG (i : Nat) : Nat := 0xd00004 + 65536 * i -- R100
def F.CMP_CASE_CFG_BACKLOG_US (i : Nat) : Fld := ⟨0xd00004 + 65536 * i, 9, 0⟩
def R.CMP_IMAGE (i j : Nat) : Nat := 0xd00010 + 65536 * i + 4 * j -- R100
def F.CMP_IMAGE_VALID (i j : Nat) : Fld := ⟨0xd00010 + 65536 * i + 4 * j, 31, 31⟩
def F.CMP_IMAGE_SIZE (i j : Nat) : Fld := ⟨0xd00010 + 65536 * i + 4 * j, 14, 0⟩
def R.CMP_IMAGE_CRC (i j : Nat) : Nat := 0xd00018 + 65536 * i + 4 * j -- R100
def F.CMP_IMAGE_CRC_CRC (i j : Nat) : Fld := ⟨0xd00018 + 65536 * i + 4 * j, 31, 0⟩
def R.CMP_ENTRY (i j k : Nat) : Nat := 0xd00100 + 65536 * i + 256 * j + 4 * k -- R100
def F.CMP_ENTRY_VALID (i j k : Nat) : Fld := ⟨0xd00100 + 65536 * i + 256 * j + 4 * k, 31, 31⟩
def F.CMP_ENTRY_WCET (i j k : Nat) : Fld := ⟨0xd00100 + 65536 * i + 256 * j + 4 * k, 29, 16⟩
def F.CMP_ENTRY_ADDR (i j k : Nat) : Fld := ⟨0xd00100 + 65536 * i + 256 * j + 4 * k, 13, 0⟩
def R.CMP_PORT_PROFILE (i j : Nat) : Nat := 0xd00400 + 65536 * i + 4 * j -- R100
def F.CMP_PORT_PROFILE_PROFILE1 (i j : Nat) : Fld := ⟨0xd00400 + 65536 * i + 4 * j, 13, 8⟩
def F.CMP_PORT_PROFILE_PROFILE0 (i j : Nat) : Fld := ⟨0xd00400 + 65536 * i + 4 * j, 5, 0⟩
def R.CMP_COMP_STATUS (i j : Nat) : Nat := 0xd00800 + 65536 * i + 4 * j -- R100
def F.CMP_COMP_STATUS_BUSY (i j : Nat) : Fld := ⟨0xd00800 + 65536 * i + 4 * j, 31, 31⟩
def F.CMP_COMP_STATUS_STALL (i j : Nat) : Fld := ⟨0xd00800 + 65536 * i + 4 * j, 30, 30⟩
def F.CMP_COMP_STATUS_LWAIT (i j : Nat) : Fld := ⟨0xd00800 + 65536 * i + 4 * j, 29, 29⟩
def F.CMP_COMP_STATUS_FORME (i j : Nat) : Fld := ⟨0xd00800 + 65536 * i + 4 * j, 28, 28⟩
def F.CMP_COMP_STATUS_FENCED (i j : Nat) : Fld := ⟨0xd00800 + 65536 * i + 4 * j, 27, 27⟩
def F.CMP_COMP_STATUS_PORT (i j : Nat) : Fld := ⟨0xd00800 + 65536 * i + 4 * j, 26, 20⟩
def F.CMP_COMP_STATUS_ENTRY (i j : Nat) : Fld := ⟨0xd00800 + 65536 * i + 4 * j, 19, 14⟩
def F.CMP_COMP_STATUS_PC (i j : Nat) : Fld := ⟨0xd00800 + 65536 * i + 4 * j, 13, 0⟩
def R.CMP_C_FRAMES (i j : Nat) : Nat := 0xd01000 + 65536 * i + 64 * j -- R101
def R.CMP_C_ISSUE_CYCLES (i j : Nat) : Nat := 0xd01008 + 65536 * i + 64 * j -- R101
def R.CMP_C_STALL_CYCLES (i j : Nat) : Nat := 0xd01010 + 65536 * i + 64 * j -- R101
def R.CMP_C_ABANDONED (i j : Nat) : Nat := 0xd01018 + 65536 * i + 64 * j -- R101
def R.CMP_C_FENCE_DROP (i j : Nat) : Nat := 0xd01020 + 65536 * i + 64 * j -- R101
def R.CMP_C_WATCHDOG (i j : Nat) : Nat := 0xd01028 + 65536 * i + 64 * j -- R101
def R.CMP_C_PM_PARITY (i j : Nat) : Nat := 0xd01030 + 65536 * i + 64 * j -- R101

def regsCmp : List RegDesc := [
  ⟨0xd00000, [(16, 65536)], false, 0x0, 0x0, 0x0, 0x0, 0x0, false⟩,
  ⟨0xd00004, [(16, 65536)], false, 0xa, 0x3ff, 0x0, 0x0, 0x0, false⟩,
  ⟨0xd00010, [(16, 65536), (2, 4)], false, 0x0, 0x0, 0x0, 0x0, 0x0, false⟩,
  ⟨0xd00018, [(16, 65536), (2, 4)], false, 0x0, 0x0, 0x0, 0x0, 0x0, false⟩,
  ⟨0xd00100, [(16, 65536), (2, 256), (64, 4)], false, 0x0, 0x0, 0x0, 0x0, 0x0, false⟩,
  ⟨0xd00400, [(16, 65536), (128, 4)], false, 0x0, 0x0, 0x0, 0x0, 0x0, false⟩,
  ⟨0xd00800, [(16, 65536), (8, 4)], false, 0x0, 0x0, 0x0, 0x0, 0x0, false⟩,
  ⟨0xd01000, [(16, 65536), (8, 64)], true, 0x0, 0x0, 0x0, 0x0, 0x0, true⟩,
  ⟨0xd01008, [(16, 65536), (8, 64)], true, 0x0, 0x0, 0x0, 0x0, 0x0, true⟩,
  ⟨0xd01010, [(16, 65536), (8, 64)], true, 0x0, 0x0, 0x0, 0x0, 0x0, true⟩,
  ⟨0xd01018, [(16, 65536), (8, 64)], true, 0x0, 0x0, 0x0, 0x0, 0x0, true⟩,
  ⟨0xd01020, [(16, 65536), (8, 64)], true, 0x0, 0x0, 0x0, 0x0, 0x0, true⟩,
  ⟨0xd01028, [(16, 65536), (8, 64)], true, 0x0, 0x0, 0x0, 0x0, 0x0, true⟩,
  ⟨0xd01030, [(16, 65536), (8, 64)], true, 0x0, 0x0, 0x0, 0x0, 0x0, true⟩]

/-! ### Ldg -/

def R.LDG_STATUS : Nat := 0xe00000 -- R159
def F.LDG_STATUS_AGEING : Fld := ⟨0xe00000, 5, 5⟩
def F.LDG_STATUS_FLUSH : Fld := ⟨0xe00000, 4, 4⟩
def F.LDG_STATUS_SWEEP : Fld := ⟨0xe00000, 3, 3⟩
def F.LDG_STATUS_REHASH : Fld := ⟨0xe00000, 2, 2⟩
def F.LDG_STATUS_FIFO_FULL : Fld := ⟨0xe00000, 1, 1⟩
def R.LDG_LEARN_CFG : Nat := 0xe00004 -- R159
def F.LDG_LEARN_CFG_LEARN_EN : Fld := ⟨0xe00004, 31, 31⟩
def F.LDG_LEARN_CFG_LD_FLUSH : Fld := ⟨0xe00004, 30, 30⟩
def F.LDG_LEARN_CFG_FLAP_THRESH : Fld := ⟨0xe00004, 27, 20⟩
def F.LDG_LEARN_CFG_HOLDDOWN : Fld := ⟨0xe00004, 11, 0⟩
def R.LDG_AGE_CFG : Nat := 0xe00008 -- R159
def F.LDG_AGE_CFG_AGE_EN : Fld := ⟨0xe00008, 31, 31⟩
def F.LDG_AGE_CFG_LIMIT : Fld := ⟨0xe00008, 23, 16⟩
def F.LDG_AGE_CFG_PERIOD : Fld := ⟨0xe00008, 15, 0⟩
def R.LDG_LEARN_PORT (i : Nat) : Nat := 0xe00010 + 4 * i -- R159
def F.LDG_LEARN_PORT_PORT_EN (i : Nat) : Fld := ⟨0xe00010 + 4 * i, 31, 0⟩
def R.LDG_SEED (i : Nat) : Nat := 0xe00020 + 4 * i -- R159
def F.LDG_SEED_SEED (i : Nat) : Fld := ⟨0xe00020 + 4 * i, 31, 0⟩
def R.LDG_OCC_L2_HOST : Nat := 0xe00030 -- R159
def F.LDG_OCC_L2_HOST_COUNT : Fld := ⟨0xe00030, 18, 0⟩
def R.LDG_OCC_L2_LEARNED : Nat := 0xe00034 -- R159
def F.LDG_OCC_L2_LEARNED_COUNT : Fld := ⟨0xe00034, 18, 0⟩
def R.LDG_OCC_IPV4 : Nat := 0xe00038 -- R159
def F.LDG_OCC_IPV4_COUNT : Fld := ⟨0xe00038, 17, 0⟩
def R.LDG_OCC_IPV6 : Nat := 0xe0003c -- R159
def F.LDG_OCC_IPV6_COUNT : Fld := ⟨0xe0003c, 15, 0⟩
def R.LDG_OCC_RULE : Nat := 0xe00040 -- R159
def F.LDG_OCC_RULE_COUNT : Fld := ⟨0xe00040, 13, 0⟩
def R.LDG_PARITY_LOG : Nat := 0xe00050 -- R159
def F.LDG_PARITY_LOG_VALID : Fld := ⟨0xe00050, 31, 31⟩
def F.LDG_PARITY_LOG_OVF : Fld := ⟨0xe00050, 30, 30⟩
def F.LDG_PARITY_LOG_TBL : Fld := ⟨0xe00050, 29, 27⟩
def F.LDG_PARITY_LOG_LEARNED : Fld := ⟨0xe00050, 26, 26⟩
def F.LDG_PARITY_LOG_ADDR : Fld := ⟨0xe00050, 17, 0⟩
def R.LDG_FLAP_LOG : Nat := 0xe00054 -- R159
def F.LDG_FLAP_LOG_VALID : Fld := ⟨0xe00054, 31, 31⟩
def F.LDG_FLAP_LOG_OVF : Fld := ⟨0xe00054, 30, 30⟩
def F.LDG_FLAP_LOG_ADDR : Fld := ⟨0xe00054, 17, 0⟩
def R.LDG_BANK_FENCED : Nat := 0xe00058 -- R159
def F.LDG_BANK_FENCED_FENCED : Fld := ⟨0xe00058, 25, 0⟩
def R.KPR_STATUS : Nat := 0xe08000 -- R159
def F.KPR_STATUS_RUN : Fld := ⟨0xe08000, 31, 31⟩
def F.KPR_STATUS_HALT : Fld := ⟨0xe08000, 30, 30⟩
def F.KPR_STATUS_FIFO : Fld := ⟨0xe08000, 24, 12⟩
def F.KPR_STATUS_UPC : Fld := ⟨0xe08000, 11, 0⟩
def R.KPR_CS_ADDR : Nat := 0xe08010 -- R450
def F.KPR_CS_ADDR_ADDR : Fld := ⟨0xe08010, 11, 0⟩
def R.KPR_CS_DATA (i : Nat) : Nat := 0xe08020 + 4 * i -- R450
def F.KPR_CS_DATA_DATA (i : Nat) : Fld := ⟨0xe08020 + 4 * i, 31, 0⟩
def R.KPR_CS_CRC : Nat := 0xe08030 -- R450
def F.KPR_CS_CRC_CRC : Fld := ⟨0xe08030, 31, 0⟩
def R.KPR_ERRATA (i : Nat) : Nat := 0xe08040 + 8 * i -- R450
def F.KPR_ERRATA_STATE (i : Nat) : Fld := ⟨0xe08040 + 8 * i, 31, 30⟩
def F.KPR_ERRATA_NPATCH (i : Nat) : Fld := ⟨0xe08040 + 8 * i, 15, 0⟩
def R.KPR_ERRATA_ID (i : Nat) : Nat := 0xe08044 + 8 * i -- R450
def F.KPR_ERRATA_ID_SHEET_ID (i : Nat) : Fld := ⟨0xe08044 + 8 * i, 31, 0⟩
def R.LDG_C_LEARN_NEW : Nat := 0xe01000 -- R160
def R.LDG_C_LEARN_MOVE : Nat := 0xe01008 -- R160
def R.LDG_C_LEARN_HOLD_DISCARD : Nat := 0xe01010 -- R160
def R.LDG_C_LEARN_FIFO_DROP : Nat := 0xe01018 -- R160
def R.LDG_C_LEARN_STATIC : Nat := 0xe01020 -- R160
def R.LDG_C_LEARN_NO_ROOM : Nat := 0xe01028 -- R160
def R.LDG_C_LEARN_OFF : Nat := 0xe01030 -- R160
def R.LDG_C_EVICTED : Nat := 0xe01038 -- R160
def R.LDG_C_AGED_OUT : Nat := 0xe01040 -- R160
def R.LDG_C_FLUSHED : Nat := 0xe01048 -- R160
def R.LDG_C_RELOCATIONS : Nat := 0xe01050 -- R160
def R.LDG_C_INSERT_FULL : Nat := 0xe01058 -- R160
def R.LDG_C_PARITY_ERR : Nat := 0xe01060 -- R160
def R.LDG_C_REHASH_LOST : Nat := 0xe01068 -- R160

def regsLdg0 : List RegDesc := [
  ⟨0xe00000, [], false, 0x0, 0x0, 0x0, 0x0, 0x0, false⟩,
  ⟨0xe00004, [], false, 0xc080007d, 0xcff00fff, 0x0, 0x0, 0x0, false⟩,
  ⟨0xe00008, [], false, 0x801e0064, 0x80ffffff, 0x0, 0x0, 0x0, false⟩,
  ⟨0xe00010, [(4, 4)], false, 0xffffffff, 0xffffffff, 0x0, 0x0, 0x0, false⟩,
  ⟨0xe00020, [(2, 4)], false, 0x0, 0x0, 0x0, 0x0, 0x0, false⟩,
  ⟨0xe00030, [], false, 0x0, 0x0, 0x0, 0x0, 0x0, false⟩,
  ⟨0xe00034, [], false, 0x0, 0x0, 0x0, 0x0, 0x0, false⟩,
  ⟨0xe00038, [], false, 0x0, 0x0, 0x0, 0x0, 0x0, false⟩,
  ⟨0xe0003c, [], false, 0x0, 0x0, 0x0, 0x0, 0x0, false⟩,
  ⟨0xe00040, [], false, 0x0, 0x0, 0x0, 0x0, 0x0, false⟩,
  ⟨0xe00050, [], false, 0x0, 0x0, 0xc0000000, 0x0, 0x0, false⟩,
  ⟨0xe00054, [], false, 0x0, 0x0, 0xc0000000, 0x0, 0x0, false⟩,
  ⟨0xe00058, [], false, 0x0, 0x0, 0x0, 0x0, 0x0, false⟩,
  ⟨0xe08000, [], false, 0x0, 0x0, 0x0, 0x0, 0x0, false⟩,
  ⟨0xe08010, [], false, 0x0, 0xfff, 0x0, 0x0, 0x0, false⟩,
  ⟨0xe08020, [(4, 4)], false, 0x0, 0x0, 0x0, 0x0, 0x0, false⟩,
  ⟨0xe08030, [], false, 0x0, 0x0, 0x0, 0x0, 0x0, false⟩,
  ⟨0xe08040, [(8, 8)], false, 0x0, 0x0, 0x0, 0x0, 0x0, false⟩,
  ⟨0xe08044, [(8, 8)], false, 0x0, 0x0, 0x0, 0x0, 0x0, false⟩,
  ⟨0xe01000, [], true, 0x0, 0x0, 0x0, 0x0, 0x0, true⟩]

def regsLdg1 : List RegDesc := [
  ⟨0xe01008, [], true, 0x0, 0x0, 0x0, 0x0, 0x0, true⟩,
  ⟨0xe01010, [], true, 0x0, 0x0, 0x0, 0x0, 0x0, true⟩,
  ⟨0xe01018, [], true, 0x0, 0x0, 0x0, 0x0, 0x0, true⟩,
  ⟨0xe01020, [], true, 0x0, 0x0, 0x0, 0x0, 0x0, true⟩,
  ⟨0xe01028, [], true, 0x0, 0x0, 0x0, 0x0, 0x0, true⟩,
  ⟨0xe01030, [], true, 0x0, 0x0, 0x0, 0x0, 0x0, true⟩,
  ⟨0xe01038, [], true, 0x0, 0x0, 0x0, 0x0, 0x0, true⟩,
  ⟨0xe01040, [], true, 0x0, 0x0, 0x0, 0x0, 0x0, true⟩,
  ⟨0xe01048, [], true, 0x0, 0x0, 0x0, 0x0, 0x0, true⟩,
  ⟨0xe01050, [], true, 0x0, 0x0, 0x0, 0x0, 0x0, true⟩,
  ⟨0xe01058, [], true, 0x0, 0x0, 0x0, 0x0, 0x0, true⟩,
  ⟨0xe01060, [], true, 0x0, 0x0, 0x0, 0x0, 0x0, true⟩,
  ⟨0xe01068, [], true, 0x0, 0x0, 0x0, 0x0, 0x0, true⟩]

def regsLdg : List RegDesc := regsLdg0 ++ regsLdg1

/-! ### Wch -/

def R.WCH_STATUS : Nat := 0xf00000 -- R177
def F.WCH_STATUS_BE_QUEUE : Fld := ⟨0xf00000, 15, 8⟩
def F.WCH_STATUS_UNGUARDED : Fld := ⟨0xf00000, 2, 2⟩
def F.WCH_STATUS_PATROL : Fld := ⟨0xf00000, 1, 1⟩
def F.WCH_STATUS_BROKEN : Fld := ⟨0xf00000, 0, 0⟩
def R.WCH_ENGINES : Nat := 0xf00004 -- R177
def F.WCH_ENGINES_BUSY : Fld := ⟨0xf00004, 13, 8⟩
def F.WCH_ENGINES_ADM : Fld := ⟨0xf00004, 5, 0⟩
def R.WCH_SHADOW_CFG : Nat := 0xf00008 -- R177
def F.WCH_SHADOW_CFG_PATROL_CYCLES : Fld := ⟨0xf00008, 31, 12⟩
def F.WCH_SHADOW_CFG_PATROL_EN : Fld := ⟨0xf00008, 1, 1⟩
def F.WCH_SHADOW_CFG_SHADOW_EN : Fld := ⟨0xf00008, 0, 0⟩
def R.WCH_SHADOW_BASE : Nat := 0xf0000c -- R177
def F.WCH_SHADOW_BASE_BASE : Fld := ⟨0xf0000c, 12, 0⟩
def R.WCH_ERR_LOG : Nat := 0xf00010 -- R177
def F.WCH_ERR_LOG_VALID : Fld := ⟨0xf00010, 31, 31⟩
def F.WCH_ERR_LOG_OVF : Fld := ⟨0xf00010, 30, 30⟩
def F.WCH_ERR_LOG_KIND : Fld := ⟨0xf00010, 29, 28⟩
def F.WCH_ERR_LOG_DIR : Fld := ⟨0xf00010, 27, 27⟩
def F.WCH_ERR_LOG_LINE : Fld := ⟨0xf00010, 15, 0⟩
def R.WCH_DIR (i j k : Nat) : Nat := 0xf01000 + 4096 * i + 16 * j + 8 * k -- R177
def R.WCH_C_SCANS_ADM : Nat := 0xf00100 -- R178
def R.WCH_C_SCANS_BE : Nat := 0xf00108 -- R178
def R.WCH_C_BYTES_SCANNED : Nat := 0xf00110 -- R178
def R.WCH_C_HITS : Nat := 0xf00118 -- R178
def R.WCH_C_SCAN_REFUSED : Nat := 0xf00120 -- R178
def R.WCH_C_PARITY_ERR : Nat := 0xf00128 -- R178
def R.WCH_C_MISMATCH : Nat := 0xf00130 -- R178
def R.WCH_C_REPAIRED : Nat := 0xf00138 -- R178
def R.WCH_C_STOLEN_CYCLES : Nat := 0xf00140 -- R178

def regsWch : List RegDesc := [
  ⟨0xf00000, [], false, 0x4, 0x0, 0x0, 0x0, 0x0, false⟩,
  ⟨0xf00004, [], false, 0x0, 0x0, 0x0, 0x0, 0x0, false⟩,
  ⟨0xf00008, [], false, 0x80000, 0xfffff003, 0x0, 0x0, 0x0, false⟩,
  ⟨0xf0000c, [], false, 0x0, 0x1fff, 0x0, 0x0, 0x0, false⟩,
  ⟨0xf00010, [], false, 0x0, 0x0, 0xc0000000, 0x0, 0x0, false⟩,
  ⟨0xf01000, [(2, 4096), (256, 16), (2, 8)], true, 0x0, 0x0, 0x0, 0x0, 0x0, false⟩,
  ⟨0xf00100, [], true, 0x0, 0x0, 0x0, 0x0, 0x0, true⟩,
  ⟨0xf00108, [], true, 0x0, 0x0, 0x0, 0x0, 0x0, true⟩,
  ⟨0xf00110, [], true, 0x0, 0x0, 0x0, 0x0, 0x0, true⟩,
  ⟨0xf00118, [], true, 0x0, 0x0, 0x0, 0x0, 0x0, true⟩,
  ⟨0xf00120, [], true, 0x0, 0x0, 0x0, 0x0, 0x0, true⟩,
  ⟨0xf00128, [], true, 0x0, 0x0, 0x0, 0x0, 0x0, true⟩,
  ⟨0xf00130, [], true, 0x0, 0x0, 0x0, 0x0, 0x0, true⟩,
  ⟨0xf00138, [], true, 0x0, 0x0, 0x0, 0x0, 0x0, true⟩,
  ⟨0xf00140, [], true, 0x0, 0x0, 0x0, 0x0, 0x0, true⟩]

/-! ### Egr -/

def R.EGR_Q_STATUS (i : Nat) : Nat := 0x1000000 + 256 * i -- R232
def F.EGR_Q_STATUS_PAUSED (i : Nat) : Fld := ⟨0x1000000 + 256 * i, 31, 31⟩
def F.EGR_Q_STATUS_HEAD_VALID (i : Nat) : Fld := ⟨0x1000000 + 256 * i, 30, 30⟩
def F.EGR_Q_STATUS_HEAD_TAG (i : Nat) : Fld := ⟨0x1000000 + 256 * i, 29, 29⟩
def F.EGR_Q_STATUS_HEAD_ADM (i : Nat) : Fld := ⟨0x1000000 + 256 * i, 28, 28⟩
def F.EGR_Q_STATUS_LEN (i : Nat) : Fld := ⟨0x1000000 + 256 * i, 18, 0⟩
def R.EGR_Q_FRAMES (i : Nat) : Nat := 0x1000004 + 256 * i -- R232
def F.EGR_Q_FRAMES_FRAMES (i : Nat) : Fld := ⟨0x1000004 + 256 * i, 18, 0⟩
def R.EGR_Q_CREDIT (i : Nat) : Nat := 0x1000008 + 256 * i -- R232
def F.EGR_Q_CREDIT_CREDIT (i : Nat) : Fld := ⟨0x1000008 + 256 * i, 31, 0⟩
def R.EGR_Q_SHAPE (i j : Nat) : Nat := 0x100000c + 256 * i + 4 * j -- R232
def F.EGR_Q_SHAPE_CBS_EN (i j : Nat) : Fld := ⟨0x100000c + 256 * i + 4 * j, 31, 31⟩
def F.EGR_Q_SHAPE_IDLE_SLOPE (i j : Nat) : Fld := ⟨0x100000c + 256 * i + 4 * j, 26, 0⟩
def R.EGR_Q_CTRL (i : Nat) : Nat := 0x1000014 + 256 * i -- R232
def F.EGR_Q_CTRL_PAUSE (i : Nat) : Fld := ⟨0x1000014 + 256 * i, 31, 31⟩
def F.EGR_Q_CTRL_FLUSH (i : Nat) : Fld := ⟨0x1000014 + 256 * i, 30, 30⟩
def F.EGR_Q_CTRL_WM_EN (i : Nat) : Fld := ⟨0x1000014 + 256 * i, 29, 29⟩
def F.EGR_Q_CTRL_WM (i : Nat) : Fld := ⟨0x1000014 + 256 * i, 18, 0⟩
def R.EGR_PORT_STATUS (i : Nat) : Nat := 0x1000080 + 32768 * i -- R233
def F.EGR_PORT_STATUS_WR_ACTIVE (i : Nat) : Fld := ⟨0x1000080 + 32768 * i, 31, 31⟩
def F.EGR_PORT_STATUS_HOLD (i : Nat) : Fld := ⟨0x1000080 + 32768 * i, 30, 30⟩
def F.EGR_PORT_STATUS_TT_RUN1 (i : Nat) : Fld := ⟨0x1000080 + 32768 * i, 25, 25⟩
def F.EGR_PORT_STATUS_TT_RUN0 (i : Nat) : Fld := ⟨0x1000080 + 32768 * i, 24, 24⟩
def F.EGR_PORT_STATUS_GATES1 (i : Nat) : Fld := ⟨0x1000080 + 32768 * i, 23, 16⟩
def F.EGR_PORT_STATUS_GATES0 (i : Nat) : Fld := ⟨0x1000080 + 32768 * i, 15, 8⟩
def F.EGR_PORT_STATUS_PICKED (i : Nat) : Fld := ⟨0x1000080 + 32768 * i, 1, 1⟩
def F.EGR_PORT_STATUS_ON_WIRE (i : Nat) : Fld := ⟨0x1000080 + 32768 * i, 0, 0⟩
def R.EGR_PORT_PREEMPT (i : Nat) : Nat := 0x1000084 + 32768 * i -- R233
def F.EGR_PORT_PREEMPT_MASK1 (i : Nat) : Fld := ⟨0x1000084 + 32768 * i, 15, 8⟩
def F.EGR_PORT_PREEMPT_MASK0 (i : Nat) : Fld := ⟨0x1000084 + 32768 * i, 7, 0⟩
def R.EGR_AGE_LIMIT (i j : Nat) : Nat := 0x1000088 + 32768 * i + 4 * j -- R233
def F.EGR_AGE_LIMIT_LIMIT_HI (i j : Nat) : Fld := ⟨0x1000088 + 32768 * i + 4 * j, 31, 16⟩
def F.EGR_AGE_LIMIT_LIMIT_LO (i j : Nat) : Fld := ⟨0x1000088 + 32768 * i + 4 * j, 15, 0⟩
def R.EGR_TT_BASE_SEC_LO (i j : Nat) : Nat := 0x10000a0 + 32768 * i + 16 * j -- R233
def F.EGR_TT_BASE_SEC_LO_BASE_SEC_LO (i j : Nat) : Fld := ⟨0x10000a0 + 32768 * i + 16 * j, 31, 0⟩
def R.EGR_TT_BASE_SEC_HI (i j : Nat) : Nat := 0x10000a4 + 32768 * i + 16 * j -- R233
def F.EGR_TT_BASE_SEC_HI_BASE_SEC_HI (i j : Nat) : Fld := ⟨0x10000a4 + 32768 * i + 16 * j, 15, 0⟩
def R.EGR_TT_BASE_NS (i j : Nat) : Nat := 0x10000a8 + 32768 * i + 16 * j -- R233
def F.EGR_TT_BASE_NS_BASE_NS (i j : Nat) : Fld := ⟨0x10000a8 + 32768 * i + 16 * j, 29, 0⟩
def R.EGR_TT_CYCLE (i j : Nat) : Nat := 0x10000ac + 32768 * i + 16 * j -- R233
def F.EGR_TT_CYCLE_CYCLE_NS (i j : Nat) : Fld := ⟨0x10000ac + 32768 * i + 16 * j, 31, 0⟩
def R.EGR_TT_CTRL (i j : Nat) : Nat := 0x10000c0 + 32768 * i + 4 * j -- R233
def F.EGR_TT_CTRL_EN (i j : Nat) : Fld := ⟨0x10000c0 + 32768 * i + 4 * j, 31, 31⟩
def F.EGR_TT_CTRL_NENT (i j : Nat) : Fld := ⟨0x10000c0 + 32768 * i + 4 * j, 26, 16⟩
def F.EGR_TT_CTRL_INIT_GATES (i j : Nat) : Fld := ⟨0x10000c0 + 32768 * i + 4 * j, 15, 8⟩
def R.EGR_TT_INDEX (i : Nat) : Nat := 0x10000d0 + 32768 * i -- R233
def F.EGR_TT_INDEX_TAG (i : Nat) : Fld := ⟨0x10000d0 + 32768 * i, 10, 10⟩
def F.EGR_TT_INDEX_ENTRY (i : Nat) : Fld := ⟨0x10000d0 + 32768 * i, 9, 0⟩
def R.EGR_TT_DATA (i : Nat) : Nat := 0x10000d8 + 32768 * i -- R233
def R.EGR_TT_POS (i : Nat) : Nat := 0x10000e0 + 32768 * i -- R233
def F.EGR_TT_POS_ENTRY1 (i : Nat) : Fld := ⟨0x10000e0 + 32768 * i, 25, 16⟩
def F.EGR_TT_POS_ENTRY0 (i : Nat) : Fld := ⟨0x10000e0 + 32768 * i, 9, 0⟩
def R.EGR_STAGING (i : Nat) : Nat := 0x10000e4 + 32768 * i -- R233
def F.EGR_STAGING_BYTES (i : Nat) : Fld := ⟨0x10000e4 + 32768 * i, 14, 0⟩
def R.EGR_TPID : Nat := 0x1000180 -- R234
def F.EGR_TPID_TPID : Fld := ⟨0x1000180, 15, 0⟩
def R.EGR_WM_LOG : Nat := 0x1000184 -- R234
def F.EGR_WM_LOG_VALID : Fld := ⟨0x1000184, 31, 31⟩
def F.EGR_WM_LOG_OVF : Fld := ⟨0x1000184, 30, 30⟩
def F.EGR_WM_LOG_QUEUE : Fld := ⟨0x1000184, 13, 0⟩
def R.EGR_OVERRUN_LOG : Nat := 0x1000188 -- R234
def F.EGR_OVERRUN_LOG_VALID : Fld := ⟨0x1000188, 31, 31⟩
def F.EGR_OVERRUN_LOG_OVF : Fld := ⟨0x1000188, 30, 30⟩
def F.EGR_OVERRUN_LOG_CLASS : Fld := ⟨0x1000188, 10, 8⟩
def F.EGR_OVERRUN_LOG_PORT : Fld := ⟨0x1000188, 6, 0⟩
def R.EGR_Q_C_ENQ_FRAMES (i : Nat) : Nat := 0x1000040 + 256 * i -- R235
def R.EGR_Q_C_TX_FRAMES (i : Nat) : Nat := 0x1000048 + 256 * i -- R235
def R.EGR_Q_C_TX_BYTES (i : Nat) : Nat := 0x1000050 + 256 * i -- R235
def R.EGR_Q_C_THRESH_DROP (i : Nat) : Nat := 0x1000058 + 256 * i -- R235
def R.EGR_Q_C_AGE_DROP (i : Nat) : Nat := 0x1000060 + 256 * i -- R235
def R.EGR_Q_C_LD_DROP (i : Nat) : Nat := 0x1000068 + 256 * i -- R235
def R.EGR_Q_C_FLUSH_DROP (i : Nat) : Nat := 0x1000070 + 256 * i -- R235
def R.EGR_Q_C_SIZE_DROP (i : Nat) : Nat := 0x1000078 + 256 * i -- R235
def R.EGR_C_TX_OVERRUN : Nat := 0x10001c0 -- R235
def R.EGR_C_EDIT_SKIP : Nat := 0x10001c8 -- R235

def regsEgr0 : List RegDesc := [
  ⟨0x1000000, [(16384, 256)], false, 0x0, 0x0, 0x0, 0x0, 0x0, false⟩,
  ⟨0x1000004, [(16384, 256)], false, 0x0, 0x0, 0x0, 0x0, 0x0, false⟩,
  ⟨0x1000008, [(16384, 256)], false, 0x0, 0x0, 0x0, 0x0, 0x0, false⟩,
  ⟨0x100000c, [(16384, 256), (2, 4)], false, 0x0, 0x87ffffff, 0x0, 0x0, 0x0, false⟩,
  ⟨0x1000014, [(16384, 256)], false, 0x0, 0xa007ffff, 0x0, 0x0, 0x0, false⟩,
  ⟨0x1000080, [(128, 32768)], false, 0xffff00, 0x0, 0x80000000, 0x0, 0x0, false⟩,
  ⟨0x1000084, [(128, 32768)], false, 0x0, 0xffff, 0x0, 0x0, 0x0, false⟩,
  ⟨0x1000088, [(128, 32768), (4, 4)], false, 0x3e803e8, 0xffffffff, 0x0, 0x0, 0x0, false⟩,
  ⟨0x10000a0, [(128, 32768), (2, 16)], false, 0x0, 0xffffffff, 0x0, 0x0, 0x0, false⟩,
  ⟨0x10000a4, [(128, 32768), (2, 16)], false, 0x0, 0xffff, 0x0, 0x0, 0x0, false⟩,
  ⟨0x10000a8, [(128, 32768), (2, 16)], false, 0x0, 0x3fffffff, 0x0, 0x0, 0x0, false⟩,
  ⟨0x10000ac, [(128, 32768), (2, 16)], false, 0x0, 0xffffffff, 0x0, 0x0, 0x0, false⟩,
  ⟨0x10000c0, [(128, 32768), (2, 4)], false, 0x1ff00, 0x87ffff00, 0x0, 0x0, 0x0, false⟩,
  ⟨0x10000d0, [(128, 32768)], false, 0x0, 0x7ff, 0x0, 0x0, 0x0, false⟩,
  ⟨0x10000d8, [(128, 32768)], true, 0x0, 0xffffffffffffffff, 0x0, 0x0, 0x0, false⟩,
  ⟨0x10000e0, [(128, 32768)], false, 0x0, 0x0, 0x0, 0x0, 0x0, false⟩,
  ⟨0x10000e4, [(128, 32768)], false, 0x0, 0x0, 0x0, 0x0, 0x0, false⟩,
  ⟨0x1000180, [], false, 0x9100, 0xffff, 0x0, 0x0, 0x0, false⟩,
  ⟨0x1000184, [], false, 0x0, 0x0, 0xc0000000, 0x0, 0x0, false⟩,
  ⟨0x1000188, [], false, 0x0, 0x0, 0xc0000000, 0x0, 0x0, false⟩]

def regsEgr1 : List RegDesc := [
  ⟨0x1000040, [(16384, 256)], true, 0x0, 0x0, 0x0, 0x0, 0x0, true⟩,
  ⟨0x1000048, [(16384, 256)], true, 0x0, 0x0, 0x0, 0x0, 0x0, true⟩,
  ⟨0x1000050, [(16384, 256)], true, 0x0, 0x0, 0x0, 0x0, 0x0, true⟩,
  ⟨0x1000058, [(16384, 256)], true, 0x0, 0x0, 0x0, 0x0, 0x0, true⟩,
  ⟨0x1000060, [(16384, 256)], true, 0x0, 0x0, 0x0, 0x0, 0x0, true⟩,
  ⟨0x1000068, [(16384, 256)], true, 0x0, 0x0, 0x0, 0x0, 0x0, true⟩,
  ⟨0x1000070, [(16384, 256)], true, 0x0, 0x0, 0x0, 0x0, 0x0, true⟩,
  ⟨0x1000078, [(16384, 256)], true, 0x0, 0x0, 0x0, 0x0, 0x0, true⟩,
  ⟨0x10001c0, [], true, 0x0, 0x0, 0x0, 0x0, 0x0, true⟩,
  ⟨0x10001c8, [], true, 0x0, 0x0, 0x0, 0x0, 0x0, true⟩]

def regsEgr : List RegDesc := regsEgr0 ++ regsEgr1

/-! ### Wbl -/

def R.WBL_STATUS : Nat := 0x1400000 -- R205
def F.WBL_STATUS_WR_ACTIVE : Fld := ⟨0x1400000, 19, 19⟩
def F.WBL_STATUS_POISONED : Fld := ⟨0x1400000, 17, 17⟩
def F.WBL_STATUS_STEP_HOLD : Fld := ⟨0x1400000, 16, 16⟩
def F.WBL_STATUS_ARMED : Fld := ⟨0x1400000, 15, 0⟩
def R.WBL_SNAP_CTRL : Nat := 0x1400010 -- R205
def F.WBL_SNAP_CTRL_BUSY : Fld := ⟨0x1400010, 31, 31⟩
def F.WBL_SNAP_CTRL_POISON : Fld := ⟨0x1400010, 29, 29⟩
def F.WBL_SNAP_CTRL_INDEX : Fld := ⟨0x1400010, 14, 0⟩
def R.WBL_STICKY_CLR : Nat := 0x1400018 -- R205
def F.WBL_STICKY_CLR_MASK : Fld := ⟨0x1400018, 31, 24⟩
def F.WBL_STICKY_CLR_CLR_BLOCKED : Fld := ⟨0x1400018, 23, 23⟩
def F.WBL_STICKY_CLR_CLR_QUAL : Fld := ⟨0x1400018, 22, 22⟩
def F.WBL_STICKY_CLR_INDEX : Fld := ⟨0x1400018, 14, 0⟩
def R.WBL_METER_CLR : Nat := 0x140001c -- R205
def F.WBL_METER_CLR_METER : Fld := ⟨0x140001c, 11, 0⟩
def R.WBL_EVLOG_STATUS : Nat := 0x1400020 -- R205
def F.WBL_EVLOG_STATUS_OVF : Fld := ⟨0x1400020, 31, 31⟩
def F.WBL_EVLOG_STATUS_COUNT : Fld := ⟨0x1400020, 10, 0⟩
def R.WBL_EVLOG_POP : Nat := 0x1400028 -- R205
def F.WBL_EVLOG_POP_VALID : Fld := ⟨0x1400028, 63, 63⟩
def F.WBL_EVLOG_POP_WAYBILL : Fld := ⟨0x1400028, 62, 48⟩
def F.WBL_EVLOG_POP_COND : Fld := ⟨0x1400028, 47, 44⟩
def F.WBL_EVLOG_POP_TIME : Fld := ⟨0x1400028, 31, 0⟩
def R.WBL_ERR_LOG : Nat := 0x1400030 -- R205
def F.WBL_ERR_LOG_VALID : Fld := ⟨0x1400030, 31, 31⟩
def F.WBL_ERR_LOG_OVF : Fld := ⟨0x1400030, 30, 30⟩
def F.WBL_ERR_LOG_KIND : Fld := ⟨0x1400030, 29, 28⟩
def F.WBL_ERR_LOG_WORD : Fld := ⟨0x1400030, 17, 15⟩
def F.WBL_ERR_LOG_INDEX : Fld := ⟨0x1400030, 14, 0⟩
def R.WBL_SNAP_DATA (i : Nat) : Nat := 0x1400100 + 8 * i -- R205
def R.WBL_PAIR (i j : Nat) : Nat := 0x1402000 + 256 * i + 4 * j -- R205
def F.WBL_PAIR_VALID (i j : Nat) : Fld := ⟨0x1402000 + 256 * i + 4 * j, 31, 31⟩
def F.WBL_PAIR_MODE (i j : Nat) : Fld := ⟨0x1402000 + 256 * i + 4 * j, 30, 30⟩
def F.WBL_PAIR_PATH (i j : Nat) : Fld := ⟨0x1402000 + 256 * i + 4 * j, 19, 16⟩
def F.WBL_PAIR_PORT_B (i j : Nat) : Fld := ⟨0x1402000 + 256 * i + 4 * j, 14, 8⟩
def F.WBL_PAIR_PORT_A (i j : Nat) : Fld := ⟨0x1402000 + 256 * i + 4 * j, 6, 0⟩
def R.WBL_SGATE_W0 (i j : Nat) : Nat := 0x1410000 + 16384 * i + 256 * j -- R205
def F.WBL_SGATE_W0_VALID (i j : Nat) : Fld := ⟨0x1410000 + 16384 * i + 256 * j, 63, 63⟩
def F.WBL_SGATE_W0_NENTM1 (i j : Nat) : Fld := ⟨0x1410000 + 16384 * i + 256 * j, 59, 56⟩
def F.WBL_SGATE_W0_BASE_SEC (i j : Nat) : Fld := ⟨0x1410000 + 16384 * i + 256 * j, 47, 0⟩
def R.WBL_SGATE_W1 (i j : Nat) : Nat := 0x1410008 + 16384 * i + 256 * j -- R205
def F.WBL_SGATE_W1_BASE_NS (i j : Nat) : Fld := ⟨0x1410008 + 16384 * i + 256 * j, 63, 32⟩
def F.WBL_SGATE_W1_CYCLE_NS (i j : Nat) : Fld := ⟨0x1410008 + 16384 * i + 256 * j, 31, 0⟩
def R.WBL_SGATE_ENT (i j k : Nat) : Nat := 0x1410010 + 16384 * i + 256 * j + 8 * k -- R205
def F.WBL_SGATE_ENT_OPEN (i j k : Nat) : Fld := ⟨0x1410010 + 16384 * i + 256 * j + 8 * k, 63, 63⟩
def F.WBL_SGATE_ENT_IPV_VALID (i j k : Nat) : Fld := ⟨0x1410010 + 16384 * i + 256 * j + 8 * k, 62, 62⟩
def F.WBL_SGATE_ENT_IPV (i j k : Nat) : Fld := ⟨0x1410010 + 16384 * i + 256 * j + 8 * k, 61, 59⟩
def F.WBL_SGATE_ENT_INTERVAL (i j k : Nat) : Fld := ⟨0x1410010 + 16384 * i + 256 * j + 8 * k, 31, 0⟩
def R.WBL_METER_W0 (i j : Nat) : Nat := 0x1420000 + 65536 * i + 16 * j -- R205
def F.WBL_METER_W0_VALID (i j : Nat) : Fld := ⟨0x1420000 + 65536 * i + 16 * j, 63, 63⟩
def F.WBL_METER_W0_CF (i j : Nat) : Fld := ⟨0x1420000 + 65536 * i + 16 * j, 62, 62⟩
def F.WBL_METER_W0_DROP_YELLOW (i j : Nat) : Fld := ⟨0x1420000 + 65536 * i + 16 * j, 61, 61⟩
def F.WBL_METER_W0_MARK_RED_EN (i j : Nat) : Fld := ⟨0x1420000 + 65536 * i + 16 * j, 60, 60⟩
def F.WBL_METER_W0_CIR (i j : Nat) : Fld := ⟨0x1420000 + 65536 * i + 16 * j, 55, 31⟩
def F.WBL_METER_W0_EIR (i j : Nat) : Fld := ⟨0x1420000 + 65536 * i + 16 * j, 30, 6⟩
def R.WBL_METER_W1 (i j : Nat) : Nat := 0x1420008 + 65536 * i + 16 * j -- R205
def F.WBL_METER_W1_CBS (i j : Nat) : Fld := ⟨0x1420008 + 65536 * i + 16 * j, 63, 44⟩
def F.WBL_METER_W1_EBS (i j : Nat) : Fld := ⟨0x1420008 + 65536 * i + 16 * j, 43, 24⟩
def R.WBL_METER_STATE (i : Nat) : Nat := 0x1440000 + 32 * i -- R205
def F.WBL_METER_STATE_CTOK (i : Nat) : Fld := ⟨0x1440000 + 32 * i, 63, 44⟩
def F.WBL_METER_STATE_ETOK (i : Nat) : Fld := ⟨0x1440000 + 32 * i, 43, 24⟩
def F.WBL_METER_STATE_MARK_RED (i : Nat) : Fld := ⟨0x1440000 + 32 * i, 23, 23⟩
def R.WBL_METER_GREEN (i : Nat) : Nat := 0x1440008 + 32 * i -- R205
def R.WBL_METER_YELLOW (i : Nat) : Nat := 0x1440010 + 32 * i -- R205
def R.WBL_METER_RED (i : Nat) : Nat := 0x1440018 + 32 * i -- R205
def R.WBL_C_OPS : Nat := 0x1401000 -- R210
def R.WBL_C_MISUSE : Nat := 0x1401008 -- R210
def R.WBL_C_WR_REFUSED : Nat := 0x1401010 -- R210
def R.WBL_C_PARITY_CFG : Nat := 0x1401018 -- R210
def R.WBL_C_PARITY_STATE : Nat := 0x1401020 -- R210
def R.WBL_C_WRONG_LAN : Nat := 0x1401028 -- R210
def R.WBL_C_OVERSIZE : Nat := 0x1401030 -- R210
def R.WBL_C_GATE_CLOSED : Nat := 0x1401038 -- R210
def R.WBL_C_EVLOG_DROP : Nat := 0x1401040 -- R210
def R.WBL_C_PATROL_PASSES : Nat := 0x1401048 -- R210

def regsWbl0 : List RegDesc := [
  ⟨0x1400000, [], false, 0x0, 0x0, 0x80000, 0x0, 0x0, false⟩,
  ⟨0x1400010, [], false, 0x0, 0x7fff, 0x0, 0x0, 0x0, false⟩,
  ⟨0x1400018, [], false, 0x0, 0x0, 0x0, 0x0, 0x0, false⟩,
  ⟨0x140001c, [], false, 0x0, 0x0, 0x0, 0x0, 0x0, false⟩,
  ⟨0x1400020, [], false, 0x0, 0x0, 0x80000000, 0x0, 0x0, false⟩,
  ⟨0x1400028, [], true, 0x0, 0x0, 0x0, 0x0, 0x0, false⟩,
  ⟨0x1400030, [], false, 0x0, 0x0, 0xc0000000, 0x0, 0x0, false⟩,
  ⟨0x1400100, [(16, 8)], true, 0x0, 0x0, 0x0, 0x0, 0x0, false⟩,
  ⟨0x1402000, [(2, 256), (64, 4)], false, 0x0, 0xc00f7f7f, 0x0, 0x0, 0x0, false⟩,
  ⟨0x1410000, [(2, 16384), (64, 256)], true, 0x0, 0x8f00ffffffffffff, 0x0, 0x0, 0x0, false⟩,
  ⟨0x1410008, [(2, 16384), (64, 256)], true, 0x0, 0xffffffffffffffff, 0x0, 0x0, 0x0, false⟩,
  ⟨0x1410010, [(2, 16384), (64, 256), (16, 8)], true, 0x0, 0xf8000000ffffffff, 0x0, 0x0, 0x0, false⟩,
  ⟨0x1420000, [(2, 65536), (4096, 16)], true, 0x0, 0xf0ffffffffffffc0, 0x0, 0x0, 0x0, false⟩,
  ⟨0x1420008, [(2, 65536), (4096, 16)], true, 0x0, 0xffffffffff000000, 0x0, 0x0, 0x0, false⟩,
  ⟨0x1440000, [(4096, 32)], true, 0x0, 0x0, 0x0, 0x0, 0x0, false⟩,
  ⟨0x1440008, [(4096, 32)], true, 0x0, 0x0, 0x0, 0x0, 0x0, true⟩,
  ⟨0x1440010, [(4096, 32)], true, 0x0, 0x0, 0x0, 0x0, 0x0, true⟩,
  ⟨0x1440018, [(4096, 32)], true, 0x0, 0x0, 0x0, 0x0, 0x0, true⟩,
  ⟨0x1401000, [], true, 0x0, 0x0, 0x0, 0x0, 0x0, true⟩,
  ⟨0x1401008, [], true, 0x0, 0x0, 0x0, 0x0, 0x0, true⟩]

def regsWbl1 : List RegDesc := [
  ⟨0x1401010, [], true, 0x0, 0x0, 0x0, 0x0, 0x0, true⟩,
  ⟨0x1401018, [], true, 0x0, 0x0, 0x0, 0x0, 0x0, true⟩,
  ⟨0x1401020, [], true, 0x0, 0x0, 0x0, 0x0, 0x0, true⟩,
  ⟨0x1401028, [], true, 0x0, 0x0, 0x0, 0x0, 0x0, true⟩,
  ⟨0x1401030, [], true, 0x0, 0x0, 0x0, 0x0, 0x0, true⟩,
  ⟨0x1401038, [], true, 0x0, 0x0, 0x0, 0x0, 0x0, true⟩,
  ⟨0x1401040, [], true, 0x0, 0x0, 0x0, 0x0, 0x0, true⟩,
  ⟨0x1401048, [], true, 0x0, 0x0, 0x0, 0x0, 0x0, true⟩]

def regsWbl : List RegDesc := regsWbl0 ++ regsWbl1

/-! ### Ddr -/

def R.DDR_CFG : Nat := 0x1800000 -- R351
def F.DDR_CFG_PRESENT : Fld := ⟨0x1800000, 31, 31⟩
def F.DDR_CFG_CHANNELS : Fld := ⟨0x1800000, 30, 30⟩
def F.DDR_CFG_DEVICE : Fld := ⟨0x1800000, 29, 28⟩
def F.DDR_CFG_RANKS2 : Fld := ⟨0x1800000, 27, 27⟩
def F.DDR_CFG_GRAIN : Fld := ⟨0x1800000, 3, 0⟩
def R.DDR_STATUS : Nat := 0x1800004 -- R351
def F.DDR_STATUS_READY : Fld := ⟨0x1800004, 31, 31⟩
def F.DDR_STATUS_SET_ACTIVE : Fld := ⟨0x1800004, 30, 30⟩
def F.DDR_STATUS_THERM_2X : Fld := ⟨0x1800004, 7, 4⟩
def F.DDR_STATUS_TRAIN_FAIL : Fld := ⟨0x1800004, 3, 0⟩
def R.DDR_ARB : Nat := 0x1800008 -- R351
def F.DDR_ARB_CAP_GBPS : Fld := ⟨0x1800008, 31, 16⟩
def R.DDR_FREQ_CTRL : Nat := 0x1800010 -- R351
def F.DDR_FREQ_CTRL_GO : Fld := ⟨0x1800010, 31, 31⟩
def F.DDR_FREQ_CTRL_SET : Fld := ⟨0x1800010, 0, 0⟩
def R.DDR_SCRUB_CFG : Nat := 0x1800014 -- R351
def F.DDR_SCRUB_CFG_SCRUB_EN : Fld := ⟨0x1800014, 31, 31⟩
def F.DDR_SCRUB_CFG_SCRUB_NS : Fld := ⟨0x1800014, 23, 8⟩
def F.DDR_SCRUB_CFG_CE_THRESH : Fld := ⟨0x1800014, 7, 0⟩
def R.DDR_TSET (i : Nat) : Nat := 0x1800100 + 256 * i -- R351
def F.DDR_TSET_VALID (i : Nat) : Fld := ⟨0x1800100 + 256 * i, 31, 31⟩
def F.DDR_TSET_RATE (i : Nat) : Fld := ⟨0x1800100 + 256 * i, 13, 12⟩
def R.DDR_TSET_TIMING (i j : Nat) : Nat := 0x1800104 + 256 * i + 4 * j -- R351
def F.DDR_TSET_TIMING_TIMING (i j : Nat) : Fld := ⟨0x1800104 + 256 * i + 4 * j, 31, 0⟩
def R.DDR_ERR_LOG : Nat := 0x1800400 -- R351
def F.DDR_ERR_LOG_VALID : Fld := ⟨0x1800400, 63, 63⟩
def F.DDR_ERR_LOG_OVF : Fld := ⟨0x1800400, 62, 62⟩
def F.DDR_ERR_LOG_REQ : Fld := ⟨0x1800400, 61, 56⟩
def F.DDR_ERR_LOG_ADDR : Fld := ⟨0x1800400, 39, 0⟩
def R.DDR_CE_LOG : Nat := 0x1800408 -- R351
def F.DDR_CE_LOG_VALID : Fld := ⟨0x1800408, 63, 63⟩
def F.DDR_CE_LOG_ADDR : Fld := ⟨0x1800408, 39, 0⟩
def R.DDR_C_CE_COUNT : Nat := 0x1801000 -- R352
def R.DDR_C_UE_COUNT : Nat := 0x1801008 -- R352
def R.DDR_C_RMW_DROP : Nat := 0x1801010 -- R352
def R.DDR_C_REFSB_FORCED : Nat := 0x1801018 -- R352
def R.DDR_C_SCRUB_FIXED : Nat := 0x1801020 -- R352
def R.DDR_C_SCRUB_CANCELLED : Nat := 0x1801028 -- R352
def R.DDR_C_FREQ_CHANGES : Nat := 0x1801030 -- R352

def regsDdr : List RegDesc := [
  ⟨0x1800000, [], false, 0x40000004, 0xf800000f, 0x0, 0xf800000f, 0x0, false⟩,
  ⟨0x1800004, [], false, 0x0, 0x0, 0x0, 0x0, 0x0, false⟩,
  ⟨0x1800008, [], false, 0xc0000, 0xffff0000, 0x0, 0xffff0000, 0x0, false⟩,
  ⟨0x1800010, [], false, 0x0, 0x1, 0x0, 0x0, 0x0, false⟩,
  ⟨0x1800014, [], false, 0x80005010, 0x80ffffff, 0x0, 0x0, 0x0, false⟩,
  ⟨0x1800100, [(2, 256)], false, 0x2000, 0x80003000, 0x0, 0x80003000, 0x0, false⟩,
  ⟨0x1800104, [(2, 256), (31, 4)], false, 0x0, 0xffffffff, 0x0, 0xffffffff, 0x0, false⟩,
  ⟨0x1800400, [], true, 0x0, 0x0, 0xc000000000000000, 0x0, 0x0, false⟩,
  ⟨0x1800408, [], true, 0x0, 0x0, 0x8000000000000000, 0x0, 0x0, false⟩,
  ⟨0x1801000, [], true, 0x0, 0x0, 0x0, 0x0, 0x0, true⟩,
  ⟨0x1801008, [], true, 0x0, 0x0, 0x0, 0x0, 0x0, true⟩,
  ⟨0x1801010, [], true, 0x0, 0x0, 0x0, 0x0, 0x0, true⟩,
  ⟨0x1801018, [], true, 0x0, 0x0, 0x0, 0x0, 0x0, true⟩,
  ⟨0x1801020, [], true, 0x0, 0x0, 0x0, 0x0, 0x0, true⟩,
  ⟨0x1801028, [], true, 0x0, 0x0, 0x0, 0x0, 0x0, true⟩,
  ⟨0x1801030, [], true, 0x0, 0x0, 0x0, 0x0, 0x0, true⟩]

/-! ### Arc -/

def R.ARC_CTRL : Nat := 0x1900000 -- R373
def F.ARC_CTRL_EN : Fld := ⟨0x1900000, 31, 31⟩
def F.ARC_CTRL_FORMAT : Fld := ⟨0x1900000, 30, 30⟩
def R.ARC_STATUS : Nat := 0x1900004 -- R373
def F.ARC_STATUS_STATE : Fld := ⟨0x1900004, 31, 29⟩
def F.ARC_STATUS_PENDING : Fld := ⟨0x1900004, 28, 28⟩
def F.ARC_STATUS_DIES_OK : Fld := ⟨0x1900004, 7, 0⟩
def R.ARC_RING_BASE : Nat := 0x1900008 -- R373
def F.ARC_RING_BASE_BASE : Fld := ⟨0x1900008, 15, 0⟩
def R.ARC_RING_SIZE : Nat := 0x190000c -- R373
def F.ARC_RING_SIZE_SIZE : Fld := ⟨0x190000c, 15, 0⟩
def R.ARC_TRIG_CFG : Nat := 0x1900010 -- R373
def F.ARC_TRIG_CFG_PRE_MS : Fld := ⟨0x1900010, 31, 18⟩
def F.ARC_TRIG_CFG_POST_MS : Fld := ⟨0x1900010, 17, 4⟩
def R.ARC_TRIG_CFG2 : Nat := 0x1900014 -- R373
def F.ARC_TRIG_CFG2_MAX_S : Fld := ⟨0x1900014, 31, 16⟩
def F.ARC_TRIG_CFG2_PIN_CAUSE : Fld := ⟨0x1900014, 15, 8⟩
def F.ARC_TRIG_CFG2_PIN_EN : Fld := ⟨0x1900014, 0, 0⟩
def R.ARC_KEEP : Nat := 0x1900018 -- R373
def F.ARC_KEEP_EVENT_HI : Fld := ⟨0x1900018, 31, 24⟩
def F.ARC_KEEP_EVENT_LO : Fld := ⟨0x1900018, 23, 0⟩
def R.ARC_READ_RING : Nat := 0x190001c -- R373
def F.ARC_READ_RING_RING : Fld := ⟨0x190001c, 8, 0⟩
def R.ARC_GEOM0 : Nat := 0x1900020 -- R373
def F.ARC_GEOM0_PAGES : Fld := ⟨0x1900020, 31, 20⟩
def F.ARC_GEOM0_BLOCKS : Fld := ⟨0x1900020, 19, 0⟩
def R.ARC_GEOM1 : Nat := 0x1900024 -- R373
def F.ARC_GEOM1_PLANES : Fld := ⟨0x1900024, 15, 12⟩
def F.ARC_GEOM1_RETRY : Fld := ⟨0x1900024, 11, 8⟩
def F.ARC_GEOM1_DIES_CE : Fld := ⟨0x1900024, 7, 4⟩
def F.ARC_GEOM1_CES : Fld := ⟨0x1900024, 3, 0⟩
def R.ARC_GEOM2 : Nat := 0x1900028 -- R373
def F.ARC_GEOM2_PAIR_DIST : Fld := ⟨0x1900028, 15, 0⟩
def R.ARC_WEAR_CFG : Nat := 0x1900030 -- R373
def F.ARC_WEAR_CFG_WEAR_DELTA : Fld := ⟨0x1900030, 31, 16⟩
def F.ARC_WEAR_CFG_ENDURANCE : Fld := ⟨0x1900030, 15, 0⟩
def R.ARC_PATROL_CFG : Nat := 0x1900034 -- R373
def F.ARC_PATROL_CFG_PATROL_H : Fld := ⟨0x1900034, 31, 16⟩
def F.ARC_PATROL_CFG_REFRESH_BITS : Fld := ⟨0x1900034, 7, 0⟩
def R.ARC_RECOVERY : Nat := 0x1900040 -- R373
def F.ARC_RECOVERY_FRONTIER : Fld := ⟨0x1900040, 63, 16⟩
def F.ARC_RECOVERY_ABOVE : Fld := ⟨0x1900040, 15, 0⟩
def R.ARC_RECOVERY_EVT : Nat := 0x1900048 -- R373
def F.ARC_RECOVERY_EVT_EVENT : Fld := ⟨0x1900048, 31, 0⟩
def R.ARC_EVENT_CUR : Nat := 0x1900050 -- R373
def F.ARC_EVENT_CUR_EVENT : Fld := ⟨0x1900050, 31, 0⟩
def R.ARC_KEEP_CTRL : Nat := 0x1900058 -- R373
def F.ARC_KEEP_CTRL_GO : Fld := ⟨0x1900058, 31, 31⟩
def F.ARC_KEEP_CTRL_KEEP : Fld := ⟨0x1900058, 30, 30⟩
def R.ARC_SEL (i j : Nat) : Nat := 0x1901000 + 32 * i + 8 * j -- R373
def R.ARC_SEL_STATE (i : Nat) : Nat := 0x1903000 + 4 * i -- R373
def F.ARC_SEL_STATE_ARMED (i : Nat) : Fld := ⟨0x1903000 + 4 * i, 31, 31⟩
def R.ARC_C_RECORDS : Nat := 0x1900800 -- R374
def R.ARC_C_RECORD_BYTES : Nat := 0x1900808 -- R374
def R.ARC_C_LOST : Nat := 0x1900810 -- R374
def R.ARC_C_SEL_OFF : Nat := 0x1900818 -- R374
def R.ARC_C_CAP_OFF : Nat := 0x1900820 -- R374
def R.ARC_C_TRIGGERS : Nat := 0x1900828 -- R374
def R.ARC_C_TRIG_IGNORED : Nat := 0x1900830 -- R374
def R.ARC_C_EVENTS : Nat := 0x1900838 -- R374
def R.ARC_C_PAGES : Nat := 0x1900840 -- R374
def R.ARC_C_SOFT_DECODES : Nat := 0x1900848 -- R374
def R.ARC_C_UNCORRECTABLE : Nat := 0x1900850 -- R374
def R.ARC_C_RETIRED : Nat := 0x1900858 -- R374
def R.ARC_C_RELOCATED : Nat := 0x1900860 -- R374
def R.ARC_C_ERASES : Nat := 0x1900868 -- R374

def regsArc0 : List RegDesc := [
  ⟨0x1900000, [], false, 0x0, 0x80000000, 0x0, 0x80000000, 0x0, false⟩,
  ⟨0x1900004, [], false, 0x0, 0x0, 0x0, 0x0, 0x0, false⟩,
  ⟨0x1900008, [], false, 0x0, 0xffff, 0x0, 0xffff, 0x0, false⟩,
  ⟨0x190000c, [], false, 0x400, 0xffff, 0x0, 0xffff, 0x0, false⟩,
  ⟨0x1900010, [], false, 0x1f403e80, 0xfffffff0, 0x0, 0xfffffff0, 0x0, false⟩,
  ⟨0x1900014, [], false, 0x3c0000, 0xffffff01, 0x0, 0xffffff01, 0x0, false⟩,
  ⟨0x1900018, [], false, 0x0, 0xffffffff, 0x0, 0x0, 0x0, false⟩,
  ⟨0x190001c, [], false, 0x0, 0x1ff, 0x0, 0x1ff, 0x0, false⟩,
  ⟨0x1900020, [], false, 0x0, 0xffffffff, 0x0, 0xffffffff, 0x0, false⟩,
  ⟨0x1900024, [], false, 0x0, 0xffff, 0x0, 0xffff, 0x0, false⟩,
  ⟨0x1900028, [], false, 0x0, 0xffff, 0x0, 0xffff, 0x0, false⟩,
  ⟨0x1900030, [], false, 0x1f40bb8, 0xffffffff, 0x0, 0xffffffff, 0x0, false⟩,
  ⟨0x1900034, [], false, 0xa80040, 0xffff00ff, 0x0, 0xffff00ff, 0x0, false⟩,
  ⟨0x1900040, [], true, 0x0, 0x0, 0x0, 0x0, 0x0, false⟩,
  ⟨0x1900048, [], false, 0x0, 0x0, 0x0, 0x0, 0x0, false⟩,
  ⟨0x1900050, [], false, 0x0, 0x0, 0x0, 0x0, 0x0, false⟩,
  ⟨0x1900058, [], false, 0x0, 0x0, 0x0, 0x0, 0x0, false⟩,
  ⟨0x1901000, [(256, 32), (4, 8)], true, 0x0, 0x0, 0x0, 0x0, 0x0, false⟩,
  ⟨0x1903000, [(256, 4)], false, 0x0, 0x0, 0x0, 0x0, 0x0, false⟩,
  ⟨0x1900800, [], true, 0x0, 0x0, 0x0, 0x0, 0x0, true⟩]

def regsArc1 : List RegDesc := [
  ⟨0x1900808, [], true, 0x0, 0x0, 0x0, 0x0, 0x0, true⟩,
  ⟨0x1900810, [], true, 0x0, 0x0, 0x0, 0x0, 0x0, true⟩,
  ⟨0x1900818, [], true, 0x0, 0x0, 0x0, 0x0, 0x0, true⟩,
  ⟨0x1900820, [], true, 0x0, 0x0, 0x0, 0x0, 0x0, true⟩,
  ⟨0x1900828, [], true, 0x0, 0x0, 0x0, 0x0, 0x0, true⟩,
  ⟨0x1900830, [], true, 0x0, 0x0, 0x0, 0x0, 0x0, true⟩,
  ⟨0x1900838, [], true, 0x0, 0x0, 0x0, 0x0, 0x0, true⟩,
  ⟨0x1900840, [], true, 0x0, 0x0, 0x0, 0x0, 0x0, true⟩,
  ⟨0x1900848, [], true, 0x0, 0x0, 0x0, 0x0, 0x0, true⟩,
  ⟨0x1900850, [], true, 0x0, 0x0, 0x0, 0x0, 0x0, true⟩,
  ⟨0x1900858, [], true, 0x0, 0x0, 0x0, 0x0, 0x0, true⟩,
  ⟨0x1900860, [], true, 0x0, 0x0, 0x0, 0x0, 0x0, true⟩,
  ⟨0x1900868, [], true, 0x0, 0x0, 0x0, 0x0, 0x0, true⟩]

def regsArc : List RegDesc := regsArc0 ++ regsArc1

/-- The register families of the block that an offset lies in (R458). -/
def regBlock (off : Nat) : List RegDesc :=
  match off / 0x100000 with
  | 0x0 => regsBoot
  | 0x1 => regsFlt
  | 0x2 => regsPwr
  | 0x3 => regsEvt
  | 0x4 => regsHst
  | 0x5 => regsCmd
  | 0x6 => regsFrm
  | 0x7 => regsTim
  | 0x8 | 0x9 | 0xa | 0xb => regsPrt
  | 0xc => regsGal
  | 0xd => regsCmp
  | 0xe => regsLdg
  | 0xf => regsWch
  | 0x10 | 0x11 | 0x12 | 0x13 => regsEgr
  | 0x14 => regsWbl
  | 0x18 => regsDdr
  | 0x19 => regsArc
  | _ => []

/-- Whether `rem` is a sum of index times stride over `dims`. -/
def dimsMatch : List (Nat × Nat) → Nat → Bool
  | [], rem => rem == 0
  | (count, stride) :: ds, rem =>
    let i := rem / stride
    decide (i < count) && dimsMatch ds (rem - i * stride)

/-- Whether a register family has a register at `off`. -/
def RegDesc.covers (d : RegDesc) (off : Nat) : Bool := decide (d.base ≤ off) && dimsMatch d.dims (off - d.base)

/-- The family of the register at `off`, if there is one. -/
def regAt (off : Nat) : Option RegDesc := (regBlock off).find? (fun d => d.covers off)

/-- The reset value of the register at `off` (R457): its descriptor's, but for the event targets and enables, whose
reset depends on the source (R463), and the DDR timing parameters, whose reset the spec leaves open (R351). -/
def regReset (off : Nat) : W64 :=
  if 0x301000 ≤ off ∧ off < 0x302800 then
    let n := (off - 0x301000) / 4
    BitVec.ofNat 64 (n / 32 + (if n = 1504 ∨ n = 1523 then 0x80000000 else 0))
  else if off = 0x3002bc then 0x80001
  else if (0x1800104 ≤ off ∧ off < 0x1800180) ∨ (0x1800204 ≤ off ∧ off < 0x1800280) then
    (Config.ddrTiming off).setWidth 64
  else match regAt off with
    | some d => d.rst
    | none => 0

end Sys2Proof.Machine
end

