-- ==== Sys2Proof/Machine/Table.lean ====
section
/-! DEFINITION. Sparse tables: memories, register files and unit arrays as plain data in one canonical form. A table
lists only the keys whose value differs from the default `d`, keys strictly rising. Equal contents are equal lists. -/

namespace Sys2Proof.Machine

/-- A sparse table: keys strictly rising, no entry equal to its default. -/
abbrev Tbl (α : Type) := List (Nat × α)

/-- The value at key `k`: the listed one, else the default. -/
def tget {α : Type} (d : Nat → α) : Tbl α → Nat → α
  | [], k => d k
  | (j, v) :: t, k => if j = k then v else tget d t k

/-- Insert or replace at `k`; `tput` removes an entry that equals its default. -/
def tput {α : Type} [DecidableEq α] (d : Nat → α) : Tbl α → Nat → α → Tbl α
  | [], k, v => if v = d k then [] else [(k, v)]
  | (j, w) :: t, k, v =>
    if j < k then (j, w) :: tput d t k v
    else if j = k then (if v = d k then t else (k, v) :: t)
    else if v = d k then (j, w) :: t else (k, v) :: (j, w) :: t

/-- Keys above `b` and strictly rising, no entry equal to its default. -/
def twfFrom {α : Type} [DecidableEq α] (d : Nat → α) : Option Nat → Tbl α → Bool
  | _, [] => true
  | b, (j, v) :: t =>
    (match b with
      | none => true
      | some x => decide (x < j)) && decide (v ≠ d j) && twfFrom d (some j) t

/-- The canonical form. -/
def twf {α : Type} [DecidableEq α] (d : Nat → α) (t : Tbl α) : Bool := twfFrom d none t

/-- Byte memory: what an unlisted byte reads as is the same `fill` everywhere. -/
abbrev Memory := Tbl Byte

/-- One byte of a memory whose unwritten bytes read `fill`. -/
def Memory.read (fill : Byte) (m : Memory) (a : Nat) : Byte := tget (fun _ => fill) m a

/-- Write one byte. -/
def Memory.write (fill : Byte) (m : Memory) (a : Nat) (b : Byte) : Memory := tput (fun _ => fill) m a b

/-- The canonical form of a memory. -/
def Memory.wf (fill : Byte) (m : Memory) : Bool := twf (fun _ => fill) m

/-- `n` bytes from address `a`, lowest first. -/
def Memory.readN (fill : Byte) (m : Memory) (a n : Nat) : List Byte :=
  (List.range n).map (fun i => Memory.read fill m (a + i))

/-- Write bytes from address `a`, lowest first. -/
def Memory.writeN (fill : Byte) (m : Memory) (a : Nat) : List Byte → Memory
  | [] => m
  | b :: bs => Memory.writeN fill (Memory.write fill m a b) (a + 1) bs

end Sys2Proof.Machine
end

