-- ==== Sys2Proof/Syntax.lean ====
section
/-! DEFINITION. The commands of the PHV-5128: one constructor per row of spec/opcode_table.json, in the table's order.
A compositor instruction carries its fetch (R98) and the fields of its 64-bit word (R78). -/

namespace Sys2Proof

inductive Instr where
  -- ports and the ingress boundary
  | frameStart (p : Port)
  | frameEnd (p : Port) (fragments smdErrs : Nat) (assemblyErr : Bool)
  | pdelayResponse (p : Port)
  | pcsLockLoss (p : Port) (lock localFault remoteFault : Bool)
  | pcsLockGain (p : Port)
  | linkDown (p : Port)
  | linkUp (p : Port)
  | holdTimeExpiry (p : Port)
  | prtModeWrite (p : Port) (v : W32)
  | laneModeInForce (p : Port)
  | mergeVerifyTimer (p : Port)
  | mergeRespond (p : Port)
  | regionTrainingStart (r : Region)
  | dispatch (p : Port)
  -- the Galley
  | cellRequest (reqs : List (CellReq × Bool))
  | sweepDone (b : Fin 32)
  | dmaPoolRetry (k : Ring)
  | cellFree (requester : BitVec 6) (byAddress : Bool) (x : BitVec 40)
  | galleyCommit (p : Port) (forkParityBad : Bool)
  | residueTimeout (i : Fin 16384)
  | recircOffer (r : Region) (ecc : EccRead)
  -- Binis classes A, F, B
  | alu (f : Fetch) (func : BitVec 5) (rd rs1 rs2 : GReg)
  | alui (f : Fetch) (func : BitVec 5) (rd rs1 : GReg) (imm : BitVec 38)
  | movhi (f : Fetch) (rd rs1 : GReg) (imm : BitVec 32)
  | mfs (f : Fetch) (rd : GReg) (spec : BitVec 5)
  | mts (f : Fetch) (spec : BitVec 5) (rs1 : GReg)
  | mul (f : Fetch) (rd rs1 rs2 : GReg)
  | ext (f : Fetch) (rd rs1 : GReg) (scratch : Bool) (off : BitVec 14) (bit : BitVec 3) (wm1 : BitVec 6) (sx : Bool)
  | ins (f : Fetch) (rs1 rs2 : GReg) (off : BitVec 14) (bit : BitVec 3) (wm1 : BitVec 6)
  | setc (f : Fetch) (rs1 : GReg) (imm : BitVec 14)
  | advc (f : Fetch) (rs1 : GReg) (imm : BitVec 14)
  | br (f : Fetch) (cond : BitVec 3) (rs1 rs2 : GReg) (disp : BitVec 14)
  | bri (f : Fetch) (cond : BitVec 3) (rs1 : GReg) (imm : BitVec 16) (disp : BitVec 14)
  | jmp (f : Fetch) (disp : BitVec 14)
  | jtab (f : Fetch) (rs1 : GReg) (nmax : BitVec 8) (disp : BitVec 14)
  | loop (f : Fetch) (count : BitVec 7) (len : BitVec 14)
  | loopr (f : Fetch) (rs1 : GReg) (count : BitVec 7) (len : BitVec 14)
  | end_ (f : Fetch)
  | pmRepairDone (s : Case)
  | watchdog (c : Comp)
  -- class L
  | lkiL2dst (f : Fetch) (tag : BitVec 3) (rs1 : GReg)
  | lkiL2src (f : Fetch) (tag : BitVec 3) (rs1 : GReg)
  | lkiIpv4 (f : Fetch) (tag : BitVec 3) (rs1 : GReg)
  | lkiIpv6 (f : Fetch) (tag : BitVec 3) (rs1 rs2 : GReg)
  | lkiRule (f : Fetch) (tag : BitVec 3) (rs1 : GReg) (arg : BitVec 11)
  | lkiFork (f : Fetch) (tag : BitVec 3) (rs1 : GReg) (table : BitVec 6)
  | lkiWatch (f : Fetch) (tag : BitVec 3) (rs2 : GReg) (set : BitVec 8)
  | lookupComplete (c : Comp) (tag : BitVec 3) (parityBad : Bool)
  | lkw (f : Fetch) (rd : GReg) (tag : BitVec 3) (bm : Bool) (disp : BitVec 14)
  -- class H
  | hini (f : Fetch) (alg : Bool) (key : BitVec 2) (seed : BitVec 32)
  | hacc (f : Fetch) (rs1 : GReg) (nm1 : BitVec 3)
  | hacf (f : Fetch) (rs1 : GReg) (off : BitVec 14) (nm1 : BitVec 6)
  | hfin (f : Fetch) (rd : GReg)
  -- class D
  | berx (f : Fetch) (rd : GReg) (any : Bool) (btag : BitVec 8) (disp : BitVec 14) (skip : Bool)
  | asdu (f : Fetch) (rd : GReg) (fld : BitVec 4) (rs2 : GReg) (disp : BitVec 14)
  -- class S
  | wbopRead (f : Fetch) (tag : BitVec 3) (rs1 : GReg) (word : Fin 8) (bad : Option (Fin 16))
  | wbopAdd (f : Fetch) (tag : BitVec 3) (rs1 rs2 : GReg) (word : Fin 8) (bad : Option (Fin 16))
  | dupchk (f : Fetch) (tag : BitVec 3) (rs1 rs2 : GReg) (bad : Option (Fin 16))
  | svchk (f : Fetch) (tag : BitVec 3) (rs1 rs2 : GReg) (bad : Option (Fin 16))
  | gschk (f : Fetch) (tag : BitVec 3) (rs1 rs2 : GReg) (bad : Option (Fin 16))
  | meter (f : Fetch) (tag : BitVec 3) (rs1 rs2 : GReg) (bad : Option (Fin 16))
  | wbind (f : Fetch) (rs1 : GReg)
  -- class X
  | dlvDrop (f : Fetch)
  | dlvFwd (f : Fetch) (imm : Bool) (port : BitVec 7) (rs1 : GReg)
  | dlvMcast (f : Fetch) (rs1 rs2 : GReg) (excl : Bool)
  | dlvFork (f : Fetch) (table : BitVec 6) (rs1 : GReg)
  | dlvPunt (f : Fetch) (reason : BitVec 8)
  | dlvSecond (f : Fetch) (entry : BitVec 6)
  | qsel (f : Fetch) (imm : Bool) (qoff : BitVec 7) (rs1 : GReg)
  | sideMirror (f : Fetch) (session : BitVec 4)
  | sideCapmark (f : Fetch) (selector : BitVec 8)
  | sideCaptrig (f : Fetch) (cause : BitVec 8)
  | sideTstamp (f : Fetch) (ident : BitVec 8)
  | editVpush (f : Fetch) (rs1 : GReg)
  | editVpop (f : Fetch)
  | editVswap (f : Fetch) (rs1 : GReg)
  | editHsrIns (f : Fetch) (rs1 : GReg) (path : BitVec 4)
  | editHsrRem (f : Fetch)
  | editPrpAdd (f : Fetch) (rs1 : GReg) (lan : BitVec 14)
  | editPrpStrip (f : Fetch)
  | editMacDa (f : Fetch) (rs1 : GReg)
  | editMacSa (f : Fetch) (rs1 : GReg)
  | editTtlDec (f : Fetch) (off : BitVec 14)
  | editPtpCf (f : Fetch) (off : BitVec 14)
  -- the Keeper, the Watchlist
  | learnRequest (bad : ParityBad)
  | ageingStep (bad : ParityBad)
  | parityInvalidate (table : Fin 6) (addr : BitVec 18)
  | scanStart
  | scanDone (engine : Fin 42) (badLine : Option (BitVec 17))
  | maintWrite (shadow : EccRead)
  | wchPatrolStep (differs : Bool) (shadow : EccRead)
  | wchRepair (line : BitVec 17) (shadow : EccRead)
  -- waybills
  | wblHostWrite (addr : BitVec 22) (size : Fin 17) (data : W64) (bad : Bool)
  | wblHostRead (addr : BitVec 22) (wide : Bool) (bad : Bool)
  | wblPatrolVisit (bad : Option (Fin 8))
  | wblStateRepair (w : Fin 32768)
  | wblSnapshot (v : W32) (bad : Option (Fin 16))
  | stickyClear (w : Fin 32768) (mask : BitVec 8) (bad : Option (Fin 16))
  | clrBlocked (w : Fin 32768) (bad : Option (Fin 16))
  | clrQual (w : Fin 32768) (bad : Option (Fin 16))
  | meterClr (m : Fin 4096)
  | evlogPop
  | perTagTableWrite (off : BitVec 26) (wide : Bool) (data : W64)
  -- egress
  | egressPick (p : Port)
  | ageDecisionTick (p : Port)
  | frameTxStart (p : Port) (ecc : EccRead)
  | frameTxEnd (p : Port) (badCell : Option Nat)
  | ttEntryChange (p : Port) (t : Tag)
  | ttOperationalBase (p : Port) (t : Tag)
  | queueFlush (q : QNum)
  | queuePause (q : QNum) (on : Bool)
  | ttDataWrite (off : BitVec 26) (wide : Bool) (data : W64)
  -- formes
  | fstage (inherit : Bool) (seed : BitVec 32) (bad : ParityBad)
  | fdiscard
  | fcommit
  | fverify
  | fload (addr : BitVec 40) (finds : EccFinds)
  | drainComplete
  | drainTimeout
  | tagReleaseDone (bad : ParityBad)
  -- time
  | freqTrim (v : W32)
  | slew
  | timeStep
  | timeSet
  | slewEnd
  | ppsOutRise
  | ppsOutFall
  | ppsInEdge
  | timeNowLatch
  | txtsPop
  -- the command unit
  | ringDoorbell (pi : BitVec 16)
  | ringBlockFetched (words : List W64)
  | i2cGo (words : List W32)
  | blockExecute (found : List Found)
  | twrite (table : BitVec 4) (tag : Tag) (dir : Bool) (index : BitVec 18) (data : List W64) (bad : ParityBad)
  | tdelete (table : BitVec 4) (tag : Tag) (dir : Bool) (index : BitVec 18) (data : List W64) (bad : ParityBad)
  | tread (table : BitVec 4) (dir : Bool) (addr : BitVec 18) (bad : ParityBad)
  | tsearch (table : BitVec 4) (tag : Tag) (key : List W64) (bad : ParityBad)
  | tnext (table : BitVec 4) (tag : Tag) (start : BitVec 18) (filter : W64) (bad : ParityBad)
  | tflush (fidV : Bool) (fid : BitVec 12) (port : Port) (bad : ParityBad)
  | nop
  | snapshot (units : BitVec 26) (addr : BitVec 40) (finds : EccFinds)
  | caparm (selector : BitVec 8) (arm : Bool) (data : List W64)
  | captrig (cause : BitVec 8)
  | role (source : BitVec 8) (r : BitVec 2)
  | arcread (word0 word1 : W64) (reads : List NandRead)
  | resultHeaderRead (source : Fin 130)
  -- the host interface
  | bar0BadAccess (read : Bool) (off : BitVec 26)
  | bar2Request (write : Bool) (off : BitVec 36) (size : Fin 4097) (data : List Byte) (finds : EccFinds)
  | winEntryWrite (w : Fin 16) (wide : Bool) (data : W64)
  | winEntryRead (w : Fin 16)
  | barResize (log2 : Fin 37)
  | dmaChStart (c : Chan)
  | dmaChStop (c : Chan)
  | ringEnable (k : Ring)
  | ringDisable (k : Ring)
  | dmaRingDb (k : Ring)
  | descWord1Read (k : Ring) (w : W64)
  | txFrameInject (k : Ring) (d : Desc) (data : List Byte)
  | rxFrameDeliver (k : Ring) (d : Desc)
  | dmaCopy (k : Ring) (d : Desc) (data : List Byte) (finds : EccFinds)
  | rxStreamDeliver (k : Ring) (d : Desc) (withdraw : Option (BitVec 16))
  | perstNFall
  | perstNRise
  | hotReset
  | pcieLinkDown
  | flr
  | d3hotEntry
  | d0Return
  | bmeClear
  | bmeSet (cfg : PcieConfig)
  | freezingError (bit : BitVec 5) (header : BitVec 128)
  | freezeRelease (cleared : W32)
  | irqHoldExpiry (k : Ring)
  | msixUnmask (v : Fin 64)
  | lateCompletion (tag : BitVec 10)
  | tagQuarantineEnd (tag : BitVec 10)
  -- DDR
  | ddrRequest (requester : BitVec 6) (write : Bool) (addr : BitVec 40) (len : Fin 4097) (data : List Byte)
      (finds : EccFinds)
  | ddrFreqChange (set : Fin 2)
  | refreshInterval (rank : Fin 4) (blocked : BitVec 4)
  | scrubStep (ecc : EccRead) (overtaken : Bool)
  | ddrTempReport (sub : Fin 4) (rank : Fin 2) (hot : Bool)
  | rankPowerDown (rank : Fin 4)
  | rankSelfRefresh (rank : Fin 4)
  -- the Archive
  | captureServe (ecc : EccRead) (finds : EccFinds)
  | trigInEdge
  | eventEndPass
  | eventClose
  | arcEnable (formatted : Bool) (dies : List (Fin 128 × DieParams))
  | arcDisable
  | arcFormat
  | formatDone (badBlocks : List Nat) (dies : List (Fin 128 × DieParams))
  | arcRecoveryDone (rootBad : BitVec 2) (reads rereads : List (Nat × NandRead))
  | checkpointTimer (finds : EccFinds)
  | pageProgramDone (ok : Bool) (finds : EccFinds)
  | blockEraseDone (block : Nat) (ok : Bool)
  | nandPatrolRead (r : NandRead)
  | keepSet (keep : Bool)
  -- power and heat
  | caseSleep (s : Case)
  | casePointIdle (s : Case)
  | railConfirm (s : Case) (ok : Bool)
  | avsTick (r : Region) (marginMv : Int)
  | powerEstimate (tenths : BitVec 16)
  | powerRecalibrate (vouts : List (BitVec 16)) (tenths : BitVec 16)
  | ddrLowSwitch (lower : Bool)
  | shedStep
  | shedWithdraw
  | sensorSample (i : Fin 24) (temp : BitVec 8) (frozen : Bool)
  | capWrite (v : W32)
  | crystalLoss
  | pllLockLoss (serves : PllServes)
  -- faults
  | dualRailError (source : BitVec 12) (kind : BitVec 8)
  | wireFault (source : BitVec 12)
  | codedMessage (source : BitVec 12) (kind : BitVec 8) (addr : BitVec 40)
  | fenceComplete (source : BitVec 12)
  | recheckDone
  | faultAck (slot : Fin 256)
  | faultAckAll
  | faultClear (slot : Fin 256)
  | faultClearAll
  | unfence (source : BitVec 12)
  | bistDone (pass : Bool)
  | faultInject (level : BitVec 3) (source : BitVec 12)
  -- starting and trusting
  | powerOn
  | resetNAssert
  | resetNRelease (facts : StartFacts)
  | restartCold (key : BitVec 16) (facts : StartFacts)
  | restartWarm (key : BitVec 16) (facts : StartFacts)
  | clrFails (key : BitVec 16)
  | startWatchdog
  | watchRailLoss
  | railUndervolt
  | railRestoreRelease (facts : StartFacts)
  | qspiRead (len : BitVec 9)
  | qspiProgram (len : BitVec 9)
  | qspiErase
  | qspiDone (error : Bool)
  | keyProgram (slot : Fin 4) (confirm : BitVec 16)
  | keyRevoke (slot : Fin 4) (confirm : BitVec 16)
  | keyOpDone (ok : Bool)
  | attestGo
  | attestDone
  | formeHashDone
  -- the event block and plain registers
  | evtLatchClear (g : Fin 48) (mask : W32) (setNow : W32)
  | evtSet (g : Fin 48) (mask : W32)
  | evtEnableWrite (g : Fin 48) (v : W32)
  | evtTargetWrite (n : Fin 1536) (v : W32)
  | evtVecAck (v : Fin 64)
  | registerWrite (off : BitVec 26) (wide : Bool) (data : W64)
  -- the rows at the table's end
  | frameBytesArrive (p : Port) (bytes : List Byte)
  | hiBerChange (p : Port) (on : Bool)
  | fecCodeword (p : Port) (corrected : Bool)
  | pcieLinkUp (speed : Fin 5) (width : Fin 9)
  | correctableError (bit : BitVec 5)
  | caseBacklog (s : Case)
  | watchlistEngineSleep (engine : Fin 42)
  | throttleStep (s : Case)
  deriving DecidableEq, Repr

end Sys2Proof
end

