-- ==== Sys2Proof/Machine/State.lean ====
section
/-! DEFINITION. The state of the PHV-5128, as plain data. Every BAR0 register lives in `State.regs`; what is no register
lives in one structure per unit. Arrays are sparse tables over their reset value (Machine/Table.lean). -/

namespace Sys2Proof.Machine

/-- Why a step stops. No command of this block stops the machine: every fault of the spec is a state (R395 to R412), so
this type has no constructor. Safe. -/
inductive Fault where
  deriving DecidableEq, Repr

/-- Why a command has no meaning here. -/
inductive Refusal where
  /-- Raised by Dispatch.lean for a command that has no meaning yet; none is left. Safe: the machine stops. -/
  | notModelled (mnemonic : String)
  deriving DecidableEq, Repr

/-- The outcome of a command. -/
abbrev Out (α : Type) := Host.Outcome α Fault Refusal

/-! ### What leaves the block -/

/-- What the block sends out: to the lanes, to host memory, to a reader, to the rails. -/
inductive Emission where
  /-- A frame ended on port `p`'s lane; `stomped` when its FCS is inverted (R58), `aborted` when link-down cut it. -/
  | frame (port : Nat) (bytes : List Byte) (stomped aborted : Bool)
  /-- A verify mPacket of port `p` (R25). -/
  | verifyPacket (port : Nat)
  /-- A PCIe write of bytes to a host address, and whether it carries Relaxed Ordering (R319). -/
  | hostWrite (addr : Nat) (bytes : List Byte) (relaxed : Bool)
  /-- The MSI-X message of vector `v` (R460). -/
  | msix (vector : Nat)
  /-- The completion of a read: the bytes, and whether it is poisoned (R308). -/
  | readData (bytes : List Byte) (poisoned : Bool)
  /-- A read or write answered with Unsupported Request (R309). -/
  | unsupported
  /-- A PMBus VOUT_COMMAND of `mv` millivolts at an address (R381). -/
  | pmbus (addr mv : Nat)
  deriving DecidableEq, Repr

/-! ### Time -/

/-- A timestamp: seconds, nanoseconds and the 16-bit fraction as one number in units of 2^-16 ns (R260). -/
abbrev Stamp := Nat

/-- One egress timestamp report (R264). -/
structure TxReport where
  port : Nat
  ident : Nat
  stamp : Stamp
  deriving DecidableEq, Repr

/-- The time base (R260, R261). -/
structure TimeUnit where
  /-- The time base in units of 1/(5 * 2^40) ns: seconds, nanoseconds, the 16-bit fraction and what lies below it. -/
  now : Nat
  /-- What a running slew has still to add, in the same units, signed; none when no slew runs. -/
  slew : Option Int
  /-- Elapsed time-base cycles of 1.6 ns, which no step of the time base touches (the model's own; log entry 5). -/
  cycles : Nat
  /-- Egress timestamp reports, oldest first, at most 1,024 (R264). -/
  reports : List TxReport
  /-- The level of PPS_OUT, and the cycle of its last rise (R269). -/
  ppsOut : Bool
  ppsAt : Nat
  deriving DecidableEq, Repr

/-- The time base at power-on: zero (R261). -/
def TimeUnit.init : TimeUnit := ⟨0, none, 0, [], false, 0⟩

/-! ### Frames -/

/-- Where a frame came from. -/
inductive FrameSrc where
  | port (p : Nat)
  /-- Injected by the host through ring `k` (R317). -/
  | host (ring : Nat)
  /-- A peer-delay response or follow-up that port `p` built, with the request's correctionField and timestamp (R267).
  -/
  | pdelay (p : Nat) (followUp : Bool) (reqCf : Nat) (reqStamp : Stamp)
  /-- A command reply frame (R293). -/
  | reply (p : Nat)
  deriving DecidableEq, Repr

/-- A delivery (R120). -/
inductive Delivery where
  | drop
  | fwd (port : Nat)
  | mcast (mask : BitVec 128)
  | fork (table index : Nat)
  | punt (reason : Nat)
  | second (entry : Nat)
  deriving DecidableEq, Repr

/-- One edit of the edit list (R123, R124). -/
structure Edit where
  eop : Nat
  pass : Nat
  off : Nat
  value : W64
  deriving DecidableEq, Repr

/-- What one pass decided and no later pass inherits (R117, R118). -/
structure PassAction where
  dlv : Option Delivery
  mirrors : List Nat
  capmark : Option Nat
  captrig : Option Nat
  deriving DecidableEq, Repr

/-- Where a frame stands between its arrival and its release. -/
inductive Stage where
  /-- In ingress staging, not dispatched (R15). -/
  | staged
  /-- In compositor `c` (R71). -/
  | running (c : Nat)
  /-- Past END, in its port's reorder buffer or waiting for its commit (R125). -/
  | ended
  /-- Committed to the Galley (R125). -/
  | committed
  /-- In its region's recirculation path (R126). -/
  | recirc
  /-- Lost before its commit, while bytes of it may still arrive. -/
  | dropped
  deriving DecidableEq, Repr

/-- One frame alive in the block. Its bytes are kept once, here; the Galley and the slug store are views (R38, R50). -/
structure Frame where
  src : FrameSrc
  /-- The forme tag (R12). -/
  tag : Nat
  /-- The command role of the port at its start of frame (R35). -/
  role : Nat
  /-- Whether its ingress port is an admitted port of its forme (R14, R60). -/
  admPort : Bool
  /-- The full ingress timestamp (R262). -/
  stamp : Stamp
  bytes : List Byte
  complete : Bool
  /-- It failed R23, or was cut short, after its commit or END (R58, R119). -/
  bad : Bool
  stage : Stage
  /-- ADMITTED of its slug (R51). -/
  admitted : Bool
  /-- CUT of its slug. -/
  cut : Bool
  /-- Its commit found a condition of R56 unmet, so it is held until its last byte. -/
  stored : Bool
  pass : Nat
  qoff : Nat
  user : W64
  wbl : Option Nat
  tsreq : Option Nat
  edits : List Edit
  act : PassAction
  /-- Scratch bytes 0 to 191 at the END of a pass that delivers SECOND (R126). -/
  passScratch : List Byte
  /-- Data cells in order (R38). -/
  cells : List Nat
  editCell : Option Nat
  passCell : Option Nat
  /-- Its pass-record cell is charged to the reserved pool (R60). -/
  passResv : Bool
  /-- The pool answered NONE to one of its cell requests (R47, R124). -/
  noCell : Bool
  /-- Cells charged to the reserved pool, provisional or final (R60, R61). -/
  resv : Nat
  refcnt : Nat
  residue : Option Nat
  /-- Its head has left an egress MAC (R58). -/
  headOut : Bool
  /-- PTP_CF of an injected frame's request (R317): offset of the PTP header. -/
  ptpCf : Option Nat
  deriving DecidableEq, Repr

/-! ### Ports -/

/-- What port p's MAC, PCS and reorder buffer hold beside the registers. -/
structure PortState where
  /-- The frame whose bytes are arriving (R23). -/
  rx : Option Nat
  /-- Undispatched frames in ingress staging, oldest first (R15). -/
  staging : List Nat
  /-- The reorder buffer, oldest first, at most 64 (R16, R125). -/
  reorder : List Nat
  /-- The forme tag given to arriving frames; none before the first lock-up reaches the port (R12, R241). -/
  tag : Option Nat
  /-- The down debounce runs (R27). -/
  downDeb : Bool
  /-- The up debounce runs (R27). -/
  upDeb : Bool
  /-- A PRT_MODE write accepted and not yet in force (R20). -/
  modePending : Bool
  /-- Verify mPackets sent in this attempt (R25). -/
  verifyTries : Nat
  /-- Punt policer tokens, and the cycle of their last refill (R33). -/
  puntTokens : Nat
  puntAt : Nat
  /-- The peer-delay answer that is still unsent: its frame (R267). -/
  pdelay : Option Nat
  /-- A Pdelay request waiting for its answer: its bytes and ingress timestamp. -/
  pdelayReq : Option (List Byte × Stamp)
  /-- The cycle of the last FEC_UNCORRECTED increase (R36). -/
  fecBadAt : Option Nat
  /-- Frames in or past the dispatch of a further pass, in the order of their recirculation path (R16). -/
  again : List Nat
  /-- The cycle at which the receiver last stopped adapting; none since the last calibration (R22). -/
  eqAt : Option Nat
  deriving DecidableEq, Repr

/-- A port at reset: nothing received, the policer full (R33). -/
def PortState.init : PortState :=
  ⟨none, [], [], none, false, false, false, 0, 256, 0, none, none, none, [], none⟩

/-! ### The Galley -/

/-- A residue entry (R64). -/
structure Residue where
  frame : Nat
  mask : BitVec 128
  qoff : Nat
  /-- The cycle of its creation. -/
  born : Nat
  /-- TIMEOUT in force at its creation, in µs (R69). -/
  timeout : Nat
  /-- The order of creation. -/
  order : Nat
  deriving DecidableEq, Repr

/-- The pool, the state RAM, the link RAM and the free sublists (R38 to R49). -/
structure Galley where
  /-- Link RAM: LAST in bit 19, NEXT in bits [18:0] (R40). -/
  link : Tbl (BitVec 20)
  /-- State RAM: STATE in bits [7:6], OWNER in bits [5:0] (R41). -/
  cell : Tbl (BitVec 8)
  /-- Each bank's free sublist, head first, as runs of rows (first row, length) (R43). -/
  lists : Tbl (List (Nat × Nat))
  /-- Cells freed so lately that they cannot be granted yet, with the cycle of the free (R44). -/
  recent : List (Nat × Nat)
  /-- By bank being swept, the sublist as the break left it: the link words that its FREE cells keep (R45). -/
  stale : Tbl (List (Nat × Nat))
  /-- Banks being swept (R45). -/
  sweeping : BitVec 32
  fenced : BitVec 32
  /-- FREE and FENCED cells (R59, R69). -/
  free : Nat
  fencedCells : Nat
  resvUsed : Nat
  /-- Bank pointers by requester code (R39). -/
  ptr : Tbl Nat
  /-- The kinds in their rotating order: 0 ingress, 1 capture, 2 host DMA, 3 second impression (R46). -/
  kinds : List Nat
  /-- The regions in their rotating order, within ingress and within second impression (R46). -/
  ingressOrder : List Nat
  recircOrder : List Nat
  residue : Tbl (Option Residue)
  residueSeq : Nat
  deriving DecidableEq, Repr

/-- The reset sublist of every bank: all its rows in rising order (the order is the model's choice; log entry 7). -/
def allRows : Nat → List (Nat × Nat) := fun _ => [(0, 12288)]

/-- The Galley at reset: every cell FREE (R41, R69). -/
def Galley.init : Galley := 
  ⟨[], [], [], [], [], 0, 0, 393216, 0, 0, [], [0, 1, 2, 3], List.range 8, List.range 8, [], 0⟩

/-! ### Compositors and cases -/

/-- A lookup as issued, with its key copied (R104, R106). -/
inductive LookupReq where
  | l2 (key : W64) (learn : Bool)
  | ipv4 (key : W64)
  | ipv6 (hi lo : W64)
  | rule (key : List Byte)
  | fork (table index : Nat)
  | watch (set start : Nat) (len : Option Nat)
  /-- A waybill operation, performed when it reached the unit: status and word 0 (R114). -/
  | waybill (status : Nat) (w0 : W64)
  deriving DecidableEq, Repr

/-- A lookup tag (R104). -/
inductive Slot where
  | idle
  | waiting (r : LookupReq)
  | ready (status : Nat) (w0 w1 : W64)
  deriving DecidableEq, Repr

/-- One active loop: its first and last body address, the iterations left after this one, its LC (R89). -/
structure LoopLevel where
  first : Nat
  last : Nat
  left : Nat
  lc : Nat
  deriving DecidableEq, Repr

/-- The hash state (R110). -/
structure HashState where
  toeplitz : Bool
  key : Nat
  value : Nat
  taken : Nat
  deriving DecidableEq, Repr

/-- One compositor (R72, R75, R102). -/
structure CompState where
  frame : Option Nat
  g : Tbl W64
  pc : Nat
  scratch : Memory
  cur : Nat
  ovr : Bool
  user : W64
  qoff : Nat
  /-- Innermost first, at most two (R89). -/
  loops : List LoopLevel
  lst : Nat
  lres1 : W64
  hash : HashState
  dtag : Nat
  dlen : Nat
  dstat : Nat
  act : PassAction
  tsreq : Option Nat
  wbl : Option Nat
  edits : List Edit
  cyc : Nat
  entry : Nat
  slots : Tbl Slot
  /-- Stalled for frame bytes: since which cycle, and for which byte (R86). -/
  stall : Option (Nat × Nat)
  /-- The tag whose lookup it waits for (R104). -/
  lwait : Option Nat
  /-- In a further pass, the cycle at which frame memory began to fill from the Galley (R126, R127). -/
  fill : Option Nat
  deriving DecidableEq, Repr

def PassAction.none : PassAction := ⟨.none, [], .none, .none⟩

/-- The hash state at entry: HINI with ALG = 0 and SEED = 0xFFFF_FFFF (R102). -/
def HashState.init : HashState := ⟨false, 0, 0xFFFFFFFF, 0⟩

/-- A compositor at reset (scratch zero: DESIGN CHOICE, log entry 6). -/
def CompState.init : CompState :=
  ⟨none, [], 0, [], 0, false, 0, 0, [], 0, 0, .init, 0, 0, 0, .none, none, none, [], 0, 0, [], none, none, none⟩

/-- What a case holds beside its registers. -/
structure CaseState where
  /-- The program words under repair, oldest first: tag and address (R98). -/
  repair : List (Nat × Nat)
  /-- A frame has been offered to it within the last 100 µs (R380). -/
  active : Bool
  /-- Of the two neighbour regions, the upper one is first (R14). -/
  upperFirst : Bool
  /-- A raise of its point that the rail has not confirmed: the new point, and failed tries (R381). -/
  raise : Option (Nat × Nat)
  deriving DecidableEq, Repr

def CaseState.init : CaseState := ⟨[], false, false, none⟩

/-- A program image with its entry table and what the verifier recorded (R76, R129). Entry e: address, worst path C_e,
dependent lookups K_e, REACH (none: unbounded), WATCH reachable, entries that SECOND names. -/
structure EntryInfo where
  addr : Nat
  wcet : Nat
  deps : Nat
  reach : Option Nat
  watch : Bool
  seconds : List Nat
  /-- Some path from it appends an edit (R254). -/
  edits : Bool
  deriving DecidableEq, Repr

structure Image where
  words : List W64
  /-- Valid entries and their addresses, as loaded (R439). -/
  entries : List (Nat × Nat)
  /-- Verified. -/
  verified : Bool
  info : Tbl (Option EntryInfo)
  deriving DecidableEq, Repr

def Image.init : Image := ⟨[], [], false, []⟩

/-! ### Egress -/

/-- One reference in a queue (R211). -/
structure QRef where
  frame : Nat
  /-- A mirror copy, sent without edits (R122). -/
  mirror : Bool
  /-- Queued across a link-down (R226). -/
  held : Bool
  deriving DecidableEq, Repr

/-- An egress queue (R211, R217, R230). -/
structure EgrQueue where
  refs : List QRef
  credit : Int
  /-- The cycle up to which the credit has been brought. -/
  creditAt : Nat
  wmLatched : Bool
  deriving DecidableEq, Repr

def EgrQueue.init : EgrQueue := ⟨[], 0, 0, false⟩

/-- The registers that decide a frame's edits, as its start of frame found them: EGR_TPID, TIM_CF_MAX, and the
LINK_DELAY that a Sync message of its ingress port gets, 0 where P2P = 0 (R227, R265, R266). -/
structure EditEnv where
  tpid : Nat
  cfMax : Nat
  linkDelay : Nat
  deriving DecidableEq, Repr

/-- A frame in egress staging (R215). -/
structure TxFrame where
  queue : Nat
  ref : QRef
  preemptable : Bool
  /-- Its egress timestamp and the edited bytes, once its start of frame has left. -/
  tx : Stamp
  bytes : List Byte
  stomp : Bool
  /-- TX_OVERRUN was counted for it. -/
  overrun : Bool
  /-- It has been preempted. -/
  cut : Bool
  /-- The cycle at which its fragment on the wire began, and the bytes of the fragments before it (R25). -/
  since : Nat
  sent : Nat
  /-- What the edit unit read when its start of frame left (R227, R265, R266). -/
  env : EditEnv
  deriving DecidableEq, Repr

/-- The running timetable of one tag on one port (R220). -/
structure TtState where
  /-- The lock-up has enabled it. -/
  enabled : Bool
  /-- Its operational base in ns of the time base; none while disabled. -/
  base : Nat
  /-- Past its operational base. -/
  running : Bool
  entry : Nat
  hold : Bool
  deriving DecidableEq, Repr

def TtState.init : TtState := ⟨false, 0, false, 0, false⟩

/-- A port's transmit side (R215, R220, R225). -/
structure EgrPort where
  wire : Option TxFrame
  picked : Option TxFrame
  preempted : Option TxFrame
  tt0 : TtState
  tt1 : TtState
  deriving DecidableEq, Repr

def EgrPort.init : EgrPort := ⟨none, none, none, .init, .init⟩

/-! ### Faults and power -/

/-- What the fault aggregators hold beside the log (R402, R412). -/
structure FaultUnit where
  /-- SOURCE of every fenced unit, rising (R402). -/
  fenced : List Nat
  /-- Fences decided and not yet complete: SOURCE and level (R403). -/
  fencing : List (Nat × Nat)
  /-- The unfence that runs: SOURCE (R412). -/
  unfencing : Option Nat
  /-- The SEQ of the last record (R409). -/
  seq : Nat
  /-- A wanted recheck (R408). -/
  recheck : Bool
  /-- Records whose SOURCE and level of fence are needed at a failed self-test. -/
  fenceLevel : Tbl Nat
  deriving DecidableEq, Repr

def FaultUnit.init : FaultUnit := ⟨[], [], none, 0, false, []⟩

/-- The governor and the thermal monitor (R376 to R390). Sensor i below 16 is that of case i, above that of region
i - 16. -/
structure PowerUnit where
  /-- Shed step reached, 0 to 13 (R389). -/
  step : Nat
  /-- The average of the estimates over the window exceeds the cap (R385). -/
  capBinds : Bool
  /-- The estimates of the window, newest first, in 0.1 W (R385). -/
  samples : List Nat
  /-- Last reading of each sensor, and its reading before. -/
  temp : Tbl Int
  temp0 : Tbl Int
  /-- Failed sensors (R387), and sensors whose action at T_THROTTLE and at T_SHED holds (R388). -/
  failed : BitVec 24
  throttleOn : BitVec 24
  shedOn : BitVec 24
  /-- Regions that need more than +25 mV (R382). -/
  avsShort : BitVec 8
  /-- Points of reduction of a case for heat (R388) and by step 2 of R389. -/
  heatCut : Tbl Nat
  capCut : Tbl Nat
  /-- Confirmed rail point of each region (R381); 1, the 0.75 V of power-up, unless listed (R469). -/
  rail : Tbl Nat
  /-- The thermal stop holds (R390). -/
  tstop : Bool
  /-- The Watch domain runs on its own oscillator (R376). -/
  oscillator : Bool
  /-- Watchlist engines asleep (R377). -/
  enginesAsleep : BitVec 42
  deriving DecidableEq, Repr

def PowerUnit.init : PowerUnit :=
  ⟨0, false, [], [], [], 0, 0, 0, 0, [], [], [], false, false, 0⟩

/-! ### The Ledger and the Keeper -/

/-- A table entry: its words as stored (R137, R148 to R151). -/
abbrev TblEntry := List W64

/-- A learning request with the Keeper tick of its arrival (R143). -/
structure LearnReq where
  key : W64
  port : Nat
  tick : Nat
  deriving DecidableEq, Repr

/-- An element of the Keeper's input, which it serves in arrival order (R143, R147, R153): a learning request, the
invalidation of an entry that a search found bad, or the flush of a port that a link-down starts. -/
inductive KprInput where
  | learn (r : LearnReq)
  | invalidate (table addr : Nat)
  | flush (port : Nat)
  deriving DecidableEq, Repr

/-- Words of an entry of a table, by its number in R104: 0 L2, 2 IPv4, 3 IPv6, 4 rule, 5 fork. -/
def tblWords (t : Nat) : Nat :=
  match t with
  | 0 => 2 | 2 => 3 | 3 => 5 | 4 => 18 | 5 => 1
  | _ => 0

/-- A table entry at reset: all zero, so VALID = 0. -/
def entryInit (k : Nat) : TblEntry := List.replicate (tblWords (k / 2 ^ 18)) 0

/-- The Ledger and the Keeper (R131 to R157). -/
structure LedgerUnit where
  /-- Every table entry, by 2^18 * table + address. -/
  entries : Tbl TblEntry
  /-- Activity bits by L2 address (R139). -/
  active : Tbl Bool
  /-- What waits in the Keeper's input, oldest first (R143). -/
  input : List KprInput
  /-- The L2 address that the ageing pass visits next (R146). -/
  ageAt : Nat
  /-- The L2 table changed since the walk's first NEXT (R157). -/
  dirty : Bool
  /-- The tag whose release sweep runs (R135). -/
  sweep : Option Nat
  /-- The Keeper's micro-registers and entry buffer (R440). -/
  micro : Tbl W64
  buffer : Tbl Byte
  controlStore : Tbl (BitVec 128)
  /-- The address of the microword that runs, and the Ledger cycles that it still lasts, in 1/25 cycle (R440, R441). -/
  upc : Nat
  left : Nat
  deriving DecidableEq, Repr

/-- The learning requests that wait: the learn FIFO (R143). -/
def LedgerUnit.fifo (u : LedgerUnit) : List LearnReq := u.input.filterMap fun x => match x with
  | .learn r => some r
  | _ => none

def LedgerUnit.init : LedgerUnit := ⟨[], [], [], 0, false, none, [], [], [], 0, 0⟩

/-! ### The Watchlist -/

/-- A scan (R166 to R169): the compositor and lookup tag that issued it, none when its result is discarded, and the
bytes that it has then. -/
structure Scan where
  owner : Option (Nat × Nat)
  frame : Nat
  kept : List Byte
  ftag : Nat
  set : Nat
  start : Nat
  len : Option Nat
  admitted : Bool
  deriving DecidableEq, Repr

/-- A maintenance write that waits for the slot (R171): a line and its 64 bytes, or a directory entry's index
256 * tag + set and its two words. -/
inductive Maint where
  | line (l : Nat) (bytes : List Byte)
  | dir (i : Nat) (w0 w1 : W64)
  deriving DecidableEq, Repr

/-- The Watchlist (R163 to R175). Directories are the WCH_DIR registers. -/
structure WatchUnit where
  /-- State memory by byte: 64 * line + byte. -/
  lines : Memory
  /-- Lines marked failed (R175). -/
  failed : List Nat
  /-- Maintenance writes, oldest first. -/
  writes : List Maint
  /-- Lines (or 65,536 + directory index) that wait for repair, with the KIND of their log record (R173, R174). -/
  repairs : List (Nat × Nat)
  /-- Scans that wait for an engine, oldest first. -/
  waiting : List Scan
  engines : Tbl (Option Scan)
  /-- The patrol's next line or directory entry (R174). -/
  patrolAt : Nat
  deriving DecidableEq, Repr

def WatchUnit.init : WatchUnit := ⟨[], [], [], [], [], [], 0⟩

/-! ### The Archive -/

/-- A capture request (R354): the frame and the selector. -/
structure CapReq where
  frame : Nat
  sel : Nat
  deriving DecidableEq, Repr

/-- A record in the ring (R356, R357): RSEQ, its place in the endless byte stream, its length, TYPE, selector, its own
time, and the time at which it was written. -/
structure RingRec where
  seq : Nat
  pos : Nat
  len : Nat
  kind : Nat
  sel : Nat
  time : Stamp
  at_ : Stamp
  deriving DecidableEq, Repr

/-- A run of lost records that has no gap record yet (R355). -/
structure GapRun where
  count : Nat
  reason : Nat
  sel : Nat
  time : Stamp
  deriving DecidableEq, Repr

/-- A record in the page buffer of an event's drain: its place there, whether an earlier page holds its beginning, its
RSEQ, and whether it is a GAP record. -/
structure RecMark where
  begun : Bool
  start : Nat
  stop : Nat
  seq : Nat
  gap : Bool
  deriving DecidableEq, Repr

/-- An event (R360, R369). -/
structure ArcEvent where
  num : Nat
  isOpen : Bool
  keep : Bool
  truncated : Bool
  preShort : Bool
  lostTail : Bool
  missing : Bool
  overrun : Bool
  ncause : Nat
  causes : List Nat
  /-- First trigger, latest trigger, end time E. -/
  t : Stamp
  tLast : Stamp
  tEnd : Stamp
  preMs : Nat
  npages : Nat
  records : Nat
  gaps : Nat
  /-- RSEQ of the next record to drain, and of the first one past the end, once the time base has passed E. -/
  next : Nat
  stop : Option Nat
  /-- The page buffer: drained bytes that no page holds yet, and the records they belong to. -/
  buf : List Byte
  marks : List RecMark
  deriving DecidableEq, Repr

/-- A programmed NAND page (R364): its header fields, its record bytes, its block, the first RSEQ that
is not wholly at or below it, and the RECORDS and GAPS of its event up to it. -/
structure NandPage where
  pseq : Nat
  kind : Nat
  last : Bool
  firstRec : Nat
  event : Nat
  epage : Nat
  orig : Nat
  rseq : Nat
  data : List Byte
  block : Nat
  after : Nat
  records : Nat
  gaps : Nat
  deriving DecidableEq, Repr

/-- A NAND block: erase count beside the format's, pages programmed since its last erase, bad, and waiting to be
erased (R366, R367). -/
structure NandBlock where
  erases : Nat
  used : Nat
  bad : Bool
  dirty : Bool
  deriving DecidableEq, Repr

def NandBlock.init : NandBlock := ⟨0, 0, false, false⟩

/-- A checkpoint in its root (R364, R368): the PSEQ of its first page, the frontier PSEQ, which is that of its last
one, the bad-block table, the erase counts and the event table, with the next event number. -/
structure Checkpoint where
  first : Nat
  frontier : Nat
  bad : List Nat
  erases : List (Nat × Nat)
  formats : Nat
  events : List ArcEvent
  nextEvent : Nat
  deriving DecidableEq, Repr

/-- The Archive (R353 to R371). Selectors are the ARC_SEL and ARC_SEL_STATE registers. -/
structure ArcUnit where
  queue : List CapReq
  /-- The record cell of the request at the head (R354). -/
  recCell : Option Nat
  /-- Selector token buckets in 1/5000 byte, and the cycle of their last refill. -/
  tokens : Tbl Nat
  filled : Tbl Nat
  /-- Runs of lost records that have no gap record yet, oldest first. -/
  gap : List GapRun
  /-- Records in the ring, oldest first; the stream position and RSEQ of the next one. -/
  ring : List RingRec
  pos : Nat
  rseq : Nat
  /-- The time before which the ring may lack records: the start of capture, or the last record overwritten. -/
  reach : Stamp
  /-- The last taken TRIG_IN edge, as a cycle. -/
  pinAt : Option Nat
  /-- The event table, the pending event, and the held one of a recovery (R360, R361). -/
  events : List ArcEvent
  pendingEvent : Option ArcEvent
  held : Option ArcEvent
  nextEvent : Nat
  /-- The store (R362 to R368). -/
  formatted : Bool
  pages : List NandPage
  pseq : Nat
  blocks : Tbl NandBlock
  /-- Erases of every block by formats. -/
  formats : Nat
  /-- Page programs since the format: they choose die and plane. -/
  programs : Nat
  openBlock : Tbl (Option Nat)
  /-- Consecutive failed operations by die, and dies retired whole (R367). -/
  fails : Tbl Nat
  deadDies : List Nat
  /-- Dies whose parameter page agrees with ARC_GEOM, by number (R362). -/
  dies : BitVec 128
  /-- PSEQs that failed programs used up (R367). -/
  failed : List Nat
  /-- Root A and root B, and whether the next checkpoint goes to root B (R368). -/
  rootA : Option Checkpoint
  rootB : Option Checkpoint
  nextB : Bool
  /-- Pages written since the last checkpoint. -/
  sinceCheckpoint : Nat
  patrolAt : Nat
  /-- A warm start left the ring and an open event to resume (R361, R368). -/
  resume : Bool
  deriving DecidableEq, Repr

def ArcUnit.init : ArcUnit :=
  { queue := [], recCell := none, tokens := [], filled := [], gap := [], ring := [], pos := 0, rseq := 0, reach := 0
    pinAt := none, events := [], pendingEvent := none, held := none, nextEvent := 1, formatted := false, pages := []
    pseq := 0, blocks := [], formats := 0, programs := 0, openBlock := [], fails := [], deadDies := [], dies := 0
    failed := [], rootA := none, rootB := none, nextB := false, sinceCheckpoint := 0, patrolAt := 0, resume := false }

/-! ### Waybills -/

/-- The waybill unit (R179 to R210). Meter buckets are kept beside WBL_METER_STATE with their fractions. -/
structure WblUnit where
  /-- Word j of waybill i, at 8 * i + j. -/
  words : Tbl W64
  counters : Tbl W64
  poisoned : List Nat
  /-- Waybills whose state repair is the next operation (R203). -/
  repairs : List Nat
  log : List W64
  patrolAt : Nat
  /-- Patrol passes that must still end before timeout tests resume (R200). -/
  hold : Nat
  /-- Buckets in units of 1/(8,000,000 * 65,536) byte, and the stamp of the last update, by meter (R195). -/
  ctok : Tbl Nat
  etok : Tbl Nat
  mlast : Tbl Stamp
  deriving DecidableEq, Repr

def WblUnit.init : WblUnit := ⟨[], [], [], [], [], 0, 0, [], [], []⟩

/-! ### External DRAM -/

/-- The DDR channels (R338 to R349). -/
structure DdrUnit where
  /-- Contents by offset from 0x10_0000_0000; an unwritten byte reads 0 (DESIGN CHOICE, log entry 4). -/
  mem : Memory
  /-- Bursts whose read is uncorrectable until they are written (R347). -/
  bad : List Nat
  /-- Timing sets that were valid at the last cold start's training (R349). -/
  trained : BitVec 2
  /-- Corrections per row since the last scrub pass (R347). -/
  ceRows : Tbl Nat
  /-- The scrubber's next burst (R348). -/
  scrubAt : Nat
  /-- tREFI intervals by which a bank index of a rank is behind: 4 * rank + index (R346). -/
  lag : Tbl Nat
  /-- 0 in service, 1 in power-down, 2 in self-refresh, by rank (R377). -/
  rankMode : Tbl Nat
  /-- The frequency change that runs: its set and the cycle at which it began (R349). -/
  change : Option (Nat × Nat)
  /-- The ranks that report more than 85 °C in a subchannel: bit 2 * subchannel + rank (R346). -/
  hot : BitVec 8
  deriving DecidableEq, Repr

def DdrUnit.init : DdrUnit := ⟨[], [], 0, [], 0, [], [], none, 0⟩

/-! ### Formes -/

/-- What the lock-up machinery holds beside the forme registers (R238 to R246). -/
structure FormeUnit where
  /-- Two formes are in force, from a lock-up until the old tag is EMPTY (R242). -/
  overlap : Bool
  /-- RESV of each tag's forme (R254). -/
  resv0 : Nat
  resv1 : Nat
  /-- The terms of R249 of each evaluated record, in 100 ps, by 4,096 * tag + record (ADM_TERM). -/
  terms : Tbl (List Nat)
  deriving DecidableEq, Repr

def FormeUnit.init : FormeUnit := ⟨false, 0, 0, []⟩

/-! ### The host interface -/

/-- One frame in a ring's punt queue: the frame and the reason, with the moment's header (R316). -/
structure PuntRef where
  frame : Nat
  reason : Nat
  deriving DecidableEq, Repr

/-- A TX_FRAME descriptor in progress: its frame and request, and whether the pool's last answer was NONE (R47, R317);
or its cells are freed, and its write-back with POOL waits for word 1 (R325). -/
inductive Inject where
  | frame (i : Nat) (request : W64) (refused : Bool)
  | pool
  deriving DecidableEq, Repr

/-- What the endpoint's error reporting holds (R300, R331, R333): the Uncorrectable and Correctable Error Status and the
header of the first uncorrectable error. -/
structure AerState where
  uncorrectable : W32
  correctable : W32
  header : BitVec 128
  deriving DecidableEq, Repr

/-- The configuration as a reset leaves it: 128 and 512 bytes, Relaxed Ordering on, all else off (PRESUMED from PCI
Express, log entry 31). -/
def pcieReset : PcieConfig := ⟨0, 2, false, true, 0, false, false, false⟩

structure HostUnit where
  /-- The PCIe data link layer is up. -/
  linkUp : Bool
  /-- Bus Master Enable (R329). -/
  bme : Bool
  d3hot : Bool
  /-- Log2 of the BAR2 size in bytes (R302, R306). -/
  bar2Log : Nat
  /-- Punt queues by ring, oldest first (R316). -/
  punt : Tbl (List PuntRef)
  /-- Rings that read word 1 of CUR again (R321). -/
  reread : List Nat
  /-- The TX_FRAME descriptor that a ring has in progress beyond its fetch. -/
  inject : Tbl (Option Inject)
  /-- The code with which a channel in STOPPING will stop (R325, R326). -/
  stopping : Tbl (Option Nat)
  /-- Bytes that stream sources have handed to each RX_STREAM ring, one list per stream (R320, R371). -/
  stream : Tbl (List (List Byte))
  /-- Transaction tags that may be in quarantine (R328). -/
  quarantine : BitVec 1024
  /-- Rings whose IRQ_HOLD runs, and rings with a completion held back by it (R332). -/
  holdRun : List Nat
  holdPend : List Nat
  cfg : PcieConfig
  aer : AerState
  deriving DecidableEq, Repr

/-- The host interface at reset: the link down, BAR2 of 1 GiB (R302). -/
def HostUnit.init : HostUnit :=
  ⟨false, false, false, 30, [], [], [], [], [], 0, [], [], pcieReset, ⟨0, 0, 0⟩⟩

/-! ### The command unit -/

/-- A block in the command queue (R280): its source and words, the role that its source had when it entered, its ring
slot for a PCIe block, and the port and address that a command frame came from. -/
structure CmdBlock where
  source : Nat
  words : List W64
  role : Nat
  slot : Nat
  reply : Option (Nat × Nat)
  /-- A reset of the host interface came after it: its completion is not written to host memory (R304). -/
  mute : Bool
  deriving DecidableEq, Repr

/-- The command unit (R276 to R296). Result buffers are the CMD_RESULT registers. -/
structure CmdUnit where
  queue : List CmdBlock
  /-- The record and result words of the last instruction executed outside a block (log entry 29). -/
  last : List W64
  deriving DecidableEq, Repr

def CmdUnit.init : CmdUnit := ⟨[], []⟩

/-! ### Starting and trusting -/

/-- The states of the start state machine (R430). -/
inductive StartMode where
  | cold
  | warm
  | running
  | safeHold
  | stopped
  deriving DecidableEq, Repr

/-- One OTP key slot (R437). -/
structure KeySlot where
  programmed : Bool
  revoked : Bool
  hash : Nat
  deriving DecidableEq, Repr

/-- What the maker and the board maker wrote into OTP and ROM (R4, R31, R302, R437, R443, R444). -/
structure Otp where
  chipId : W32
  macBase : Nat
  serial : Nat
  keys : List KeySlot
  errataKey : Nat
  idModulus : Nat
  idExponent : Nat
  cert : List Byte
  rom : List Byte
  /-- Subsystem Vendor ID and Subsystem ID (R302). -/
  subVendor : BitVec 16
  subId : BitVec 16
  deriving DecidableEq, Repr

/-- The image that runs (R436, R446). -/
structure RunImage where
  recovery : Bool
  keySlot : Nat
  version : Nat
  hash : Nat
  board : List (Nat × Nat)
  /-- Signed-byte hashes of the applied errata sheets, in order (R446). -/
  sheets : List Nat
  deriving DecidableEq, Repr

structure BootUnit where
  mode : StartMode
  /-- A start runs and has not reached READY (R422): one that hangs until its watchdog (R429, log entry 60). -/
  starting : Bool
  /-- What the environment contributes to the start that hangs. -/
  facts : Option StartFacts
  /-- RESET_N is low. -/
  resetLow : Bool
  /-- PERST_N is low. -/
  perstLow : Bool
  /-- The straps as last driven at a start: MGMT_EN, HOST_EN, I2C_ADDR1, I2C_ADDR0. -/
  straps : BitVec 4
  /-- The I2C address latched at RESET_N release (R468). -/
  i2cAddr : Nat
  otp : Otp
  qspi : Memory
  /-- The QSPI operation that runs: OP, LEN and ADDR (R449). -/
  qspiOp : Option (Nat × Nat × Nat)
  /-- The key operation that runs: OP and slot (R437). -/
  keyOp : Option (Nat × Nat)
  /-- The nonce and the measurements sampled at GO (R445). -/
  attest : Option (List Byte)
  run : Option RunImage
  /-- The cycle of the last coarse calibration of the lanes, which a cold start makes (R22). -/
  calib : Option Nat
  /-- Starts since power-on (R446). -/
  starts : Nat
  /-- The forme hash when valid (R447), and whether it is being computed. -/
  formeHash : Option Nat
  formeHashBusy : Bool
  /-- A rail left its tolerance and holds the device in reset (R471). -/
  railFault : Bool
  /-- The last start failed (R448). -/
  lastFailed : Bool
  deriving DecidableEq, Repr

/-- OTP at reset: the chip number of a shipping PHV-5128-25IF (DESIGN CHOICE, log entry 3), key slot 0 programmed at
manufacture and slots 1 to 3 left for the board maker (R437), and the maker's own numbers, which are open. -/
def Otp.init : Otp :=
  { chipId := 0x51281120, macBase := Config.otpMacBase, serial := Config.otpSerial
    keys := [⟨true, false, Config.otpKeyHash⟩, ⟨false, false, 0⟩, ⟨false, false, 0⟩, ⟨false, false, 0⟩]
    errataKey := Config.otpErrataKey, idModulus := Config.otpIdModulus, idExponent := Config.otpIdExponent
    cert := Config.otpCert.take 2048, rom := Config.otpRom, subVendor := 0x1FD7, subId := 0 }

/-- Power-on: RESET_N and PERST_N low, straps low, the QSPI device erased (DESIGN CHOICE, log entries 3 and 4). -/
def BootUnit.init : BootUnit := 
  { mode := .cold, starting := false, facts := none, resetLow := true, perstLow := true, straps := 0, i2cAddr := 0, otp := Otp.init, qspi := []
    qspiOp := none, keyOp := none, attest := none, run := none, calib := none, starts := 0, formeHash := none, formeHashBusy := false
    railFault := false, lastFailed := false }

/-! ### The whole block -/

structure State where
  /-- BAR0 registers, by offset (R458); unlisted ones hold their reset value `regReset`. -/
  regs : Tbl W64
  time : TimeUnit
  ports : Tbl PortState
  frames : Tbl (Option Frame)
  /-- The next frame's number (the model's own naming). -/
  nextFrame : Nat
  gal : Galley
  comps : Tbl CompState
  cases : Tbl CaseState
  /-- Recirculation paths by region, oldest first (R126). -/
  recirc : Tbl (List Nat)
  /-- Frames of each region whose SECOND was handed over and whose pass-record cell is not yet granted (R126). -/
  recircWait : Tbl (List Nat)
  /-- Program images by forme tag (R76). -/
  images : Tbl Image
  queues : Tbl EgrQueue
  egr : Tbl EgrPort
  /-- Timetable entries: 2,048 per port, 1,024 per tag (R219). -/
  ttWords : Tbl W64
  ledger : LedgerUnit
  watch : WatchUnit
  ddr : DdrUnit
  arc : ArcUnit
  wbl : WblUnit
  forme : FormeUnit
  host : HostUnit
  cmd : CmdUnit
  flt : FaultUnit
  pwr : PowerUnit
  boot : BootUnit
  /-- What has left the block, oldest first. -/
  out : List Emission
  /-- The number of the next free value (log entry 2). -/
  free : Nat
  /-- The commands that wait, first in first out. -/
  pending : List Instr
  deriving DecidableEq, Repr

/-- The block right after power-on, RESET_N low: every register at its reset value, nothing received, nothing queued. -/
def State.reset : State :=
  { regs := [], time := .init, ports := [], frames := [], nextFrame := 0, gal := .init, comps := [], cases := []
    recirc := [], recircWait := [], images := [], queues := [], egr := [], ttWords := [], ledger := .init
    watch := .init, ddr := .init, arc := .init, wbl := .init, forme := .init, host := .init, cmd := .init, flt := .init
    pwr := .init, boot := .init, out := [], free := 0, pending := [] }

end Sys2Proof.Machine
end

