-- ==== Sys2Proof/Machine/Ops.lean ====
section
/-! DEFINITION. The named operations every unit uses: registers and their fields, counters, first-recorded logs, event
sources and their MSI-X messages, the outbox, free values, time, and which units are fenced. -/

namespace Sys2Proof.Machine

/-! ### Registers -/

/-- The stored value of the register at `off`. -/
def State.reg (s : State) (off : Nat) : W64 := tget regReset s.regs off

/-- Store a register. -/
def State.setReg (s : State) (off : Nat) (v : W64) : State := { s with regs := tput regReset s.regs off v }

/-- A field of a register, as a number. -/
def State.fld (s : State) (f : Fld) : Nat := bitsOf (s.reg f.off) f.hi f.lo

/-- A one-bit field. -/
def State.flag (s : State) (f : Fld) : Bool := s.fld f != 0

/-- Set a field. -/
def State.setFld (s : State) (f : Fld) (n : Nat) : State := s.setReg f.off (setBits (s.reg f.off) f.hi f.lo n)

/-- Set a one-bit field. -/
def State.setFlag (s : State) (f : Fld) (b : Bool) : State := s.setFld f (b2n b)

/-- Add to a 64-bit counter; it wraps. -/
def State.countN (s : State) (off n : Nat) : State := s.setReg off (s.reg off + w64 n)

/-- Add one to a counter. -/
def State.count (s : State) (off : Nat) : State := s.countN off 1

/-- The rule of every first-recorded log: VALID in bit `vbit`, OVF just below. While VALID = 1 a further record only
sets OVF; else the record is taken. -/
def State.logFirst (s : State) (off vbit : Nat) (rec : Nat) : State :=
  if bitOf (s.reg off) vbit then s.setReg off (s.reg off ||| w64 (2 ^ (vbit - 1)))
  else s.setReg off (w64 (2 ^ vbit + b2n (bitOf (s.reg off) (vbit - 1)) * 2 ^ (vbit - 1) + rec))

/-! ### The outbox and free values -/

def State.emit (s : State) (e : Emission) : State := { s with out := s.out ++ [e] }

/-- Take the next free value of `w` bits (log entry 2). -/
def State.takeFree (s : State) (w : Nat) : BitVec w × State := (Config.freeValue w s.free, { s with free := s.free + 1 })

/-- `n` free bytes. -/
def State.freeBytes (s : State) (n : Nat) : List Byte × State :=
  let (v, t) := s.takeFree (8 * n)
  (toLE n v.toNat, t)

/-! ### Units -/

def State.port (s : State) (p : Nat) : PortState := tget (fun _ => PortState.init) s.ports p
def State.setPort (s : State) (p : Nat) (v : PortState) : State :=
  { s with ports := tput (fun _ => PortState.init) s.ports p v }
def State.frame (s : State) (i : Nat) : Option Frame := tget (fun _ => none) s.frames i
def State.setFrame (s : State) (i : Nat) (f : Frame) : State :=
  { s with frames := tput (fun _ => none) s.frames i (some f) }
def State.dropFrame (s : State) (i : Nat) : State := { s with frames := tput (fun _ => none) s.frames i none }
def State.modFrame (s : State) (i : Nat) (g : Frame → Frame) : State :=
  match s.frame i with
  | some f => s.setFrame i (g f)
  | none => s
def State.comp (s : State) (c : Nat) : CompState := tget (fun _ => CompState.init) s.comps c
def State.setComp (s : State) (c : Nat) (v : CompState) : State :=
  { s with comps := tput (fun _ => CompState.init) s.comps c v }
def State.caseOf (s : State) (c : Nat) : CaseState := tget (fun _ => CaseState.init) s.cases c
def State.setCase (s : State) (c : Nat) (v : CaseState) : State :=
  { s with cases := tput (fun _ => CaseState.init) s.cases c v }
def State.path (s : State) (r : Nat) : List Nat := tget (fun _ => []) s.recirc r
def State.setPath (s : State) (r : Nat) (v : List Nat) : State := { s with recirc := tput (fun _ => []) s.recirc r v }
def State.waitPass (s : State) (r : Nat) : List Nat := tget (fun _ => []) s.recircWait r
def State.setWaitPass (s : State) (r : Nat) (v : List Nat) : State :=
  { s with recircWait := tput (fun _ => []) s.recircWait r v }
def State.image (s : State) (t : Nat) : Image := tget (fun _ => Image.init) s.images t
def State.setImage (s : State) (t : Nat) (v : Image) : State :=
  { s with images := tput (fun _ => Image.init) s.images t v }
def State.queue (s : State) (q : Nat) : EgrQueue := tget (fun _ => EgrQueue.init) s.queues q
def State.setQueue (s : State) (q : Nat) (v : EgrQueue) : State :=
  { s with queues := tput (fun _ => EgrQueue.init) s.queues q v }
def State.egrPort (s : State) (p : Nat) : EgrPort := tget (fun _ => EgrPort.init) s.egr p
def State.setEgr (s : State) (p : Nat) (v : EgrPort) : State :=
  { s with egr := tput (fun _ => EgrPort.init) s.egr p v }
def State.ttWord (s : State) (p t e : Nat) : W64 := tget (fun _ => 0) s.ttWords (2048 * p + 1024 * t + e)
def State.setTtWord (s : State) (p t e : Nat) (v : W64) : State :=
  { s with ttWords := tput (fun _ => 0) s.ttWords (2048 * p + 1024 * t + e) v }

/-! ### Time -/

/-- Time-base units in one ns (R260): 5 * 2^40. -/
def tbNs : Nat := 5497558138880

/-- One unit of a stamp, 2^-16 ns, in time-base units. -/
def tbFrac : Nat := 83886080

/-- The time base wraps after 2^48 seconds (R260). -/
def tbWrap : Nat := 2 ^ 48 * 1000000000 * tbNs

/-- The time base as a stamp, in units of 2^-16 ns. -/
def State.stamp (s : State) : Stamp := s.time.now / tbFrac

def stampSec (t : Stamp) : Nat := t / 65536 / 1000000000 % 2 ^ 48
def stampNs (t : Stamp) : Nat := t / 65536 % 1000000000
def stampFrac (t : Stamp) : Nat := t % 65536

/-- A stamp from its parts. -/
def mkStamp (sec ns frac : Nat) : Stamp := (sec * 1000000000 + ns) * 65536 + frac

/-- The time base in whole ns. -/
def State.nowNs (s : State) : Nat := s.time.now / tbNs

/-- Elapsed ns since the model began (log entry 5). -/
def State.elapsedNs (s : State) : Nat := s.time.cycles * 8 / 5

/-- The full timestamp of a committed frame, rebuilt from the low 8 bits of its seconds (R52). -/
def State.rebuiltStamp (s : State) (t : Stamp) : Stamp :=
  let nowSec := stampSec s.stamp
  let low := stampSec t % 256
  let sec :=
    if low ≤ nowSec % 256 then nowSec - nowSec % 256 + low
    else if 256 ≤ nowSec then nowSec - nowSec % 256 - 256 + low
    else low
  mkStamp sec (stampNs t) (stampFrac t)

/-! ### Events and MSI-X messages (R459 to R464, R332) -/

/-- The vector of source `n`. -/
def State.evtVector (s : State) (n : Nat) : Nat := bitsOf (s.reg (R.EVT_TARGET n)) 5 0

/-- The sources of group `g` that assert (R460). -/
def State.asserting (s : State) (g : Nat) : W64 := s.reg (R.EVT_LATCH g) &&& s.reg (R.EVT_ENABLE g)

/-- Whether some asserting source satisfies `test` (R460, R461). -/
def State.someAsserting (s : State) (test : Nat → Bool) : Bool :=
  (List.range 48).any fun g =>
    let a := s.asserting g
    a != 0 && (List.range 32).any fun b => bitOf a b && test (32 * g + b)

/-- The level of vector `v` (R460). -/
def State.vecLevel (s : State) (v : Nat) : Bool := s.someAsserting fun n => s.evtVector n == v

/-- IRQ_N is driven low (R461). -/
def State.irqLow (s : State) : Bool := s.someAsserting fun n => bitOf (s.reg (R.EVT_TARGET n)) 31

/-- Whether vector `v`'s message may be sent now: unmasked, Bus Master Enable set, not in D3hot, not frozen, link up
(R329, R332, R333). -/
def State.msixOpen (s : State) (v : Nat) : Bool :=
  s.host.linkUp && s.host.bme && !s.host.d3hot && !s.flag F.HST_STATUS_FROZEN && !s.flag (F.MSIX_CTRL_MASK v)

/-- Send vector `v`'s message, or keep it in the PBA (R460, R332). -/
def State.signalVec (s : State) (v : Nat) : State :=
  if s.msixOpen v then s.emit (.msix v)
  else s.setReg R.MSIX_PBA (s.reg R.MSIX_PBA ||| w64 (2 ^ v))

/-- Send the message of every vector whose level is 1 in `s` and was 0 in `before` (R460, R462). -/
def State.signalRises (s before : State) : State :=
  (List.range 64).foldl (fun t v => if s.vecLevel v && !before.vecLevel v then t.signalVec v else t) s

/-- Send what waits in the PBA and may be sent now (R332). -/
def State.flushPba (s : State) : State :=
  (List.range 64).foldl (fun t v =>
    if bitOf (t.reg R.MSIX_PBA) v && t.msixOpen v then
      (t.setReg R.MSIX_PBA (t.reg R.MSIX_PBA &&& ~~~ w64 (2 ^ v))).emit (.msix v)
    else t) s

/-- Set LATCH of source `n`; an enabled source that did not assert may raise its vector's level (R460). -/
def State.raise (s : State) (n : Nat) : State :=
  let g := n / 32
  let bit := w64 (2 ^ (n % 32))
  let latch := s.reg (R.EVT_LATCH g)
  let t := s.setReg (R.EVT_LATCH g) (latch ||| bit)
  if (latch &&& bit) = 0 ∧ (s.reg (R.EVT_ENABLE g) &&& bit) ≠ 0 then
    if s.vecLevel (s.evtVector n) then t else t.signalVec (s.evtVector n)
  else t

/-- Set LATCH of bit `b` in group `g`. -/
def State.raiseG (s : State) (g b : Nat) : State := s.raise (32 * g + b)

/-- Port p's source k (R36). -/
def State.raisePort (s : State) (p k : Nat) : State := s.raise (6 * p + k)

/-- Compositor c's source k (R99). -/
def State.raiseComp (s : State) (c k : Nat) : State := s.raiseG (24 + c / 16) (2 * (c % 16) + k)

/-- Case c's source k (R99). -/
def State.raiseCase (s : State) (c k : Nat) : State := s.raiseG (32 + c / 8) (4 * (c % 8) + k)

/-- Region r's source k (R130). -/
def State.raiseRegion (s : State) (r k : Nat) : State := s.raiseG (34 + r / 4) (8 * (r % 4) + k)

/-- The device is held in reset: RESET_N is low, or a rail is out of tolerance (R471). -/
def State.held (s : State) : Bool := s.boot.resetLow || s.boot.railFault

/-! ### Fenced units (R402 to R405) -/

/-- Whether the unit of this SOURCE is itself fenced. -/
def State.fencedSrc (s : State) (src : Nat) : Bool := s.flt.fenced.contains src

def State.regionFenced (s : State) (r : Nat) : Bool := s.fencedSrc (0x580 + r)
def State.caseFenced (s : State) (c : Nat) : Bool := s.fencedSrc (0x540 + c) || s.regionFenced (c / 2)
def State.compFenced (s : State) (c : Nat) : Bool := s.fencedSrc c || s.caseFenced (c / 8)
def State.laneFenced (s : State) (p : Nat) : Bool :=
  s.fencedSrc (0x80 + p) || s.fencedSrc (0x550 + p / 4) || s.regionFenced (p / 16)
def State.qgFenced (s : State) (p cg : Nat) : Bool := s.fencedSrc (0x100 + 8 * p + cg) || s.regionFenced (p / 16)
def State.bankFenced (s : State) (b : Nat) : Bool := bitOf s.gal.fenced b

/-- The units that contain the unit of a SOURCE, nearest first: (SOURCE, level) (R8, R402). -/
def containers (src : Nat) : List (Nat × Nat) :=
  if src < 0x80 then [(0x540 + src / 8, 3), (0x580 + src / 16, 4)]
  else if src < 0x100 then [(0x550 + (src - 0x80) / 4, 3), (0x580 + (src - 0x80) / 16, 4)]
  else if src < 0x500 then [(0x580 + (src - 0x100) / 128, 4)]
  else if src < 0x520 then [(0x570 + (src - 0x500) / 4, 3)]
  else if src < 0x53a then []
  else if 0x540 ≤ src ∧ src < 0x550 then [(0x580 + (src - 0x540) / 2, 4)]
  else if 0x550 ≤ src ∧ src < 0x570 then [(0x580 + (src - 0x550) / 4, 4)]
  else []

/-- The level of the unit of a SOURCE: 2 hardware cell, 3 block, 4 region, 5 chip (R8, R10). -/
def unitLevel (src : Nat) : Nat :=
  if src < 0x53a then 2
  else if 0x540 ≤ src ∧ src < 0x578 then 3
  else if 0x580 ≤ src ∧ src < 0x588 then 4
  else 5

/-- Whether R398 lists the SOURCE. -/
def sourceValid (src : Nat) : Bool :=
  decide (src < 0x53a) || (decide (0x540 ≤ src) && decide (src < 0x578)) ||
  (decide (0x580 ≤ src) && decide (src < 0x588)) || (decide (0x600 ≤ src) && decide (src ≤ 0x611))

/-- The region of a unit, if it belongs to one (R416). -/
def regionOf (src : Nat) : Option Nat :=
  if src < 0x80 then some (src / 16)
  else if src < 0x100 then some ((src - 0x80) / 16)
  else if src < 0x500 then some ((src - 0x100) / 128)
  else if 0x540 ≤ src ∧ src < 0x550 then some ((src - 0x540) / 2)
  else if 0x550 ≤ src ∧ src < 0x570 then some ((src - 0x550) / 4)
  else if 0x580 ≤ src ∧ src < 0x588 then some (src - 0x580)
  else none

/-! ### Formes, as registers hold them (R258) -/

/-- The state of tag `t`: 0 EMPTY, 1 STAGED, 2 CHECKING, 3 ACTIVE, 4 DRAINING, 5 RELEASING (R238, R258). -/
def State.tagState (s : State) (t : Nat) : Nat := s.fld (if t = 0 then F.FRM_STATUS_STATE0 else F.FRM_STATUS_STATE1)
def State.setTagState (s : State) (t n : Nat) : State :=
  s.setFld (if t = 0 then F.FRM_STATUS_STATE0 else F.FRM_STATUS_STATE1) n

/-- The active tag, if a forme is active. -/
def State.activeTag (s : State) : Option Nat :=
  if s.flag F.FRM_STATUS_VALID then some (s.fld F.FRM_STATUS_ACTIVE_TAG) else none

/-- Whether class `c` is an admitted class of tag `t`'s forme (ADM_CLASSES). -/
def State.admClass (s : State) (t c : Nat) : Bool := bitOf (s.reg (R.FRM_PARAM_CLS t)) c

/-- The formes in force: the active one and, while it is not yet EMPTY after a lock-up, the old one (R242). -/
def State.inForce (s : State) : List Nat :=
  match s.activeTag with
  | some a => if s.forme.overlap then [a, 1 - a] else [a]
  | none => []

/-- Word `w` of declaration record `i` of tag `t` (R247). -/
def State.decl (s : State) (t i w : Nat) : W64 := s.reg (R.FRM_DECL t i w)

/-- The number of declaration records of tag `t`. -/
def State.ndecl (s : State) (t : Nat) : Nat := s.fld (F.FRM_PARAM_CLS_NDECL t)

/-- Whether port `p` is an admitted port of tag `t`'s forme: some valid record names it as IN_PORT (R237, R247). -/
def State.admittedPort (s : State) (t p : Nat) : Bool :=
  (List.range (s.ndecl t)).any fun i => bitOf (s.decl t i 0) 63 && bitsOf (s.decl t i 0) 46 40 == p

/-- Whether port `p` is the ingress or egress port of an admitted stream of tag `t`'s forme (R21). -/
def State.streamPort (s : State) (t p : Nat) : Bool :=
  (List.range (s.ndecl t)).any fun i =>
    bitOf (s.decl t i 0) 63 && (bitsOf (s.decl t i 0) 46 40 == p || bitsOf (s.decl t i 0) 39 33 == p)

/-- RESERVE of case `c` in force: the larger of the formes in force, up to 8; a case takes over its fenced neighbour's
(R242, R407). -/
def State.ownReserve (s : State) (c : Nat) : Nat :=
  min 8 ((s.inForce.map fun t => s.fld (F.FRM_CASE_CFG_RESERVE t c)).foldl max 0)

def State.effReserve (s : State) (c : Nat) : Nat :=
  let other := if c % 2 = 0 then c + 1 else c - 1
  let free := ((List.range 8).filter fun i => !s.compFenced (8 * c + i)).length
  if s.caseFenced other then min free (s.ownReserve c + s.ownReserve other) else s.ownReserve c

/-- SLEEP of case `c` in force (R242, R407). -/
def State.effSleep (s : State) (c : Nat) : Bool :=
  let other := if c % 2 = 0 then c + 1 else c - 1
  !s.caseFenced other && !s.inForce.isEmpty && s.inForce.all fun t => s.flag (F.FRM_CASE_CFG_SLEEP t c)

/-- FLOOR of case `c` in force, coded as POINT: the higher (R242). -/
def State.effFloor (s : State) (c : Nat) : Nat :=
  (s.inForce.map fun t => s.fld (F.FRM_CASE_CFG_FLOOR t c)).foldl max 0

/-- RC_BE_BYTES in force: the smaller, and 0 from shed step 5 on (R242, R389). -/
def State.rcBeBytes (s : State) : Nat :=
  if 5 ≤ s.pwr.step then 0
  else (s.inForce.map fun t => s.fld (F.FRM_PARAM_RC_RC_BE_BYTES t)).foldl min 65535

end Sys2Proof.Machine
end

