-- ==== Sys2Proof/Machine/Rholo.lean ====
section
/-! DEFINITION. The Rholo image: its header, section table and the three checks before anything of it is used (R433 to
R436). -/

namespace Sys2Proof.Machine

/-- Why an image is not accepted: CAUSE and DETAIL of R429. -/
structure ImageFail where
  cause : Nat
  detail : Nat
  deriving DecidableEq, Repr

/-- KIND, OFFSET and LENGTH of the sections of an image (R435). -/
def imageSections (img : List Byte) : List (Nat × Nat × Nat) :=
  (List.range (beAt img 7 1)).map fun i =>
    (beAt img (64 + 16 * i) 1, beAt img (64 + 16 * i + 4) 4, beAt img (64 + 16 * i + 8) 4)

/-- The bytes of the first section of a KIND. -/
def imageSection (img : List Byte) (kind : Nat) : Option (List Byte) :=
  ((imageSections img).find? (fun x => x.1 == kind)).map fun x => bytesAt img x.2.1 x.2.2

/-- How many sections of KIND `k` an image of a TYPE carries: least and most (R435). -/
def sectionCount (type k : Nat) : Nat × Nat :=
  match type, k with
  | 1, 1 => (1, 1) | 1, 2 => (0, 1) | 1, 3 => (1, 1)
  | 2, 1 => (1, 1) | 2, 2 => (0, 1)
  | 3, 4 => (1, 1)
  | 4, 5 => (1, 1)
  | _, _ => (0, 0)

/-- The offset of the first byte that breaks R434 or R435, for an image that must have TYPE `type` in a slot of
`room` bytes on the part `chipId`. -/
def imageBad (chipId : W32) (type room : Nat) (img : List Byte) : Option Nat :=
  let total := beAt img 8 4
  let nsect := beAt img 7 1
  let secs := imageSections img
  let idx := List.range nsect
  let secBad : List (Bool × Nat) := idx.flatMap fun i =>
    let o := 64 + 16 * i
    let x := secs.getD i (0, 0, 0)
    [(decide (((secs.take (i + 1)).filter (fun y => y.1 == x.1)).length ≤ (sectionCount type x.1).2), o),
     (decide (bytesAt img (o + 1) 3 = [0, 0, 0]), o + 1),
     (decide (x.2.1 % 16 = 0), o + 4),
     ((secs.take i).all fun y => decide (x.2.1 + x.2.2 ≤ y.2.1 ∨ y.2.1 + y.2.2 ≤ x.2.1), o + 4),
     (decide (x.2.1 + x.2.2 + 1024 ≤ total) && (x.1 != 3 || x.2.2 == 65536), o + 8),
     (decide (bytesAt img (o + 12) 4 = [0, 0, 0, 0]), o + 12)]
  let checks : List (Bool × Nat) :=
    [(beAt img 0 4 == 0x52484C4F, 0), (beAt img 4 1 == 1, 4), (beAt img 5 1 == type, 5),
     (decide (beAt img 6 1 ≤ 3), 6),
     (decide (1 ≤ nsect) && decide (nsect ≤ 16) &&
       (List.range 6).all (fun k => decide ((sectionCount type k).1 ≤ (secs.filter (fun y => y.1 == k)).length)), 7),
     (total % 16 == 0 && decide (1088 ≤ total) && decide (total ≤ room), 8),
     (beAt img 16 1 == bitsOf chipId 15 8 || beAt img 16 1 == 0xFF, 16),
     (bitOf (byteAt img 17) (bitsOf chipId 7 4), 17),
     (decide (bytesAt img 18 46 = List.replicate 46 0), 18)]
  let bad := ((checks ++ secBad).filter (fun c => !c.1)).map Prod.snd
  bad.foldl (fun m o => match m with
    | none => some o
    | some x => some (min x o)) none

/-- The three checks of R436 on the bytes of a slot: the image itself when it is accepted, else why not. `errata` is
what a SIGNATURE failure names. -/
def imageCheck (otp : Otp) (type room errata : Nat) (slot : List Byte) : Except ImageFail (List Byte) :=
  match imageBad otp.chipId type room slot with
  | some o => .error ⟨0x04, o / 256⟩
  | none =>
    let total := beAt slot 8 4
    let img := bytesAt slot 0 total
    let sig := img.drop (total - 1024)
    let keySlot := beAt img 6 1
    let key := otp.keys.getD keySlot ⟨false, false, 0⟩
    if beNat (sha256 (sig.take 388)) ≠ key.hash ∨ key.programmed = false ∨ key.revoked = true then .error ⟨0x05, keySlot⟩
    else if beAt sig 384 4 = 65537 ∧
        pssVerify (beAt sig 0 384) 65537 (img.take (total - 384)) (beAt sig 640 384) = true then .ok img
    else .error ⟨0x06, errata⟩

/-- The bytes of a QSPI slot (R433): primary 0, recovery 1, errata 2 + n. Unwritten flash reads 0xFF (log entry 4). -/
def State.qspiSlot (s : State) (n : Nat) : List Byte :=
  let (off, len) := if n = 0 then (0, 12582912) else if n = 1 then (0xD00000, 3145728) else (0xC00000 + 131072 * (n - 2), 131072)
  let head := Memory.readN 0xFF s.boot.qspi off 64
  Memory.readN 0xFF s.boot.qspi off (min len (max 64 (beAt head 8 4)))

/-- The size of a slot. -/
def slotRoom (n : Nat) : Nat := if n = 0 then 12582912 else if n = 1 then 3145728 else 131072

end Sys2Proof.Machine
end

