-- ==== Sys2Proof/Machine/FaultOps.lean ====
section
/-! DEFINITION. Reporting a fault: level, escalation, record, events, and the fence or safe hold that answers it (R395 to
R411, R431, R390). -/

namespace Sys2Proof.Machine

/-- The base level of a class (R400); INJECTED, PLL_LOCK and BIST carry their own. -/
def baseLevel (kind : Nat) : Nat :=
  match kind with
  | 0x01 => 2 | 0x10 => 2 | 0x11 => 2 | 0x12 => 1 | 0x13 => 2 | 0x14 => 2 | 0x15 => 2 | 0x16 => 3 | 0x17 => 4
  | 0x20 => 1 | 0x21 => 1 | 0x22 => 2 | 0x30 => 1 | 0x31 => 2 | 0x38 => 1 | 0x39 => 0 | 0x40 => 1 | 0x41 => 1
  | 0x42 => 2 | 0x48 => 1 | 0x49 => 2 | 0x50 => 2 | 0x58 => 2 | 0x60 => 5 | 0x61 => 4 | 0x62 => 5 | 0x68 => 1
  | 0x69 => 1 | 0x6A => 5
  | _ => 0

/-- Whether the unit, or one that contains it, is fenced or being fenced (R404; a fence counts from its decision: log
entry 17). -/
def State.silenced (s : State) (src : Nat) : Bool :=
  (src :: (containers src).map Prod.fst).any fun x =>
    s.flt.fenced.contains x || (s.flt.fencing.map Prod.fst).contains x

/-- Word 0 of log slot `k`. -/
def State.logWord0 (s : State) (k : Nat) : W64 := s.reg (R.FLT_LOG k 0)

/-- The highest LEVEL among unacknowledged records of the same SOURCE and KIND, if there is one (R401). -/
def State.unackedLevel (s : State) (src kind : Nat) : Option Nat :=
  (List.range 256).foldl (fun m k =>
    let w := s.logWord0 k
    if bitOf w 63 && !bitOf w 62 && bitsOf w 51 40 == src && bitsOf w 39 32 == kind then
      some (max (m.getD 0) (bitsOf w 58 56))
    else m) none

/-- The slot that a new record takes (R410). -/
def State.logSlot (s : State) : Option Nat :=
  let head := s.fld F.FLT_STATUS_HEAD
  let open_ := fun k => !bitOf (s.logWord0 k) 63 || bitOf (s.logWord0 k) 61
  if open_ head then some head
  else (List.range 256).foldl (fun m k =>
    if bitOf (s.logWord0 k) 61 then
      match m with
      | none => some k
      | some j => if bitsOf (s.logWord0 k) 31 0 < bitsOf (s.logWord0 j) 31 0 then some k else some j
    else m) none

/-- Write a record (R409, R410), or drop it. -/
def State.writeRecord (s : State) (src kind level base addr : Nat) (coded esc : Bool) : State :=
  match s.logSlot with
  | none =>
    ((s.count R.FLT_C_LOG_DROPPED).setFlag F.FLT_STATUS_LOST true).raiseG 47 4
  | some k =>
    let seq := s.flt.seq + 1
    let quiet := level == 0
    let w0 := 2 ^ 63 + b2n quiet * 2 ^ 62 + b2n quiet * 2 ^ 61 + b2n esc * 2 ^ 59 + level * 2 ^ 56 + base * 2 ^ 53 +
      b2n coded * 2 ^ 52 + src * 2 ^ 40 + kind * 2 ^ 32 + seq % 2 ^ 32
    let t := { s with flt := { s.flt with seq := seq } }
    let t := (t.setReg (R.FLT_LOG k 0) (w64 w0)).setReg (R.FLT_LOG k 1) (w64 (stampSec s.stamp * 2 ^ 16))
    let t := (t.setReg (R.FLT_LOG k 2) (w64 (stampNs s.stamp * 2 ^ 34))).setReg (R.FLT_LOG k 3) (w64 (addr % 2 ^ 40))
    let t := t.setFld F.FLT_STATUS_HEAD ((k + 1) % 256)
    let t := if quiet then t else t.raiseG 47 0
    let t := if kind = 0x01 then t.raiseG 47 3 else t
    match regionOf src with
    | some r => t.raiseRegion r 7
    | none => t

/-- The SOURCEs of the units that a fault of level 2 to 4 fences, with the level of the fence (R402). -/
def fenceTargets (src level : Nat) : List Nat :=
  if 0x600 ≤ src then (if src ≤ 0x609 ∧ src ≠ 0x600 then [src] else [])
  else if level ≤ unitLevel src then [src]
  else match (containers src).find? (fun c => c.2 == level) with
    | some c => [c.1]
    | none =>
      if 0x100 ≤ src ∧ src < 0x500 ∧ level = 3 then (List.range 8).map (fun i => src - src % 8 + i)
      else match (containers src).getLast? with
        | some c => [c.1]
        | none => [src]

/-- The recovery image is loaded under the checks of R436 (R431). -/
def State.loadRecovery (s : State) : State :=
  match imageCheck s.boot.otp 2 (slotRoom 1) 0 (s.qspiSlot 1) with
  | .ok img =>
    let t := { s with boot := { s.boot with
      run := some ⟨true, beAt img 6 1, beAt img 12 4, beNat (sha256 (img.take (img.length - 384))), [], []⟩ } }
    t.setFlag F.BOOT_STATUS_RECOVERY true
  | .error _ => ({ s with boot := { s.boot with run := none } }).setFlag F.BOOT_STATUS_RECOVERY false

/-- PRT_STATUS.SIGNAL. A receiver that loses its signal stops adapting, at the values it stands at (R22). -/
def State.setSignal (s : State) (p : Nat) (b : Bool) : State :=
  let stops := s.flag (F.PRT_STATUS_SIGNAL p) && !b && !s.flag (F.PRT_RX_EQ_FREEZE p)
  let t := s.setFlag (F.PRT_STATUS_SIGNAL p) b
  if stops then t.setPort p { t.port p with eqAt := some s.time.cycles } else t

/-- Every port DISABLED with its transmitter off and its link down (R431, R390). -/
def State.portsOff (s : State) : State :=
  (List.range 128).foldl (fun t p =>
    let t := (t.setFld (F.PRT_MODE_MODE p) 0).setFld (F.PRT_STATUS_ACTIVE_MODE p) 0
    let t := (((t.setFlag (F.PRT_STATUS_LINK_UP p) false).setFlag (F.PRT_STATUS_PCS_LOCK p) false).setFlag
      (F.PRT_STATUS_HOLDING p) false).setSignal p false
    t.setEgr p { t.egrPort p with wire := none, picked := none, preempted := none }) s

/-- Entering safe hold (R430, R431). -/
def State.enterSafeHold (s : State) : State :=
  let t := { s with boot := { s.boot with mode := .safeHold, starting := false } }
  (t.portsOff.loadRecovery).raiseG 47 19

/-- A thermal stop (R390): every transmitter off, every clock but the Watch domain's stopped. -/
def State.thermalStop (s : State) : State :=
  let t := { s with
    boot := { s.boot with mode := .stopped, starting := false }
    pwr := { s.pwr with tstop := true } }
  t.portsOff.setFlag F.PWR_STATUS_TSTOP_LAST true

/-- The unit is fenced or being fenced. -/
def State.fenceDecided (s : State) (src : Nat) : Bool :=
  s.flt.fenced.contains src || (s.flt.fencing.map Prod.fst).contains src

/-- The unit is the last control core in service (R402). -/
def State.lastCore (s : State) (src : Nat) : Bool :=
  let cores := [0x606, 0x607, 0x608, 0x609]
  cores.contains src && (cores.all fun x => x == src || s.fenceDecided x)

/-- Act on a fault's level (R399, R402). Safe hold ends only through a cold start, and a thermal stop at RESET_N
(R430), so a further fault of level 5 leaves either as it is (DEDUCED, log entry 120). -/
def State.answer (s : State) (src kind level : Nat) : State :=
  if kind = 0x6A then s.thermalStop
  else if level = 5 then
    if s.boot.mode = .safeHold ∨ s.boot.mode = .stopped then s
    else
      let t := if s.boot.starting then
          ({ s with boot := { s.boot with lastFailed := true } } : State).setReg R.BOOT_LAST (w64 (0x0C * 2 ^ 24 +
            s.fld F.BOOT_STATUS_STEP * 2 ^ 20 + b2n (s.boot.mode == .warm) * 2 ^ 16 + src))
        else s
      t.enterSafeHold
  else if 2 ≤ level then
    let new := ((fenceTargets src level).filter fun x => !s.fenceDecided x).map fun x => (x, level)
    { s with flt := { s.flt with fencing := s.flt.fencing ++ new } }
  else s

/-- A fault of the unit under self-test, or of a member of it, wins: the unfence ends and the fence stays (R412). -/
def State.spoilTest (s : State) (src : Nat) : State :=
  match s.flt.unfencing with
  | none => s
  | some u =>
    if u = src ∨ ((containers src).map Prod.fst).contains u = true then
      let t : State := { s with flt := { s.flt with unfencing := none } }
      ((t.setFlag F.FLT_UNFENCE_STATUS_BUSY false).setFld F.FLT_UNFENCE_STATUS_RESULT 3).raiseG 47 6
    else s

/-- A fault of a class arises in a unit (R399 to R404, R409, R410). `base` is its base level. -/
def State.faultAt (s : State) (src kind base addr : Nat) (coded : Bool) : State :=
  let quiet := s.silenced src
  let prev := if quiet ∨ base = 0 then none else s.unackedLevel src kind
  let level := if quiet then 0 else
    match prev with
    | some l => min 5 (l + 1)
    | none => base
  let level := if 2 ≤ level ∧ s.lastCore src then 5 else level
  let t := s.count R.FLT_C_FAULTS
  let t := if kind = 0x01 then t.count R.FLT_C_WIRE_FAULTS else t
  let t := t.writeRecord src kind level base addr coded prev.isSome
  let t := if prev.isSome then (t.count R.FLT_C_ESCALATIONS).raiseG 47 1 else t
  (t.answer src kind level).spoilTest src

/-- A fault at its class's base level. -/
def State.fault (s : State) (src kind addr : Nat) (coded : Bool) : State := s.faultAt src kind (baseLevel kind) addr coded

/-- Whether an uncleared record of level 1 or more exists (R413, R415). -/
def State.unclearedFault (s : State) : Bool :=
  (List.range 256).any fun k =>
    let w := s.logWord0 k
    bitOf w 63 && !bitOf w 61 && bitsOf w 58 56 != 0

/-- FAULT_N is driven low (R413). -/
def State.faultNLow (s : State) : Bool :=
  !s.held && (s.unclearedFault || s.flag F.FLT_STATUS_LOST || s.boot.mode == .safeHold || s.pwr.tstop ||
    s.flag F.FLT_CTRL_FORCE)

end Sys2Proof.Machine
end

