-- ==== Sys2Proof/Machine/Regs.lean ====
section
/-! DEFINITION. Writes to BAR0 registers: access codes, widths, malformed accesses and the host's role (R6, R7, R278,
R305, R452). -/

namespace Sys2Proof.Machine

/-- A request that breaks R305 or R307 is recorded (R335, R337). -/
def State.barErr (s : State) (read : Bool) (off : Nat) : State :=
  ((s.logFirst R.HST_BAR_ERR 31 (b2n read * 2 ^ 29 + off % 2 ^ 26)).count R.HST_C_BAR_ERRS).raiseG 43 5

/-- What a register holds after a write of `v`: RW and RWS bits take it, W1C bits clear where it is 1, all others stay
(R6, R7). -/
def RegDesc.after (d : RegDesc) (old v : W64) : W64 := ((old &&& ~~~ d.rw) ||| (v &&& d.rw)) &&& ~~~ (v &&& d.w1c)

/-- A write to one whole register, under its access codes. -/
def State.plainWrite (s : State) (off : Nat) (v : W64) : State :=
  match regAt off with
  | some d => s.setReg off (d.after (s.reg off) v)
  | none => s

/-- The register writes that one BAR0 write makes: offset and value, lower offset first; none when the access breaks
R305 or R452. -/
def regParts (off : Nat) (wide : Bool) (data : W64) : Option (List (Nat × W64)) :=
  let isWide := fun o => match regAt o with
    | some d => d.wide
    | none => false
  let low := w64 (data.toNat % 2 ^ 32)
  if off % (if wide then 8 else 4) ≠ 0 then none
  else if wide then (if isWide off then some [(off, data)] else some [(off, low), (off + 4, w64 (data.toNat / 2 ^ 32))])
  else if isWide off || (off % 8 == 4 && isWide (off - 4)) then none
  else some [(off, low)]

/-- Apply the parts of a BAR0 write, each by `put`. A reserved offset takes no write (R7). -/
def State.barWrite (s : State) (off : Nat) (wide : Bool) (data : W64) (put : State → Nat → W64 → State) : State :=
  match regParts off wide data with
  | none => s.barErr false off
  | some ps => ps.foldl (fun t x => if (regAt x.1).isSome then put t x.1 x.2 else t) s

/-- Registers that the host may write below role FULL: the EVT_, HST_ and DMA_ blocks and the ring registers of CMD_
(R278). -/
def roleExempt (off : Nat) : Bool :=
  off / 2 ^ 20 == 3 || off / 2 ^ 20 == 4 || (decide (0x500010 ≤ off) && decide (off < 0x50002C))

/-- Whether BAR0 writes to the register at `off` reach it in this state of the start machine: while a start runs, in
safe hold with and without the recovery image, in a thermal stop, and at RESET_N (R390, R422, R431). In D3hot every
memory request receives Unsupported Request (R304). -/
def State.barOpen (s : State) (off : Nat) : Bool :=
  let blk := off / 2 ^ 20
  !s.held && !s.host.d3hot && (match s.boot.mode with
    | .running => true
    | .cold | .warm => blk ≤ 1 || blk == 3 || blk == 4
    | .safeHold => blk ≤ 1 || (blk == 3 && s.flag F.BOOT_STATUS_RECOVERY)
    | .stopped => false)

/-- A PCIe write to the register at `off` has the effect `f`, or is dropped by role (R278), or does not reach its block
(R422, R431). -/
def State.byHost (s : State) (off : Nat) (f : State → State) : State :=
  if s.barOpen off = false then s
  else if roleExempt off || s.fld F.CMD_ROLE_HOST_ROLE == 2 then f s
  else (s.count R.CMD_C_ROLE_DROP_HOST).raiseG 41 3

/-- A BAR0 read, or Unsupported Request in D3hot (R304). -/
def State.hostRead (s : State) (f : State → State) : State := if s.host.d3hot then s.emit .unsupported else f s

/-- The command unit is open: the chip runs, or holds safe with the recovery image (R422, R431). -/
def State.cmdOpen (s : State) : Bool :=
  s.boot.mode == .running || (s.boot.mode == .safeHold && s.flag F.BOOT_STATUS_RECOVERY)

end Sys2Proof.Machine
end

