-- ==== Sys2Proof/Machine/Ddr.lean ====
section
/-! DEFINITION. The DRAM controller: mapping, reads and writes with ECC, refresh, scrubbing and frequency change (R338 to
R349). -/

namespace Sys2Proof.Machine

/-! ### Mapping -/

/-- Where DDR begins among internal addresses (R339). -/
def ddrBase : Nat := 0x1000000000

/-- Installed capacity in bytes (R338). -/
def State.ddrCapacity (s : State) : Nat :=
  let gib := if s.fld F.DDR_CFG_DEVICE = 0 ∧ s.flag F.DDR_CFG_RANKS2 = false then 32 else 64
  gib * 2 ^ 30 / (if s.flag F.DDR_CFG_CHANNELS then 1 else 2)

/-- DDR is fitted, trained, mapped and not withdrawn (R339, R402). -/
def State.ddrReady (s : State) : Bool := s.flag F.DDR_CFG_PRESENT && s.flag F.DDR_STATUS_READY && !s.fencedSrc 0x602 && !s.fencedSrc 0x603

def State.ddrGrain (s : State) : Nat := 2 ^ (8 + min 8 (s.fld F.DDR_CFG_GRAIN))

/-- The offsets that hold the check patterns (R341). -/
def State.ddrPattern (s : State) (o : Nat) : Bool :=
  let cap := s.ddrCapacity
  let g := s.ddrGrain
  (decide (cap - 128 ≤ o) && decide (o < cap)) ||
  (s.flag F.DDR_CFG_CHANNELS && decide (cap - g - 128 ≤ o) && decide (o < cap - g))

/-- `len` bytes from internal address `addr` are mapped DDR (R339, R341). -/
def State.ddrMapped (s : State) (addr len : Nat) : Bool :=
  let o := addr - ddrBase
  s.ddrReady && decide (ddrBase ≤ addr) && decide (o + len ≤ s.ddrCapacity) &&
  ((List.range ((o + len + 63) / 64 - o / 64)).all fun i => !s.ddrPattern (64 * (o / 64 + i)))

/-- Channel and channel offset of an offset (R342). -/
def State.ddrChannel (s : State) (o : Nat) : Nat × Nat :=
  if s.flag F.DDR_CFG_CHANNELS then
    let g := s.ddrGrain
    (o / g % 2, o / (2 * g) * g + o % g)
  else (0, o)

/-- Burst column bits of the device (R338). -/
def State.ddrC (s : State) : Nat := if s.fld F.DDR_CFG_DEVICE = 1 then 7 else 6

def State.ddrTwoRanks (s : State) : Bool := decide (s.fld F.DDR_CFG_DEVICE = 0) && s.flag F.DDR_CFG_RANKS2

/-- A number that is the same for two offsets just when they lie in one DRAM row of one bank (R342). -/
def State.ddrRow (s : State) (o : Nat) : Nat :=
  let (ch, c) := s.ddrChannel o
  let bits := s.ddrC
  let row := c / 2 ^ (12 + bits + b2n s.ddrTwoRanks)
  let bg := (c / 128 % 8) ^^^ (row % 8)
  ((c / 2 ^ (10 + bits)) * 8 + bg) * 4 + (c / 64 % 2) * 2 + ch

/-- The rank, as 2 * channel + rank, that serves an offset. -/
def State.ddrRank (s : State) (o : Nat) : Nat :=
  let (ch, c) := s.ddrChannel o
  2 * ch + (if s.ddrTwoRanks then c / 2 ^ (12 + s.ddrC) % 2 else 0)

/-! ### Reads and writes -/

/-- Every rank of the populated channels (R338, R342). -/
def State.ddrRanks (s : State) : List Nat := (List.range 4).filter fun r =>
  (decide (r < 2) || s.flag F.DDR_CFG_CHANNELS) && (decide (r % 2 = 0) || s.ddrTwoRanks)

/-- All ranks enter or leave self-refresh (R349). -/
def State.setRanks (s : State) (mode : Nat) : State :=
  { s with ddr := { s.ddr with rankMode := s.ddrRanks.foldl (fun m r => tput (fun _ => 0) m r mode) s.ddr.rankMode } }

/-- Steps 4 and 5 of a frequency change: the ranks leave self-refresh and the new set is in use (R349). -/
def State.changeEnd (s : State) (set : Nat) : State :=
  let t : State := { s.setRanks 0 with ddr := { (s.setRanks 0).ddr with change := none } }
  ((t.setFld F.DDR_STATUS_SET_ACTIVE set).count R.DDR_C_FREQ_CHANGES).raiseG 44 4

/-- A frequency change ends 20 µs after its start (R349, log entry 114). -/
def State.changeTick (s : State) : State :=
  match s.ddr.change with
  | some (set, at_) => if at_ + 12500 ≤ s.time.cycles then s.changeEnd set else s
  | none => s

/-- A request held by a frequency change waits for its end (R349): the model ends the change before it serves the
request (log entry 114). -/
def State.changeWait (s : State) : State :=
  match s.ddr.change with
  | some (set, _) => s.changeEnd set
  | none => s

/-- An access waits for a frequency change, and takes its rank out of power-down or self-refresh (R349, R377). -/
def State.ddrWake (s : State) (o : Nat) : State :=
  let s := s.changeWait
  { s with ddr := { s.ddr with rankMode := tput (fun _ => 0) s.ddr.rankMode (s.ddrRank o) 0 } }

/-- A corrected read of the burst at offset `o` (R347). -/
def State.ddrCorrected (s : State) (o : Nat) : State :=
  let row := s.ddrRow o
  let n := tget (fun _ => 0) s.ddr.ceRows row + 1
  let t := { s with ddr := { s.ddr with ceRows := tput (fun _ => 0) s.ddr.ceRows row n } }
  let t := (t.count R.DDR_C_CE_COUNT).raiseG 44 1
  let th := s.fld F.DDR_SCRUB_CFG_CE_THRESH
  if th ≠ 0 ∧ th ≤ n then
    let log := t.reg R.DDR_CE_LOG
    (if bitOf log 63 then t else t.setReg R.DDR_CE_LOG (w64 (2 ^ 63 + ddrBase + o))).raiseG 44 3
  else t

/-- An uncorrectable read of the burst at offset `o` (R347). -/
def State.ddrUncorrectable (s : State) (req o : Nat) : State :=
  let t := { s with ddr := { s.ddr with bad := if s.ddr.bad.contains (o / 64) then s.ddr.bad else s.ddr.bad ++ [o / 64] } }
  let t := ((t.logFirst R.DDR_ERR_LOG 63 (req * 2 ^ 56 + ddrBase + o)).count R.DDR_C_UE_COUNT).raiseG 44 2
  t.fault (0x602 + (s.ddrChannel o).1) 0x40 (ddrBase + o) true

/-- The bursts, by number, of `len` bytes from offset `o`. -/
def burstsOf (o len : Nat) : List Nat :=
  if len = 0 then [] else (List.range ((o + len - 1) / 64 + 1 - o / 64)).map fun i => o / 64 + i

/-- One burst is read for a requester: whether its data is good, and the state. A burst known bad errs again (R347). -/
def State.ddrBurst (s : State) (req b : Nat) (ecc : EccRead) : Bool × State :=
  if s.ddr.bad.contains b || ecc == .uncorrectable then (false, s.ddrUncorrectable req (64 * b))
  else (true, if ecc = .corrected then s.ddrCorrected (64 * b) else s)

/-- Read bursts in order up to the first uncorrectable one: how many were good, and the state. `k` is the place of the
first. -/
def State.ddrBursts (req : Nat) (fs : EccFinds) : Nat → List Nat → State → Nat × State
  | _, [], s => (0, s)
  | k, b :: bs, s =>
    let (ok, t) := s.ddrBurst req b (fs.at_ k)
    if ok then
      let (n, u) := State.ddrBursts req fs (k + 1) bs t
      (n + 1, u)
    else (0, t)

/-- Read bytes for a requester: those ahead of the first uncorrectable burst, whether they are all, and the state
(R347). -/
def State.ddrReadTo (s : State) (req addr len : Nat) (fs : EccFinds) : List Byte × Bool × State :=
  let o := addr - ddrBase
  let bursts := burstsOf o len
  let (n, t) := State.ddrBursts req fs 0 bursts (s.ddrWake o)
  let bs := Memory.readN 0 t.ddr.mem o len
  if n = bursts.length then (bs, true, t) else (bs.take (64 * (o / 64 + n) - o), false, t)

/-- Read bytes for a requester: none when a burst is uncorrectable (R347). -/
def State.ddrRead (s : State) (req addr len : Nat) (fs : EccFinds) : Option (List Byte) × State :=
  match s.ddrReadTo req addr len fs with
  | (bs, true, t) => (some bs, t)
  | (_, false, t) => (none, t)

/-- Write one burst's share of a write: bytes `bs` at offset `o`, which do not cross a burst. A partial write is a
read-modify-write whose read may fail (R345). -/
def State.ddrWriteBurst (s : State) (req o : Nat) (bs : List Byte) (ecc : EccRead) : State :=
  let b := o / 64
  if bs.length = 64 then
    { s with ddr := { s.ddr with
      mem := Memory.writeN 0 s.ddr.mem o bs
      bad := s.ddr.bad.filter (· != b) } }
  else match s.ddrBurst req b ecc with
    | (false, t) => t.count R.DDR_C_RMW_DROP
    | (true, t) => { t with ddr := { t.ddr with mem := Memory.writeN 0 t.ddr.mem o bs } }

/-- Split bytes from offset `o` at burst boundaries; `n` bounds the parts. -/
def burstParts : Nat → Nat → List Byte → List (Nat × List Byte)
  | 0, _, _ => []
  | n + 1, o, bs =>
    if bs.isEmpty then []
    else
      let k := 64 - o % 64
      (o, bs.take k) :: burstParts n (o + k) (bs.drop k)

/-- Whether a part of a write is a read-modify-write whose read is uncorrectable, so that it is not performed (R345). -/
def State.ddrDrops (s : State) (addr : Nat) (bs : List Byte) (fs : EccFinds) : Bool :=
  let parts := burstParts (bs.length + 1) (addr - ddrBase) bs
  ((List.range parts.length).zip parts).any fun x =>
    decide (x.2.2.length < 64) && (s.ddr.bad.contains (x.2.1 / 64) || fs.at_ x.1 == .uncorrectable)

/-- Write bytes for a requester (R345): `fs` is what the reads of the bursts written in part find. -/
def State.ddrWrite (s : State) (req addr : Nat) (bs : List Byte) (fs : EccFinds) : State :=
  let o := addr - ddrBase
  let parts := burstParts (bs.length + 1) o bs
  ((List.range parts.length).zip parts).foldl (fun t x => t.ddrWriteBurst req x.2.1 x.2.2 (fs.at_ x.1)) (s.ddrWake o)

/-- What a burst read finds where the command that causes it carries no outcome: an open value (log entry 115). -/
def State.takeEcc (s : State) : EccRead × State :=
  let (v, t) := s.takeFree 2
  (match v.toNat with
    | 1 => .corrected
    | 2 => .uncorrectable
    | _ => .clean, t)

/-- The same for `n` places. -/
def State.takeFinds (s : State) (n : Nat) : EccFinds × State :=
  (List.range n).foldl (fun acc k =>
    let (e, t) := acc.2.takeEcc
    (acc.1 ++ [(k, e)], t)) ([], s)

/-- DDR_REQUEST: one read or write of a requester (R343, R345, R347), served in command order (log entry 116). An
unmapped address is not served (R339). -/
def execDdrRequest (requester : BitVec 6) (write : Bool) (addr : BitVec 40) (len : Fin 4097) (data : List Byte)
    (finds : EccFinds) (s : State) : Out State :=
  .next (
    if s.ddrMapped addr.toNat len.val = false then s
    else if write then s.ddrWrite requester.toNat addr.toNat (padTo len.val data) finds
    else match s.ddrRead requester.toNat addr.toNat len.val finds with
      | (some bs, t) => t.emit (.readData bs false)
      | (none, t) =>
        let (bs, u) := t.freeBytes len.val
        u.emit (.readData bs true))

/-! ### Refresh, scrubbing, frequency and power -/

/-- DDR_FREQ_CHANGE (R349): the sequence begins, and the ranks enter self-refresh, or it is refused: while a change
runs, or for an untrained or invalid set. A GO that names the set in use changes nothing. -/
def State.ddrFreqGo (s : State) (set : Nat) : State :=
  if s.ddrReady = false ∨ s.ddr.change.isSome ∨ s.flag (F.DDR_TSET_VALID set) = false ∨ bitOf s.ddr.trained set = false then
    s.raiseG 44 5
  else if s.fld F.DDR_STATUS_SET_ACTIVE = set then s
  else { s.setRanks 2 with ddr := { (s.setRanks 2).ddr with change := some (set, s.time.cycles) } }

def execDdrFreqChange (set : Fin 2) (s : State) : Out State :=
  .next (s.byHost R.DDR_FREQ_CTRL fun s => (s.setFld F.DDR_FREQ_CTRL_SET set.val).ddrFreqGo set.val)

/-- REFRESH_INTERVAL (R346): a tREFI of a rank passes; bit i of `blocked` says that bank index i found no idle moment.
-/
def execRefreshInterval (rank : Fin 4) (blocked : BitVec 4) (s : State) : Out State :=
  .next (
    if s.ddrReady = false then s
    else (List.range 4).foldl (fun t i =>
      let k := 4 * rank.val + i
      let lag := if bitOf blocked i then tget (fun _ => 0) t.ddr.lag k + 1 else 0
      let forced := decide (2 ≤ lag)
      let t := { t with ddr := { t.ddr with lag := tput (fun _ => 0) t.ddr.lag k (if forced then 0 else lag) } }
      if forced then t.count R.DDR_C_REFSB_FORCED else t) s)

/-- SCRUB_STEP (R348): the next burst is read and, when corrected, written back unless a write overtook it. -/
def execScrubStep (ecc : EccRead) (overtaken : Bool) (s : State) : Out State :=
  .next (
    if s.ddrReady = false ∨ s.flag F.DDR_SCRUB_CFG_SCRUB_EN = false then s
    else
      let o := 64 * s.ddr.scrubAt
      let t := if s.ddr.bad.contains s.ddr.scrubAt then s.ddrUncorrectable 7 o
        else match ecc with
          | .clean => s
          | .corrected =>
            (s.ddrCorrected o).count (if overtaken then R.DDR_C_SCRUB_CANCELLED else R.DDR_C_SCRUB_FIXED)
          | .uncorrectable => s.ddrUncorrectable 7 o
      let next := s.ddr.scrubAt + 1
      if s.ddrCapacity ≤ 64 * next then
        ({ t with ddr := { t.ddr with scrubAt := 0, ceRows := [] } }).raiseG 44 6
      else { t with ddr := { t.ddr with scrubAt := next } })

/-- DDR_TEMP_REPORT: the devices of a rank in a subchannel report a temperature above 85 °C, or none any more (R346). -/
def execDdrTempReport (sub : Fin 4) (rank : Fin 2) (hot : Bool) (s : State) : Out State :=
  .next (
    let k := 2 * sub.val + rank.val
    let now := if hot then s.ddr.hot ||| BitVec.ofNat 8 (2 ^ k) else s.ddr.hot &&& ~~~ BitVec.ofNat 8 (2 ^ k)
    let t : State := { s with ddr := { s.ddr with hot := now } }
    let t := t.setFld F.DDR_STATUS_THERM_2X (maskOf 4 fun i => bitOf now (2 * i) || bitOf now (2 * i + 1))
    if hot && !bitOf s.ddr.hot k then t.raiseG 44 7 else t)

/-- RANK_POWER_DOWN: a rank idle for 1 µs (R377). -/
def execRankPowerDown (rank : Fin 4) (s : State) : Out State :=
  .next (
    if s.ddrReady && tget (fun _ => 0) s.ddr.rankMode rank.val == 0 then
      { s with ddr := { s.ddr with rankMode := tput (fun _ => 0) s.ddr.rankMode rank.val 1 } }
    else s)

/-- RANK_SELF_REFRESH: a rank idle for 10 ms (R377). -/
def execRankSelfRefresh (rank : Fin 4) (s : State) : Out State :=
  .next (
    if s.ddrReady then
      { s with ddr := { s.ddr with rankMode := tput (fun _ => 0) s.ddr.rankMode rank.val 2 } }
    else s)

end Sys2Proof.Machine
end

