-- ==== Sys2Proof/Machine/Galley.lean ====
section
/-! DEFINITION. The Galley's pool: counts, grants, free checks, sublist breaks and sweeps (R38 to R61), and the release
of a frame. -/

namespace Sys2Proof.Machine

/-! ### Cells -/

/-- The number of cells (R38). -/
def cellCount : Nat := 393216

/-- The internal address of cell `i` (R38). -/
def cellAddr (i : Nat) : Nat := 0x80000000 + 256 * i

/-- A state RAM byte from STATE and OWNER (R41). -/
def cellByte (state owner : Nat) : BitVec 8 := BitVec.ofNat 8 (state * 64 + owner)

/-- The state RAM byte of cell `i`; FREE with OWNER 0x3F unless listed. -/
def State.cellRam (s : State) (i : Nat) : BitVec 8 := tget (fun _ => cellByte 0 0x3F) s.gal.cell i
def State.setCellRam (s : State) (i : Nat) (v : BitVec 8) : State :=
  { s with gal := { s.gal with cell := tput (fun _ => cellByte 0 0x3F) s.gal.cell i v } }
def State.cellState (s : State) (i : Nat) : Nat := bitsOf (s.cellRam i) 7 6
def State.cellOwner (s : State) (i : Nat) : Nat := bitsOf (s.cellRam i) 5 0

def State.linkRam (s : State) (i : Nat) : BitVec 20 := tget (fun _ => 0) s.gal.link i
def State.setLinkRam (s : State) (i : Nat) (v : BitVec 20) : State :=
  { s with gal := { s.gal with link := tput (fun _ => 0) s.gal.link i v } }

/-- Bank b's free sublist (R43). -/
def State.bankList (s : State) (b : Nat) : List (Nat × Nat) := tget allRows s.gal.lists b
def State.setBankList (s : State) (b : Nat) (l : List (Nat × Nat)) : State :=
  { s with gal := { s.gal with lists := tput allRows s.gal.lists b l } }

/-- The number of cells on a sublist. -/
def runCount (l : List (Nat × Nat)) : Nat := (l.map Prod.snd).foldl (· + ·) 0

/-- Append a row at the tail of a sublist. -/
def runAppend : List (Nat × Nat) → Nat → List (Nat × Nat)
  | [], r => [(r, 1)]
  | [(a, n)], r => if a + n = r then [(a, n + 1)] else [(a, n), (r, 1)]
  | x :: y :: l, r => x :: runAppend (y :: l) r

/-- The sublist without its head. -/
def runTail : List (Nat × Nat) → List (Nat × Nat)
  | [] => []
  | (a, n) :: l => if n ≤ 1 then l else (a + 1, n - 1) :: l

/-- A sublist without one row. -/
def runRemove (l : List (Nat × Nat)) (r : Nat) : List (Nat × Nat) :=
  l.flatMap fun x => if x.1 ≤ r ∧ r < x.1 + x.2
    then [(x.1, r - x.1), (r + 1, x.1 + x.2 - (r + 1))].filter fun y => decide (0 < y.2) else [x]

/-- The frame's next cell after `prev` is granted: LAST of `prev` is cleared and its NEXT names it (R40). -/
def State.linkCell (s : State) (prev : Option Nat) (i : Nat) : State :=
  match prev with
  | some p => s.setLinkRam p (BitVec.ofNat 20 i)
  | none => s

/-! ### Pool quantities (R59) -/

def State.resvSize (s : State) : Nat := s.fld F.GAL_RESV_SIZE

/-- F_u, the free unreserved cells. -/
def State.freeUnres (s : State) : Nat := s.gal.free - (s.resvSize - min s.gal.resvUsed s.resvSize)

/-- POOL_EMPTY and POOL_LOW latch when F_u reaches 0 or falls below GAL_LOW_MARK (R68). -/
def State.poolEvents (s before : State) : State :=
  let mark := s.fld F.GAL_LOW_MARK_MARK
  let t := if s.freeUnres = 0 ∧ before.freeUnres ≠ 0 then s.raiseG 36 3 else s
  if s.freeUnres < mark ∧ mark ≤ before.freeUnres then t.raiseG 36 4 else t

/-! ### Freeing a cell -/

/-- Whether OWNER permits the requester to free the cell (R42). -/
def freePermitted (owner req : Nat) : Bool :=
  if owner = 0x12 then
    (decide (0x18 ≤ req) && decide (req ≤ 0x1F)) || (decide (0x08 ≤ req) && decide (req ≤ 0x0F)) ||
      req == 0x10 || req == 0x11
  else owner != 0x3F && req == owner

/-- Record a rejected free (R49). KIND: 1 DOUBLE, 2 FOREIGN, 3 RANGE. -/
def State.rejectFree (s : State) (kind req cell addr : Nat) : State :=
  let first := !bitOf (s.reg R.GAL_FREE_ERR) 31
  let t := s.logFirst R.GAL_FREE_ERR 31 (kind * 2 ^ 28 + req * 2 ^ 19 + cell)
  let t := if first then t.setReg R.GAL_FREE_ERR_ADDR (w64 (addr % 2 ^ 32)) else t
  t.raiseG 36 (kind - 1)

/-- A cell becomes FENCED (R67): the event, and its bank's messages are the caller's. -/
def State.cellFencedEvent (s : State) : State := s.raiseG 36 13

/-- A free request for the cell of an index, after the range check (R48 rows 2 to 6). -/
def State.freeIndex (s : State) (req i : Nat) : State :=
  if s.cellState i = 0 then s.rejectFree 1 req i (256 * i)
  else if freePermitted (s.cellOwner i) req = false then s.rejectFree 2 req i (256 * i)
  else if s.cellState i = 2 then s.setCellRam i (cellByte 2 0x3F)
  else if s.bankFenced (i % 32) then
    let t := s.setCellRam i (cellByte 2 0x3F)
    ({ t with gal := { t.gal with fencedCells := t.gal.fencedCells + 1 } }).cellFencedEvent
  else
    let t := s.setCellRam i (cellByte 0 0x3F)
    let t := { t with gal := { t.gal with
      free := t.gal.free + 1
      recent := (t.gal.recent.filter fun x => decide (s.elapsedNs < x.2 + 2)) ++ [(i, s.elapsedNs)] } }
    if bitOf t.gal.sweeping (i % 32) then t
    else t.setBankList (i % 32) (runAppend (t.bankList (i % 32)) (i / 32))

/-- A free request by index (R48). -/
def State.freeCell (s : State) (req i : Nat) : State :=
  if i < cellCount then s.freeIndex req i else s.rejectFree 3 req 0x7FFFF (256 * i)

/-- A free request by internal address (R48 row 1). -/
def State.freeAddr (s : State) (req addr : Nat) : State :=
  let off := addr - 0x80000000
  if 0x80000000 ≤ addr ∧ off % 256 = 0 ∧ off / 256 < cellCount then s.freeIndex req (off / 256)
  else s.rejectFree 3 req 0x7FFFF ((addr + 2 ^ 32 - 0x80000000) % 2 ^ 32)

/-! ### Granting a cell -/

/-- Whether bank `b` can grant now: not fenced, not swept, not empty, its head not freed in the last two cycles, and not
used in this cycle already (R39, R44). -/
def State.bankReady (s : State) (used : List Nat) (b : Nat) : Bool :=
  !s.bankFenced b && !bitOf s.gal.sweeping b && !used.contains b &&
  match s.bankList b with
  | [] => false
  | (r, _) :: _ => s.gal.recent.all fun x => x.1 != 32 * r + b || decide (x.2 + 2 ≤ s.elapsedNs)

/-- The bank that a requester takes its next cell from: the first that can grant from its pointer on (R39). -/
def State.nextBank (s : State) (used : List Nat) (code : Nat) : Option Nat :=
  let p := tget (fun _ => 0) s.gal.ptr code
  ((List.range 32).map fun i => (p + i) % 32).find? fun b => s.bankReady used b

/-- A sublist break found by the grant of cell `i` (R45). -/
def State.listBreak (s : State) (i : Nat) : State :=
  let b := i % 32
  let t := s.setBankList b []
  let t : State := { t with gal := { t.gal with stale := tput (fun _ => []) t.gal.stale b (s.bankList b) } }
  let t := { t with gal := { t.gal with sweeping := t.gal.sweeping ||| BitVec.ofNat 32 (2 ^ b) } }
  ((t.count R.GAL_C_LIST_BREAK).raiseG 36 10).fault (0x500 + b) 0x21 (cellAddr i) true

/-- Grant the head cell of bank `b` to a requester; `bad` when its NEXT fails the check of R44. The link RAM entry gets
LAST = 1; its NEXT is open until a next cell is granted, so it takes a free value (R40). -/
def State.grantFrom (s : State) (code b : Nat) (bad : Bool) : Nat × State :=
  match s.bankList b with
  | [] => (0, s)
  | (r, _) :: _ =>
    let i := 32 * r + b
    let (nx, t) := s.takeFree 19
    let t := t.setCellRam i (cellByte 1 code)
    let t := t.setLinkRam i (BitVec.ofNat 20 (2 ^ 19 + nx.toNat))
    let t := { t with gal := { t.gal with
      free := t.gal.free - 1
      ptr := tput (fun _ => 0) t.gal.ptr code ((b + 1) % 32) } }
    let t := t.setBankList b (runTail (s.bankList b))
    (i, (if bad then t.listBreak i else t).poolEvents s)

/-- Outcome of one cell request (R46). -/
inductive Grant where
  | cell (i : Nat)
  | none
  | wait
  deriving DecidableEq, Repr

/-- Decide one request of a cycle: `resvOk` when it may draw on the reserved pool (R60). The banks used in this cycle
are `used`. Answers the grant, the banks used, whether the reserved pool was charged, and the state. -/
def State.request (s : State) (code : Nat) (resvOk bad : Bool) (used : List Nat) : Grant × List Nat × Bool × State :=
  let fromFree := decide (0 < s.freeUnres)
  let fromResv := resvOk && decide (s.gal.resvUsed < s.resvSize) && decide (0 < s.gal.free)
  if fromFree || fromResv then
    match s.nextBank used code with
    | some b =>
      let (i, t) := s.grantFrom code b bad
      if fromFree then (.cell i, b :: used, false, t)
      else (.cell i, b :: used, true, { t with gal := { t.gal with resvUsed := t.gal.resvUsed + 1 } })
    | none => (.wait, used, false, s)
  else (.none, used, false, s)

/-- The sweep of bank `b` ends: every FREE cell of it is linked, in rising order (R45). -/
def State.sweepEnd (s : State) (b : Nat) : State :=
  let rows := (List.range 12288).filter fun r => s.cellState (32 * r + b) == 0
  let t := { s with gal := { s.gal with
    sweeping := s.gal.sweeping &&& ~~~ BitVec.ofNat 32 (2 ^ b)
    stale := tput (fun _ => []) s.gal.stale b [] } }
  t.setBankList b (rows.foldl runAppend [])

/-! ### Frames and their cells -/

/-- Cells a frame of this many bytes occupies (R38). -/
def dataCells (len : Nat) : Nat := ceilDiv len 256

/-- The cells that a frame counts towards a queue's length: data cells and its edit cell (R62). -/
def Frame.cellLen (f : Frame) : Nat := max f.cells.length (dataCells f.bytes.length) + b2n f.editCell.isSome

/-- LEN of a frame: the bytes received, FCS included (R23). -/
def Frame.len (f : Frame) : Nat := f.bytes.length

/-- The port a frame came in on, or 0. -/
def Frame.inPort (f : Frame) : Nat :=
  match f.src with
  | .port p => p
  | .pdelay p _ _ _ => p
  | .reply p => p
  | .host _ => 0

def Frame.cls (f : Frame) : Nat := f.qoff / 16

/-- The owner and requester code that a frame's uncommitted cells carry (R41). -/
def Frame.ownerCode (f : Frame) : Nat :=
  match f.src with
  | .host _ => 0x11
  | _ => f.inPort / 16

/-- Give every cell of a list a new owner (R42). -/
def State.reown (s : State) (cells : List Nat) (code : Nat) : State :=
  cells.foldl (fun t i => t.setCellRam i (cellByte (t.cellState i) code)) s

/-- SETTLED: every port has flipped and no alive frame of the draining tag has ADMITTED = 1 (R245). -/
def State.checkSettled (s : State) : State :=
  match [0, 1].find? fun t => s.tagState t == 4 with
  | some old =>
    if s.flag F.FRM_STATUS_SETTLED then s
    else if s.frames.any fun x =>
        match x.2 with
        | some f => f.tag == old && f.admitted && f.stage != .dropped
        | none => false
      then s
    else (s.setFlag F.FRM_STATUS_SETTLED true).raiseG 41 18
  | none => s

/-- Free all cells of a frame, head first, then its edit and pass-record cells, and forget the frame (R49, R50, R53).
`code` is the agent that releases it. What the freed cells let in is `State.serveAll`'s. -/
def State.releaseCells (s : State) (i code : Nat) : State :=
  match s.frame i with
  | none => s
  | some f =>
    let cells := f.cells ++ f.editCell.toList
    let t := cells.foldl (fun t c => t.freeCell code c) s
    let t := match f.passCell with
      | some c => t.freeCell (0x08 + f.inPort / 16) c
      | none => t
    let t := { t with gal := { t.gal with resvUsed := t.gal.resvUsed - f.resv } }
    ((t.dropFrame i).poolEvents s).checkSettled

/-- Take a reference (R54). -/
def State.acquire (s : State) (i : Nat) : State := s.modFrame i fun f => { f with refcnt := f.refcnt + 1 }

/-- The frame is in a pass: a compositor runs it, or its action set waits for the commit. -/
def Frame.inPass (f : Frame) : Bool := match f.stage with
  | .running _ => true
  | .ended => true
  | _ => false

/-- Release a reference; at zero the releasing agent frees the frame (R54). A frame whose second impression runs is
kept until that pass commits or is abandoned (DEDUCED, log entry 23). -/
def State.releaseRef (s : State) (i code : Nat) : State :=
  match s.frame i with
  | none => s
  | some f =>
    if f.refcnt ≤ 1 ∧ f.inPass = false then s.releaseCells i code
    else s.setFrame i { f with refcnt := f.refcnt - 1 }

/-- The frame is no longer among those of its port that run a further pass (R16). -/
def State.leaveAgain (s : State) (p i : Nat) : State :=
  s.setPort p { s.port p with again := (s.port p).again.filter (· != i) }

/-- The pass-record cell of a frame goes back to the pool, with its charge (R59, R126): the frame without it, and the
state. -/
def State.freePassCell (s : State) (f : Frame) : Frame × State :=
  match f.passCell with
  | none => (f, s)
  | some c =>
    let t := s.freeCell (0x08 + f.inPort / 16) c
    let n := b2n f.passResv
    let t : State := { t with gal := { t.gal with resvUsed := t.gal.resvUsed - n } }
    ({ f with passCell := none, passResv := false, resv := f.resv - n }, t.poolEvents s)

/-- A frame is lost before its commit: its cells go back, its staging place and its reorder entry are released (R47,
R91, R125). The record stays while bytes of it still arrive or a compositor holds it. In a second impression it gives
up that pass alone, and is freed when nothing else refers to it. -/
def State.loseCells (s : State) (i : Nat) : State :=
  match s.frame i with
  | none => s
  | some f =>
    let p := f.inPort
    if 0 < f.pass then
      let s := s.leaveAgain p i
      (if f.refcnt = 0 then s.releaseCells i (0x08 + p / 16) else s.setFrame i { f with stage := .committed })
    else
    let cells := f.cells ++ f.editCell.toList
    let t := cells.foldl (fun t c => t.freeCell f.ownerCode c) s
    let t := { t with gal := { t.gal with resvUsed := t.gal.resvUsed - f.resv } }
    let ps := t.port p
    let t : State := t.setPort p { ps with
      staging := ps.staging.filter (· != i)
      reorder := ps.reorder.filter (· != i) }
    let t := t.poolEvents s
    let inComp : Bool := match f.stage with
      | .running c => (t.comp c).frame == some i
      | _ => false
    if ps.rx == some i || inComp then
      (t.setFrame i { f with stage := .dropped, cells := [], editCell := none, resv := 0 }).checkSettled
    else (t.dropFrame i).checkSettled

/-- The compositor that runs frame `i`, if one does. -/
def State.runner (s : State) (i : Nat) : Option Nat :=
  (s.comps.find? fun x => x.2.frame == some i).map Prod.fst

/-- A cell fenced by an uncorrectable read (R67). It keeps its OWNER. A FREE cell, which only a host read can find bad,
leaves the pool. -/
def State.fenceCell (s : State) (i : Nat) : State :=
  let t := s.setCellRam i (cellByte 2 (s.cellOwner i))
  let t := if s.cellState i = 0 then
      (({ t with gal := { t.gal with free := t.gal.free - 1 } } : State).setBankList (i % 32)
        (runRemove (s.bankList (i % 32)) (i / 32))).poolEvents s
    else t
  let t := if s.cellState i = 2 then t else { t with gal := { t.gal with fencedCells := t.gal.fencedCells + 1 } }
  ((t.count R.GAL_C_ECC_UNCORRECTED).raiseG 36 12).cellFencedEvent

/-- An uncorrectable error on a read of cell `i`: the coded message and the fence of the cell (R67). -/
def State.galleyUe (s : State) (i : Nat) : State := (s.fenceCell i).fault (0x500 + i % 32) 0x20 (cellAddr i) true

/-- A read of a frame's cells: whether it fails, and the state. `ecc` is what the read finds, in the cell at place `k`
of the list where that is an uncorrectable error; a cell fenced before, or in a fenced bank, fails every later read
(R67). -/
def State.readCells (s : State) (cells : List Nat) (k : Nat) (ecc : EccRead) : Bool × State :=
  let gone := cells.any fun i => s.cellState i == 2 || s.bankFenced (i % 32)
  match ecc with
  | .corrected => (gone, (s.count R.GAL_C_ECC_CORRECTED).raiseG 36 11)
  | .uncorrectable =>
    match cells[k]? with
    | some i => (true, s.galleyUe i)
    | none => (gone, s)
  | .clean => (gone, s)

/-- A read of a whole frame by a path that fetches every cell of it. Which cell an uncorrectable error stands in is
open: a free value names it (R67; log entry 92). -/
def State.readFrame (s : State) (cells : List Nat) (ecc : EccRead) : Bool × State :=
  if ecc = .uncorrectable then
    let (v, t) := s.takeFree 32
    t.readCells cells (v.toNat % max 1 cells.length) ecc
  else s.readCells cells 0 ecc

end Sys2Proof.Machine
end

