-- ==== Sys2Proof/Machine/Rewrite.lean ====
section
/-! DEFINITION. The edit unit: VLAN, HSR and PRP tags, address and TTL edits, the PTP correction, padding and the FCS
(R227, R228, R265, R266, R188). -/

namespace Sys2Proof.Machine

/-- Where a byte of an edited frame comes from: received at an offset, or made by an edit. The first byte of an LSDU
size is marked, since the size of an HSR tag or a PRP trailer is filled in when the frame is final (R227). -/
inductive Origin where
  | rx (off : Nat)
  | made
  | hsrSize
  | prpSize
  deriving DecidableEq, Repr

/-- Bytes of a frame without its FCS, each with its origin. -/
abbrev Tagged := List (Origin × Byte)

def tagBytes (bs : List Byte) : Tagged := List.zip ((List.range bs.length).map Origin.rx) bs
def plain (t : Tagged) : List Byte := t.map Prod.snd
def fresh (bs : List Byte) : Tagged := bs.map fun b => (Origin.made, b)

/-- Fresh bytes that hold an LSDU size at offset 2. -/
def freshSized (o : Origin) (bs : List Byte) : Tagged :=
  fresh (bs.take 2) ++ ((bs.drop 2).take 1).map (fun b => (o, b)) ++ fresh (bs.drop 3)

/-- Overwrite bytes in place, keeping where each was received. -/
def tagOver (t : Tagged) (off : Nat) (new : List Byte) : Tagged :=
  List.zip (t.map Prod.fst) (overwrite (plain t) off new)

/-- Where the byte received at `off` stands now. -/
def translate (t : Tagged) (off : Nat) : Option Nat := t.findIdx? fun x => x.1 == Origin.rx off

/-- Whether a VLAN tag that the unit recognises stands at `off` (R227). -/
def vlanAt (tpid : Nat) (bs : List Byte) (off : Nat) : Bool :=
  let e := beAt bs off 2
  decide (off + 4 ≤ bs.length) && (e == 0x8100 || e == 0x88A8 || e == tpid)

/-- The offset after the source address and every recognised VLAN tag; `n` bounds the tags. -/
def afterVlans (tpid : Nat) (bs : List Byte) : Nat → Nat → Nat
  | 0, off => off
  | n + 1, off => if vlanAt tpid bs off then afterVlans tpid bs n (off + 4) else off

/-- Where an HSR tag belongs (R227). -/
def hsrPos (tpid : Nat) (bs : List Byte) : Nat := afterVlans tpid bs (bs.length / 4) 12

def hsrAt (tpid : Nat) (bs : List Byte) : Bool :=
  decide (hsrPos tpid bs + 6 ≤ bs.length) && beAt bs (hsrPos tpid bs) 2 == 0x892F

/-- The side of a port in a pair of tag `t`: mode (0 PRP, 1 HSR), side (0 A, 1 B) and PATH (R187). -/
def State.pairOf (s : State) (t p : Nat) : Option (Nat × Nat × Nat) :=
  ((List.range 64).find? fun k =>
    s.flag (F.WBL_PAIR_VALID t k) && (s.fld (F.WBL_PAIR_PORT_A t k) == p || s.fld (F.WBL_PAIR_PORT_B t k) == p)).map
    fun k => (s.fld (F.WBL_PAIR_MODE t k), if s.fld (F.WBL_PAIR_PORT_A t k) = p then 0 else 1,
      s.fld (F.WBL_PAIR_PATH t k))

/-- The LAN or path identifier of PRP_ADD and HSR_INS on a port (R188). -/
def State.editId (s : State) (t p : Nat) (hsr : Bool) (off : Nat) : Nat :=
  match s.pairOf t p with
  | some (0, side, _) => if hsr then off % 16 else 0xA + side
  | some (_, side, path) => if hsr then (if side = 0 then path - path % 2 else path - path % 2 + 1) else off % 16
  | none => off % 16

/-- An Internet checksum field after a 16-bit word changed from `old` to `new` (incremental update, RFC 1624). -/
def cksumUpdate (sum old new : Nat) : Nat :=
  let x := (0xFFFF - sum) + (0xFFFF - old) + new
  let y := x % 65536 + x / 65536
  0xFFFF - (y % 65536 + y / 65536)

/-- The same over all words of two equally long byte strings of even length. -/
def cksumBytes : Nat → Nat → List Byte → List Byte → Nat
  | 0, sum, _, _ => sum
  | n + 1, sum, old, new =>
    cksumBytes n (cksumUpdate sum (beAt old 0 2) (beAt new 0 2)) (old.drop 2) (new.drop 2)

/-- The state of the edit unit on one frame: the frame, edits that changed nothing, and how many of these R266 refused.
-/
structure EditRun where
  t : Tagged
  skips : Nat
  range : Nat
  deriving DecidableEq, Repr

def EditRun.skip (r : EditRun) : EditRun := { r with skips := r.skips + 1 }

/-- Overwrite a field of the PTP header at `pos` and, where the frame has a UDP checksum, bring it at `hdr - 2` along
(R265 step 5). -/
def ptpPut (summed : Bool) (hdr pos : Nat) (new : List Byte) (t : Tagged) : Tagged :=
  let bs := plain t
  let t1 := tagOver t pos new
  if summed then
    let sum := beAt bs (hdr - 2) 2
    let lead := (pos - hdr) % 2
    let span := new.length + lead + (new.length + lead) % 2
    tagOver t1 (hdr - 2) (toBE 2 (cksumBytes (span / 2) sum (bytesAt bs (pos - lead) span)
      (bytesAt (plain t1) (pos - lead) span)))
  else t1

/-- What the edit unit reads for a frame now. -/
def State.editEnv (s : State) (f : Frame) : EditEnv :=
  ⟨s.fld F.EGR_TPID_TPID, s.fld F.TIM_CF_MAX_MAX,
    if s.flag (F.TIM_PORT_CFG_P2P f.inPort) then s.fld (F.TIM_PORT_LINK_DELAY_DELAY f.inPort) else 0⟩

/-- The PTP_CF edit at received offset `off`, leaving at stamp `tx` (R265, R266). -/
def ptpEdit (env : EditEnv) (f : Frame) (tx : Stamp) (off : Nat) (r : EditRun) : EditRun :=
  match translate r.t off with
  | none => r.skip
  | some pos =>
    let bs := plain r.t
    let etPos := if hsrAt env.tpid bs then hsrPos env.tpid bs + 6 else hsrPos env.tpid bs
    let summed := beAt bs etPos 2 != 0x88F7 && beAt bs (pos - 2) 2 != 0
    let sync := beAt bs pos 1 % 16 == 0
    let twoStep := bitOf (byteAt bs (pos + 6)) 1
    let host : Bool := match f.src with
      | .host _ => true
      | _ => false
    let oneStepHost := host && sync && !twoStep
    let need := if oneStepHost then pos + 44 else pos + 16
    if bs.length < need then r.skip
    else if tx < f.stamp ∨ env.cfMax * 65536 < tx - f.stamp then { r.skip with range := r.range + 1 }
    else
      let delay := if !host && sync then env.linkDelay else 0
      let add := if oneStepHost then stampFrac tx else tx - f.stamp + delay
      let cf := (beAt bs (pos + 8) 8 + add) % 2 ^ 64
      let t1 := ptpPut summed pos (pos + 8) (toBE 8 cf) r.t
      let t2 := if oneStepHost
        then ptpPut summed pos (pos + 34) (toBE 6 (stampSec tx) ++ toBE 4 (stampNs tx)) t1 else t1
      { r with t := t2 }

/-- Apply one edit of the list (R227). -/
def State.applyEdit (s : State) (env : EditEnv) (f : Frame) (port : Nat) (tx : Stamp) (r : EditRun) (e : Edit) : EditRun :=
  let tpid := env.tpid
  let bs := plain r.t
  match e.eop with
  | 1 => { r with t := r.t.take 12 ++ fresh (toBE 4 e.value.toNat) ++ r.t.drop 12 }
  | 2 => if vlanAt tpid bs 12 then { r with t := r.t.take 12 ++ r.t.drop 16 } else r.skip
  | 3 => if vlanAt tpid bs 12 then { r with t := tagOver r.t 12 (toBE 4 e.value.toNat) } else r.skip
  | 4 =>
    let pos := hsrPos tpid bs
    let tag := [0x89, 0x2F] ++ toBE 2 (s.editId f.tag port true e.off * 4096) ++ toBE 2 e.value.toNat
    { r with t := r.t.take pos ++ freshSized .hsrSize tag ++ r.t.drop pos }
  | 5 =>
    if hsrAt tpid bs then
      let pos := hsrPos tpid bs
      { r with t := r.t.take pos ++ r.t.drop (pos + 6) }
    else r.skip
  | 6 =>
    let fill := List.replicate (54 - bs.length) (0 : Byte)
    let trailer := toBE 2 e.value.toNat ++ toBE 2 (s.editId f.tag port false e.off * 4096) ++ [0x88, 0xFB]
    { r with t := r.t ++ fresh fill ++ freshSized .prpSize trailer }
  | 7 =>
    if decide (6 ≤ bs.length) && beAt bs (bs.length - 2) 2 == 0x88FB then
      { r with t := r.t.take (bs.length - 6) }
    else r.skip
  | 8 => { r with t := tagOver r.t 0 (toBE 6 e.value.toNat) }
  | 9 => { r with t := tagOver r.t 6 (toBE 6 e.value.toNat) }
  | 10 =>
    match translate r.t e.off with
    | none => r.skip
    | some pos =>
      let ver := beAt bs pos 1 / 16
      let field := if ver = 4 then pos + 8 else pos + 7
      let fieldEnd := if ver = 4 then pos + 12 else pos + 8
      if (ver ≠ 4 ∧ ver ≠ 6) ∨ bs.length < fieldEnd ∨ beAt bs field 1 = 0 then r.skip
      else
        let old := beAt bs field 1
        let t1 := tagOver r.t field (toBE 1 (old - 1))
        if ver = 4 then
          { r with t := tagOver t1 (pos + 10) (toBE 2 (cksumUpdate (beAt bs (pos + 10) 2) (beAt bs (pos + 8) 2)
            (beAt (plain t1) (pos + 8) 2))) }
        else { r with t := t1 }
  | 11 => ptpEdit env f tx e.off r
  | _ => r

/-- Padding to 64 bytes with the FCS, before a PRP trailer where the frame carries one (R228). -/
def padFrame (t : Tagged) : Tagged :=
  let fill := fresh (List.replicate (60 - t.length) (0 : Byte))
  let cut := t.length - 6
  if decide (6 ≤ t.length) && beAt (plain t) (t.length - 2) 2 == 0x88FB then t.take cut ++ fill ++ t.drop cut else t ++ fill

/-- Fill in the LSDU size whose first byte stands at `i`: the low 12 bits of the two bytes. -/
def putSize (bs : List Byte) (i v : Nat) : List Byte := overwrite bs i (toBE 2 (beAt bs i 2 / 4096 * 4096 + v % 4096))

/-- The final frame: padded, with the LSDU size of every tag and trailer that an edit made (R227; the formulas PRESUMED
from IEC 62439-3, log entry 18: the bytes after the HSR EtherType, and for PRP the bytes after the EtherType to the
trailer's end without any HSR tag). -/
def finishEdits (tpid : Nat) (r : EditRun) : List Byte :=
  let t := padFrame r.t
  let bs := plain t
  let head := hsrPos tpid bs + 2 + (if hsrAt tpid bs then 6 else 0)
  (List.zip (List.range t.length) (t.map Prod.fst)).foldl (fun b x =>
    match x.2 with
    | .hsrSize => putSize b x.1 (bs.length - x.1)
    | .prpSize => putSize b x.1 (x.1 + 4 - head)
    | _ => b) bs

/-- The frame that leaves `port` for a reference: edited unless it is a mirror copy, with a fresh FCS; beside it the
edits that changed nothing, and how many of them R266 refused. -/
def State.edited (s : State) (env : EditEnv) (f : Frame) (port : Nat) (mirror : Bool) (tx : Stamp) :
    List Byte × Nat × Nat :=
  let body := match f.src with
    | .host _ => f.bytes
    | _ => f.bytes.take (f.bytes.length - 4)
  let r0 : EditRun := ⟨tagBytes body, 0, 0⟩
  let r := if mirror then r0 else f.edits.foldl (s.applyEdit env f port tx) r0
  let out := finishEdits env.tpid r
  (out ++ fcsOf out, r.skips, r.range)

/-- The edited length (R228), which no edit's value changes. -/
def State.editedLen (s : State) (f : Frame) (port : Nat) (mirror : Bool) : Nat :=
  (s.edited (s.editEnv f) f port mirror f.stamp).1.length

end Sys2Proof.Machine
end

