-- ==== Sys2Proof/Machine/QueueOps.lean ====
section
/-! DEFINITION. Queues: port rates and link conditions, gates, shaper credits, taking and releasing references, the
dynamic threshold and the residue (R29, R62 to R66, R211 to R230). -/

namespace Sys2Proof.Machine

/-! ### Ports as queues see them -/

/-- The data rate of a lane mode in Mb/s (R17, R249). -/
def modeRate (m : Nat) : Nat :=
  match m with
  | 1 => 1000 | 2 => 1000 | 3 => 2500 | 4 => 10000 | 5 => 25000 | 6 => 100000
  | _ => 0

/-- The data rate of port `p` in Mb/s, in the mode in force. -/
def State.portRate (s : State) (p : Nat) : Nat := modeRate (s.fld (F.PRT_STATUS_ACTIVE_MODE p))

/-- How a port takes frames at enqueue (R29). -/
inductive PortCond where
  /-- Link up, transmission enabled. -/
  | up
  /-- The hold time runs. -/
  | holding
  /-- As a link down whose hold time has ended; so also DISABLED, TX_EN = 0, a subordinate lane (R29, R120). -/
  | ended
  deriving DecidableEq, Repr

def State.portCond (s : State) (p : Nat) : PortCond :=
  if s.fld (F.PRT_MODE_MODE p) = 0 ∨ s.flag (F.PRT_STATUS_FUSED_SUB p) = true ∨ s.flag (F.PRT_MAC_CFG_TX_EN p) = false
  then .ended
  else if s.regionFenced (p / 16) then .ended
  else if s.flag (F.PRT_STATUS_LINK_UP p) then .up
  else if s.flag (F.PRT_STATUS_HOLDING p) then .holding
  else .ended

/-- MAX_FRAME in force (R23). -/
def State.maxFrame (s : State) (p : Nat) : Nat := s.fld (F.PRT_MAC_CFG_MAX_FRAME p)

/-- The port's merge state is ACTIVE (R25). -/
def State.mergeActive (s : State) (p : Nat) : Bool := s.fld (F.PRT_MERGE_STATUS_VERIFY_STATE p) == 2

/-- Class group `c` is preemptable on port `p` under tag `t`, as the mask says (R225). -/
def State.preemptMask (s : State) (p t c : Nat) : Bool :=
  decide (t < 2) && bitOf (s.reg (R.EGR_PORT_PREEMPT p)) (c + (if t = 0 then 0 else 8))

/-- A frame of this tag and class is carried by the preemptable MAC now (R225). -/
def State.preemptable (s : State) (p t c : Nat) : Bool := s.mergeActive p && s.preemptMask p t c

/-! ### Timetables (R219, R220) -/

def EgrPort.tt (e : EgrPort) (t : Nat) : TtState := if t = 0 then e.tt0 else e.tt1
def EgrPort.setTt (e : EgrPort) (t : Nat) (v : TtState) : EgrPort :=
  if t = 0 then { e with tt0 := v } else { e with tt1 := v }

/-- The timetable of tag `t` governs port `p`'s gates: EN = 1 and enabled by a lock-up (R220, R221). -/
def State.ttOn (s : State) (p t : Nat) : Bool := decide (t < 2) && s.flag (F.EGR_TT_CTRL_EN p t) && ((s.egrPort p).tt t).enabled

/-- The eight gates of port `p` under tag `t` (R220). -/
def State.gates (s : State) (p t : Nat) : Nat :=
  if s.ttOn p t then
    let tt := (s.egrPort p).tt t
    if tt.running then bitsOf (s.ttWord p t tt.entry) 55 48 else s.fld (F.EGR_TT_CTRL_INIT_GATES p t)
  else 0xFF

def State.gateOpen (s : State) (p t c : Nat) : Bool := Nat.testBit (s.gates p t) c

/-- A hold of either tag's timetable is in effect (R220, R225). -/
def State.holdOn (s : State) (p : Nat) : Bool :=
  (s.ttOn p 0 && (s.egrPort p).tt0.hold) || (s.ttOn p 1 && (s.egrPort p).tt1.hold)

/-- The entry of a timetable that stands at offset `x` ns of its cycle, with the ns left of it, over the intervals of
entries `e`, `e + 1`, ...; the last persists to the cycle's end (R220). -/
def ttSeek : List Nat → Nat → Nat → Nat → Nat × Nat
  | [], e, x, cycle => (e - 1, cycle - x)
  | d :: ds, e, x, cycle =>
    if x < d then (e, min (d - x) cycle)
    else match ds with
      | [] => (e, cycle - x)
      | _ => ttSeek ds (e + 1) (x - d) (cycle - d)

/-- Interval of an entry in ns. -/
def State.ttIntervals (s : State) (p t : Nat) : List Nat :=
  (List.range (s.fld (F.EGR_TT_CTRL_NENT p t))).map fun e => bitsOf (s.ttWord p t e) 31 0

/-- The entry that the time base selects now, and the offset within the cycle (R224). -/
def State.ttNow (s : State) (p t : Nat) : Nat × Nat :=
  let cycle := s.fld (F.EGR_TT_CYCLE_CYCLE_NS p t)
  let tt := (s.egrPort p).tt t
  let x := if cycle = 0 ∨ s.nowNs < tt.base then 0 else (s.nowNs - tt.base) % cycle
  ((ttSeek (s.ttIntervals p t) 0 x cycle).1, x)

/-- Lengths of the consecutive entries from `e` on, to the end of the cycle, as the cycle cuts or extends them. -/
def ttSpans : List Nat → Nat → List Nat
  | [], _ => []
  | [_], cycle => [cycle]
  | d :: ds, cycle => min d cycle :: ttSpans ds (cycle - d)

/-- The spans of a timetable's entries in its cycle. -/
def State.ttSpansOf (s : State) (p t : Nat) : List Nat := ttSpans (s.ttIntervals p t) (s.fld (F.EGR_TT_CYCLE_CYCLE_NS p t))

/-- The entries that run, from `first` on around the cycle: one that the cycle's end cuts off before it begins never
does (R220). -/
def State.ttOrder (s : State) (p t first : Nat) : List Nat :=
  let n := s.fld (F.EGR_TT_CTRL_NENT p t)
  ((List.range n).map fun i => (first + i) % max 1 n).filter fun i => decide (0 < (s.ttSpansOf p t).getD i 0)

/-- The ns until the gate of class group `c` closes, from now; none when it never closes (R223). -/
def State.gateCloses (s : State) (p t c : Nat) : Option Nat :=
  let spans := s.ttSpansOf p t
  let (e, x) := s.ttNow p t
  let openAt := fun i => Nat.testBit (bitsOf (s.ttWord p t i) 55 48) c
  let start := (spans.take e).foldl (· + ·) 0
  let rest := start + spans.getD e 0 - x
  let order := s.ttOrder p t (e + 1)
  if order.all openAt then none
  else some (rest + ((order.takeWhile openAt).map fun i => spans.getD i 0).foldl (· + ·) 0)

/-! ### Credits (R217) -/

/-- One bit of credit in the model's units: kb/s times cycles of 8/5 ns make 5,000,000ths of a bit. -/
def creditBit : Int := 5000000

def creditMax : Int := (2 ^ 31 - 1) * creditBit

def clampCredit (c : Int) : Int := max (-creditMax) (min creditMax c)

def State.cbsOn (s : State) (q t : Nat) : Bool := decide (t < 2) && s.flag (F.EGR_Q_SHAPE_CBS_EN q t)

/-- IDLE_SLOPE in force in kb/s: at most the port's data rate (R217). -/
def State.idleSlope (s : State) (q t : Nat) : Nat :=
  min (s.fld (F.EGR_Q_SHAPE_IDLE_SLOPE q t)) (1000 * s.portRate (q / 128))

/-- The tag whose parameters a queue's shaper uses: that of its frame on the wire, else of its head (R217, R218). -/
def State.queueTag (s : State) (q : Nat) : Option Nat :=
  match (s.egrPort (q / 128)).wire with
  | some w => if w.queue = q then (s.frame w.ref.frame).map Frame.tag
      else ((s.queue q).refs.head?.bind fun r => s.frame r.frame).map Frame.tag
  | none => ((s.queue q).refs.head?.bind fun r => s.frame r.frame).map Frame.tag

/-- Bring queue q's credit up to now (R217); a credit that already counts the gap after a frame stays until the gap has
passed. An empty queue has no head whose tag chooses CBS_EN: its credit is zero where no tag enables the shaper
(DEDUCED, log entry 99). -/
def State.bringCredit (s : State) (q : Nat) : State :=
  let eq := s.queue q
  let dt := s.time.cycles - eq.creditAt
  let now := max s.time.cycles eq.creditAt
  let p := q / 128
  let eg := s.egrPort p
  let onWire := match eg.wire with
    | some w => w.queue == q
    | none => false
  let cut := match eg.preempted with
    | some w => w.queue == q
    | none => false
  match s.queueTag q with
  | none =>
    let credit := if s.cbsOn q 0 || s.cbsOn q 1 then min eq.credit 0 else 0
    s.setQueue q { eq with credit := credit, creditAt := now }
  | some t =>
    let credit :=
      if s.cbsOn q t = false then 0
      else if onWire then
        eq.credit + 8 * (dt : Int) * ((s.idleSlope q t : Int) - 1000 * (s.portRate p : Int))
      else if cut || !s.gateOpen p t (q % 128 / 16) then eq.credit
      else eq.credit + 8 * (dt : Int) * (s.idleSlope q t : Int)
    s.setQueue q { eq with credit := clampCredit credit, creditAt := now }

/-- What the preamble, the start-of-frame delimiter and the inter-packet gap of queue q's frame on the wire cost it: 20
byte times at SEND_SLOPE, charged when its last byte has left, with the credit then standing still for as long (R217).
-/
def State.chargeGap (s : State) (q : Nat) : State :=
  let t := s.bringCredit q
  let eq := t.queue q
  match t.queueTag q with
  | none => t
  | some tag =>
    if t.cbsOn q tag then
      let n := 100000 / t.portRate (q / 128)
      let c := eq.credit + 8 * (n : Int) * ((t.idleSlope q tag : Int) - 1000 * (t.portRate (q / 128) : Int))
      t.setQueue q { eq with credit := clampCredit c, creditAt := eq.creditAt + n }
    else t

/-! ### Queue lengths and the watermark -/

/-- A queue's length in cells (R62). -/
def State.queueCells (s : State) (q : Nat) : Nat :=
  ((s.queue q).refs.map fun r => match s.frame r.frame with
    | some f => f.cellLen
    | none => 0).foldl (· + ·) 0

/-- The watermark of R230 after a queue's length changed. -/
def State.watermark (s : State) (q : Nat) : State :=
  let eq := s.queue q
  let wm := s.fld (F.EGR_Q_CTRL_WM q)
  let len := s.queueCells q
  if s.flag (F.EGR_Q_CTRL_WM_EN q) = false then s
  else if wm ≤ len ∧ eq.wmLatched = false then
    ((s.setQueue q { eq with wmLatched := true }).logFirst R.EGR_WM_LOG 31 q).raiseG 40 7
  else if 2 * len < wm ∧ eq.wmLatched = true then s.setQueue q { eq with wmLatched := false }
  else s

/-- The watermarks of every queue that holds frame `i`, whose length has changed (R230). -/
def State.watermarksOf (s : State) (i : Nat) : State :=
  (s.queues.map Prod.fst).foldl (fun t q => if (t.queue q).refs.any fun r => r.frame == i then t.watermark q else t) s

/-- How many of a queue's first references are picked, on the wire or preempted: they keep their place until their
transmission ends (R54, R215, R225). -/
def State.outCount (s : State) (q : Nat) : Nat :=
  let eg := s.egrPort (q / 128)
  ([eg.wire, eg.picked, eg.preempted].filter fun x => match x with
    | some w => w.queue == q
    | none => false).length

/-- The queue's head: its first reference that is not picked yet. -/
def State.headRef (s : State) (q : Nat) : Option QRef := ((s.queue q).refs.drop (s.outCount q)).head?

/-! ### Taking and releasing references -/

/-- alpha × F_u in cells, from an ALPHA code (R62). -/
def alphaLimit (code fu : Nat) : Nat := fu * 2 ^ code / 64

/-- The dynamic threshold test of R62 on queue `q` for a frame: an admitted class passes without a test. -/
def State.threshOk (s : State) (q : Nat) (f : Frame) : Bool :=
  let c := q % 128 / 16
  s.admClass f.tag c ||
    decide (s.queueCells q + f.cellLen ≤
      alphaLimit (bitsOf (s.reg (R.FRM_PARAM_ALPHA f.tag)) (4 * c + 3) (4 * c)) s.freeUnres)

/-! ### Age (R226) -/

/-- The age of a frame in units of 2^-16 ns (R52, R226). -/
def State.frameAge (s : State) (f : Frame) : Nat := s.stamp - s.rebuiltStamp f.stamp

/-- EGR_AGE_LIMIT of a class, in units of 100 µs. -/
def State.ageLimit (s : State) (p c : Nat) : Nat :=
  bitsOf (s.reg (R.EGR_AGE_LIMIT p (c / 2))) (16 * (c % 2) + 15) (16 * (c % 2))

/-- A head frame has reached its class age limit (R226). -/
def State.tooOld (s : State) (p c : Nat) (f : Frame) : Bool :=
  !f.admitted && decide (0 < s.ageLimit p c) && decide (s.ageLimit p c * 100000 * 65536 ≤ s.frameAge f)

/-- A drop of a head frame for its age: AGE_DROP, and LD_AGE_DROP where it was held (R226, R29). -/
def State.ageDrop (s : State) (q : Nat) (held : Bool) : State :=
  let t := (s.count (R.EGR_Q_C_AGE_DROP q)).raiseG 40 4
  if held then t.count (R.PRT_C_LD_AGE_DROP (q / 128)) else t

/-- Enqueue a reference to a frame in queue `q`, or discard it as the port's condition or the fence of its own queue
group says (R29, R403); a port of a fenced region is a port whose hold time has ended (R405). A frame that becomes the
head of its queue is tested for its age at once (R226, log entry 8). The threshold test is the caller's. -/
def State.enqueue (s : State) (q i : Nat) (mirror : Bool) : State :=
  match s.frame i with
  | none => s
  | some f =>
    let p := q / 128
    let cond := s.portCond p
    if s.fencedSrc (0x100 + 8 * p + q % 128 / 16) then s.count (R.EGR_Q_C_FLUSH_DROP q)
    else if cond = .ended ∨ (cond = .holding ∧ f.admitted = true) then
      (s.count (if f.admitted then R.PRT_C_LD_ADMITTED_DISCARD p else R.PRT_C_LD_BE_FLUSH p)).count
        (R.EGR_Q_C_LD_DROP q)
    else if cond = .up ∧ s.headRef q = none ∧ s.tooOld p (q % 128 / 16) f = true then
      (s.count (R.EGR_Q_C_ENQ_FRAMES q)).ageDrop q false
    else
      let t := s.bringCredit q
      let eq := t.queue q
      let t := t.setQueue q { eq with refs := eq.refs ++ [⟨i, mirror, decide (cond = .holding)⟩] }
      ((t.acquire i).count (R.EGR_Q_C_ENQ_FRAMES q)).watermark q

/-- Serve the residue of a queue: the oldest entry that names it takes its reference when the queue has fallen below
its limit, which the model takes as passing the test of R62 with the frame's own cells (R65; DEDUCED, log entry 100).
`n` bounds how many are served. -/
def State.serveResidue : Nat → Nat → State → State
  | 0, _, s => s
  | n + 1, q, s =>
    let p := q / 128
    let cands := s.gal.residue.filterMap fun x => match x.2 with
      | some r => if bitOf r.mask p && r.qoff == q % 128 then some (x.1, r) else none
      | none => none
    match cands.foldl (fun (m : Option (Nat × Residue)) x => match m with
        | some y => if x.2.order < y.2.order then some x else some y
        | none => some x) none with
    | none => s
    | some (k, r) =>
      match s.frame r.frame with
      | none => s
      | some f =>
        if s.threshOk q f = false then s
        else
          let t := s.enqueue q r.frame false
          let mask := r.mask &&& ~~~ BitVec.ofNat 128 (2 ^ p)
          let put := fun (u : State) (v : Option Residue) =>
            ({ u with gal := { u.gal with residue := tput (fun _ => none) u.gal.residue k v } } : State)
          if mask = 0 then
            let t := put t none
            let t := t.modFrame r.frame fun g => { g with residue := none }
            State.serveResidue n q (t.releaseRef r.frame (0x18 + f.inPort / 16))
          else State.serveResidue n q (put t (some { r with mask := mask }))

/-- The ports of a mask. -/
def maskPorts (m : BitVec 128) : List Nat := (List.range 128).filter fun p => bitOf m p

/-- Serve the residue of every queue that waits in it: a queue falls below its limit when it gets shorter, and when F_u
rises (R62, R65). -/
def State.serveAll (s : State) : State :=
  (s.gal.residue.flatMap fun x => match x.2 with
    | some r => (maskPorts r.mask).map fun p => 128 * p + r.qoff
    | none => []).foldl (fun t q => State.serveResidue 16384 q t) s

/-- Release a reference (R54), and serve the residue with the cells that this frees. -/
def State.release (s : State) (i code : Nat) : State := (s.releaseRef i code).serveAll

/-- Free all cells of a frame, and serve the residue. -/
def State.releaseFrame (s : State) (i code : Nat) : State := (s.releaseCells i code).serveAll

/-- A frame is lost before its commit (R47, R91, R125), and the residue is served with its cells. -/
def State.loseFrame (s : State) (i : Nat) : State := (s.loseCells i).serveAll

/-- Take a reference out of queue `q` (its first one to the frame), without releasing it. -/
def State.unlink (s : State) (q : Nat) (ref : QRef) : State :=
  let t := s.bringCredit q
  let eq := t.queue q
  let refs := eq.refs.erase ref
  let credit := if refs.isEmpty then min eq.credit 0 else eq.credit
  (t.setQueue q { eq with refs := refs, credit := credit }).watermark q

/-- Remove a reference from queue `q` and release it by the port's slice (R54, R65). -/
def State.dropRef (s : State) (q : Nat) (ref : QRef) : State := (s.unlink q ref).release ref.frame (0x18 + q / 2048)

/-- The age test on a frame that has become the head of queue `q`, repeated while it removes one; `n` bounds it. A port
whose link is not up makes none (R226, log entry 8). -/
def State.ageHead : Nat → Nat → State → State
  | 0, _, s => s
  | n + 1, q, s =>
    match (s.headRef q).bind fun r => (s.frame r.frame).map fun f => (r, f) with
    | none => s
    | some (r, f) =>
      if s.portCond (q / 128) == .up && s.tooOld (q / 128) (q % 128 / 16) f then
        State.ageHead n q ((s.ageDrop q r.held).dropRef q r)
      else s

/-- Test the head of queue `q` where it is another one than before (R226). -/
def State.headChanged (s : State) (q : Nat) (before : Option QRef) : State :=
  if s.headRef q = before then s else State.ageHead (s.queue q).refs.length q s

/-- Remove a reference from queue `q`, and test the head that it leaves. -/
def State.removeRef (s : State) (q : Nat) (ref : QRef) : State := (s.dropRef q ref).headChanged q (s.headRef q)

/-- Remove every reference of a queue, not picked yet, for which `sel` holds, counting each by `cnt`. -/
def State.removeRefs (s : State) (q : Nat) (sel : QRef → Frame → Bool) (cnt : State → Frame → State) : State :=
  (((s.queue q).refs.drop (s.outCount q)).foldl (fun t r => match t.frame r.frame with
    | some f => if sel r f then (cnt t f).dropRef q r else t
    | none => t) s).headChanged q (s.headRef q)

/-- The queues of port `p`. -/
def portQueues (p : Nat) : List Nat := (List.range 128).map fun i => 128 * p + i

/-- Whether a queue is in use: it holds a reference. -/
def State.busyQueues (s : State) (p : Nat) : List Nat := (portQueues p).filter fun q => !(s.queue q).refs.isEmpty

/-- A picked frame that has not begun is picked no more: it is the head of its queue again. -/
def State.unpick (s : State) (i : Nat) : State :=
  (s.egr.filter fun x => match x.2.picked with
    | some w => w.ref.frame == i
    | none => false).foldl (fun t x => t.setEgr x.1 { t.egrPort x.1 with picked := none }) s

/-- A frame dropped or stomped after its commit (R58): every reference whose head has not left is discarded, a picked
one too, and one that is leaving is stomped at its end. It is a drop, counted by `cnt`, where no head has left. -/
def State.goBad (s : State) (i : Nat) (cnt : State → State) : State :=
  match s.frame i with
  | none => s
  | some f =>
    let t := (s.setFrame i { f with bad := true }).unpick i
    let t := if f.headOut then t else cnt t
    (t.queues.map Prod.fst).foldl (fun t q => t.removeRefs q (fun r _ => r.frame == i) (fun u _ => u)) t

end Sys2Proof.Machine
end

