-- ==== Sys2Proof/Machine/Archive.lean ====
section
/-! DEFINITION. The Archive: selectors, capture into the ring, triggers and events, the NAND store, checkpoints and
recovery (R353 to R371). -/

namespace Sys2Proof.Machine

def State.modArc (s : State) (g : ArcUnit → ArcUnit) : State := { s with arc := g s.arc }

/-- One ms in stamp units. -/
def msStamp : Nat := 65536 * 1000000

/-- ARC_STATUS.STATE: 0 DISABLED, 1 FORMATTING, 2 RECOVERING, 3 READY, 4 EVENT, 5 UNAVAILABLE (R361). -/
def State.arcState (s : State) : Nat := s.fld F.ARC_STATUS_STATE
def State.setArcState (s : State) (n : Nat) : State := s.setFld F.ARC_STATUS_STATE n

/-- DISABLED, FORMATTING or UNAVAILABLE: triggers are ignored (R361). -/
def State.arcOff (s : State) : Bool := [0, 1, 5].contains s.arcState

/-- DISABLED or UNAVAILABLE: CAPMARK makes nothing (R354). -/
def State.capOff (s : State) : Bool := [0, 5].contains s.arcState

/-! ### The ring (R356 to R358) -/

/-- Bytes of the ring that hold records: its last MiB is the time index (R357). -/
def State.ringBytes (s : State) : Nat := (s.fld F.ARC_RING_SIZE_SIZE - 1) * 2 ^ 20

/-- The ring's first internal address. -/
def State.ringBase (s : State) : Nat := ddrBase + s.fld F.ARC_RING_BASE_BASE * 2 ^ 20

/-- The internal address of a stream position. -/
def State.ringAddr (s : State) (pos : Nat) : Nat := s.ringBase + pos % s.ringBytes

/-- The spans, address and length, that `len` bytes at a stream position take: two where they wrap at the ring's end. -/
def State.ringSpans (s : State) (pos len : Nat) : List (Nat × Nat) :=
  let left := s.ringBytes - pos % s.ringBytes
  if len ≤ left then [(s.ringAddr pos, len)] else [(s.ringAddr pos, left), (s.ringBase, len - left)]

/-- One span is written for capture: whether the DDR took all of it, and the state (R339, R345). -/
def State.ringSpan (s : State) (addr : Nat) (bs : List Byte) (fs : EccFinds) : Bool × State :=
  if s.ddrMapped addr bs.length then (!s.ddrDrops addr bs fs, s.ddrWrite 0 addr bs fs) else (false, s)

/-- Write bytes at a stream position: whether the DDR took all of them, and the state. -/
def State.ringWrite (s : State) (pos : Nat) (bs : List Byte) (fs : EccFinds) : Bool × State :=
  let left := s.ringBytes - pos % s.ringBytes
  if bs.length ≤ left then s.ringSpan (s.ringAddr pos) bs fs
  else
    let (a, t) := s.ringSpan (s.ringAddr pos) (bs.take left) fs
    let (b, u) := t.ringSpan s.ringBase (bs.drop left) (fs.after (burstsOf (s.ringAddr pos) left).length)
    (a && b, u)

/-- The time index records the ring position of the first record written in a ms of the time base (R357): one word at a
place of the ring's last MiB, whose layout the spec leaves open (log entry 46). -/
def State.ringIndex (s : State) (fs : EccFinds) : State :=
  let ms := s.stamp / msStamp
  if s.arc.ring.any fun r => r.at_ / msStamp == ms then s
  else
    let (place, word) := Config.ringIndex ms s.arc.pos
    let addr := s.ringBase + s.ringBytes + 8 * place.toNat
    if s.ddrMapped addr 8 then s.ddrWrite 0 addr (toBE 8 word.toNat) fs else s

/-- Read back a record for the Archive, its bursts from place `k` of the outcomes on: none when one is uncorrectable
(R347). -/
def State.ringRead (s : State) (r : RingRec) (k : Nat) (fs : EccFinds) : Option (List Byte) × State :=
  (s.ringSpans r.pos r.len).foldl (fun (acc : Option (List Byte) × State) x =>
    match acc with
    | (none, t) => (none, t)
    | (some bs, t) =>
      if t.ddrMapped x.1 x.2 then
        let (got, u) := t.ddrRead 1 x.1 x.2 (fs.after (k + ceilDiv bs.length 64))
        (got.map (bs ++ ·), u)
      else (none, t)) (some [], s)

/-- The open event. -/
def ArcUnit.openEvent (a : ArcUnit) : Option ArcEvent := a.events.find? (·.isOpen)

/-- Change the open event. -/
def ArcUnit.modOpen (a : ArcUnit) (g : ArcEvent → ArcEvent) : ArcUnit :=
  { a with events := a.events.map fun e => if e.isOpen then g e else e }

/-- The drain of an event is still to take a record (R360). -/
def ArcEvent.wants (e : ArcEvent) (seq : Nat) : Bool :=
  decide (e.next ≤ seq) && (match e.stop with
    | some x => decide (seq < x)
    | none => true)

/-- A record is still to be drained for the open or the pending event (R358). -/
def ArcUnit.needed (a : ArcUnit) (seq : Nat) : Bool :=
  (match a.openEvent with
    | some e => e.wants seq
    | none => false) ||
  (match a.pendingEvent with
    | some e => e.wants seq
    | none => false)

/-- A lost record extends the run of lost records, or begins one: a run whose reason is RESTART is closed (R355, R361).
-/
def gapExtend (sel reason : Nat) (time : Stamp) : List GapRun → List GapRun
  | [] => [⟨1, reason, sel, time⟩]
  | [g] => if g.reason = 6 then [g, ⟨1, reason, sel, time⟩] else [{ g with count := g.count + 1 }]
  | g :: rest => g :: gapExtend sel reason time rest

/-- Lose a record: count it and extend the run of lost records (R355, R358). -/
def State.loseRecord (s : State) (reason sel : Nat) (time : Stamp) : State :=
  let t := s.count R.ARC_C_LOST
  let t := t.modArc fun a => { a with gap := gapExtend sel reason time a.gap }
  if reason = 4 then
    (t.modArc fun a => a.modOpen fun e => { e with overrun := true }).raiseG 45 4
  else t

/-- Whether a record of `len` bytes fits without overwriting one that is still needed. -/
def State.ringFits (s : State) (len : Nat) : Bool :=
  (s.arc.ring.filter fun r => decide (r.pos + s.ringBytes < s.arc.pos + len)).all fun r => !s.arc.needed r.seq

/-- A record's six header words with its CRC (R356). `w3` is USER, COUNT or CAUSE. -/
def recordBytes (kind caplen len sel port cls : Nat) (time : Stamp) (flags : Nat) (w3 : W64) (rseq : Nat)
    (payload : List Byte) : List Byte :=
  let rlen := 48 + ceilDiv caplen 8 * 8
  let w0 := kind * 2 ^ 60 + rlen * 2 ^ 46 + caplen * 2 ^ 32 + len * 2 ^ 18 + sel * 2 ^ 10 + port * 2 ^ 3 + cls
  let w1 := stampSec time * 2 ^ 16 + stampFrac time
  let w2 := stampNs time * 2 ^ 34 + flags
  let head := toBE 8 w0 ++ toBE 8 w1 ++ toBE 8 w2 ++ toBE 8 w3.toNat ++ toBE 8 rseq
  let body := padTo (rlen - 48) (payload.take caplen)
  head ++ toBE 8 (crc32c 0xFFFFFFFF (head ++ toBE 8 0 ++ body)) ++ body

/-- A written record joins the ring: the oldest records give way (R357, R358). -/
def State.ringTake (s : State) (kind sel : Nat) (time : Stamp) (len : Nat) : State :=
  let a := s.arc
  let gone := a.ring.filter fun r => decide (r.pos + s.ringBytes < a.pos + len)
  let reach := match gone.getLast? with
    | some r => r.at_
    | none => a.reach
  let t := s.modArc fun x => { x with
    ring := (x.ring.drop gone.length) ++ [⟨x.rseq, x.pos, len, kind, sel, time, s.stamp⟩]
    pos := x.pos + len, rseq := x.rseq + 1, reach := reach }
  (t.count R.ARC_C_RECORDS).countN R.ARC_C_RECORD_BYTES len

/-- Write a record: 0, or the reason for which it cannot be written, 4 OVERRUN or 5 DDR (R356, R358). -/
def State.ringPut (s : State) (kind sel : Nat) (time : Stamp) (bs : List Byte) (fs : EccFinds) : Nat × State :=
  if s.ringFits bs.length = false then (4, s)
  else match s.ringWrite s.arc.pos bs fs with
    | (false, t) => (5, t)
    | (true, t) => (0, (t.ringIndex (fs.after (ceilDiv bs.length 64 + 1))).ringTake kind sel time bs.length)

/-- Write the gap records of the waiting runs: 0 when none is left, else the reason that keeps one back (R355). Each
takes three places of the outcomes. -/
def State.flushGaps (s : State) : List GapRun → EccFinds → Nat × State
  | [], _ => (0, s.modArc fun a => { a with gap := [] })
  | g :: rest, fs =>
    match s.ringPut 2 g.sel g.time (recordBytes 2 0 0 g.sel 0 g.reason g.time 0 (w64 g.count) s.arc.rseq []) fs with
    | (0, t) => State.flushGaps (t.raiseG 45 3) rest (fs.after 3)
    | (n, t) => (n, t.modArc fun a => { a with gap := g :: rest })

/-- Write a record built for an RSEQ, behind the gap records that wait, or lose it (R355, R358). -/
def State.ringRecord (s : State) (kind sel : Nat) (time : Stamp) (build : Nat → List Byte) (fs : EccFinds) : State :=
  match s.flushGaps s.arc.gap fs with
  | (0, t) =>
    (match t.ringPut kind sel time (build t.arc.rseq) (fs.after (3 * s.arc.gap.length)) with
      | (0, u) => u
      | (n, u) => u.loseRecord n sel time)
  | (n, t) => t.loseRecord n sel time

/-! ### Capture (R353 to R355) -/

/-- CAPMARK at the retirement of a pass (R354). -/
def State.capMark (s : State) (i sel : Nat) : State :=
  match s.frame i with
  | none => s
  | some f =>
    if s.capOff then s.count R.ARC_C_CAP_OFF
    else if s.flag (F.ARC_SEL_STATE_ARMED sel) = false then s.count R.ARC_C_SEL_OFF
    else if 4096 ≤ s.arc.queue.length then s.loseRecord 2 sel (s.rebuiltStamp f.stamp)
    else (s.acquire i).modArc fun a => { a with queue := a.queue ++ [⟨i, sel⟩] }

def State.selWord (s : State) (sel w : Nat) : W64 := s.reg (R.ARC_SEL sel w)

/-- CAPLEN of a frame of `len` bytes under a selector (R353). -/
def State.capLen (s : State) (sel len : Nat) : Nat :=
  let snap := bitsOf (s.selWord sel 0) 63 50
  if snap = 0 then len else min snap len

/-- Charge a selector's token bucket with a record: false when the cap refuses it (R354). -/
def State.capCharge (s : State) (sel rlen : Nat) : Bool × State :=
  let rate := bitsOf (s.selWord sel 1) 63 48
  let cap := bitsOf (s.selWord sel 1) 47 32 * 1024 * 5000
  if rate = 0 then (true, s)
  else
    let dt := s.time.cycles - tget (fun _ => 0) s.arc.filled sel
    let have_ := min cap (tget (fun _ => 0) s.arc.tokens sel + rate * 8 * dt)
    let need := rlen * 5000
    let left := if need ≤ have_ then have_ - need else have_
    (decide (need ≤ have_), s.modArc fun a => { a with
      tokens := tput (fun _ => 0) a.tokens sel left
      filled := tput (fun _ => 0) a.filled sel s.time.cycles })

/-- The request at the head leaves the queue: its record cell and its reference are released (R354). -/
def State.capPop (s : State) : State :=
  match s.arc.queue with
  | [] => s
  | q :: rest =>
    let t := match s.arc.recCell with
      | some c => s.freeCell 0x10 c
      | none => s
    (t.modArc fun a => { a with queue := rest, recCell := none }).release q.frame 0x10

/-- The pool answers NONE to the record cell of the request at the head (R47, R68, R70). -/
def State.capNone (s : State) : State :=
  match s.arc.queue with
  | [] => s
  | q :: _ =>
    let time := match s.frame q.frame with
      | some f => s.rebuiltStamp f.stamp
      | none => s.stamp
    ((((s.count R.GAL_C_NONE_CAPTURE).count R.GAL_C_GAP_MARKS).raiseG 36 9).loseRecord 1 q.sel time).capPop

/-- Write the head request's record, its record cell granted (R354, R356). -/
def State.capWrite (s : State) (q : CapReq) (f : Frame) (ecc : EccRead) (fs : EccFinds) : State :=
  let time := s.rebuiltStamp f.stamp
  let caplen := s.capLen q.sel f.len
  let (fails, t) := s.readFrame f.cells ecc
  if fails then (t.loseRecord 7 q.sel time).capPop
  else
    let flags := f.tag % 2 * 2 ^ 33 + b2n f.bad * 2 ^ 32 + (match f.wbl with
      | some w => 2 ^ 31 + w * 2 ^ 16
      | none => 0)
    (t.ringRecord 1 q.sel time (fun rseq =>
      recordBytes 1 caplen f.len q.sel f.inPort f.cls time flags f.user rseq f.bytes) fs).capPop

/-- CAPTURE_SERVE: the engine serves the request at the head of the queue (R354). It waits for a frame that still
arrives, and for a record cell that the pool makes wait. `ecc` is what the read of the frame's cells finds, in one of
them that the model leaves free (log entry 92); `finds` is what the DDR's reads of bursts written in part find (R345).
-/
def execCaptureServe (ecc : EccRead) (finds : EccFinds) (s : State) : Out State :=
  .next (
    match s.arc.queue with
    | [] => s
    | q :: _ =>
      match s.frame q.frame with
      | none => s.capPop
      | some f =>
        if f.complete = false ∧ f.bad = false then s
        else
          let rlen := 48 + ceilDiv (s.capLen q.sel f.len) 8 * 8
          let (ok, t) := s.capCharge q.sel rlen
          if ok = false then (t.loseRecord 3 q.sel (s.rebuiltStamp f.stamp)).capPop
          else match t.arc.recCell with
            | some _ => t.capWrite q f ecc finds
            | none =>
              match t.request 0x10 false false [] with
              | (.cell c, _, _, u) => (u.modArc fun a => { a with recCell := some c }).capWrite q f ecc finds
              | (.none, _, _, u) => u.capNone
              | (.wait, _, _, _) => s)

/-- CAPARM: RANGE, or the selector's new words (R353). -/
def State.capArm (s : State) (sel : Nat) (arm : Bool) (data : List W64) : Nat × State :=
  let bad := fun (j : Nat) (w : W64) => match j with
    | 0 => bitsOf w 49 0 != 0 || (bitsOf w 63 50 != 0 && decide (bitsOf w 63 50 < 64)) || decide (9728 < bitsOf w 63 50)
    | 1 => bitsOf w 31 0 != 0
    | _ => bitsOf w 63 32 != 0
  if arm = false then
    if data.isEmpty then (0, s.setReg (R.ARC_SEL_STATE sel) 0) else (5, s)
  else if 4 < data.length ∨ ((List.range data.length).any fun j => bad j (data.getD j 0)) = true then (5, s)
  else
    let t := (List.range data.length).foldl (fun t j => t.setReg (R.ARC_SEL sel j) (data.getD j 0)) s
    let cap := bitsOf (t.selWord sel 1) 47 32 * 1024 * 5000
    (0, (t.setFlag (F.ARC_SEL_STATE_ARMED sel) true).modArc fun a => { a with
      tokens := tput (fun _ => 0) a.tokens sel cap
      filled := tput (fun _ => 0) a.filled sel s.time.cycles })

/-! ### Triggers and events (R359 to R361) -/

def State.preSpan (s : State) : Nat := min 10000 (s.fld F.ARC_TRIG_CFG_PRE_MS)
def State.postSpan (s : State) : Nat := min 10000 (s.fld F.ARC_TRIG_CFG_POST_MS)
def State.maxSpan (s : State) : Nat := 1000 * s.fld F.ARC_TRIG_CFG2_MAX_S * msStamp

/-- A new event of a trigger, its drain at the time-index position of its start time (R360). -/
def State.newEvent (s : State) (src cause : Nat) (time : Stamp) : ArcEvent :=
  let start := time - s.preSpan * msStamp
  let ms := start / msStamp * msStamp
  let next := match s.arc.ring.find? fun r => decide (ms ≤ r.at_) with
    | some r => r.seq
    | none => s.arc.rseq
  { num := 0, isOpen := true, keep := false, truncated := false, preShort := decide (ms < s.arc.reach)
    lostTail := false, missing := false, overrun := false, ncause := 1, causes := [src * 256 + cause], t := time
    tLast := time, tEnd := time + s.postSpan * msStamp, preMs := s.preSpan, npages := 0, records := 0, gaps := 0
    next := next, stop := none, buf := [], marks := [] }

/-- Triggers extend an event: `n` of them with their causes, the latest at `time` (R360). -/
def State.extendBy (s : State) (e : ArcEvent) (n : Nat) (causes : List Nat) (time : Stamp) : ArcEvent :=
  let tEnd := max e.tEnd (min (time + s.postSpan * msStamp) (e.t + s.maxSpan))
  { e with
    ncause := min 255 (e.ncause + n)
    causes := (e.causes ++ causes).take 8
    tLast := max e.tLast time
    tEnd := tEnd
    stop := if tEnd = e.tEnd then e.stop else none }

/-- A further trigger extends an event (R360). -/
def State.extendEvent (s : State) (e : ArcEvent) (src cause : Nat) (time : Stamp) : ArcEvent :=
  s.extendBy e 1 [src * 256 + cause] time

/-- Blocks whose pages all belong to no event any more wait to be erased. -/
def State.freeDead (s : State) : State :=
  let live := s.arc.pages.map (·.block)
  s.modArc fun a => { a with blocks := a.blocks.map fun x =>
    if x.2.used != 0 && !x.2.bad && !live.contains x.1 &&
      !(a.openBlock.any fun o => o.2 == some x.1) then (x.1, { x.2 with dirty := true }) else x }

/-- Remove the oldest closed event whose KEEP is 0 (R366). -/
def State.reclaim (s : State) : Option State :=
  match s.arc.events.find? fun e => !e.isOpen && !e.keep with
  | none => none
  | some e => some ((s.modArc fun a => { a with
      events := a.events.filter fun x => x.num != e.num
      pages := a.pages.filter fun p => p.event != e.num }).freeDead)

/-- Open an event: it takes its number (R360). A full table first reclaims (R369); an event for which that finds no
room is not opened (log entry 46). -/
def State.openEvent (s : State) (e : ArcEvent) : State :=
  let room := if s.arc.events.length < 4096 then some s else s.reclaim
  match room with
  | none => s
  | some s =>
    let n := s.arc.nextEvent
    let t := s.modArc fun a => { a with events := a.events ++ [{ e with num := n }], nextEvent := n + 1 }
    ((t.setReg R.ARC_EVENT_CUR (w64 n)).setArcState 4).raiseG 45 1

/-- The pending event (R360). -/
def State.setPending (s : State) (e : ArcEvent) : State :=
  (s.modArc fun a => { a with pendingEvent := some e }).setFlag F.ARC_STATUS_PENDING true

/-- A trigger that is taken while no recovery runs: it opens an event, or extends the open or the pending one (R360). -/
def State.takeTrigger (s : State) (src cause : Nat) (time : Stamp) : State :=
  match s.arc.openEvent with
  | none => s.openEvent (s.newEvent src cause time)
  | some e =>
    if time ≤ e.tEnd then s.modArc fun a => a.modOpen fun x => s.extendEvent x src cause time
    else s.setPending (match s.arc.pendingEvent with
      | some p => s.extendEvent p src cause time
      | none => s.newEvent src cause time)

/-- A trigger: source code, cause and time (R359 to R361). What the DDR's reads for its TRIGGER record find is open (log
entry 115). -/
def State.trigger (s : State) (src cause : Nat) (time : Stamp) : State :=
  if s.arcOff then (s.count R.ARC_C_TRIG_IGNORED).raiseG 45 12
  else
    let t := (s.count R.ARC_C_TRIGGERS).raiseG 45 0
    let (fs, t) := t.takeFinds (3 * (t.arc.gap.length + 1))
    let t := t.ringRecord 3 0 time (fun rseq => recordBytes 3 0 0 0 0 0 time 0 (w64 (src * 256 + cause)) rseq []) fs
    if t.arcState = 2 then
      t.modArc fun a => { a with held := some (match a.held with
        | some e => t.extendEvent e src cause time
        | none => t.newEvent src cause time) }
    else t.takeTrigger src cause time

/-- Recovery has completed: a held trigger, with those that extended it, opens its event, or extends the event that
resumes or the pending one (R360, R361). -/
def State.releaseHeld (s : State) : State :=
  match s.arc.held with
  | none => s
  | some h =>
    let t := s.modArc fun a => { a with held := none }
    match t.arc.openEvent with
    | none => t.openEvent h
    | some e =>
      if h.t ≤ e.tEnd then t.modArc fun a => a.modOpen fun x => t.extendBy x h.ncause h.causes h.tLast
      else t.setPending (match t.arc.pendingEvent with
        | some p => t.extendBy p h.ncause h.causes h.tLast
        | none => h)

/-- TRIG_IN_EDGE: an edge that stayed high for 1 µs; within 1 ms of the last one taken it is ignored (R359). -/
def execTrigInEdge (s : State) : Out State :=
  .next (
    let soon : Bool := match s.arc.pinAt with
      | some c => decide (s.time.cycles < c + 625000)
      | none => false
    if s.flag F.ARC_TRIG_CFG2_PIN_EN = false ∨ soon = true then s
    else (s.modArc fun a => { a with pinAt := some s.time.cycles }).trigger 3 (s.fld F.ARC_TRIG_CFG2_PIN_CAUSE) s.stamp)

/-- The end position of an event whose end time has passed: the first record written later (R360). -/
def State.endPosition (s : State) (e : ArcEvent) : ArcEvent :=
  if e.stop.isNone then
    { e with stop := some (match s.arc.ring.find? fun r => decide (e.tEnd < r.at_) with
      | some r => r.seq
      | none => s.arc.rseq) }
  else e

/-- EVENT_END_PASS: the time base passes E of the open event, or of the pending one (R360). -/
def execEventEndPass (s : State) : Out State :=
  .next (s.modArc fun a => { a.modOpen s.endPosition with pendingEvent := a.pendingEvent.map s.endPosition })

/-! ### The store's blocks (R365 to R367) -/

def State.planes (s : State) : Nat := max 1 (s.fld F.ARC_GEOM1_PLANES)
def State.dieBlocks (s : State) : Nat := s.fld F.ARC_GEOM0_BLOCKS
def State.nandBlock (s : State) (b : Nat) : NandBlock := tget (fun _ => NandBlock.init) s.arc.blocks b
def State.setNandBlock (s : State) (b : Nat) (v : NandBlock) : State :=
  s.modArc fun a => { a with blocks := tput (fun _ => NandBlock.init) a.blocks b v }
def State.eraseCount (s : State) (b : Nat) : Nat := (s.nandBlock b).erases + s.arc.formats

/-- Dies that the declared geometry has room for: eight channels of CES chip enables of DIES_CE dies, at most 128
(R362). -/
def State.dieRoom (s : State) : Nat := min 128 (8 * s.fld F.ARC_GEOM1_CES * s.fld F.ARC_GEOM1_DIES_CE)

/-- A die offers what R362 asks of it and agrees with ARC_GEOM. -/
def State.dieAgrees (s : State) (p : DieParams) : Bool :=
  p.dataBytes == 16384 && decide (2048 ≤ p.spareBytes) && p.pages == s.fld F.ARC_GEOM0_PAGES &&
    p.blocks == s.fld F.ARC_GEOM0_BLOCKS && p.planes == s.fld F.ARC_GEOM1_PLANES && p.readRetry

/-- The dies that agree, of those that answer to initialisation with their parameter pages. -/
def State.agreeing (s : State) (found : List (Fin 128 × DieParams)) : BitVec 128 :=
  BitVec.ofNat 128 (maskOf 128 fun d => found.any fun x => x.1.val == d && s.dieAgrees x.2)

/-- Usable dies (R362); die d lies on channel d mod 8, so rising numbers rotate over the channels. -/
def State.usableDies (s : State) : List Nat :=
  (List.range s.dieRoom).filter fun d => bitOf s.arc.dies d && !s.arc.deadDies.contains d

/-- Blocks of a die in number order; block b lies in plane b mod PLANES. -/
def State.blocksOf (s : State) (d : Nat) : List Nat := (List.range s.dieBlocks).map fun k => d * s.dieBlocks + k

/-- Root A and root B: the first 16 good blocks of die 0 on channels 0 and 1 (R368). -/
def State.rootBlock (s : State) (b : Nat) : Bool :=
  decide (b / s.dieBlocks < 2) &&
    (((s.blocksOf (b / s.dieBlocks)).filter fun k => !(s.nandBlock k).bad).take 16).contains b

/-- Erased good blocks of a die. -/
def State.erasedBlocks (s : State) (d : Nat) : List Nat :=
  (s.blocksOf d).filter fun b =>
    let k := s.nandBlock b
    !k.bad && !k.dirty && k.used == 0 && !s.rootBlock b

/-- A block is retired into the bad-block table; 16 failing blocks in a row retire the die (R367). -/
def State.retireBlock (s : State) (b : Nat) (failed : Bool) : State :=
  let t := s.setNandBlock b { s.nandBlock b with bad := true, dirty := false }
  let t := (t.count R.ARC_C_RETIRED).raiseG 45 6
  let d := b / s.dieBlocks
  let n := tget (fun _ => 0) s.arc.fails d + 1
  if failed = false then t
  else
    let t := t.modArc fun a => { a with fails := tput (fun _ => 0) a.fails d n }
    if n < 16 then t
    else
      let t := (t.modArc fun a => { a with deadDies := a.deadDies ++ [d] })
      let t := (t.setFld F.ARC_STATUS_DIES_OK t.usableDies.length).raiseG 45 10
      if t.usableDies.isEmpty then (t.setArcState 5).raiseG 45 11 else t

/-- Keep at least 2 % of a die's blocks erased or about to be (R366); `n` bounds the events removed. -/
def State.keepErased (d : Nat) : Nat → State → State
  | 0, s => s
  | n + 1, s =>
    let ready := (s.erasedBlocks d).length + ((s.blocksOf d).filter fun b => (s.nandBlock b).dirty).length
    if s.dieBlocks ≤ 50 * ready then s
    else match s.reclaim with
      | some t => State.keepErased d n t
      | none => s

/-- The same for every usable die. -/
def State.keepAllErased (s : State) : State := s.usableDies.foldl (fun t d => State.keepErased d 4096 t) s

/-- The block that the next page goes to: its die's open block of its plane, else the erased one with the lowest erase
count (R365, R366). -/
def State.nextBlock (s : State) : Option (Nat × State) :=
  let dies := s.usableDies
  let d := dies.getD (s.arc.programs / s.planes % max 1 dies.length) 0
  let key := d * 4 + s.arc.programs % s.planes
  match tget (fun _ => none) s.arc.openBlock key with
  | some b => some (b, s)
  | none =>
    if dies.isEmpty then none
    else
      let t := State.keepErased d 4096 s
      let pick := ((t.erasedBlocks d).filter fun b => b % t.planes == t.arc.programs % t.planes).foldl
        (fun (m : Option Nat) b => match m with
          | none => some b
          | some x => if t.eraseCount b < t.eraseCount x then some b else some x) none
      pick.map fun b => (b, t.modArc fun a => { a with openBlock := tput (fun _ => none) a.openBlock key (some b) })

/-- One program operation on the next block: the page it wrote, when it succeeds, is given its PSEQ and place; a
failure retires the block and uses up the PSEQ (R364, R367). -/
def State.program (s : State) (ok : Bool) (page : NandPage) (done : State → State) : State :=
  match s.nextBlock with
  | none => s
  | some (b, t) =>
    let pseq := t.arc.pseq
    let blk := t.nandBlock b
    let full := !ok || decide (s.fld F.ARC_GEOM0_PAGES ≤ blk.used + 1)
    let t := t.setNandBlock b { blk with used := blk.used + 1 }
    let t := t.modArc fun a => { a with
      pseq := pseq + 1, programs := a.programs + 1
      openBlock := if full then a.openBlock.filter fun o => o.2 != some b else a.openBlock }
    if ok then
      let t := t.modArc fun a => { a with
        pages := a.pages ++ [{ page with pseq := pseq, block := b }]
        fails := tput (fun _ => 0) a.fails (b / s.dieBlocks) 0
        sinceCheckpoint := a.sinceCheckpoint + 1 }
      done (t.count R.ARC_C_PAGES)
    else (t.modArc fun a => { a with failed := a.failed ++ [pseq] }).retireBlock b true

/-! ### Checkpoints (R364, R368) -/

/-- Write a checkpoint, to root A and root B in turn: its TYPE 2 pages take PSEQs and count as programmed. How many
they are is open (log entry 46). -/
def State.writeCheckpoint (s : State) : State :=
  let (v, t) := s.takeFree 8
  let n := v.toNat + 1
  let a := t.arc
  let c : Checkpoint :=
    { first := a.pseq, frontier := a.pseq + v.toNat, bad := (a.blocks.filter fun x => x.2.bad).map Prod.fst
      erases := a.blocks.map fun x => (x.1, x.2.erases), formats := a.formats, events := a.events
      nextEvent := a.nextEvent }
  (t.modArc fun a => { a with
    rootA := if a.nextB then a.rootA else some c
    rootB := if a.nextB then some c else a.rootB
    nextB := !a.nextB, pseq := a.pseq + n, sinceCheckpoint := 0 }).countN R.ARC_C_PAGES n

/-! ### The drain (R360, R364) -/

/-- A FRAME record outside its selector's spans is not stored (R360). -/
def State.storesRec (s : State) (e : ArcEvent) (r : RingRec) : Bool :=
  let own := fun w g => let x := bitsOf (s.selWord r.sel w) 31 0; if x = 0 then g else x
  r.kind != 1 ||
    (decide (e.t ≤ r.time + own 2 e.preMs * msStamp) && decide (r.time ≤ e.tLast + own 3 s.postSpan * msStamp))

/-- What the drain has read: the state, the event with its page buffer, and the place of the next burst's outcome. -/
structure Drain where
  st : State
  ev : ArcEvent
  place : Nat

/-- Take one record of the ring into the page buffer, until more than a page is there. A record with an uncorrectable
burst is lost with reason DDR (R347, R356; log entry 46). -/
def Drain.take (fs : EccFinds) (d : Drain) (r : RingRec) : Drain :=
  let e := d.ev
  if 16320 < e.buf.length ∨ e.wants r.seq = false then d
  else
    let e := { e with next := r.seq + 1 }
    if d.st.storesRec e r = false then { d with ev := e }
    else
      let place := d.place + r.len / 64 + 2
      match d.st.ringRead r d.place fs with
      | (some bs, t) =>
        let n := e.buf.length
        ⟨t, { e with buf := e.buf ++ bs, marks := e.marks ++ [⟨false, n, n + bs.length, r.seq, r.kind == 2⟩] }, place⟩
      | (none, t) => ⟨t.loseRecord 5 r.sel r.time, e, place⟩

/-- The end position is fixed and every record before it is taken. -/
def ArcEvent.atEnd (e : ArcEvent) : Bool := match e.stop with
  | some x => decide (x ≤ e.next)
  | none => false

/-- A drain whose end is fixed steps over what the ring does not hold. -/
def ArcEvent.skipTo (e : ArcEvent) (a : ArcUnit) : ArcEvent :=
  match e.stop with
  | some x => if a.ring.any (fun r => e.wants r.seq) then e else { e with next := max e.next x }
  | none => e

/-- The event's LAST page is written (R364). -/
def ArcUnit.lastWritten (a : ArcUnit) (num : Nat) : Bool := a.pages.any fun p => p.event == num && p.last

/-- The page that holds the first `n` bytes of an event's buffer (R364). -/
def ArcEvent.page (e : ArcEvent) (n : Nat) (last : Bool) : NandPage :=
  let first := e.marks.find? fun m => !m.begun && decide (m.start < n)
  let done := e.marks.filter fun m => decide (m.stop ≤ n)
  { pseq := 0, kind := 1, last := last
    firstRec := match first with
      | some m => 64 + m.start
      | none => 0xFFFF
    event := e.num, epage := e.npages, orig := 0
    rseq := match first with
      | some m => m.seq
      | none => 0
    data := e.buf.take n, block := 0
    after := match e.marks.find? fun m => decide (n < m.stop) with
      | some m => m.seq
      | none => e.next
    records := e.records + done.length, gaps := e.gaps + (done.filter (·.gap)).length }

/-- The event once a page with the first `n` bytes of its buffer is programmed. -/
def ArcEvent.advance (e : ArcEvent) (n : Nat) : ArcEvent :=
  let p := e.page n false
  { e with
    npages := e.npages + 1, records := p.records, gaps := p.gaps, buf := e.buf.drop n
    marks := (e.marks.filter fun m => decide (n < m.stop)).map fun m =>
      { m with begun := m.begun || decide (m.start < n), start := m.start - n, stop := m.stop - n } }

/-- Program a page with up to 16,320 bytes of the open event's buffer. -/
def State.programEvent (s : State) (ok last : Bool) (after : ArcEvent → State → State) : State :=
  match s.arc.openEvent with
  | none => s
  | some e =>
    let n := min 16320 e.buf.length
    s.program ok (e.page n last) fun t => after e (t.modArc fun a => a.modOpen fun _ => e.advance n)

/-! ### Closing (R361, R364) -/

/-- Close the open event with a checkpoint. -/
def State.shutEvent (s : State) : State :=
  let t := s.modArc fun a => a.modOpen fun x => { x with isOpen := false, buf := [], marks := [] }
  (((t.count R.ARC_C_EVENTS).raiseG 45 2).writeCheckpoint).setReg R.ARC_EVENT_CUR 0

/-- The LAST page of an event that ends here: what its last record still lacks, or nothing (R364). Before a recovery is
complete nothing is programmed. -/
def State.lastPage (s : State) : State :=
  match s.arc.openEvent with
  | none => s
  | some e =>
    let cut := match e.marks.find? (·.begun) with
      | some m => m.stop
      | none => 0
    if s.arcState = 2 ∨ cut = 0 ∧ s.arc.lastWritten e.num = true then s
    else
      let t := s.modArc fun a => a.modOpen fun x =>
        { x with buf := x.buf.take cut, marks := x.marks.filter (·.begun) }
      t.programEvent true true fun _ u => u

/-- Close the open event and open the pending one (R361). -/
def State.closeEvent (s : State) : State :=
  match s.arc.openEvent with
  | none => s
  | some e =>
    let t := s.lastPage.shutEvent
    match t.arc.pendingEvent with
    | some p =>
      ((t.setArcState 3).modArc fun a => { a with pendingEvent := none }).setFlag F.ARC_STATUS_PENDING false
        |>.openEvent { p with next := max p.next e.next }
    | none => t.setArcState 3

/-- An event has reached half of the store: it is closed with TRUNCATED, and its remaining triggers open a new event
with the records that its pages do not hold whole (R366). -/
def State.halfClose (e : ArcEvent) (n : Nat) (s : State) : State :=
  let rest : ArcEvent :=
    { e with
      num := 0, npages := 0, records := 0, gaps := 0, preShort := false, truncated := false
      next := (e.page n true).after, buf := [], marks := [] }
  ((s.modArc fun a => a.modOpen fun x => { x with truncated := true }).shutEvent.setArcState 3).openEvent rest

/-- Program the open event's next page; `partial_` also writes a page that is not full, as a checkpoint does. The page
that reaches half of the store is the event's LAST one. -/
def State.drainPage (s : State) (ok partial_ : Bool) (fs : EccFinds) : State :=
  match s.arc.openEvent with
  | none => s
  | some e0 =>
    let d := s.arc.ring.foldl (Drain.take fs) ⟨s, e0, 0⟩
    let e := d.ev.skipTo d.st.arc
    let t := d.st.modArc fun a => a.modOpen fun x => { e with overrun := x.overrun }
    let atLast := e.atEnd && decide (e.buf.length ≤ 16320)
    if e.buf.length ≤ 16320 ∧ (partial_ = false ∨ e.buf = []) ∧
        (atLast = false ∨ e.buf = [] ∧ t.arc.lastWritten e.num = true) then t
    else
      let half := !atLast && decide
        (t.usableDies.length * t.dieBlocks * t.fld F.ARC_GEOM0_PAGES ≤ 2 * (e.npages + 1))
      t.programEvent ok (atLast || half) fun x u => if half then State.halfClose x (min 16320 x.buf.length) u else u

/-- PAGE_PROGRAM_DONE: the next page of the drain is programmed, or its block retired (R364, R367). `finds` is what the
DDR's reads of the ring find, by place: a record takes a place for each burst that it can touch. -/
def execPageProgramDone (ok : Bool) (finds : EccFinds) (s : State) : Out State :=
  .next ((s.drainPage ok false finds).keepAllErased)

/-- CHECKPOINT_TIMER: a checkpoint while pages are being written (R368). -/
def execCheckpointTimer (finds : EccFinds) (s : State) : Out State :=
  .next (if s.arc.sinceCheckpoint = 0 then s else (s.drainPage true true finds).writeCheckpoint)

/-- EVENT_CLOSE: the drain has reached the end position (R361). -/
def execEventClose (s : State) : Out State :=
  .next (
    match s.arc.openEvent with
    | some e =>
      let x := e.skipTo s.arc
      if s.arcState = 4 ∧ x.atEnd = true ∧ x.buf.isEmpty = true then s.closeEvent else s
    | none => s)

/-! ### Enabling, formatting, recovery (R361, R368) -/

/-- UNAVAILABLE is entered (R361). -/
def State.arcUnavailable (s : State) : State := if s.arcState = 5 then s else (s.setArcState 5).raiseG 45 11

/-- The DDR is absent or failed: the Archive is unavailable (R339, R361). -/
def State.arcDdrCheck (s : State) : State := if s.ddrReady then s else s.arcUnavailable

/-- EN written 1 (R361). `formatted` and `dies` are what the NAND shows. -/
def State.arcOn (s : State) (formatted : Bool) (dies : BitVec 128) : State :=
  let t := s.setFlag F.ARC_CTRL_EN true
  if s.arcState ≠ 0 then t
  else
    let t := t.modArc fun a => { a with dies := dies, formatted := a.formatted || formatted, reach := s.stamp }
    let t := t.setFld F.ARC_STATUS_DIES_OK t.usableDies.length
    if t.ddrReady = false ∨ t.usableDies.isEmpty = true then t.arcUnavailable
    else if t.arc.formatted then t.setArcState 2
    else t

/-- EN is 1 once a start has trained the DDR, or the DDR is absent or failed (R361, R362): what the NAND shows is open
(log entry 118). -/
def State.arcStartUp (s : State) : State :=
  let t := s.arcDdrCheck
  if t.arcState = 0 ∧ t.flag F.ARC_CTRL_EN = true then
    let (dies, u) := t.takeFree 128
    u.arcOn u.arc.formatted dies
  else t

/-- ARC_ENABLE: EN written 1 (R361). -/
def execArcEnable (formatted : Bool) (dies : List (Fin 128 × DieParams)) (s : State) : Out State :=
  .next (s.byHost R.ARC_CTRL fun s => s.arcOn formatted (s.agreeing dies))

/-- EN written 0 (R361): in UNAVAILABLE an open event stays in the table as it is (DEDUCED, log entry 118). -/
def State.arcStop (s : State) : State :=
  let t := s.setFlag F.ARC_CTRL_EN false
  if s.arcState = 0 then t
  else
    let t := (t.modArc fun a => { a with pendingEvent := none, held := none }).setFlag F.ARC_STATUS_PENDING false
    if s.arcState = 5 then t.setArcState 0
    else if t.arc.openEvent.isNone then t.writeCheckpoint.setArcState 0
    else ((t.modArc fun a => a.modOpen fun e => { e with truncated := true }).closeEvent).setArcState 0

/-- ARC_DISABLE. -/
def execArcDisable (s : State) : Out State :=
  .next (s.byHost R.ARC_CTRL fun s => s.arcStop)

/-- ARC_FORMAT: FORMAT written 1, in DISABLED only (R361). -/
def State.arcErase (s : State) : State :=
  if s.arcState = 0 then s.setArcState 1 else s

def execArcFormat (s : State) : Out State :=
  .next (s.byHost R.ARC_CTRL fun s => s.arcErase)

/-- Every block is erased; those that have reached ENDURANCE are retired (R361, R366). -/
def State.eraseStore (s : State) (badBlocks : List Nat) (dies : BitVec 128) : State :=
  let keep := s.arc.blocks.map fun x => (x.1, { x.2 with used := 0, dirty := false })
  let t := s.modArc fun a => { a with
    dies := dies, formatted := true, pages := [], events := [], pendingEvent := none, nextEvent := 1, pseq := 0
    programs := 0, openBlock := [], formats := a.formats + 1, patrolAt := 0, failed := [], rootA := none, rootB := none
    nextB := false, blocks := keep.filter fun x => decide (x.2 ≠ NandBlock.init) }
  let t := badBlocks.foldl (fun t b => t.setNandBlock b { t.nandBlock b with bad := true }) t
  let good := (t.usableDies.flatMap t.blocksOf).filter fun b => !(t.nandBlock b).bad
  let t := t.countN R.ARC_C_ERASES good.length
  let worn := good.filter fun b => decide (t.fld F.ARC_WEAR_CFG_ENDURANCE ≤ t.eraseCount b)
  worn.foldl (fun t b => t.retireBlock b false) t

/-- FORMAT_DONE: every block is erased; the factory marks and the dies' parameter pages are what the NAND shows (R361).
-/
def execFormatDone (badBlocks : List Nat) (dies : List (Fin 128 × DieParams)) (s : State) : Out State :=
  .next (
    if s.arcState ≠ 1 then s
    else
      let t := s.eraseStore badBlocks (s.agreeing dies)
      let t := t.setFld F.ARC_STATUS_DIES_OK t.usableDies.length
      if t.usableDies.isEmpty then t.arcUnavailable else (t.writeCheckpoint).setArcState 0)

/-- The newer checkpoint whose CRC holds; bits 0 and 1 of `bad` say that root A's and root B's does not (R368). -/
def ArcUnit.newestRoot (a : ArcUnit) (bad : BitVec 2) : Option Checkpoint :=
  let x := if bitOf bad 0 then none else a.rootA
  let y := if bitOf bad 1 then none else a.rootB
  match x, y with
  | some c, some d => if c.first < d.first then some d else some c
  | some c, none => some c
  | none, d => d

/-- How the page that holds a PSEQ decodes: a page reads clean where the list does not name it, and what a failed
program left does not decode then. -/
def pageFinds (reads : List (Nat × NandRead)) (levels : Nat) (failed : Bool) (k : Nat) : NandOutcome :=
  match reads.find? fun x => x.1 == k with
  | some x => x.2.outcome levels
  | none => if failed then .uncorrectable else .hard 0

/-- Step 2 of a recovery: the last PSEQ of the unbroken run from `k`, and the pages of the run that needed soft
decoding and whether an undecodable page ends it; `n` bounds the run (R368). -/
def ArcUnit.run (a : ArcUnit) (reads : List (Nat × NandRead)) (levels : Nat) : Nat → Nat → Nat → Nat × Nat × Bool
  | 0, k, soft => (k - 1, soft, false)
  | n + 1, k, soft =>
    match [a.rootA, a.rootB].find? fun c => (c.map Checkpoint.first) == some k with
    | some (some c) => a.run reads levels n (c.frontier + 1) soft
    | _ =>
      let failed := a.failed.contains k
      if failed || a.pages.any fun p => p.pseq == k then
        match pageFinds reads levels failed k with
        | .uncorrectable => (k - 1, soft, true)
        | .soft => a.run reads levels n (k + 1) (soft + 1)
        | _ => a.run reads levels n (k + 1) soft
      else (k - 1, soft, false)

/-- Step 3: a page of the last PAIR_DIST complete ones of a die that fails lowers the frontier to the page before it
(R368). -/
def State.pairReads (s : State) (rereads : List (Nat × NandRead)) (f : Nat) : Nat :=
  let levels := s.fld F.ARC_GEOM1_RETRY
  s.usableDies.foldl (fun (m : Nat) d =>
    let mine := (s.arc.pages.filter fun p => decide (p.pseq ≤ f) && p.block / s.dieBlocks == d).reverse
    (mine.take (s.fld F.ARC_GEOM2_PAIR_DIST)).foldl (fun m p =>
      if pageFinds rereads levels false p.pseq = .uncorrectable then min m (p.pseq - 1) else m) m) f

/-- An event that the checkpoint does not know: its pages carry its number alone, and the rest of its entry is open (log
entry 46). -/
def State.lostEntry (s : State) (num : Nat) : ArcEvent × State :=
  let (x, s) := s.takeFree 112
  let (y, s) := s.takeFree 128
  let (z, s) := s.takeFree 54
  ({ num := num, isOpen := true, keep := false, truncated := false, preShort := bitOf z 53, lostTail := false, missing := false
     overrun := bitOf z 52, ncause := bitsOf z 51 44
     causes := (List.range 8).map fun i => bitsOf y (16 * i + 15) (16 * i)
     t := x.toNat, tLast := x.toNat, tEnd := x.toNat + bitsOf z 43 14, preMs := bitsOf z 13 0
     npages := 0, records := 0, gaps := 0, next := 0, stop := none, buf := [], marks := [] }, s)

/-- After a loss of power the tables are the checkpoint's, with the events of later pages (R368). -/
def State.fromRoot (s : State) (c : Checkpoint) : State :=
  let t := s.modArc fun a => { a with
    events := c.events.map fun e => { e with buf := [], marks := [] }
    nextEvent := c.nextEvent, formats := c.formats
    blocks := (a.blocks.map fun x => (x.1, { x.2 with
      bad := c.bad.contains x.1, dirty := false
      erases := ((c.erases.find? fun y => y.1 == x.1).map Prod.snd).getD 0 })).filter fun x =>
        decide (x.2 ≠ NandBlock.init) }
  let later := ((t.arc.pages.map (·.event)).filter fun n => decide (c.nextEvent ≤ n)).eraseDups
  later.foldl (fun t n =>
    let (e, u) := t.lostEntry n
    u.modArc fun a => { a with events := a.events ++ [e], nextEvent := max a.nextEvent (n + 1) }) t

/-- Step 4 for one event: what the pages up to the frontier hold of it. -/
def recoverEvent (pages gone : List NandPage) (resume : Bool) (e : ArcEvent) : ArcEvent :=
  let mine := pages.filter fun p => p.event == e.num
  let cut := gone.any fun p => p.event == e.num
  let known := mine.foldl (fun (m : Option NandPage) p => match m with
    | none => some p
    | some q => if q.epage ≤ p.epage then some p else some q) none
  let brought : ArcEvent := match known with
    | some p => { e with npages := p.epage + 1, records := p.records, gaps := p.gaps }
    | none => { e with npages := 0, records := 0, gaps := 0 }
  if e.isOpen then
    if mine.any (·.last) then { brought with isOpen := false, buf := [], marks := [] }
    else if resume then { brought with buf := [], marks := [], next := match known with
      | some p => p.after
      | none => e.next }
    else { brought with isOpen := false, lostTail := true, buf := [], marks := [] }
  else if cut && !(mine.any (·.last)) then { brought with lostTail := true }
  else e

/-- The event table is brought up to the frontier `f`, and blocks with pages above it are not programmed further before
their erase (R368). -/
def State.bringUp (s : State) (f : Nat) : State :=
  let keep := s.arc.pages.filter fun p => decide (p.pseq ≤ f)
  let gone := s.arc.pages.filter fun p => decide (f < p.pseq)
  let shut := gone.map (·.block)
  (s.modArc fun a => { a with
    pages := keep
    openBlock := a.openBlock.filter fun o => match o.2 with
      | some b => !shut.contains b
      | none => false
    events := (a.events.map (recoverEvent keep gone a.resume)).filter fun e =>
      e.isOpen || e.lostTail || e.missing || e.npages == 0 || keep.any fun p => p.event == e.num }).freeDead

/-- What recovery leaves: the frontier that the reads find, the events that stay open and the trigger that was held
(R368). -/
def State.recovered (s : State) (rootBad : BitVec 2) (reads rereads : List (Nat × NandRead)) : State :=
  let root := s.arc.newestRoot rootBad
  let from_ := (root.map fun c => c.frontier + 1).getD 0
  let (f0, soft, torn) := s.arc.run reads (s.fld F.ARC_GEOM1_RETRY)
    (s.arc.pages.length + s.arc.failed.length + 3) from_ 0
  let f := s.pairReads rereads f0
  let above := (s.arc.pages.filter fun p => decide (f < p.pseq)).length
  let t := s.countN R.ARC_C_SOFT_DECODES soft
  let t := if torn then (t.count R.ARC_C_UNCORRECTABLE).raiseG 45 5 else t
  let t := match s.arc.resume, root with
    | false, some c => t.fromRoot c
    | _, _ => t
  let open_ := t.arc.events.filter (·.isOpen)
  let t := (t.bringUp f).modArc fun a => { a with resume := false, pseq := max (f + 1) a.pseq }
  let lost := t.arc.events.filter fun e => e.lostTail && !(s.arc.events.any fun x => x.num == e.num && x.lostTail)
  let shut := open_.filter fun e => !(t.arc.events.any fun x => x.num == e.num && x.isOpen)
  let t := t.setReg R.ARC_RECOVERY (w64 (f * 2 ^ 16 + min 65535 above))
  let t := match lost.getLast? with
    | some e => (t.setReg R.ARC_RECOVERY_EVT (w64 e.num)).raiseG 45 8
    | none => t.setReg R.ARC_RECOVERY_EVT 0
  let t := if shut.isEmpty then t else (t.countN R.ARC_C_EVENTS shut.length).raiseG 45 2
  let t := (t.writeCheckpoint).raiseG 45 7
  let t := match t.arc.openEvent with
    | some e => (t.setReg R.ARC_EVENT_CUR (w64 e.num)).setArcState 4
    | none => (t.setReg R.ARC_EVENT_CUR 0).setArcState 3
  t.releaseHeld

/-- ARC_RECOVERY_DONE: the store is brought up to frontier F (R368). `reads` and `rereads` are how the pages of steps 2
and 3 decode, by PSEQ; a page that neither names decodes clean. -/
def execArcRecoveryDone (rootBad : BitVec 2) (reads rereads : List (Nat × NandRead)) (s : State) : Out State :=
  .next (
    if s.arcState ≠ 2 then s else s.recovered rootBad reads rereads)

/-! ### Keeping, wear, patrol (R366, R367) -/

/-- KEEP_SET: ARC_KEEP_CTRL.GO with a value of KEEP (R366). -/
def State.putKeep (s : State) (keep : Bool) : State :=
  let n := bitsOf (s.reg R.ARC_KEEP) 31 0
  let pagesOf := fun (e : ArcEvent) => e.npages
  let kept := (s.arc.events.filter fun e => e.keep && e.num != n).map pagesOf |>.foldl (· + ·) 0
  let good := (s.usableDies.flatMap s.blocksOf).filter fun b => !(s.nandBlock b).bad
  match s.arc.events.find? fun e => e.num == n with
  | none => s.raiseG 45 9
  | some e =>
    if keep ∧ good.length * s.fld F.ARC_GEOM0_PAGES < 2 * (kept + e.npages) then s.raiseG 45 9
    else s.modArc fun a => { a with events := a.events.map fun x => if x.num = n then { x with keep := keep } else x }

def execKeepSet (keep : Bool) (s : State) : Out State :=
  .next (s.byHost R.ARC_KEEP_CTRL fun s => s.putKeep keep)

/-- Copy the pages of a block elsewhere and let it be erased once the copy is complete; pages in `drop` are left out
and marked missing (R367). A page that finds no block to go to stays where it is. -/
def State.relocateBlock (s : State) (b : Nat) (drop : List Nat) : State :=
  let mine := s.arc.pages.filter fun p => p.block == b
  let without := fun (t : State) (k : Nat) => t.modArc fun a => { a with pages := a.pages.filter fun p => p.pseq != k }
  let t := s.modArc fun a => { a with
    openBlock := a.openBlock.filter fun o => o.2 != some b
    events := a.events.map fun e =>
      if mine.any (fun p => p.event == e.num && drop.contains p.pseq) then { e with missing := true } else e }
  let t := (mine.filter fun p => !drop.contains p.pseq).foldl (fun t p =>
    t.program true { p with kind := 3, orig := if p.kind = 3 then p.orig else p.pseq } fun u =>
      without (u.count R.ARC_C_RELOCATED) p.pseq) t
  let left := t.arc.pages.any fun p => p.block == b && !drop.contains p.pseq
  if left then t else (drop.foldl without t).freeDead

/-- A dirty block is erased: it counts, retires at its endurance, and the coldest kept data may move to it (R366,
R367). -/
def State.blockErased (s : State) (block : Nat) : State :=
  let blk := s.nandBlock block
  let t := (s.setNandBlock block ⟨blk.erases + 1, 0, false, false⟩).count R.ARC_C_ERASES
  let d := block / s.dieBlocks
  let t := t.modArc fun a => { a with fails := tput (fun _ => 0) a.fails d 0 }
  let t := if t.fld F.ARC_WEAR_CFG_ENDURANCE ≤ t.eraseCount block then t.retireBlock block false else t
  let all := t.blocksOf d
  let mean := (all.map t.eraseCount).foldl (· + ·) 0 / max 1 all.length
  let kept := (t.arc.events.filter (·.keep)).map (·.num)
  let worn := ((t.arc.pages.filter fun p => kept.contains p.event && p.block / s.dieBlocks == d).map (·.block)).find?
    fun b => decide (t.eraseCount b + t.fld F.ARC_WEAR_CFG_WEAR_DELTA ≤ mean)
  match worn with
  | some b => t.relocateBlock b []
  | none => t

/-- BLOCK_ERASE_DONE: a block that waits for its erase is erased, or retired (R366, R367). -/
def execBlockEraseDone (block : Nat) (ok : Bool) (s : State) : Out State :=
  .next (
    if (s.nandBlock block).dirty = false then s
    else if ok = false then (s.retireBlock block true).keepAllErased
    else s.blockErased block)

/-- NAND_PATROL_READ: the retention patrol reads the next page (R367). -/
def execNandPatrolRead (r : NandRead) (s : State) : Out State :=
  .next (
    if s.arcOff then s
    else match s.arc.pages.find? fun p => decide (s.arc.patrolAt ≤ p.pseq) with
      | none => if s.arc.pages.isEmpty then s else (s.modArc fun a => { a with patrolAt := 0 }).raiseG 45 13
      | some p =>
        let t := s.modArc fun a => { a with patrolAt := p.pseq + 1 }
        match r.outcome (t.fld F.ARC_GEOM1_RETRY) with
        | .hard n => if t.fld F.ARC_PATROL_CFG_REFRESH_BITS < n then t.relocateBlock p.block [] else t
        | .retry => t.relocateBlock p.block []
        | .soft => (t.count R.ARC_C_SOFT_DECODES).relocateBlock p.block []
        | .uncorrectable => ((t.count R.ARC_C_UNCORRECTABLE).raiseG 45 5).relocateBlock p.block [p.pseq])

/-! ### Reading (R364, R369, R370) -/

/-- The 16,384 bytes of a page (R364). -/
def NandPage.bytes (p : NandPage) : List Byte :=
  let head := toBE 4 0x50484152 ++ toBE 1 p.kind ++ toBE 1 (b2n p.last) ++ toBE 2 p.firstRec ++ toBE 6 p.pseq ++
    toBE 2 p.data.length ++ toBE 4 p.event ++ toBE 4 p.epage ++ toBE 6 p.orig ++ toBE 2 0 ++ toBE 8 p.rseq ++ toBE 20 0
  let body := padTo 16320 p.data
  head ++ toBE 4 (crc32c 0xFFFFFFFF (head ++ toBE 4 0 ++ body)) ++ body

/-- The 64 bytes of an event table entry (R369). -/
def ArcEvent.bytes (e : ArcEvent) : List Byte :=
  let flags := b2n e.isOpen + 2 * b2n e.keep + 4 * b2n e.truncated + 8 * b2n e.preShort + 16 * b2n e.lostTail +
    32 * b2n e.missing + 64 * b2n e.overrun
  toBE 4 e.num ++ toBE 1 flags ++ toBE 1 e.ncause ++ toBE 6 (stampSec e.t) ++ toBE 4 (stampNs e.t) ++ toBE 4 e.preMs ++
    toBE 4 ((e.tEnd - e.t) / msStamp) ++ toBE 4 e.npages ++ toBE 8 e.records ++ toBE 4 e.gaps ++
    ((List.range 8).flatMap fun i => toBE 2 (e.causes.getD i 0)) ++ List.replicate 8 0

/-- What ARCREAD reads: the delivered bytes, pages uncorrectable, the first uncorrectable EPAGE, pages soft-decoded, and
the state; none for RANGE (R370). -/
def State.arcPages (s : State) (table : Bool) (npages event first : Nat) (reads : List NandRead) :
    Option (List Byte × Nat × Nat × Nat × State) :=
  if npages = 0 ∨ 256 < npages then none
  else if table then
    if event ≠ 0 ∨ 4096 < first + 256 * npages then none
    else some (((List.range (256 * npages)).flatMap fun i => match s.arc.events[first + i]? with
        | some e => e.bytes
        | none => List.replicate 64 0), 0, 0xFFFFFFFF, 0, s)
  else
    let find := fun k => (s.arc.pages.filter fun p => p.event == event && p.epage == k).getLast?
    match s.arc.events.find? fun e => e.num == event with
    | none => none
    | some e =>
      if event = 0 ∨ e.npages < first + npages then none
      else
        let step := fun (acc : List Byte × Nat × Nat × Nat × State) i =>
          let (bs, bad, firstBad, soft, t) := acc
          let lost := (bs ++ List.replicate 16384 0, bad + 1, min firstBad (first + i), soft)
          match find (first + i), (reads.getD i .clean).outcome (s.fld F.ARC_GEOM1_RETRY) with
          | none, _ => (lost.1, lost.2.1, lost.2.2.1, lost.2.2.2, t)
          | some _, .uncorrectable =>
            (lost.1, lost.2.1, lost.2.2.1, lost.2.2.2, (t.count R.ARC_C_UNCORRECTABLE).raiseG 45 5)
          | some p, .soft => (bs ++ p.bytes, bad, firstBad, soft + 1, t.count R.ARC_C_SOFT_DECODES)
          | some p, _ => (bs ++ p.bytes, bad, firstBad, soft, t)
        some ((List.range npages).foldl step ([], 0, 0xFFFFFFFF, 0, s))

end Sys2Proof.Machine
end

