-- ==== Sys2Proof/Machine/Operands.lean ====
section
/-! DEFINITION. The operand forms of Binis: general registers, immediates, fields of frame memory and scratch, and branch
targets (R72, R85, R86, R88). -/

namespace Sys2Proof.Machine

/-! ### Registers -/

/-- g[r]; g0 reads zero (R72). -/
def CompState.greg (cs : CompState) (r : GReg) : W64 := if r.val = 0 then 0 else tget (fun _ => 0) cs.g r.val

/-- Write g[r]; a write to g0 is discarded (R72). -/
def CompState.setG (cs : CompState) (r : GReg) (v : W64) : CompState :=
  if r.val = 0 then cs else { cs with g := tput (fun _ => 0) cs.g r.val v }

/-- A register as a signed number (R85; DEDUCED, log entry 24). -/
def sx64 (v : W64) : Int := v.toInt

/-- Sign-extend a field of `w` bits to 64 bits. -/
def sextTo {w : Nat} (v : BitVec w) : W64 := v.signExtend 64

/-! ### Frame memory and scratch (R85, R86) -/

/-- One frame byte: its value and whether the access set OVR, or none while it has not arrived. -/
def Frame.byteAt (f : Frame) (a : Int) : Option (Byte × Bool) :=
  if a < 0 ∨ 9727 < a then some (0, true)
  else if a.toNat < f.bytes.length then some (f.bytes.getD a.toNat 0, false)
  else if f.complete then some (0, true)
  else none

/-- What `n` frame bytes from `ea` give: the bytes and OVR, or the last byte that has not arrived. -/
def Frame.readBytes (f : Frame) (ea : Int) (n : Nat) : Except Nat (List Byte × Bool) :=
  let got := (List.range n).map fun (i : Nat) => (ea + (i : Int), f.byteAt (ea + (i : Int)))
  match (got.filter fun x => x.2.isNone).getLast? with
  | some x => .error x.1.toNat
  | none => .ok (got.map fun x => (x.2.getD (0, false)).1, got.any fun x => (x.2.getD (0, false)).2)

/-- `n` scratch bytes from `ea`, and OVR (R85). -/
def CompState.readScratch (cs : CompState) (ea : Int) (n : Nat) : List Byte × Bool :=
  let inside := fun (a : Int) => decide (0 ≤ a) && decide (a < 2048)
  let as := (List.range n).map fun (i : Nat) => ea + (i : Int)
  (as.map fun a => if inside a then Memory.read 0 cs.scratch a.toNat else 0, as.any fun a => !inside a)

/-- Write scratch bytes; those outside are not written (R85). -/
def CompState.writeScratch (cs : CompState) (ea : Int) (bs : List Byte) : CompState :=
  (List.zip (List.range bs.length) bs).foldl (fun c x =>
    let a := ea + (x.1 : Int)
    if 0 ≤ a ∧ a < 2048 then { c with scratch := Memory.write 0 c.scratch a.toNat x.2 } else c) cs

/-- Bytes that a field of `w` bits from bit `bit` occupies (R85). -/
def fieldBytes (bit w : Nat) : Nat := (bit + w + 7) / 8

/-- The field of `w` bits from bit `bit` of big-endian bytes (R85). -/
def fieldOf (bs : List Byte) (bit w : Nat) : Nat := beNat bs / 2 ^ (8 * bs.length - bit - w) % 2 ^ w

/-- Those bytes with the field replaced by the low `w` bits of `v`. -/
def setField (bs : List Byte) (bit w v : Nat) : List Byte :=
  let sh := 8 * bs.length - bit - w
  toBE bs.length (beNat bs - fieldOf bs bit w * 2 ^ sh + v % 2 ^ w * 2 ^ sh)

/-! ### Effective addresses, immediates and targets -/

/-- The effective address of a frame-space access (R85). -/
def CompState.frameEa (cs : CompState) (rs1 : GReg) (off : BitVec 14) : Int := cs.cur + sx64 (cs.greg rs1) + off.toInt

/-- The effective address of a scratch access (R85). -/
def CompState.scratchEa (cs : CompState) (rs1 : GReg) (off : BitVec 14) : Int := sx64 (cs.greg rs1) + off.toInt

/-- A field extended to 64 bits. -/
def extend (v w : Nat) (sx : Bool) : W64 := if sx then BitVec.ofInt 64 (signed w v) else w64 v

/-- IMM16 of BRI, extended as its condition says (R88). -/
def briImm (cond : BitVec 3) (imm : BitVec 16) : W64 :=
  if cond.toNat = 4 ∨ cond.toNat = 5 then sextTo imm else imm.setWidth 64

/-- The target of a branch at the present PC (R88). -/
def CompState.target (cs : CompState) (disp : BitVec 14) : Nat := cs.pc + 1 + disp.toNat

end Sys2Proof.Machine
end

