-- ==== Sys2Proof/Machine/Flags.lean ====
section
/-! DEFINITION. The flag OVR of a compositor and the conditions of branches (R85, R88). The event latches of the block stand
in Machine/Ops.lean. -/

namespace Sys2Proof.Machine

/-- An access outside its memory sets OVR; nothing here clears it (R85). -/
def CompState.setOvr (cs : CompState) (b : Bool) : CompState := if b then { cs with ovr := true } else cs

/-- Whether condition `cond` holds of `a` and `b`. -/
def condHolds (cond : BitVec 3) (a b : W64) : Bool :=
  match cond.toNat with
  | 0 => a == b
  | 1 => a != b
  | 2 => decide (a.toNat < b.toNat)
  | 3 => decide (b.toNat ≤ a.toNat)
  | 4 => decide (a.toInt < b.toInt)
  | 5 => decide (b.toInt ≤ a.toInt)
  | 6 => bitOf a (b.toNat % 64)
  | _ => !bitOf a (b.toNat % 64)

end Sys2Proof.Machine
end

