-- ==== Sys2Proof/Machine/Ports.lean ====
section
/-! DEFINITION. Ports: lane modes, debounces, MAC merge verification, the start of a frame and its bytes, device-built
peer-delay frames (R17 to R36, R212, R267). -/

namespace Sys2Proof.Machine

/-! ### Shared -/

/-- The half width of a port's own MAC address registers as one 48-bit address. -/
def State.ownAddr (s : State) (p : Nat) : Nat :=
  s.fld (F.PRT_OWN_ADDR_HI_ADDR_HI p) * 2 ^ 32 + s.fld (F.PRT_OWN_ADDR_LO_ADDR_LO p)

/-- A new frame record, with a fresh number. -/
def State.newFrame (s : State) (f : Frame) : Nat × State :=
  (s.nextFrame, ({ s with nextFrame := s.nextFrame + 1 }).setFrame s.nextFrame f)

/-- A frame as it starts: nothing received. -/
def Frame.start (src : FrameSrc) (tag role : Nat) (admPort : Bool) (stamp : Stamp) (qoff : Nat) : Frame :=
  { src := src, tag := tag, role := role, admPort := admPort, stamp := stamp, bytes := [], complete := false, bad := false
    stage := .staged, admitted := admPort, cut := false, pass := 0, qoff := qoff, user := 0, wbl := none, tsreq := none
    edits := [], act := .none, passScratch := [], cells := [], editCell := none, passCell := none, noCell := false
    passResv := false, resv := 0, refcnt := 0, residue := none, headOut := false, ptpCf := none, stored := false }

/-- A drop under R62: the queue's counter, the class's counter and its event (R63, R68). -/
def State.threshDrop (s : State) (q : Nat) : State :=
  let c := q % 128 / 16
  ((s.count (R.GAL_C_THRESH_DROP c)).count (R.EGR_Q_C_THRESH_DROP q)).raiseG 36 (15 + c)

/-- The queue offset of a device-built frame, none when the active forme admits every class (R212). -/
def State.builtOffset (s : State) (qoff : Nat) : Option Nat :=
  match s.activeTag with
  | none => some qoff
  | some t =>
    if s.admClass t (qoff / 16) then
      (((List.range 8).filter fun c => !s.admClass t c).getLast?).map fun c => 16 * c + qoff % 16
    else some qoff

/-- Send a device-built frame through port p at a configured offset, under the test of R62; `dropCnt` is counted when
the forme admits all classes (R212). Answers whether a queue took it. -/
def State.sendBuilt (s : State) (p qoff : Nat) (f : Frame) (dropCnt : State → State) : Option Nat × State :=
  match s.builtOffset qoff with
  | none => (none, dropCnt s)
  | some off =>
    let q := 128 * p + off
    let (i, t) := s.newFrame { f with stage := .committed, complete := true, qoff := off }
    let f := { f with stage := .committed, complete := true, qoff := off }
    if t.threshOk q f = false then (none, (t.dropFrame i).threshDrop q)
    else
      let t := t.enqueue q i false
      match t.frame i with
      | some g => if g.refcnt = 0 then (none, t.dropFrame i) else (some i, t)
      | none => (none, t)

/-- The tag of device-built and host-injected frames: the active forme's, 2 when there is none. -/
def State.builtTag (s : State) : Nat := s.activeTag.getD 2

/-! ### The MAC merge sublayer (R25, R26) -/

/-- Enter a verify state. Leaving ACTIVE while the active forme declares preemption sets LAPSE (R26). -/
def State.setMerge (s : State) (p st : Nat) : State :=
  let was := s.fld (F.PRT_MERGE_STATUS_VERIFY_STATE p)
  let t := s.setFld (F.PRT_MERGE_STATUS_VERIFY_STATE p) st
  let lapse := was == 2 && st != 2 && (match s.activeTag with
    | some a => s.flag (F.FRM_PORT_DECL_PREEMPT a p)
    | none => false)
  let t := if lapse then (t.setFlag (F.PRT_MERGE_STATUS_LAPSE p) true).raisePort p 3 else t
  if st = 3 ∧ was ≠ 3 then t.raisePort p 3 else t

/-- The verify state at MERGE_EN = 1 from the start: ACTIVE when VERIFY_DIS = 1, else VERIFYING (R25). -/
def State.restartMerge (s : State) (p : Nat) : State :=
  let t := s.setPort p { s.port p with verifyTries := 0 }
  if s.flag (F.PRT_MERGE_CFG_MERGE_EN p) then
    t.setMerge p (if s.flag (F.PRT_MERGE_CFG_VERIFY_DIS p) then 2 else 1)
  else t.setMerge p 0

/-- MERGE_VERIFY_TIMER (R25). -/
def execMergeVerifyTimer (p : Port) (s : State) : Out State :=
  .next (
    if s.fld (F.PRT_MERGE_STATUS_VERIFY_STATE p) = 1 ∧ s.flag (F.PRT_STATUS_LINK_UP p) = true then
      if (s.port p).verifyTries < 3 then
        (s.setPort p { s.port p with verifyTries := (s.port p).verifyTries + 1 }).emit (.verifyPacket p)
      else s.setMerge p 3
    else s)

/-- MERGE_RESPOND (R25). -/
def execMergeRespond (p : Port) (s : State) : Out State :=
  .next (if s.fld (F.PRT_MERGE_STATUS_VERIFY_STATE p) = 1 then s.setMerge p 2 else s)

/-! ### Lock and debounces (R27) -/

/-- The signal of a lane whose PCS has lost lock may be there or not: a free value (R37; log entry 93). -/
def State.lostSignal (s : State) (p : Nat) : State :=
  let (v, t) := s.takeFree 1
  t.setSignal p (s.flag (F.PRT_STATUS_SIGNAL p) && bitOf v 0)

/-- PCS_LOCK_LOSS (R27): the PCS's new condition starts the down debounce of an up link. -/
def execPcsLockLoss (p : Port) (lock localFault remoteFault : Bool) (s : State) : Out State :=
  let t := ((s.setFlag (F.PRT_STATUS_PCS_LOCK p) lock).setFlag (F.PRT_STATUS_LOCAL_FAULT p) localFault).setFlag
    (F.PRT_STATUS_REMOTE_FAULT p) remoteFault
  let t := if lock then t else t.lostSignal p
  .next (if lock && !localFault && !remoteFault then t
    else t.setPort p { t.port p with downDeb := t.flag (F.PRT_STATUS_LINK_UP p), upDeb := false })

/-- PCS_LOCK_GAIN (R27): lock without fault starts the up debounce of a down link. -/
def execPcsLockGain (p : Port) (s : State) : Out State :=
  .next (
    if s.fld (F.PRT_STATUS_ACTIVE_MODE p) = 0 then s
    else
      let t := ((s.setFlag (F.PRT_STATUS_PCS_LOCK p) true).setFlag (F.PRT_STATUS_LOCAL_FAULT p) false).setFlag
        (F.PRT_STATUS_REMOTE_FAULT p) false
      let t := (t.setSignal p true).setFlag (F.PRT_STATUS_TRAINING p) false
      t.setPort p { t.port p with downDeb := false, upDeb := !t.flag (F.PRT_STATUS_LINK_UP p) })

/-- LINK_UP (R27, R29): the link is declared up, and any hold ends. A fenced lane's link stays down (R403). -/
def execLinkUp (p : Port) (s : State) : Out State :=
  .next (
    if (s.port p).upDeb && !s.laneFenced p && s.flag (F.PRT_STATUS_PCS_LOCK p) then
      let t := (s.setFlag (F.PRT_STATUS_LINK_UP p) true).setFlag (F.PRT_STATUS_HOLDING p) false
      let t := t.setPort p { t.port p with upDeb := false }
      let an := s.flag (F.PRT_MODE_AN_EN p) && decide (s.fld (F.PRT_STATUS_ACTIVE_MODE p) ∈ [1, 2])
      (t.setFlag (F.PRT_STATUS_AN_DONE p) an).raisePort p 0
    else s)

/-! ### Lane modes (R17 to R21) -/

/-- The FEC options of a mode (R17). -/
def fecListed (m fec : Nat) : Bool :=
  match m with
  | 0 | 1 | 2 | 3 => fec == 0
  | 4 => fec == 0 || fec == 1
  | 5 => fec == 0 || fec == 1 || fec == 2
  | 6 => fec == 0 || fec == 2
  | _ => false

/-- The REFUSE_CODE of a PRT_MODE write: the lowest whose condition holds, 0 when it is accepted (R19, R21, R403). The
board description that a warm start applies again is not refused for the kept forme's streams, whose lanes it has to
bring back (R31, R420, R426; log entry 94). -/
def State.modeRefusal (s : State) (p : Nat) (v : W32) : Nat :=
  let m := bitsOf v 2 0
  let fec := bitsOf v 5 4
  let lead := p % 4 == 0
  let change := m != s.fld (F.PRT_MODE_MODE p) || fec != s.fld (F.PRT_MODE_FEC p)
  if (m = 5 ∨ m = 6) ∧ bitsOf s.boot.otp.chipId 7 4 = 1 then 1
  else if (m = 6 ∧ lead = false) ∨ s.flag (F.PRT_STATUS_FUSED_SUB p) = true then 2
  else if fecListed m fec = false then 3
  else if change && ((match s.activeTag with
      | some t => !s.boot.starting && s.streamPort t p
      | none => false) || s.laneFenced p) then 4
  else if m = 6 ∧ ([1, 2, 3].any fun k => s.fld (F.PRT_MODE_MODE (p + k)) != 0) then 5
  else 0

/-- LANE_MODE_IN_FORCE (R20): the mode comes into force and training begins. -/
def execLaneModeInForce (p : Port) (s : State) : Out State :=
  .next (
    if (s.port p).modePending then
      let m := s.fld (F.PRT_MODE_MODE p)
      let t := (s.setFld (F.PRT_STATUS_ACTIVE_MODE p) m).setFlag (F.PRT_STATUS_TRAINING p) (m != 0)
      t.setPort p { t.port p with modePending := false }
    else s)

/-- REGION_TRAINING_START (R31): the region's lanes that are not DISABLED begin training. -/
def execRegionTrainingStart (r : Region) (s : State) : Out State :=
  .next ((List.range 16).foldl (fun t k =>
    let p := 16 * r.val + k
    let m := t.fld (F.PRT_MODE_MODE p)
    if m = 0 ∨ t.laneFenced p = true then t
    else
      let t := (t.setFld (F.PRT_STATUS_ACTIVE_MODE p) m).setFlag (F.PRT_STATUS_TRAINING p)
        (!t.flag (F.PRT_STATUS_PCS_LOCK p))
      t.setPort p { t.port p with modePending := false }) s)

/-- HI_BER_CHANGE (R36): SIGNAL latches when HI_BER rises. -/
def execHiBerChange (p : Port) (on : Bool) (s : State) : Out State :=
  let t := s.setFlag (F.PRT_STATUS_HI_BER p) on
  .next (if on && !s.flag (F.PRT_STATUS_HI_BER p) then t.raisePort p 1 else t)

/-- FEC_CODEWORD (R24, R36). -/
def execFecCodeword (p : Port) (corrected : Bool) (s : State) : Out State :=
  .next (
    if corrected then s.count (R.PRT_C_FEC_CORRECTED p)
    else
      let t := s.count (R.PRT_C_FEC_UNCORRECTED p)
      (t.setPort p { t.port p with fecBadAt := some t.time.cycles }).raisePort p 1)

/-! ### Waking a case (R377, R379) -/

/-- A wake request to a case: asleep or entering sleep it wakes; a fenced case never does (R378, R379). -/
def State.wakeCase (s : State) (c : Nat) : State :=
  let st := s.fld (F.PWR_CASE_STATE c)
  if s.caseFenced c then s
  else if st = 2 then
    (s.setFld (F.PWR_CASE_STATE c) 3).count R.PWR_C_CASE_WAKES
  else if st = 1 then s.setFld (F.PWR_CASE_STATE c) 0
  else s

/-! ### Reception -/

/-- Capacity of one staging buffer (R55). -/
def stagingSize : Nat := 20480

/-- Bytes in port p's ingress staging: those of its undispatched frames. -/
def State.stagingBytes (s : State) (p : Nat) : Nat :=
  ((s.port p).staging.map fun i => match s.frame i with
    | some f => f.bytes.length
    | none => 0).foldl (· + ·) 0

/-- A frame finds no room in ingress staging (R15): it is dropped and counted, and DROP latches. Its record stays while
its bytes still arrive. -/
def State.stagingDrop (s : State) (p i : Nat) : State :=
  match s.frame i with
  | none => s
  | some f => ((s.loseFrame i).count (R.PRT_C_STAGING_DROP p f.cls)).raisePort p 4

/-- PRT_MODE.LOOP in force: 0 none, 1 near-end PMA, 2 far-end PCS (R37; log entry 95). -/
def State.loop (s : State) (p : Nat) : Nat := s.fld (F.PRT_MODE_LOOP p)

/-- An admitted frame's arrival wakes the region's reserved compositors when all of them lie in sleeping cases (R379).
-/
def State.wakeForAdmitted (s : State) (p : Nat) : State :=
  let cs := [2 * (p / 16), 2 * (p / 16) + 1].filter fun c => decide (0 < s.effReserve c)
  if cs.all fun c => decide (s.fld (F.PWR_CASE_STATE c) ∈ [1, 2]) then cs.foldl State.wakeCase s else s

/-- The ingress timestamp: the time base with the port's RX_LAT (R262). -/
def State.rxStamp (s : State) (p : Nat) : Stamp :=
  ((s.stamp : Int) + signed 16 (s.fld (F.TIM_PORT_LAT_RX_LAT p)) * 256).toNat

/-- A start of frame passes the ingress boundary (R12, R15, R35, R262). Before the first lock-up no forme gives the
port a DEF_CLASS, and the frame counts in class 0 (DESIGN CHOICE, log entry 96). -/
def State.startFrame (s : State) (p : Nat) : State :=
  let ps := s.port p
  if s.flag (F.PRT_STATUS_LINK_UP p) && s.flag (F.PRT_MAC_CFG_RX_EN p) && ps.rx.isNone then
    let tag := ps.tag.getD 2
    let adm := decide (tag < 2) && s.admittedPort tag p
    let cls := if tag < 2 then s.fld (F.FRM_PORT_DECL_DEF_CLASS tag p) else 0
    let f := Frame.start (.port p) tag (s.fld (F.PRT_ROLE_ROLE p)) adm (s.rxStamp p) (16 * cls)
    let (i, t) := s.newFrame f
    let t := t.setPort p { ps with rx := some i, staging := ps.staging ++ [i] }
    let t := if adm then t.wakeForAdmitted p else t
    if stagingSize ≤ s.stagingBytes p then t.stagingDrop p i else t
  else s

/-- FRAME_START. A lane in near-end loopback hears only itself (log entry 95). -/
def execFrameStart (p : Port) (s : State) : Out State :=
  .next (if s.loop p = 1 then s else s.startFrame p)

/-- The clock of a case in MHz, by its operating point (R380, R393). -/
def State.caseMHz (s : State) (c : Nat) : Nat :=
  match s.fld (F.PWR_CASE_POINT c) with
  | 0 => 800 | 1 => 1200 | 2 => 1600 | _ => 1800

/-- Bytes of a frame in frame memory at a cycle: all that have come in, or in a further pass what the recirculation path
has read since, at 100 Gb/s (R126, R127; DEDUCED, log entry 110). -/
def CompState.filled (cs : CompState) (f : Frame) (now : Nat) : Nat :=
  match cs.fill with
  | some at_ => min f.bytes.length (20 * (now - at_))
  | none => f.bytes.length

/-- The cycle up to which compositor `c`'s stall has lasted: now, or the arrival of its byte in a further pass. -/
def State.stallEnd (s : State) (c a : Nat) : Nat :=
  let cs := s.comp c
  match cs.fill, cs.frame.bind s.frame with
  | some at_, some f => min s.time.cycles (at_ + ceilDiv (min (a + 1) f.bytes.length) 20)
  | _, _ => s.time.cycles

/-- Cycles of the case's clock in which compositor `c` has stood in the stall that runs (R101). -/
def State.stallRun (s : State) (c : Nat) : Nat :=
  match (s.comp c).stall with
  | some (since, a) => (s.stallEnd c a - since) * s.caseMHz (c / 8) / 625
  | none => 0

/-- STALL_CYCLES takes the stall that ends (R101). -/
def State.countStall (s : State) (c : Nat) : State := s.countN (R.CMP_C_STALL_CYCLES (c / 8) (c % 8)) (s.stallRun c)

/-- The stall of the compositor that runs frame `i` ends when the byte it waits for has arrived, or with the frame
(R86). -/
def State.endStall (s : State) (i : Nat) : State :=
  match s.runner i, s.frame i with
  | some c, some f =>
    match (s.comp c).stall with
    | some (_, a) =>
      if a < f.bytes.length ∨ f.complete = true then
        let t := s.countStall c
        t.setComp c { t.comp c with stall := none }
      else s
    | none => s
  | _, _ => s

/-- Bytes join the frame that port p receives (R15, R74); a frame still in staging that they make overflow is dropped
(log entry 19), and a queue that holds the frame grows with it (R230). -/
def State.takeBytes (s : State) (p : Nat) (bytes : List Byte) : State :=
  match (s.port p).rx with
  | none => s
  | some i =>
    let t := ((s.modFrame i fun f => { f with bytes := f.bytes ++ bytes }).endStall i).watermarksOf i
    match t.frame i with
    | some f => if f.stage = .staged ∧ stagingSize < t.stagingBytes p then t.stagingDrop p i else t
    | none => t

/-- FRAME_BYTES_ARRIVE. -/
def execFrameBytesArrive (p : Port) (bytes : List Byte) (s : State) : Out State := .next (s.takeBytes p bytes)

/-! ### The peer-delay responder (R267) -/

/-- A frame the responder answers: port enabled, untagged, EtherType 0x88F7, the peer-delay group address, Pdelay_Req,
the configured domain. -/
def State.isPdelayReq (s : State) (p : Nat) (bs : List Byte) : Bool :=
  bitOf (s.reg (R.TIM_PDELAY_PORT (p / 32))) (p % 32) && beAt bs 0 6 == 0x0180C200000E && beAt bs 12 2 == 0x88F7 &&
  beAt bs 14 1 % 16 == 2 && beAt bs 18 1 == s.fld F.TIM_PDELAY_CFG_DOMAIN

/-- A received request: it waits for its answer, or is dropped while the last answer is unsent. -/
def State.pdelayRequest (s : State) (p : Nat) (f : Frame) : State :=
  let ps := s.port p
  if (ps.pdelay.bind s.frame).isSome || ps.pdelayReq.isSome then (s.count R.TIM_C_PDELAY_DROP).raiseG 42 6
  else s.setPort p { ps with pdelayReq := some (f.bytes, f.stamp) }

/-- A PTP peer-delay message of 54 bytes on Ethernet, padded, without its FCS (layout PRESUMED from IEEE 1588, log entry
20): the reserved and version octets of the request are copied. -/
def State.ptpReply (s : State) (p : Nat) (req : List Byte) (type : Nat) (twoStep : Bool) (cf : Nat) (stamp : Option Stamp) :
    List Byte :=
  let hdr := req.drop 14
  let first := BitVec.ofNat 8 (beAt hdr 0 1 / 16 * 16 + type)
  let ident := toBE 4 (s.fld F.TIM_CLOCK_ID_HI_ID_HI) ++ toBE 4 (s.fld F.TIM_CLOCK_ID_LO_ID_LO) ++ toBE 2 (p + 1)
  let ts := match stamp with
    | some x => toBE 6 (stampSec x) ++ toBE 4 (stampNs x)
    | none => List.replicate 10 0
  let msg := [first, byteAt hdr 1] ++ toBE 2 54 ++ [byteAt hdr 4, 0] ++ [if twoStep then 2 else 0, 0] ++
    toBE 8 cf ++ toBE 4 0 ++ ident ++ bytesAt hdr 30 2 ++ [5, 0x7F] ++ ts ++ bytesAt hdr 20 10
  toBE 6 0x0180C200000E ++ toBE 6 (s.ownAddr p) ++ toBE 2 0x88F7 ++ msg

/-- The response to the peer-delay request `req` of port `p`, received at `rx`, and the frame record that a queue takes
it under, if one does (R267, R212). -/
def State.pdelayBuild (s : State) (p : Nat) (req : List Byte) (rx : Stamp) : Option Nat × State :=
  let one := s.flag F.TIM_PDELAY_CFG_ONE_STEP
  let cf := beAt req 22 8
  let body := s.ptpReply p req 3 (!one) (if one then cf else 0) (if one then none else some rx)
  let f := { Frame.start (.pdelay p false cf rx) s.builtTag 0 false s.stamp 0 with bytes := body ++ fcsOf body }
  (s.setPort p { s.port p with pdelayReq := none }).sendBuilt p (s.fld F.TIM_PDELAY_CFG_QOFF) f
    fun u => (u.count R.TIM_C_PDELAY_DROP).raiseG 42 6

/-- PDELAY_RESPONSE (R267, R212): the Pdelay_Resp joins its queue; what depends on its departure is filled in then. -/
def execPdelayResponse (p : Port) (s : State) : Out State :=
  .next (
    match (s.port p).pdelayReq with
    | none => s
    | some (req, rx) => match s.pdelayBuild p req rx with
      | (some k, t) => (t.setPort p { t.port p with pdelay := some k }).count R.TIM_C_PDELAY_ANSWERED
      | (none, t) => t)

end Sys2Proof.Machine
end

