-- ==== Sys2Proof/Machine/Ledger.lean ====
section
/-! DEFINITION. The Ledger and the Keeper: searches, L2 placement, learning, ageing, flushes, sweeps, and the Keeper's
table operations (R131 to R160). Tables are numbered as in R104: 0 L2, 2 IPv4, 3 IPv6, 4 rule, 5 fork. -/

namespace Sys2Proof.Machine

/-! ### Entries -/

def tblSize (t : Nat) : Nat :=
  match t with
  | 0 => 262144 | 2 => 131072 | 3 => 32768 | 4 => 8192 | 5 => 32768
  | _ => 0

/-- The word that holds VALID in [63] and VIS in [62:61]. -/
def visWord (t : Nat) : Nat := if t = 4 then 15 else 0

/-- The table bank of an entry's address (R131). -/
def tblBank (t a : Nat) : Nat :=
  match t with
  | 0 => 4 * (a / 2 ^ 17) + a / 4 % 4
  | 2 => 8 + a % 4
  | 3 => 12 + a % 4
  | 4 => 16 + a / 1024
  | _ => 24 + a / 2 ^ 14

def State.entry (s : State) (t a : Nat) : TblEntry := tget entryInit s.ledger.entries (2 ^ 18 * t + a)
def State.setEntry (s : State) (t a : Nat) (e : TblEntry) : State :=
  { s with ledger := { s.ledger with entries := tput entryInit s.ledger.entries (2 ^ 18 * t + a) e } }

/-- The listed entries of a table, by address. -/
def State.listed (s : State) (t : Nat) : List (Nat × TblEntry) :=
  (s.ledger.entries.filter fun x => x.1 / 2 ^ 18 == t).map fun x => (x.1 % 2 ^ 18, x.2)

def entryWord (e : TblEntry) (i : Nat) : W64 := e.getD i 0
def entryValid (t : Nat) (e : TblEntry) : Bool := bitOf (entryWord e (visWord t)) 63
def entryVis (t : Nat) (e : TblEntry) : Nat := bitsOf (entryWord e (visWord t)) 62 61
def setValid (t : Nat) (e : TblEntry) (b : Bool) : TblEntry :=
  e.set (visWord t) (setBits (entryWord e (visWord t)) 63 63 (b2n b))
def setVis (t : Nat) (e : TblEntry) (v : Nat) : TblEntry :=
  e.set (visWord t) (setBits (entryWord e (visWord t)) 62 61 v)

/-- A search for tag `tag` considers this entry (R133). -/
def seenBy (t tag : Nat) (e : TblEntry) : Bool := entryValid t e && Nat.testBit (entryVis t e) tag

def isLearned (e : TblEntry) : Bool := bitOf (entryWord e 0) 60
def l2Key (e : TblEntry) : Nat := bitsOf (entryWord e 0) 59 0

/-- The entry's table bank is fenced (R154). -/
def State.bankOut (s : State) (t a : Nat) : Bool := s.fencedSrc (0x520 + tblBank t a)

/-- The Keeper is halted (R402). -/
def State.keeperHalted (s : State) : Bool := s.fencedSrc 0x601

/-- Activity bit of an L2 address (R139). -/
def State.activity (s : State) (a : Nat) : Bool := tget (fun _ => false) s.ledger.active a
def State.setActivity (s : State) (a : Nat) (b : Bool) : State :=
  { s with ledger := { s.ledger with active := tput (fun _ => false) s.ledger.active a b } }

def State.setDirty (s : State) (b : Bool) : State := { s with ledger := { s.ledger with dirty := b } }

/-- Invalidate an entry: one write of it with VALID clear (R152). -/
def State.invalidate (s : State) (t a : Nat) : State :=
  let u := s.setEntry t a (setValid t (s.entry t a) false)
  if t = 0 then u.setActivity a false else u

/-- A parity error in an entry: count, log, event and coded message (R153). -/
def State.parityReport (s : State) (t a : Nat) : State :=
  let lrn := t == 0 && isLearned (s.entry t a)
  (((s.count R.LDG_C_PARITY_ERR).logFirst R.LDG_PARITY_LOG 31 (t * 2 ^ 27 + b2n lrn * 2 ^ 26 + a)).raiseG 38 0).fault
    (0x520 + tblBank t a) 0x30 a true

/-- An element joins the Keeper's input (R143). -/
def State.toKeeper (s : State) (x : KprInput) : State :=
  { s with ledger := { s.ledger with input := s.ledger.input ++ [x] } }

/-- The same where a search or a delivery reads the entry: its invalidation joins the Keeper's input (R143, R153). -/
def State.paritySeen (s : State) (t a : Nat) : State := (s.parityReport t a).toKeeper (.invalidate t a)

/-! ### L2 placement (R138, R140 to R142) -/

/-- The eight candidate ways of a key under a seed (R138). -/
def l2Cands (seed key : Nat) : List Nat :=
  let h := fun sd => crc32c sd (toBE 8 key) % 2 ^ 15
  let h0 := h seed
  let h1 := h (seed ^^^ 0xFFFFFFFF)
  (List.range 4).map (fun w => 4 * h0 + w) ++ (List.range 4).map (fun w => 2 ^ 17 + 4 * h1 + w)

def State.seed (s : State) (tag : Nat) : Nat := s.fld (F.LDG_SEED_SEED tag)

/-- Tags that hold a forme or release one. -/
def State.residentTags (s : State) : List Nat := [0, 1].filter fun t => s.tagState t != 0

/-- The seeds under which entries are placed now, the active forme's first (R142). -/
def State.l2Seeds (s : State) : List Nat :=
  let tags := match s.activeTag with
    | some a => a :: (s.residentTags.filter (· != a))
    | none => s.residentTags
  match (tags.map s.seed).eraseDups with
  | [] => [s.seed 0]
  | l => l

/-- Learned entries are held in two placements (R142). -/
def State.rehashing (s : State) : Bool := decide (2 ≤ s.l2Seeds.length)

def State.l2Free (s : State) (a : Nat) : Bool := !s.bankOut 0 a && !entryValid 0 (s.entry 0 a)

/-- Valid entries among a key's candidate ways under a seed that hold the key and satisfy `sel`. -/
def State.l2Match (s : State) (seed key : Nat) (sel : TblEntry → Bool) : List Nat :=
  (l2Cands seed key).filter fun a =>
    let e := s.entry 0 a
    entryValid 0 e && l2Key e == key && sel e

/-- The placements of a learned entry, one for each seed that is resident (R142). -/
def State.placements (s : State) (key : Nat) : List Nat :=
  (s.l2Seeds.flatMap fun sd => s.l2Match sd key isLearned).eraseDups

/-- Invalidate an entry, a learned one in every placement (R142). -/
def State.invalidateWhole (s : State) (t a : Nat) : State :=
  let e := s.entry t a
  if t = 0 ∧ isLearned e = true then (a :: s.placements (l2Key e)).foldl (fun u x => u.invalidate 0 x) s
  else s.invalidate t a

/-- A parity error in an entry that the Keeper itself reads: it invalidates it at once (R153). -/
def State.parityHit (s : State) (t a : Nat) : State := (s.parityReport t a).invalidateWhole t a

/-- A learned occupant gives way at `a` (R141): its entry stays as long as the active forme's placement does (R142). -/
def State.evictAt (s : State) (a : Nat) : State :=
  let key := l2Key (s.entry 0 a)
  let u := s.invalidate 0 a
  if (u.l2Match (u.l2Seeds.headD 0) key isLearned).isEmpty then (u.placements key).foldl (fun u x => u.invalidate 0 x) u else u

/-- An occupant's own candidates: ways that every seed under which it is reached now reaches too (R140). -/
def State.occCands (s : State) (a : Nat) : List Nat :=
  let e := s.entry 0 a
  let seeds := if isLearned e then s.l2Seeds
    else (([0, 1].filter fun t => Nat.testBit (entryVis 0 e) t).map s.seed).eraseDups
  match seeds.filter fun sd => (l2Cands sd (l2Key e)).contains a with
  | [] => []
  | sd :: rest => (l2Cands sd (l2Key e)).filter fun d => rest.all fun r => (l2Cands r (l2Key e)).contains d

/-- The shortest relocation path of at most `n` moves, its free way first and the way to be freed last; among equal
lengths the first reached by visiting ways in increasing number (R140). -/
def State.relocate (s : State) : Nat → List (List Nat) → Option (List Nat)
  | 0, _ => none
  | n + 1, front =>
    let next := front.flatMap fun p => match p with
      | [] => []
      | a :: _ => ((s.occCands a).filter fun d => !p.contains d && !s.bankOut 0 d).map fun d => d :: p
    match next.find? fun p => match p with
      | d :: _ => s.l2Free d
      | [] => false with
    | some p => some p
    | none => s.relocate n next

/-- Carry out the moves of a path from its far end. An occupant in `bad` fails its parity check and is not moved
(R140). -/
def State.moveAlong (bad : ParityBad) : List Nat → State → State
  | d :: a :: rest, s =>
    let t :=
      if bad.has 0 a then s.parityHit 0 a
      else
        let act := s.activity a
        let u := (s.setEntry 0 d (s.entry 0 a)).setActivity d act
        (u.invalidate 0 a).count R.LDG_C_RELOCATIONS
    State.moveAlong bad (a :: rest) t
  | _, s => s

/-- The learned occupant that R141 evicts: largest AGE, lowest way. -/
def State.victim (s : State) (cands : List Nat) : Option Nat :=
  (cands.filter fun a => !s.bankOut 0 a && entryValid 0 (s.entry 0 a) && isLearned (s.entry 0 a)).foldl
    (fun m a => match m with
      | none => some a
      | some v => if bitsOf (entryWord (s.entry 0 v) 1) 63 56 < bitsOf (entryWord (s.entry 0 a) 1) 63 56 then some a
          else some v) none

/-- Insert an entry under a seed: its address, or none when it finds no place (R140, R141). The Boolean says whether a
learned occupant was evicted for it. -/
def State.l2Insert (s : State) (seed : Nat) (e : TblEntry) (learned : Bool) (bad : ParityBad) :
    Option Nat × Bool × State :=
  let cands := l2Cands seed (l2Key e)
  match cands.find? s.l2Free with
  | some a => (some a, false, (s.setEntry 0 a e).setActivity a false)
  | none =>
    match s.relocate 3 ((cands.filter fun a => !s.bankOut 0 a).map fun a => [a]) with
    | some p =>
      let t := (State.moveAlong bad p s).setDirty true
      match p.getLast? with
      | some a => (some a, false, (t.setEntry 0 a e).setActivity a false)
      | none => (none, false, s)
    | none =>
      if learned then
        match s.victim cands with
        | some v =>
          let t := ((s.evictAt v).count R.LDG_C_EVICTED).raiseG 38 3
          (some v, true, (t.setDirty true).setEntry 0 v e)
        | none => (none, false, s)
      else (none, false, s)

/-- A learned entry's words (R137). -/
def learnedEntry (key port tick : Nat) : TblEntry :=
  [w64 (2 ^ 63 + 3 * 2 ^ 61 + 2 ^ 60 + key), w64 (tick * 2 ^ 32 + port)]

/-- Place a learned entry under a further seed (R142). -/
def State.placeSecond (s : State) (seed : Nat) (e : TblEntry) (bad : ParityBad) : State :=
  if (s.l2Match seed (l2Key e) isLearned).isEmpty then
    match s.l2Insert seed e true bad with
    | (some _, false, t) => t.setDirty true
    | (some _, true, t) => t.count R.LDG_C_REHASH_LOST
    | (none, _, t) => t.count R.LDG_C_REHASH_LOST
  else s

/-! ### Searches (R105, R133, R139, R148 to R151) -/

/-- The entry that a search of tag `tag` finds, by its table and address; none on MISS. -/
def State.l2Search (s : State) (tag : Nat) (key : Nat) : Option Nat :=
  let sd := s.seed tag
  match s.l2Match sd key fun e => !isLearned e && Nat.testBit (entryVis 0 e) tag with
  | a :: _ => some a
  | [] => (s.l2Match sd key isLearned).head?

/-- The longest visible route that `hit` accepts, with its prefix length (R148, R149). -/
def State.lpm (s : State) (t tag : Nat) (len : TblEntry → Nat) (hit : TblEntry → Bool) : Option Nat :=
  ((s.listed t).foldl (fun (m : Option (Nat × Nat)) x =>
    if seenBy t tag x.2 && hit x.2 then
      match m with
      | some (_, l) => if l < len x.2 then some (x.1, len x.2) else m
      | none => some (x.1, len x.2)
    else m) none).map Prod.fst

def ipv4Hit (key : W64) (e : TblEntry) : Bool :=
  let w := entryWord e 0
  let len := bitsOf w 45 40
  bitsOf w 39 32 == bitsOf key 39 32 &&
    bitsOf w 31 0 / 2 ^ (32 - len) == bitsOf key 31 0 / 2 ^ (32 - len)

def ipv6Num (hi lo : W64) : Nat := hi.toNat * 2 ^ 64 + lo.toNat

def ipv6Hit (hi lo : W64) (e : TblEntry) : Bool :=
  let len := bitsOf (entryWord e 0) 7 0
  ipv6Num (entryWord e 1) (entryWord e 2) / 2 ^ (128 - len) == ipv6Num hi lo / 2 ^ (128 - len)

/-- The bytes of a rule entry: VALUE, MASK and the rest (R150). -/
def ruleBytes (e : TblEntry) : List Byte := (List.range 18).flatMap fun i => toBE 8 (entryWord e i).toNat

def ruleHit (key : List Byte) (e : TblEntry) : Bool :=
  let b := ruleBytes e
  let value := beNat (b.take 60)
  let mask := beNat ((b.drop 60).take 60)
  (beNat (padTo 60 key) ^^^ value) &&& mask == 0

def rulePrio (e : TblEntry) : Nat := bitsOf (entryWord e 15) 59 56

def State.ruleSearch (s : State) (tag : Nat) (key : List Byte) : Option Nat :=
  ((s.listed 4).foldl (fun (m : Option (Nat × Nat)) x =>
    if seenBy 4 tag x.2 && ruleHit key x.2 then
      match m with
      | some (_, p) => if p < rulePrio x.2 then some (x.1, rulePrio x.2) else m
      | none => some (x.1, rulePrio x.2)
    else m) none).map Prod.fst

/-- The address of a fork slot: (tag × 64 + table) × 256 + entry (R151, R308). -/
def forkAddr (tag table index : Nat) : Nat := (tag * 64 + table % 64) * 256 + index % 256

/-- Table and address of the entry that a search reads; none when it finds none. A fenced fork bank answers none
(R154). -/
def State.findEntry (s : State) (tag : Nat) : LookupReq → Option (Nat × Nat)
  | .l2 key _ => (s.l2Search tag (bitsOf key 59 0)).map fun a => (0, a)
  | .ipv4 key => (s.lpm 2 tag (fun e => bitsOf (entryWord e 0) 45 40) (ipv4Hit key)).map fun a => (2, a)
  | .ipv6 hi lo => (s.lpm 3 tag (fun e => bitsOf (entryWord e 0) 7 0) (ipv6Hit hi lo)).map fun a => (3, a)
  | .rule key => (s.ruleSearch tag key).map fun a => (4, a)
  | .fork table index =>
    let a := forkAddr tag table index
    if s.bankOut 5 a then none else some (5, a)
  | .watch _ _ _ => none
  | .waybill _ _ => none

/-- The two result words that an entry gives (R139, R148 to R151). -/
def State.resultWords (s : State) (t a : Nat) : W64 × W64 :=
  let e := s.entry t a
  match t with
  | 0 =>
    if isLearned e then (w64 (bitsOf (entryWord e 1) 6 0), w64 (2 ^ 63 + 3 * 2 ^ 61 + a))
    else (entryWord e 1, w64 (entryVis 0 e * 2 ^ 61 + a))
  | 2 => (entryWord e 1, entryWord e 2)
  | 3 => (entryWord e 3, entryWord e 4)
  | 4 => (entryWord e 16, w64 (rulePrio e * 2 ^ 16 + a))
  | _ => (entryWord e 0, 0)

/-! ### Learning (R108, R143 to R145) -/

/-- The Keeper tick (R143). -/
def State.keeperTick (s : State) : Nat := s.elapsedNs / 8000 % 65536

/-- A learning request reaches the Keeper's input (R143). -/
def State.learnArrive (s : State) (key port : Nat) : State :=
  if s.flag F.LDG_LEARN_CFG_LEARN_EN = false ∨ bitOf (s.reg (R.LDG_LEARN_PORT (port / 32))) (port % 32) = false then
    s.count R.LDG_C_LEARN_OFF
  else if 4096 ≤ s.ledger.fifo.length then (s.count R.LDG_C_LEARN_FIFO_DROP).raiseG 38 2
  else s.toKeeper (.learn ⟨w64 key, port, s.keeperTick⟩)

/-- The learning side of an L2SRC search that found `a` (R108, R139, R142). -/
def State.learnFrom (s : State) (key port : Nat) (a : Option Nat) : State :=
  match a with
  | none => s.learnArrive key port
  | some a =>
    let e := s.entry 0 a
    if isLearned e = false then s
    else if bitsOf (entryWord e 1) 6 0 = port then
      (s.placements key).foldl (fun t x => t.setActivity x true) s
    else s.learnArrive key port

/-- Change word 1 of several entries. -/
def State.mapWord1 (s : State) (as : List Nat) (g : W64 → W64) : State :=
  as.foldl (fun t a => t.setEntry 0 a ((t.entry 0 a).set 1 (g (entryWord (t.entry 0 a) 1)))) s

/-- Apply one learning request (R144, R145). `bad` names the entries that fail their parity check as the Keeper reads
them. -/
def State.learnApply (s : State) (r : LearnReq) (bad : ParityBad) : State :=
  let key := bitsOf r.key 59 0
  let seeds := s.l2Seeds
  let first := seeds.headD 0
  let all := fun (u : State) sel => (seeds.flatMap fun sd => u.l2Match sd key sel).eraseDups
  if (all s fun e => !isLearned e).isEmpty = false then s.count R.LDG_C_LEARN_STATIC
  else
    let s := ((all s isLearned).filter (bad.has 0)).foldl (fun t a => t.parityHit 0 a) s
    match all s isLearned with
    | [] =>
      let e := learnedEntry key r.port r.tick
      match s.l2Insert first e true bad with
      | (some _, _, t) => (seeds.drop 1).foldl (fun u sd => u.placeSecond sd e bad) (t.count R.LDG_C_LEARN_NEW)
      | (none, _, t) => t.count R.LDG_C_LEARN_NO_ROOM
    | a :: as =>
      let w1 := entryWord (s.entry 0 a) 1
      if bitsOf w1 6 0 = r.port then s
      else if (r.tick + 65536 - bitsOf w1 47 32) % 65536 < s.fld F.LDG_LEARN_CFG_HOLDDOWN then
        let old := bitsOf w1 55 48
        let flap := min 255 (old + 1)
        let t := (s.mapWord1 (a :: as) fun w => setBits w 55 48 flap).count R.LDG_C_LEARN_HOLD_DISCARD
        let th := s.fld F.LDG_LEARN_CFG_FLAP_THRESH
        if th ≠ 0 ∧ flap = th ∧ old ≠ th then (t.logFirst R.LDG_FLAP_LOG 31 a).raiseG 38 1 else t
      else
        (s.mapWord1 (a :: as) fun w => setBits (setBits (setBits w 6 0 r.port) 47 32 r.tick) 63 56 0).count
          R.LDG_C_LEARN_MOVE

/-- Entries of a table that the Keeper reads and that fail their parity check are invalidated (R153). -/
def State.checkParity (s : State) (t : Nat) (bad : ParityBad) : State :=
  ((s.listed t).filter fun x => entryValid t x.2 && bad.has t x.1).foldl (fun u x =>
    if entryValid t (u.entry t x.1) then u.parityHit t x.1 else u) s

/-- Remove every learned entry of a port, within a FID when one is given: how many, and the state (R147). -/
def State.flushPort (s : State) (port : Nat) (fid : Option Nat) (bad : ParityBad) : Nat × State :=
  let s := s.checkParity 0 bad
  let gone := (s.listed 0).filter fun x =>
    entryValid 0 x.2 && isLearned x.2 && bitsOf (entryWord x.2 1) 6 0 == port && (match fid with
      | some f => bitsOf (entryWord x.2 0) 59 48 == f
      | none => true)
  let n := (gone.map fun x => l2Key x.2).eraseDups.length
  let t := gone.foldl (fun t x => t.invalidate 0 x.1) s
  (n, (t.countN R.LDG_C_FLUSHED n).raiseG 38 6)

/-! ### The Keeper's input (R143) -/

/-- The Keeper serves one element of its input. -/
def State.keeperServe (bad : ParityBad) (s : State) (x : KprInput) : State :=
  match x with
  | .learn r => s.learnApply r bad
  | .invalidate t a => s.invalidateWhole t a
  | .flush p => (s.flushPort p none bad).2

/-- The elements of an input up to the first that satisfies `p`, and those behind it. -/
def inputThrough (p : KprInput → Bool) : List KprInput → List KprInput × List KprInput
  | [] => ([], [])
  | x :: rest =>
    if p x then ([x], rest)
    else
      let (a, b) := inputThrough p rest
      (x :: a, b)

/-- The Keeper serves its input up to the first element that satisfies `p` (R143). -/
def State.keeperThrough (s : State) (p : KprInput → Bool) (bad : ParityBad) : State :=
  if s.keeperHalted then s
  else
    let (now, later) := inputThrough p s.ledger.input
    now.foldl (State.keeperServe bad) { s with ledger := { s.ledger with input := later } }

def KprInput.isLearn : KprInput → Bool
  | .learn _ => true
  | _ => false

/-- LEARN_REQUEST: the Keeper applies the oldest waiting request, and what stands ahead of it in its input (R143,
R144). -/
def execLearnRequest (bad : ParityBad) (s : State) : Out State := .next (s.keeperThrough KprInput.isLearn bad)

/-- Everything that arrived before a Keeper command is applied before it (R143). -/
def State.drainLearn (s : State) (bad : ParityBad) : State := s.keeperThrough (fun _ => false) bad

/-- PARITY_INVALIDATE: the Keeper invalidates the entry that a search found bad, behind what arrived earlier (R143,
R153). One that it has carried out already, ahead of a host command, is not made again. -/
def execParityInvalidate (table : Fin 6) (addr : BitVec 18) (s : State) : Out State :=
  let x := KprInput.invalidate (if table.val = 1 then 0 else table.val) addr.toNat
  .next (if s.ledger.input.contains x then s.keeperThrough (· == x) [] else s)

/-- A declared link-down flushes the port (R147), behind what the Keeper's input holds (DESIGN CHOICE, log entry 119).
-/
def State.linkDownFlush (s : State) (port : Nat) : State :=
  if s.flag F.LDG_LEARN_CFG_LD_FLUSH && !s.keeperHalted then
    if s.ledger.input.isEmpty then (s.flushPort port none []).2 else s.toKeeper (.flush port)
  else s

/-! ### Ageing (R145, R146) -/

/-- One ageing step of the entry at `a` on each of its placements (R142, R146). -/
def State.ageEntry (s : State) (a : Nat) : State :=
  let e := s.entry 0 a
  let all := (a :: s.placements (l2Key e)).eraseDups
  let used := all.any s.activity
  let w := entryWord e 1
  let age := if used then 0 else min 255 (bitsOf w 63 56 + 1)
  let t := (all.foldl (fun t x => t.setActivity x false) s).mapWord1 all fun v =>
    setBits (setBits v 63 56 age) 55 48 (bitsOf v 55 48 / 2)
  if used = false ∧ s.fld F.LDG_AGE_CFG_LIMIT ≤ age then
    (all.foldl (fun t x => t.invalidate 0 x) t).count R.LDG_C_AGED_OUT
  else t

/-- The Keeper has taken the learning requests before an ageing step, and the step goes on to the next entry (R142,
R143). -/
def State.agedPast (s : State) (bad : ParityBad) : State :=
  let d := s.drainLearn bad
  { d with ledger := { d.ledger with ageAt := (d.ledger.ageAt + 1) % 262144 } }

/-- AGEING_STEP: the visit to the next L2 address (R146), behind what arrived earlier (R143). Of the placements of one
entry, the one under the active forme's seed is visited (R142). -/
def execAgeingStep (bad : ParityBad) (s : State) : Out State :=
  .next (
    if s.keeperHalted || !s.flag F.LDG_AGE_CFG_AGE_EN then s
    else
      let a := (s.drainLearn bad).ledger.ageAt
      let t := s.agedPast bad
      let e := t.entry 0 a
      let first := t.l2Match (t.l2Seeds.headD 0) (l2Key e) isLearned
      if !entryValid 0 e then t
      else if bad.has 0 a then t.parityHit 0 a
      else if !isLearned e || (!first.isEmpty && !first.contains a) then t
      else t.ageEntry a)

/-! ### Sweeps (R135, R142) -/

/-- The versioned tables. -/
def versioned : List Nat := [0, 2, 3, 4]

/-- A sweep reads every versioned entry and every fork slot (R135, R153). -/
def State.sweepParity (s : State) (bad : ParityBad) : State :=
  (versioned ++ [5]).foldl (fun u tb => u.checkParity tb bad) s

/-- Stage tag `tag` in the Ledger: seed, inheritance, second placements (R135, R138, R142). Nothing is placed in a
fenced fork bank (R154). -/
def State.ledgerStage (s : State) (tag : Nat) (inherit : Option Nat) (seed : Nat) (bad : ParityBad) : State :=
  let t := s.setFld (F.LDG_SEED_SEED tag) seed
  let t := match inherit with
    | none => t
    | some act =>
      let u := versioned.foldl (fun u tb => (u.listed tb).foldl (fun u x =>
        if seenBy tb act x.2 && !(tb == 0 && isLearned x.2) then u.setEntry tb x.1 (setVis tb x.2 3) else u) u) (t.sweepParity bad)
      let u := (u.listed 5).foldl (fun u x =>
        let a := tag * 2 ^ 14 + x.1 % 2 ^ 14
        if x.1 / 2 ^ 14 = act ∧ u.bankOut 5 a = false then u.setEntry 5 a x.2 else u) u
      u.raiseG 38 5
  match s.activeTag with
  | some act =>
    if t.seed act = seed then t
    else ((t.listed 0).filter fun x => entryValid 0 x.2 && isLearned x.2).foldl
      (fun u x => u.placeSecond seed x.2 bad) t
  | none => t

/-- The release sweep of tag `tag` ends: its entries, fork tables and placements are gone (R135, R142). -/
def State.ledgerRelease (s : State) (tag : Nat) (bad : ParityBad) : State :=
  let t := versioned.foldl (fun u tb => (u.listed tb).foldl (fun u x =>
    if seenBy tb tag x.2 && !(tb == 0 && isLearned x.2) then
      let vis := entryVis tb x.2 &&& (3 - 2 ^ tag)
      let u := u.setEntry tb x.1 (setVis tb x.2 vis)
      if vis = 0 then u.invalidate tb x.1 else u
    else u) u) (s.sweepParity bad)
  let t := (t.listed 5).foldl (fun u x => if x.1 / 2 ^ 14 = tag then u.setEntry 5 x.1 [0] else u) t
  let sd := t.seed (1 - tag)
  let t := ((t.listed 0).filter fun x => entryValid 0 x.2 && isLearned x.2).foldl (fun u x =>
    if (l2Cands sd (l2Key x.2)).contains x.1 then u else u.invalidate 0 x.1) t
  ({ t with ledger := { t.ledger with sweep := none } }).raiseG 38 5

/-- A table bank is fenced: its entries are lost (R154). -/
def State.tblBankFenced (s : State) (k : Nat) : State :=
  (s.ledger.entries.foldl (fun u x =>
    let t := x.1 / 2 ^ 18
    let a := x.1 % 2 ^ 18
    if tblBank t a = k ∧ (t = 0 ∨ (2 ≤ t ∧ t ≤ 5)) then u.invalidate t a else u) s).raiseG 38 7

/-! ### The Keeper's table operations (R134, R155, R156, R285, R286) -/

/-- What a Keeper operation answers: code, DETAIL and result words. -/
abbrev KRes := Nat × Nat × List W64

/-- BUSY and TAG (R134, R135): none when the tag may be written. -/
def State.tagRefusal (s : State) (tag : Nat) : Option Nat :=
  if s.ledger.sweep = some tag then some 4
  else if s.tagState tag = 1 ∨ s.tagState tag = 2 then none
  else some 6

/-- A whole entry breaks the field rules of R137 and R148 to R151. -/
def entryBad (t : Nat) (e : TblEntry) : Bool :=
  let w0 := entryWord e 0
  match t with
  | 2 =>
    let len := bitsOf w0 45 40
    bitsOf w0 60 46 != 0 || decide (32 < len) || bitsOf w0 31 0 % 2 ^ (32 - len) != 0
  | 3 =>
    let len := bitsOf w0 7 0
    bitsOf w0 60 8 != 0 || decide (128 < len) || ipv6Num (entryWord e 1) (entryWord e 2) % 2 ^ (128 - len) != 0
  | 4 =>
    let b := ruleBytes e
    let value := beNat (b.take 60)
    let mask := beNat ((b.drop 60).take 60)
    value &&& mask != value || bitOf (entryWord e 15) 60 || bitsOf (entryWord e 15) 55 0 != 0 || entryWord e 17 != 0
  | 5 => bitsOf w0 47 32 != 0
  | _ => false

/-- Two entries of one keyed table have the same key (R134, R148). -/
def sameKey (t : Nat) (a b : TblEntry) : Bool :=
  match t with
  | 0 => l2Key a == l2Key b
  | 2 => bitsOf (entryWord a 0) 45 0 == bitsOf (entryWord b 0) 45 0
  | _ => bitsOf (entryWord a 0) 7 0 == bitsOf (entryWord b 0) 7 0 && entryWord a 1 == entryWord b 1 &&
      entryWord a 2 == entryWord b 2

/-- The host-written entry of a key whose VIS has bit `tag` (R134). -/
def State.hostEntry (s : State) (t tag : Nat) (e : TblEntry) : Option Nat :=
  ((s.listed t).find? fun x => seenBy t tag x.2 && !(t == 0 && isLearned x.2) && sameKey t x.2 e).map Prod.fst

/-- A free slot of an LPM table: the spec names none, so the first free one from a free value on (log entry 21). -/
def State.takeSlot (s : State) (t : Nat) : Option Nat × State :=
  let (v, u) := s.takeFree 64
  let n := tblSize t
  let ok := fun a => !s.bankOut t a && !entryValid t (s.entry t a)
  (((List.range n).map fun i => (v.toNat + i) % n).find? ok, u)

/-- Place a new host-written entry: its address, or none for FULL (R140, R141, R154). -/
def State.placeHost (s : State) (t tag idx : Nat) (e : TblEntry) (bad : ParityBad) : Option Nat × State :=
  match t with
  | 0 =>
    match s.l2Insert (s.seed tag) e false bad with
    | (a, _, u) => (a, u)
  | 4 =>
    if s.bankOut 4 idx || entryValid 4 (s.entry 4 idx) then (none, s) else (some idx, s.setEntry 4 idx e)
  | _ =>
    match s.takeSlot t with
    | (some a, u) => (some a, u.setEntry t a e)
    | (none, u) => (none, u)

/-- The entries that a WRITE or DELETE by key or index reads as the one it names: the rule at the index, or the
host-written and the learned entries of the key (R134, R156). -/
def State.addressed (s : State) (t tag idx : Nat) (key : TblEntry) : List Nat :=
  if t = 4 then (if entryValid 4 (s.entry 4 idx) then [idx] else [])
  else (s.hostEntry t tag key).toList ++ (if t = 0 then s.placements (l2Key key) else [])

/-- The addressed entry has a parity error: PARITY, and the error is handled (R153, R156). -/
def State.parityRes (s : State) (t : Nat) (hit : List Nat) : KRes × State :=
  ((7, 0, []), hit.foldl (fun u a => u.parityHit t a) s)

/-- WRITE to a Ledger table under tag `tag` (R134, R155). -/
def State.keeperWrite (s : State) (t tag idx : Nat) (data : TblEntry) (bad : ParityBad) : KRes × State :=
  match s.tagRefusal tag with
  | some c => ((c, 0, []), s)
  | none =>
    if (t = 4 ∧ 8192 ≤ idx) ∨ (t = 5 ∧ 2 ^ 14 ≤ idx) ∨ entryBad t data then ((5, 0, []), s)
    else if t = 5 then
      let a := tag * 2 ^ 14 + idx
      if s.bankOut 5 a then ((1, 0, []), s) else ((0, a, []), s.setEntry 5 a (setValid 5 data true))
    else
      let clean := if t = 0 then data.set 0 (w64 (bitsOf (entryWord data 0) 59 0)) else data
      let e := setVis t (setValid t clean true) (2 ^ tag)
      let cur := if t = 4 then (if seenBy 4 tag (s.entry 4 idx) then some idx else none) else s.hostEntry t tag e
      let full := fun (u : State) =>
        (u.count R.LDG_C_INSERT_FULL).raiseG 38 4
      let fullWords := if t = 0 then
          let c := l2Cands (s.seed tag) (l2Key e)
          [w64 (c.getD 0 0), w64 (c.getD 4 0)]
        else []
      let hit := (s.addressed t tag idx e).filter (bad.has t)
      let learnedOnly := t == 0 && cur.isNone && !(s.placements (l2Key e)).isEmpty
      if hit.isEmpty = false then s.parityRes t hit
      else if learnedOnly then ((8, 0, []), s)
      else match cur with
        | some a =>
          if entryVis t (s.entry t a) = 2 ^ tag then ((0, a, []), s.setEntry t a e)
          else if t = 4 then ((1, 0, []), full s)
          else
            let old := s.entry t a
            match (s.setEntry t a (setVis t old (3 - 2 ^ tag))).placeHost t tag idx e bad with
            | (some b, u) => ((0, b, []), u)
            | (none, u) => ((1, 0, fullWords), full (u.setEntry t a old))
        | none =>
          match s.placeHost t tag idx e bad with
          | (some b, u) => ((0, b, []), u)
          | (none, u) => ((1, 0, fullWords), full u)

/-- DELETE from a Ledger table under tag `tag` (R134, R155). -/
def State.keeperDelete (s : State) (t tag idx : Nat) (key : TblEntry) (bad : ParityBad) : KRes × State :=
  match s.tagRefusal tag with
  | some c => ((c, 0, []), s)
  | none =>
    if (t = 4 ∧ 8192 ≤ idx) ∨ (t = 5 ∧ 2 ^ 14 ≤ idx) ∨ ((t = 2 ∨ t = 3) ∧ entryBad t key = true) then ((5, 0, []), s)
    else if t = 5 then
      let a := tag * 2 ^ 14 + idx
      if entryValid 5 (s.entry 5 a) ∧ bad.has 5 a = true then s.parityRes 5 [a]
      else if entryValid 5 (s.entry 5 a) then ((0, a, []), s.invalidate 5 a) else ((2, 0, []), s)
    else
      let cur := if t = 4 then (if seenBy 4 tag (s.entry 4 idx) then some idx else none) else s.hostEntry t tag key
      let hit := (s.addressed t tag idx key).filter (bad.has t)
      if hit.isEmpty = false then s.parityRes t hit
      else match cur with
      | some a =>
        let vis := entryVis t (s.entry t a) &&& (3 - 2 ^ tag)
        if vis = 0 then ((0, a, []), s.invalidate t a)
        else ((0, a, []), s.setEntry t a (setVis t (s.entry t a) vis))
      | none =>
        if t = 0 ∧ (s.placements (l2Key key)).isEmpty = false then ((8, 0, []), s)
        else ((2, 0, []), s)

/-- READ of an entry (R155). -/
def State.keeperRead (s : State) (t a : Nat) (bad : ParityBad) : KRes × State :=
  if tblSize t ≤ a then ((5, 0, []), s)
  else if bad.has t a then ((7, b2n (t == 0 && s.activity a) * 2 ^ 39, []), s.parityHit t a)
  else ((0, b2n (t == 0 && s.activity a) * 2 ^ 39, s.entry t a), s)

/-- SEARCH for a tag (R155, R290). -/
def State.keeperSearch (s : State) (t tag : Nat) (key : List W64) (bad : ParityBad) : KRes × State :=
  let k := fun i => key.getD i 0
  let req := match t with
    | 0 => LookupReq.l2 (k 0) false
    | 2 => .ipv4 (k 0)
    | 3 => .ipv6 (k 1) (k 2)
    | _ => .rule ((key.flatMap fun w => toBE 8 w.toNat).take 60)
  match s.findEntry tag req with
  | none => ((0, 0, [0, 0]), s)
  | some (tb, a) =>
    if bad.has tb a then ((7, 2 * 2 ^ 32, [0, 0]), s.parityHit tb a)
    else
      let r := s.resultWords tb a
      ((0, 2 ^ 32 + a, [r.1, r.2]), s)

/-- NEXT (R155, R157): a learned entry is shown in the placement that a lookup of the tag finds (R142, R244). -/
def State.keeperNext (s : State) (t tag start : Nat) (filter : W64) (bad : ParityBad) : KRes × State :=
  let lonly := bitOf filter 63
  let portV := bitOf filter 62
  let fidV := bitOf filter 54
  if tblSize t < start ∨ (t ≠ 0 ∧ (lonly || portV || fidV) = true) then ((5, 0, []), s)
  else
    let s := if start = 0 ∧ t = 0 then s.setDirty false else s
    let dirty := b2n (t == 0 && s.ledger.dirty) * 2 ^ 39
    let pass := fun (x : Nat × TblEntry) =>
      decide (start ≤ x.1) && entryValid t x.2 &&
      (if t = 5 then x.1 / 2 ^ 14 == tag else Nat.testBit (entryVis t x.2) tag) &&
      (t != 0 ||
        ((!isLearned x.2 || (l2Cands (s.seed tag) (l2Key x.2)).contains x.1) && (!lonly || isLearned x.2) &&
          (!portV || (isLearned x.2 && bitsOf (entryWord x.2 1) 6 0 == bitsOf filter 61 55)) &&
          (!fidV || bitsOf (entryWord x.2 0) 59 48 == bitsOf filter 53 42)))
    match (s.listed t).find? fun x =>
      pass x || (decide (start ≤ x.1) && entryValid t x.2 && bad.has t x.1) with
    | some x => if bad.has t x.1 then ((7, dirty, []), s.parityHit t x.1) else ((0, dirty + x.1, x.2), s)
    | none => ((3, dirty, []), s)

end Sys2Proof.Machine
end

