-- ==== Sys2Proof/Machine/Watchlist.lean ====
section
/-! DEFINITION. The Watchlist: matrices, checks on writes, scans, the maintenance slot, the shadow, patrol and repair
(R163 to R175). A directory entry is numbered 256 * tag + set. -/

namespace Sys2Proof.Machine

/-- The tag of the staged forme (R134). -/
def State.stagedTag (s : State) : Option Nat := [0, 1].find? fun t => s.tagState t == 1

/-! ### Matrices (R163, R164) -/

/-- 64 bytes of a state line as stored. -/
def State.wchLine (s : State) (l : Nat) : List Byte := Memory.readN 0 s.watch.lines (64 * l) 64

/-- The same with the writes that wait for the maintenance slot applied. -/
def State.wchLineNext (s : State) (l : Nat) : List Byte :=
  s.watch.writes.foldl (fun b m => match m with
    | .line k bs => if k = l then bs else b
    | .dir _ _ _ => b) (s.wchLine l)

def State.wchDir (s : State) (i : Nat) : W64 × W64 :=
  (s.reg (R.WCH_DIR (i / 256) (i % 256) 0), s.reg (R.WCH_DIR (i / 256) (i % 256) 1))

def State.wchDirNext (s : State) (i : Nat) : W64 × W64 :=
  s.watch.writes.foldl (fun d m => match m with
    | .dir k w0 w1 => if k = i then (w0, w1) else d
    | .line _ _ => d) (s.wchDir i)

/-- NSTATE, NCLASS and START of a header line. -/
def matrixShape (header : List Byte) : Nat × Nat × Nat :=
  let w := beAt header 0 8
  (w / 2 ^ 48 % 65536 + 1, w / 2 ^ 42 % 64 + 1, w / 2 ^ 26 % 65536)

/-- Lines that a matrix occupies. -/
def matrixLines (header : List Byte) : Nat :=
  let (ns, nc, _) := matrixShape header
  5 + ceilDiv (ns * nc) 16

/-- A header line with zeros where R163 has them. -/
def headerOk (header : List Byte) : Bool :=
  beAt header 0 8 % 2 ^ 26 == 0 && (header.drop 8).all (· == 0)

/-- The transition entry `e` of the matrix whose header is line `l`. -/
def transition (get : Nat → List Byte) (l e : Nat) : Nat := beAt (get (l + 5 + e / 16)) (4 * (e % 16)) 4

/-- The class of a byte value. -/
def classOf (get : Nat → List Byte) (l v : Nat) : Nat := (byteAt (get (l + 1 + v / 64)) (v % 64)).toNat

/-- A matrix obeys R163. -/
def matrixOk (get : Nat → List Byte) (l : Nat) : Bool :=
  let h := get l
  let (ns, nc, _) := matrixShape h
  headerOk h && decide (l + matrixLines h ≤ 65536) &&
  ((List.range 256).all fun v => decide (classOf get l v < nc)) &&
  ((List.range (ns * nc)).all fun e =>
    let t := transition get l e
    decide (t / 65536 < ns) && t / 2048 % 16 == 0)

/-- The header lines that a directory entry names. -/
def dirHeads (d : W64 × W64) : List Nat :=
  (List.range (bitsOf d.1 61 60 + 1)).map fun k => bitsOf d.2 (63 - 16 * k) (48 - 16 * k)

def dirValid (d : W64 × W64) : Bool := bitOf d.1 63

/-- A directory entry names line `l`: one of its matrices occupies it. -/
def dirNames (get : Nat → List Byte) (d : W64 × W64) (l : Nat) : Bool :=
  dirValid d && (dirHeads d).any fun h => decide (h ≤ l) && decide (l < h + matrixLines (get h))

/-- The directory entries whose VALID is 1, by number. -/
def State.validDirs (s : State) : List (Nat × (W64 × W64)) :=
  ((List.range 512).map fun i => (i, s.wchDirNext i)).filter fun x => dirValid x.2

/-! ### Maintenance writes (R165, R171, R172) -/

def State.modWatch (s : State) (g : WatchUnit → WatchUnit) : State := { s with watch := g s.watch }

/-- The internal address of a shadow byte: lines first, then directories (R172). -/
def State.shadowAddr (s : State) (item : Nat) : Nat :=
  let base := ddrBase + s.fld F.WCH_SHADOW_BASE_BASE * 2 ^ 23
  if item < 65536 then base + 64 * item else base + 64 * 65536 + 16 * (item - 65536)

/-- The shadow is on and its DRAM is in service (R172, R339). -/
def State.shadowOn (s : State) : Bool := s.flag F.WCH_SHADOW_CFG_SHADOW_EN && s.ddrReady

/-- Write to the shadow, when it is on and there. `ecc` is what the read of a burst written in part finds (R345). -/
def State.shadowWrite (s : State) (item : Nat) (bs : List Byte) (ecc : EccRead) : State :=
  if s.shadowOn && s.ddrMapped (s.shadowAddr item) bs.length then s.ddrWrite 2 (s.shadowAddr item) bs [(0, ecc)] else s

def dirBytes (w0 w1 : W64) : List Byte := toBE 8 w0.toNat ++ toBE 8 w1.toNat

def State.setDir (s : State) (i : Nat) (w0 w1 : W64) : State :=
  (s.setReg (R.WCH_DIR (i / 256) (i % 256) 0) w0).setReg (R.WCH_DIR (i / 256) (i % 256) 1) w1

/-- A directory entry, written to the shadow and then to the directory. -/
def State.writeDir (s : State) (i : Nat) (w0 w1 : W64) (ecc : EccRead) : State :=
  ((s.shadowWrite (65536 + i) (dirBytes w0 w1) ecc).setDir i w0 w1).modWatch fun w =>
    { w with failed := w.failed.filter (· != 65536 + i) }

/-- Set or clear BROKEN in directory entry `i`, in the shadow too: the patrol would else take the bit back (DEDUCED, log
entry 113). -/
def State.setBroken (s : State) (i : Nat) (broken : Bool) : State :=
  let d := s.wchDir i
  let w0 := setBits d.1 62 62 (b2n broken)
  if w0 = d.1 then s
  else
    let (ecc, t) := s.takeEcc
    (t.shadowWrite (65536 + i) (dirBytes w0 d.2) ecc).setDir i w0 d.2

/-- Give every entry that names line `l` the BROKEN bit that its failed lines ask for (R175). -/
def State.rebreak (s : State) (l : Nat) : State :=
  (List.range 512).foldl (fun t i =>
    let d := t.wchDir i
    if dirNames t.wchLine d l then
      t.setBroken i (t.watch.failed.any fun x => x == 65536 + i || dirNames t.wchLine d x)
    else t) s

/-- A line, written to the shadow and then to the state memory; it removes the line's failed mark (R172, R175). -/
def State.writeLine (s : State) (l : Nat) (bs : List Byte) : State :=
  let was := s.watch.failed.contains l
  let t := (s.shadowWrite l bs .clean).modWatch fun w =>
    { w with lines := Memory.writeN 0 w.lines (64 * l) bs, failed := w.failed.filter (· != l) }
  if was then t.rebreak l else t

/-- One maintenance write steals one cycle from every engine (R171). -/
def State.steal (s : State) : State := s.countN R.WCH_C_STOLEN_CYCLES 42

/-- Maintenance writes that wait for the slot: lines, directory entries and repairs (R171). -/
def State.maintWaiting (s : State) : Nat := s.watch.writes.length + s.watch.repairs.length

/-- MAINT_BACKLOG latches when more than 64 writes wait (R176). -/
def State.maintBacklog (s before : State) : State :=
  if before.maintWaiting ≤ 64 ∧ 64 < s.maintWaiting then s.raiseG 38 22 else s

/-- Queue a maintenance write (R171, R176). -/
def State.queueMaint (s : State) (m : Maint) : State :=
  (s.modWatch fun w => { w with writes := w.writes ++ [m] }).maintBacklog s

/-- MAINT_WRITE: the oldest waiting write takes the maintenance slot (R171). `shadow` is what the read of the shadow
burst that a directory entry shares finds (R345). -/
def execMaintWrite (shadow : EccRead) (s : State) : Out State :=
  .next (
    match s.watch.writes with
    | [] => s
    | m :: rest =>
      let t := (s.modWatch fun w => { w with writes := rest }).steal
      match m with
      | .line l bs => t.writeLine l bs
      | .dir i w0 w1 => t.writeDir i w0 w1 shadow)

/-! ### The Keeper's operations on table 6 (R165, R286) -/

/-- A line that can stand somewhere in a matrix as far as the bits go that R163 wants zero: as a header, as class values
below 64, or as transitions (DEDUCED, log entry 112). -/
def lineOk (bs : List Byte) : Bool :=
  headerOk bs || (bs.all fun b => decide (b.toNat < 64)) ||
    (List.range 16).all fun e => beAt bs (4 * e) 4 / 2048 % 16 == 0

/-- WRITE of a line. -/
def State.watchLineWrite (s : State) (l : Nat) (data : List W64) : KRes × State :=
  let bs := data.flatMap fun w => toBE 8 w.toNat
  let get := s.wchLineNext
  let get2 := fun k => if k = l then bs else get k
  let naming := s.validDirs.filter fun x => dirNames get x.2 l
  if 65536 ≤ l then ((5, 0, []), s)
  else if (naming.any fun x => s.stagedTag != some (x.1 / 256)) && !s.watch.failed.contains l then ((6, 0, []), s)
  else if naming.any fun x => (dirHeads x.2).any fun h =>
      decide (h ≤ l) && decide (l < h + matrixLines (get h)) && !matrixOk get2 h then ((5, 0, []), s)
  else if naming.isEmpty ∧ lineOk bs = false then ((5, 0, []), s)
  else ((0, l, []), s.queueMaint (.line l bs))

/-- WRITE of a directory entry. -/
def State.watchDirWrite (s : State) (tag set : Nat) (data : List W64) : KRes × State :=
  let w0 := data.getD 0 0
  let w1 := data.getD 1 0
  let n := bitsOf w0 61 60 + 1
  match s.tagRefusal tag with
  | some c => ((c, 0, []), s)
  | none =>
    let clean := setBits (setBits w0 63 63 1) 62 62 0
    if 256 ≤ set ∨ bitsOf w0 59 0 ≠ 0 ∨ (n < 4 ∧ bitsOf w1 (63 - 16 * n) 0 ≠ 0) ∨
        ((dirHeads (clean, w1)).all (matrixOk s.wchLineNext)) = false then ((5, 0, []), s)
    else ((0, 256 * tag + set, []), s.queueMaint (.dir (256 * tag + set) clean w1))

/-- DELETE in table 6: a directory entry; a state line has nothing to delete (log entry 22). -/
def State.watchDelete (s : State) (dir : Bool) (tag idx : Nat) : KRes × State :=
  match s.tagRefusal tag with
  | some c => ((c, 0, []), s)
  | none =>
    if dir = false ∨ 256 ≤ idx then ((5, 0, []), s)
    else if dirValid (s.wchDirNext (256 * tag + idx)) then
      ((0, 256 * tag + idx, []), s.queueMaint (.dir (256 * tag + idx) 0 0))
    else ((2, 0, []), s)

/-- READ in table 6: a line, or the directory entry 256 * tag + set. -/
def State.watchRead (s : State) (dir : Bool) (a : Nat) : KRes × State :=
  if dir then
    if 512 ≤ a then ((5, 0, []), s)
    else ((0, 0, [(s.wchDir a).1, (s.wchDir a).2]), s)
  else if 65536 ≤ a then ((5, 0, []), s)
  else ((0, 0, (List.range 8).map fun i => w64 (beAt (s.wchLine a) (8 * i) 8)), s)

/-- Staging copies the active directory; a release clears the tag's (R165). -/
def State.watchStage (s : State) (tag : Nat) (inherit : Option Nat) : State :=
  match inherit with
  | none => s
  | some act => (List.range 256).foldl (fun t k =>
      let d := t.wchDir (256 * act + k)
      let (ecc, t) := t.takeEcc
      t.writeDir (256 * tag + k) d.1 d.2 ecc) s

def State.watchRelease (s : State) (tag : Nat) : State :=
  (List.range 256).foldl (fun t k =>
    if (t.wchDir (256 * tag + k)) = (0, 0) then t
    else
      let (ecc, t) := t.takeEcc
      t.writeDir (256 * tag + k) 0 0 ecc) s

/-! ### Scans (R166 to R169) -/

/-- What a scan has found: transitions taken with MATCH, and the winning pattern with its first end offset. -/
structure ScanAcc where
  matches_ : Nat
  best : Option (Nat × Nat)
  deriving DecidableEq, Repr

/-- Take one MATCH transition. -/
def ScanAcc.hit (a : ScanAcc) (pat off : Nat) : ScanAcc :=
  ⟨a.matches_ + 1, match a.best with
    | none => some (pat, off)
    | some (p, o) => if pat < p ∨ (pat = p ∧ off < o) then some (pat, off) else some (p, o)⟩

/-- Step one matrix over bytes from frame address `off`. -/
def runMatrix (get : Nat → List Byte) (l nc : Nat) : Nat → Nat → List Byte → ScanAcc → ScanAcc
  | _, _, [], acc => acc
  | st, off, b :: bs, acc =>
    let t := transition get l (st * nc + classOf get l b.toNat)
    let acc := if t / 32768 % 2 = 1 then acc.hit (t % 2048) off else acc
    runMatrix get l nc (t / 65536) (off + 1) bs acc

/-- Run a set over bytes: status and result words (R167). -/
def scanResult (get : Nat → List Byte) (d : W64 × W64) (set start : Nat) (bs : List Byte) : Nat × W64 × W64 :=
  let acc := (dirHeads d).foldl (fun acc l =>
    let (_, nc, st) := matrixShape (get l)
    runMatrix get l nc st start bs acc) ⟨0, none⟩
  match acc.best with
  | none => (0, 0, 0)
  | some (p, o) => (1, w64 (set * 2 ^ 32 + o % 2 ^ 14 * 2 ^ 16 + p), w64 (min 65535 acc.matches_))

/-- The selected bytes of a frame's bytes (R166). -/
def Scan.select (sc : Scan) (bs : List Byte) : List Byte :=
  match sc.len with
  | some n => (bs.drop sc.start).take n
  | none => bs.drop sc.start

/-- The bytes that a scan steps, when all of them have arrived (R106, R169). -/
def State.scanBytes (s : State) (sc : Scan) : Option (List Byte) :=
  match s.frame sc.frame with
  | none => some (sc.select sc.kept)
  | some f =>
    if sc.owner.isNone then some (sc.select sc.kept)
    else if f.complete then some (sc.select f.bytes)
    else match sc.len with
      | some n => if sc.start + n ≤ f.bytes.length then some (sc.select f.bytes) else none
      | none => none

def State.engine (s : State) (e : Nat) : Option Scan := tget (fun _ => none) s.watch.engines e
def State.setEngine (s : State) (e : Nat) (v : Option Scan) : State :=
  s.modWatch fun w => { w with engines := tput (fun _ => none) w.engines e v }

/-- A free engine for a scan: an admitted one takes a reserved engine first (R168). -/
def State.freeEngine (s : State) (admitted : Bool) : Option Nat :=
  let adm := s.fld F.WCH_ENGINES_ADM
  let order := if admitted then List.range 42 else (List.range 42).drop adm
  order.find? fun e => (s.engine e).isNone

/-- Best-effort scans that wait. -/
def State.waitingBe (s : State) : Nat := (s.watch.waiting.filter fun x => !x.admitted).length

/-- SCAN_START: the oldest waiting scan that may run takes an engine, admitted before best-effort; a sleeping engine
wakes (R168, R377). -/
def execScanStart (s : State) : Out State :=
  .next (
    let take := fun (adm : Bool) =>
      match s.watch.waiting.find? (fun x => x.admitted == adm), s.freeEngine adm with
      | some sc, some e => some (sc, e)
      | _, _ => none
    match (take true).orElse fun _ => take false with
    | none => s
    | some (sc, e) =>
      let t := (s.modWatch fun w => { w with waiting := w.waiting.erase sc }).setEngine e (some sc)
      { t with pwr := { t.pwr with enginesAsleep := t.pwr.enginesAsleep &&& ~~~ BitVec.ofNat 42 (2 ^ e) } })

/-- Queue a repair of a line or directory entry, once, while there is a shadow (R173, R174). -/
def State.queueRepair (s : State) (item kind : Nat) : State :=
  if s.shadowOn && !(s.watch.repairs.any fun x => x.1 == item) then
    (s.modWatch fun w => { w with repairs := w.repairs ++ [(item, kind)] }).maintBacklog s
  else s

/-- Return a result under a compositor's tag: a wait for it ends (R104). -/
def State.setSlot (s : State) (c tag : Nat) (v : Slot) : State :=
  let cs := s.comp c
  s.setComp c { cs with
    slots := tput (fun _ => Slot.idle) cs.slots tag v
    lwait := if cs.lwait = some tag then none else cs.lwait }

/-- SCAN_DONE: the scan on an engine has stepped its last byte; `badLine` is a line that it read with bad parity, or
with bit 16 set the directory entry of its set (R167, R173). -/
def execScanDone (engine : Fin 42) (badLine : Option (BitVec 17)) (s : State) : Out State :=
  .next (
    match s.engine engine.val with
    | none => s
    | some sc =>
      match s.scanBytes sc with
      | none => s
      | some bs =>
        let d := s.wchDir (256 * sc.ftag + sc.set)
        let res := match badLine with
          | some _ => (2, 0, 0)
          | none => scanResult s.wchLine d sc.set sc.start bs
        let t := (s.setEngine engine.val none).countN R.WCH_C_BYTES_SCANNED bs.length
        let t := t.count (if sc.admitted then R.WCH_C_SCANS_ADM else R.WCH_C_SCANS_BE)
        let t := if res.1 = 1 then t.count R.WCH_C_HITS else t
        let t := match badLine with
          | some l => (((t.count R.WCH_C_PARITY_ERR).raiseG 38 16).fault 0x60F 0x39 0 false).queueRepair
              (if l.toNat < 65536 then l.toNat else 65536 + 256 * sc.ftag + sc.set) 1
          | none => t
        match sc.owner with
        | some (c, tag) => t.setSlot c tag (.ready res.1 res.2.1 res.2.2)
        | none => t)

/-! ### Patrol and repair (R174, R175) -/

/-- WCH_PATROL_STEP: compare the next line or directory entry with its shadow. `differs` is a soft error in what the
state memory returns, `shadow` what the read of the shadow finds; one that DDR reports uncorrectable is no comparison
(R347). -/
def execWchPatrolStep (differs : Bool) (shadow : EccRead) (s : State) : Out State :=
  .next (
    if (s.shadowOn && s.flag F.WCH_SHADOW_CFG_PATROL_EN) = false then s
    else
      let item := s.watch.patrolAt
      let mine := if item < 65536 then s.wchLine item
        else dirBytes (s.wchDir (item - 65536)).1 (s.wchDir (item - 65536)).2
      let t :=
        if s.watch.failed.contains item ∨ s.ddrMapped (s.shadowAddr item) mine.length = false then s
        else match s.ddrRead 2 (s.shadowAddr item) mine.length [(0, shadow)] with
          | (some bs, t) =>
            if differs || mine != bs then ((t.count R.WCH_C_MISMATCH).raiseG 38 17).queueRepair item 2 else t
          | (none, t) => t
      if item + 1 < 66048 then t.modWatch fun w => { w with patrolAt := item + 1 }
      else (t.modWatch fun w => { w with patrolAt := 0 }).raiseG 38 19)

/-- Record an error of a line or directory entry (R177). -/
def State.wchLog (s : State) (item kind : Nat) : State :=
  s.logFirst R.WCH_ERR_LOG 31 (kind * 2 ^ 28 + (if item < 65536 then item else 2 ^ 27 + (item - 65536)))

/-- WCH_REPAIR: rewrite a line or directory entry that waits for repair from its shadow (R175). Without a shadow no
repair runs (R172). -/
def execWchRepair (line : BitVec 17) (shadow : EccRead) (s : State) : Out State :=
  .next (
    match (if s.shadowOn then s.watch.repairs.find? fun x => x.1 == line.toNat else none) with
    | none => s
    | some (item, kind) =>
      let t := s.modWatch fun w => { w with repairs := w.repairs.filter fun x => x.1 != item }
      let len := if item < 65536 then 64 else 16
      match t.ddrRead 2 (t.shadowAddr item) len [(0, shadow)] with
      | (some bs, t) =>
        let t := ((t.steal).count R.WCH_C_REPAIRED).wchLog item kind
        if item < 65536 then t.modWatch fun w => { w with lines := Memory.writeN 0 w.lines (64 * item) bs }
        else t.setDir (item - 65536) (w64 (beAt bs 0 8)) (w64 (beAt bs 8 8))
      | (none, t) =>
        let t := t.modWatch fun w => { w with failed := w.failed ++ [item] }
        let t := if item < 65536 then t.rebreak item
          else
            let d := t.wchDir (item - 65536)
            t.setDir (item - 65536) (setBits d.1 62 62 1) d.2
        ((t.wchLog item 3).raiseG 38 18).fault 0x60F 0x39 0 false)

/-- WATCHLIST_ENGINE_SLEEP: an unreserved idle engine sleeps (R377). -/
def execWatchlistEngineSleep (engine : Fin 42) (s : State) : Out State :=
  .next (
    if (s.engine engine.val).isNone ∧ s.fld F.WCH_ENGINES_ADM ≤ engine.val then
      { s with pwr := { s.pwr with enginesAsleep := s.pwr.enginesAsleep ||| BitVec.ofNat 42 (2 ^ engine.val) } }
    else s)

end Sys2Proof.Machine
end

