-- ==== Sys2Proof/Machine/Waybills.lean ====
section
/-! DEFINITION. The waybill unit: words and counters, the class S operations, policing, supervision, the patrol, host
accesses, per-tag tables and parity (R179 to R210). -/

namespace Sys2Proof.Machine

/-! ### Words, counters and stamps -/

def State.modWbl (s : State) (g : WblUnit → WblUnit) : State := { s with wbl := g s.wbl }
def State.wword (s : State) (i j : Nat) : W64 := tget (fun _ => 0) s.wbl.words (8 * i + j)
def State.setWword (s : State) (i j : Nat) (v : W64) : State :=
  s.modWbl fun w => { w with words := tput (fun _ => 0) w.words (8 * i + j) v }
def State.wcount (s : State) (i j : Nat) : W64 := tget (fun _ => 0) s.wbl.counters (8 * i + j)
def State.setWcount (s : State) (i j : Nat) (v : W64) : State :=
  s.modWbl fun w => { w with counters := tput (fun _ => 0) w.counters (8 * i + j) v }

/-- Add to waybill counter `j` (R209). -/
def State.wadd (s : State) (i j n : Nat) : State := s.setWcount i j (s.wcount i j + w64 n)

/-- Set a field of word `j`. -/
def State.wset (s : State) (i j hi lo x : Nat) : State := s.setWword i j (setBits (s.wword i j) hi lo x)

/-- The µs stamp and the ms stamp of a timestamp (R181). -/
def usStamp (t : Stamp) : Nat := (stampSec t * 1000000 + stampNs t / 1000) % 2 ^ 32
def msOf (t : Stamp) : Nat := (stampSec t * 1000 + stampNs t / 1000000) % 65536

def wVALID (w0 : W64) : Bool := bitOf w0 63
def wRED (w0 : W64) : Bool := bitOf w0 62
def wSUP (w0 : W64) : Nat := bitsOf w0 59 58

/-- A plain waybill (R182). -/
def wPlain (w0 : W64) : Bool := !wRED w0 && wSUP w0 == 0

/-- The state of a waybill as arming with KEEP = 0 sets it, counters excepted (R184). -/
def State.armState (s : State) (i : Nat) : State :=
  let t := [3, 4, 5, 6, 7].foldl (fun t j => t.setWword i j 0) s
  if wPlain (s.wword i 0) then t
  else
    let ms := msOf s.stamp
    let t := t.setWword i 3 (w64 (ms * 2 ^ 32 + ms * 2 ^ 16 + ms))
    t.setWword i 7 (w64 (usStamp s.stamp * 2 ^ 32 + 8 + 4))

/-- A repair that waits is the next operation on its waybill (R203, R210). -/
def State.wrepair (s : State) (i : Nat) : State :=
  if s.wbl.repairs.contains i then
    ((s.modWbl fun w => { w with repairs := w.repairs.filter (· != i) }).armState i).count R.WBL_C_OPS
  else s

/-- Word `j` of waybill `i` has bad parity: poison or a queued repair, the log, the event and the report (R203). -/
def State.wparity (s : State) (i j : Nat) : State :=
  let t := if j < 3 then
      (s.count R.WBL_C_PARITY_CFG).modWbl fun w =>
        { w with poisoned := if w.poisoned.contains i then w.poisoned else w.poisoned ++ [i] }
    else
      (s.count R.WBL_C_PARITY_STATE).modWbl fun w =>
        { w with repairs := if w.repairs.contains i then w.repairs else w.repairs ++ [i] }
  ((t.logFirst R.WBL_ERR_LOG 31 ((if j < 3 then 1 else 2) * 2 ^ 28 + j * 2 ^ 15 + i)).raiseG 39 0).fault
    0x60E 0x38 0 false

/-- Counter `j` of waybill `i` is uncorrectable: it becomes zero (R203). -/
def State.wcountBad (s : State) (i j : Nat) : State := (s.setWcount i j 0).count R.WBL_C_PARITY_STATE

/-- An operation that R185 turns away. -/
def State.wmisuse (s : State) : State := (s.count R.WBL_C_MISUSE).raiseG 39 1

/-! ### Conditions and the event log (R190, R201) -/

/-- Add a record to the event log (R201, R205). -/
def State.wlog (s : State) (i cond us : Nat) : State :=
  if 1024 ≤ s.wbl.log.length then
    ((s.count R.WBL_C_EVLOG_DROP).setFlag F.WBL_EVLOG_STATUS_OVF true).raiseG 39 18
  else
    (s.modWbl fun w => { w with log := w.log ++ [w64 (2 ^ 63 + i * 2 ^ 48 + cond * 2 ^ 44 + us)] }).raiseG 39 17

/-- Raise condition `c` of a waybill at a time (R201). -/
def State.wcond (s : State) (i c : Nat) (time : Stamp) : State :=
  let w7 := s.wword i 7
  if c < 5 ∧ bitOf w7 (24 + c) = true then s
  else
    let t := if c < 5 then s.setWword i 7 (setBits w7 (24 + c) (24 + c) 1) else s
    let w1 := s.wword i 1
    let t := if bitOf w1 (8 + c) then (t.wlog i c (usStamp time)).raiseG 39 (6 + c) else t
    if bitOf w1 c then t.trigger 2 (bitsOf (s.wword i 2) 31 24) time else t

/-- Raise every condition of a mask, lowest first. -/
def State.wconds (s : State) (i mask : Nat) (time : Stamp) : State :=
  (List.range 8).foldl (fun t c => if Nat.testBit mask c then t.wcond i c time else t) s

/-! ### The operations (R185 to R198) -/

/-- What an operation carries besides its operands (R180): ingress port, forme tag, ingress timestamp. -/
structure OpCtx where
  port : Nat
  tag : Nat
  time : Stamp
  deriving DecidableEq, Repr

/-- Status and outcome of an operation on waybill `i` that reads the words `uses`: ERROR for an index out of range, a
poisoned waybill or a bad word, else what `body` gives (R114, R203). `bad` is the word that fails its check, or with 8
added the counter; a counter is checked where the operation counts in it. -/
def State.wop (s : State) (i : Nat) (uses : List Nat) (bad : Option (Fin 16)) (body : State → Nat × State) :
    Nat × W64 × State :=
  if 32768 ≤ i then (2, 0, s)
  else
    let t := (s.wrepair i).count R.WBL_C_OPS
    if t.wbl.poisoned.contains i then (2, 0, t)
    else match bad.bind fun b => if uses.contains b.val then some b.val else none with
      | some j => (2, 0, t.wparity i j)
      | none =>
        let zero := match bad with
          | some b => if 8 ≤ b.val then t.wcountBad i (b.val - 8) else t
          | none => t
        let (v, u) := body zero
        if (match bad with
          | some b => decide (8 ≤ b.val) && u.wcount i (b.val - 8) == 0
          | none => false) then
          let (v, u) := body t
          (1, w64 v, u)
        else (1, w64 v, u)

/-- READ (R114). -/
def State.wRead (s : State) (i word : Nat) (bad : Option (Fin 16)) : Nat × W64 × State :=
  s.wop i [word] bad fun t => ((t.wword i word).toNat, t)

/-- ADD (R185, R186). -/
def State.wAdd (s : State) (i word : Nat) (addend : W64) (bad : Option (Fin 16)) : Nat × W64 × State :=
  s.wop i [0, word] bad fun t =>
    let old := t.wword i word
    if wVALID (t.wword i 0) = false ∨ word < 3 ∨ wPlain (t.wword i 0) = false then (old.toNat, t.wmisuse)
    else (old.toNat, t.setWword i word (old + addend))

/-- ROGUE (R189). -/
def State.wrogue (s : State) (i : Nat) : Nat × State := (3, (s.wadd i 2 1).raiseG 39 2)

/-- The history bits of a waybill (R182). -/
def State.whist (s : State) (i : Nat) : Nat := (s.wword i 4).toNat * 2 ^ 64 + (s.wword i 5).toNat
def State.setWhist (s : State) (i h : Nat) : State := (s.setWword i 4 (w64 (h / 2 ^ 64))).setWword i 5 (w64 h)

/-- An accepted frame: RECOV_SEQ, history and LAST_ACC (R189). -/
def State.waccept (s : State) (i seq hist ms : Nat) : State :=
  (((s.wset i 3 63 48 seq).setWhist i hist).wset i 3 47 32 ms).wadd i 0 1

/-- The window part of DUPCHK (R189). -/
def State.wwindow (s : State) (i seq ms : Nat) : Nat × State :=
  let h := bitsOf (s.wword i 0) 55 49 + 1
  let hist := s.whist i
  let d := signed 16 ((seq + 65536 - bitsOf (s.wword i 3) 63 48) % 65536)
  if (h : Int) ≤ d ∨ d ≤ -(h : Int) then s.wrogue i
  else if 0 < d then
    let k := d.toNat
    let lost := ((List.range k).filter fun x => !Nat.testBit hist (h - k + x)).length
    (0, (s.wadd i 3 lost).waccept i seq (hist * 2 ^ k % 2 ^ h ||| 1) ms)
  else
    let k := (-d).toNat
    if Nat.testBit hist k then (2, s.wadd i 1 1)
    else (0, ((((s.setWhist i (hist ||| 2 ^ k)).wset i 3 47 32 ms).wadd i 4 1).wadd i 0 1))

/-- DUPCHK (R189). -/
def State.wDupchk (s : State) (i : Nat) (x : OpCtx) (rs2 : W64) (bad : Option (Fin 16)) : Nat × W64 × State :=
  s.wop i [0, 3, 4, 5, 7] bad fun t =>
    let w0 := t.wword i 0
    if wVALID w0 = false ∨ wRED w0 = false then (0, t.wmisuse)
    else
      let seq := bitsOf rs2 15 0
      let path := bitsOf rs2 19 16
      let prp := bitsOf w0 61 60 == 0
      let pair := t.pairOf x.tag x.port
      let side := match pair with
        | some (_, sd, _) => sd
        | none => path % 2
      let ms := msOf x.time
      if prp = true ∧ path ≠ 0xA ∧ path ≠ 0xB then t.wrogue i
      else
        let wrong := prp && (match pair with
          | some (0, sd, _) => path != 0xA + sd
          | _ => false)
        let t := if wrong then (t.count R.WBL_C_WRONG_LAN).raiseG 39 5 else t
        let t := if side = 0 then (t.wset i 3 31 16 ms).wset i 7 1 1 0 else (t.wset i 3 15 0 ms).wset i 7 0 0 0
        if bitOf (t.wword i 7) 2 then (1, (t.wset i 7 2 2 0).waccept i seq 1 ms)
        else t.wwindow i seq ms

/-- What every supervised frame leaves: LAST_ARR, FRESH and DOWN cleared, SUP_FRAMES (R197, R198). -/
def State.wsupervised (s : State) (i : Nat) (time : Stamp) : State :=
  (((s.wset i 7 63 32 (usStamp time)).wset i 7 3 3 0).wset i 7 4 4 0).wadd i 6 1

/-- The conditions, gap and fresh_out of SVCHK (R197). -/
def svConditions (w1 w2 w6 w7 : W64) (time : Stamp) (rs2 : W64) : Nat × Nat × Bool :=
  let cnt := bitsOf rs2 15 0
  let synch := bitsOf rs2 17 16
  let cm := bitsOf w1 31 16
  let m := if cm = 0 then 65536 else cm
  let last := (cnt + bitsOf rs2 23 18) % m
  let down := bitOf w7 4
  let fresh := bitOf w7 3 || down
  let d := (((cnt : Int) - ((bitsOf w6 63 48 : Int) + 1)) % (m : Int)).toNat
  let stale := !fresh && decide (m ≤ 2 * d)
  let gap := if fresh || stale then 0 else d
  let wmin := bitsOf w2 63 48
  let wmax := bitsOf w2 47 32
  let off := (((stampNs time / 1000 : Nat) : Int) - ((last * 1000000 / max 1 cm : Nat) : Int)) % 1000000
  let window := synch != 0 && cm != 0 && wmax != 0 && (decide (off.toNat < wmin) || decide (wmax < off.toNat))
  let cond := b2n (gap != 0) + 2 * b2n stale + 4 * b2n (!fresh && synch != bitsOf w6 47 46) +
    8 * b2n ((bitsOf rs2 63 32 &&& bitsOf w2 21 8) != 0) + 16 * b2n window + 64 * b2n down
  (cond, gap, fresh)

/-- SVCHK (R197). -/
def State.wSvchk (s : State) (i : Nat) (x : OpCtx) (rs2 : W64) (bad : Option (Fin 16)) : Nat × W64 × State :=
  s.wop i [0, 1, 2, 6, 7] bad fun t =>
    let w0 := t.wword i 0
    if wVALID w0 = false ∨ wSUP w0 ≠ 1 then (2 ^ 15, t.wmisuse)
    else
      let (cond, gap, fresh) := svConditions (t.wword i 1) (t.wword i 2) (t.wword i 6) (t.wword i 7) x.time rs2
      let cm := bitsOf (t.wword i 1) 31 16
      let last := (bitsOf rs2 15 0 + bitsOf rs2 23 18) % (if cm = 0 then 65536 else cm)
      let t := if Nat.testBit cond 1 then t
        else (t.wset i 6 63 48 last).wset i 6 47 46 (bitsOf rs2 17 16)
      let t := t.wset i 6 31 0 (bitsOf (t.wword i 6) 31 0 ||| bitsOf rs2 63 32)
      let t := (t.wsupervised i x.time).wadd i 7 gap
      (cond + b2n fresh * 2 ^ 8 + min 65535 gap * 2 ^ 16, t.wconds i cond x.time)

/-- The conditions of GSCHK, and whether it records (R198). -/
def gsConditions (w6 w7 : W64) (rs2 : W64) : Nat × Bool × Bool :=
  let st := bitsOf rs2 63 32
  let sq := bitsOf rs2 31 0
  let st0 := bitsOf w6 63 32
  let sq0 := bitsOf w6 31 0
  let down := bitOf w7 4
  let fresh := bitOf w7 3 || down
  let base := 64 * b2n down
  let ds := signed 32 ((st + 2 ^ 32 - st0) % 2 ^ 32)
  let dq := if sq = 1 ∧ sq0 = 0xFFFFFFFF then 1 else signed 32 ((sq + 2 ^ 32 - sq0) % 2 ^ 32)
  if fresh then (base, true, true)
  else if st = 1 ∧ sq ≤ 1 ∧ st0 ≠ 1 then (base + 128, true, false)
  else if 0 < ds then (base + 128 + b2n (decide (1 < ds)), true, false)
  else if ds < 0 then (base + 2, false, false)
  else if dq = 1 then (base, true, false)
  else if 1 < dq then (base + 1, true, false)
  else (base + 2, false, false)

/-- GSCHK (R198). -/
def State.wGschk (s : State) (i : Nat) (x : OpCtx) (rs2 : W64) (bad : Option (Fin 16)) : Nat × W64 × State :=
  s.wop i [0, 1, 2, 6, 7] bad fun t =>
    let w0 := t.wword i 0
    if wVALID w0 = false ∨ wSUP w0 ≠ 2 then (2 ^ 15, t.wmisuse)
    else
      let (cond, rec, fresh) := gsConditions (t.wword i 6) (t.wword i 7) rs2
      let t := if rec then t.setWword i 6 rs2 else t
      (cond + b2n fresh * 2 ^ 8, (t.wsupervised i x.time).wconds i cond x.time)

/-! ### Gates and meters (R193 to R195) -/

/-- The entry of a stream gate that holds `x` ns into its cycle, none in the rest of the cycle (R194). -/
def gateEntry : List Nat → Nat → Nat → Option Nat
  | [], _, _ => none
  | d :: ds, e, x => if x < d then some e else gateEntry ds (e + 1) (x - d)

/-- Gate `g` of tag `t` at a time: open, and its IPV (R194). -/
def State.gateAt (s : State) (tag g : Nat) (time : Stamp) : Bool × Option Nat :=
  let now := stampSec time * 1000000000 + stampNs time
  let base := s.fld (F.WBL_SGATE_W0_BASE_SEC tag g) * 1000000000 + s.fld (F.WBL_SGATE_W1_BASE_NS tag g)
  let cycle := s.fld (F.WBL_SGATE_W1_CYCLE_NS tag g)
  let n := s.fld (F.WBL_SGATE_W0_NENTM1 tag g) + 1
  if s.flag (F.WBL_SGATE_W0_VALID tag g) = false ∨ now < base then (true, none)
  else
    let e := if cycle = 0 then some 0
      else gateEntry ((List.range n).map fun e => s.fld (F.WBL_SGATE_ENT_INTERVAL tag g e)) 0 ((now - base) % cycle)
    match e with
    | none => (false, none)
    | some e => (s.flag (F.WBL_SGATE_ENT_OPEN tag g e),
        if s.flag (F.WBL_SGATE_ENT_IPV_VALID tag g e) then some (s.fld (F.WBL_SGATE_ENT_IPV tag g e)) else none)

/-- A byte in bucket units: stamps are 2^-16 ns and rates kb/s. -/
def tokByte : Nat := 8000000 * 65536

/-- Count a colour: 0 GREEN, 1 YELLOW, 2 RED. -/
def State.colourCount (s : State) (m colour : Nat) : State :=
  match colour with
  | 0 => s.count (R.WBL_METER_GREEN m)
  | 1 => s.count (R.WBL_METER_YELLOW m)
  | _ => (s.count (R.WBL_METER_RED m)).raiseG 39 14

/-- Meter a frame (R195): the colour, counted. -/
def State.meterFrame (s : State) (tag m len : Nat) (time : Stamp) : Nat × State :=
  if s.flag (F.WBL_METER_W0_VALID tag m) = false then (0, s.colourCount m 0)
  else if s.flag (F.WBL_METER_STATE_MARK_RED m) then (2, s.colourCount m 2)
  else
    let last := tget (fun _ => 0) s.wbl.mlast m
    let dt := time - last
    let cbs := s.fld (F.WBL_METER_W1_CBS tag m) * tokByte
    let ebs := s.fld (F.WBL_METER_W1_EBS tag m) * tokByte
    let c0 := tget (fun _ => 0) s.wbl.ctok m + dt * s.fld (F.WBL_METER_W0_CIR tag m)
    let surplus := if s.flag (F.WBL_METER_W0_CF tag m) then c0 - cbs else 0
    let c := min cbs c0
    let e := min ebs (tget (fun _ => 0) s.wbl.etok m + dt * s.fld (F.WBL_METER_W0_EIR tag m) + surplus)
    let need := len * tokByte
    let colour := if need ≤ c then 0 else if need ≤ e then 1 else 2
    let c' := if colour = 0 then c - need else c
    let e' := if colour = 1 then e - need else e
    let colour := if colour = 1 ∧ s.flag (F.WBL_METER_W0_DROP_YELLOW tag m) = true then 2 else colour
    let t := s.modWbl fun w => { w with
      ctok := tput (fun _ => 0) w.ctok m c'
      etok := tput (fun _ => 0) w.etok m e'
      mlast := tput (fun _ => 0) w.mlast m time }
    let t := (t.setFld (F.WBL_METER_STATE_CTOK m) (c' / tokByte)).setFld (F.WBL_METER_STATE_ETOK m) (e' / tokByte)
    let t := if colour = 2 ∧ s.flag (F.WBL_METER_W0_MARK_RED_EN tag m) = true then
        t.setFlag (F.WBL_METER_STATE_MARK_RED m) true else t
    (colour, t.colourCount m colour)

/-- METER (R193). -/
def State.wMeter (s : State) (i : Nat) (x : OpCtx) (rs2 : W64) (bad : Option (Fin 16)) : Nat × W64 × State :=
  let uses := if wPlain (s.wword i 0) then [0] else [0, 7]
  s.wop i uses bad fun t =>
    let w0 := t.wword i 0
    let len := bitsOf rs2 13 0
    if wVALID w0 = false then (0, t.wmisuse)
    else
      let plain := wPlain w0
      let maxsdu := bitsOf w0 30 17
      let big := (!plain && bitOf (t.wword i 7) 5) || (maxsdu != 0 && decide (maxsdu < len))
      let t := if big then
          let u := if bitOf w0 15 && !plain then t.wset i 7 5 5 1 else t
          (u.count R.WBL_C_OVERSIZE).raiseG 39 16
        else t
      let (open_, ipv) := if bitOf w0 56 then t.gateAt x.tag (bitsOf w0 36 31) x.time else (true, none)
      let t := if open_ then t else (t.count R.WBL_C_GATE_CLOSED).raiseG 39 15
      let m := bitsOf w0 48 37
      let (colour, t) :=
        if bitOf w0 57 = false then (0, t)
        else if big || !open_ then (2, t.colourCount m 2)
        else t.meterFrame x.tag m len x.time
      (colour + 4 * b2n (!open_) + 8 * b2n big + (match ipv with
        | some p => 128 + 16 * p
        | none => 0), t)

/-! ### Host accesses (R183, R184, R202) -/

/-- A write refused or dropped (R183). -/
def State.wrefuse (s : State) : State := (s.count R.WBL_C_WR_REFUSED).raiseG 39 1

/-- A write of word 0 that R183 refuses. -/
def word0Refused (old new : W64) : Bool :=
  wVALID old && wVALID new && (bitsOf old 62 58 != bitsOf new 62 58 || bitsOf old 55 49 != bitsOf new 55 49)

/-- The bits of word `j` that R182 has as zero in a waybill whose word 0 is `w0`; KEEP reads 0 too, and so do the
history bits that HISTM1 leaves out. -/
def wZero (w0 : W64) (j : Nat) : W64 :=
  let h := bitsOf w0 55 49 + 1
  match j with
  | 0 => 0x1FFFF &&& ~~~ 0x8000
  | 2 => 0xC000FF
  | 4 => if wPlain w0 then 0 else ~~~ w64 (2 ^ (h - 64) - 1)
  | 5 => if wPlain w0 then 0 else ~~~ w64 (2 ^ min 64 h - 1)
  | 6 => if wSUP w0 = 1 then 0x3FFF00000000 else 0
  | 7 => if wPlain w0 then 0 else 0xFFFFC0
  | _ => 0

/-- A word as the store takes it from the host. -/
def State.putWword (s : State) (i j : Nat) (v : W64) : State :=
  s.setWword i j (v &&& ~~~ wZero (if j = 0 then v else s.wword i 0) j)

/-- An accepted write of word 0: arming, and the end of poison (R184, R207). Preloaded words take the zeros of R182
with the kind that word 0 gives the waybill. -/
def State.wwrite0 (s : State) (i : Nat) (v : W64) : State :=
  let old := s.wword i 0
  let t := (s.putWword i 0 v).modWbl fun w => { w with poisoned := w.poisoned.filter (· != i) }
  let t := [4, 5, 6, 7].foldl (fun u j => u.putWword i j (u.wword i j)) t
  if wVALID v && !wVALID old && !bitOf v 16 then
    (List.range 8).foldl (fun t j => t.setWcount i j 0) (t.armState i)
  else t

/-- WBL_HOST_WRITE: `addr` counts from 0x03_0000_0000 (R183). `bad` is bad parity in word 0, which a write of word 0
and of words 3 to 7 reads (R203). -/
def State.wblWrite (s : State) (addr size : Nat) (data : W64) (bad : Bool) : State :=
  let i := if addr < 2 ^ 21 then addr / 64 else (addr - 2 ^ 21) / 64
  let j := addr / 8 % 8
  if size ≠ 8 ∨ addr % 8 ≠ 0 ∨ 2 ^ 21 ≤ addr then
    (s.logFirst R.WBL_ERR_LOG 31 (3 * 2 ^ 28 + j * 2 ^ 15 + i)).wrefuse
  else
    let t := (s.wrepair i).count R.WBL_C_OPS
    let t := if bad && (j == 0 || decide (3 ≤ j)) then t.wparity i 0 else t
    if j = 0 then (if word0Refused (t.wword i 0) data then t.wrefuse else t.wwrite0 i data)
    else if 3 ≤ j ∧ wVALID (t.wword i 0) = true then t.wrefuse
    else t.putWword i j data

def execWblHostWrite (addr : BitVec 22) (size : Fin 17) (data : W64) (bad : Bool) (s : State) : Out State :=
  .next (if s.host.d3hot then s.emit .unsupported else s.wblWrite addr.toNat size.val data bad)

/-- A host read of a word or counter: its eight bytes in order, and the state after its check (R202, R203). -/
def State.wblRead (s : State) (addr : Nat) (bad : Bool) : List Byte × State :=
  let i := addr % 2 ^ 21 / 64
  let j := addr / 8 % 8
  let t := (s.wrepair i).count R.WBL_C_OPS
  if addr < 2 ^ 21 then
    (toBE 8 (t.wword i j).toNat, if bad then t.wparity i j else t)
  else
    let u := if bad then t.wcountBad i j else t
    (toBE 8 (u.wcount i j).toNat, u)

/-- WBL_HOST_READ: eight bytes, or four at an address that is a multiple of four (R202). -/
def execWblHostRead (addr : BitVec 22) (wide bad : Bool) (s : State) : Out State :=
  .next (s.hostRead fun s =>
    let (bs, t) := s.wblRead addr.toNat bad
    t.emit (.readData (if wide then bs else (bs.drop (addr.toNat / 4 % 2 * 4)).take 4) false))

/-- WBL_SNAPSHOT: a write of WBL_SNAP_CTRL copies a waybill and its counters, as they stand stored (R202). `bad` is the
word that fails its check, or with 8 added the counter (R203). -/
def State.wblSnap (s : State) (i : Nat) (bad : Option (Fin 16)) : State :=
  let t := (s.wrepair i).count R.WBL_C_OPS
  let t := match bad with
    | some b => if b.val < 8 then t.wparity i b.val else t.wcountBad i (b.val - 8)
    | none => t
  let t := (List.range 8).foldl (fun u j =>
    (u.setReg (R.WBL_SNAP_DATA j) (u.wword i j)).setReg (R.WBL_SNAP_DATA (8 + j)) (u.wcount i j)) t
  (t.setFld F.WBL_SNAP_CTRL_INDEX i).setFlag F.WBL_SNAP_CTRL_POISON (t.wbl.poisoned.contains i)

def execWblSnapshot (v : W32) (bad : Option (Fin 16)) (s : State) : Out State :=
  .next (s.byHost R.WBL_SNAP_CTRL fun s => s.wblSnap (bitsOf v 14 0) bad)

/-- A write of WBL_STICKY_CLR, one operation: MASK and CLR_BLOCKED act on word 7 of a waybill that is not plain,
CLR_QUAL on word 6 of one with SUP = SV (R202). -/
def State.stickyOp (s : State) (i mask : Nat) (blocked qual : Bool) (bad : Option (Fin 16)) : State :=
  let uses := [0] ++ (if mask != 0 || blocked then [7] else []) ++ (if qual then [6] else [])
  (s.wop i uses bad fun t =>
    let w7 := t.wword i 7
    let t := if wPlain (t.wword i 0) then t
      else t.setWword i 7 (setBits (setBits w7 31 24 (bitsOf w7 31 24 &&& (255 - mask))) 5 5 (b2n (bitOf w7 5 && !blocked)))
    (0, if qual && wSUP (t.wword i 0) == 1 then t.wset i 6 31 0 0 else t)).2.2

/-- STICKY_CLEAR. -/
def execStickyClear (w : Fin 32768) (mask : BitVec 8) (bad : Option (Fin 16)) (s : State) : Out State :=
  .next (s.byHost R.WBL_STICKY_CLR fun s => s.stickyOp w.val mask.toNat false false bad)

/-- CLR_BLOCKED. -/
def execClrBlocked (w : Fin 32768) (bad : Option (Fin 16)) (s : State) : Out State :=
  .next (s.byHost R.WBL_STICKY_CLR fun s => s.stickyOp w.val 0 true false bad)

/-- CLR_QUAL. -/
def execClrQual (w : Fin 32768) (bad : Option (Fin 16)) (s : State) : Out State :=
  .next (s.byHost R.WBL_STICKY_CLR fun s => s.stickyOp w.val 0 false true bad)

/-- METER_CLR, one operation (R195, R202, R205). -/
def State.clrMeter (s : State) (m : Nat) : State := (s.count R.WBL_C_OPS).setFlag (F.WBL_METER_STATE_MARK_RED m) false

def execMeterClr (m : Fin 4096) (s : State) : Out State :=
  .next (s.byHost R.WBL_METER_CLR fun s => s.clrMeter m.val)

/-- EVLOG_POP: an 8-byte read of WBL_EVLOG_POP (R205, R208). -/
def execEvlogPop (s : State) : Out State :=
  .next (s.hostRead fun s =>
    match s.wbl.log with
    | [] => s.emit (.readData (toLE 8 0) false)
    | r :: rest => (s.modWbl fun w => { w with log := rest }).emit (.readData (toLE 8 r.toNat) false))

/-! ### The patrol (R190, R199, R200) -/

/-- A timeout test that R200 does not suspend: recovery, silent sides, supervision. -/
def State.wtests (s : State) (i : Nat) : State :=
  let now := s.stamp
  let n := msOf now
  let w0 := s.wword i 0
  let w3 := s.wword i 3
  let w7 := s.wword i 7
  let rtmo := min 32767 (bitsOf (s.wword i 1) 63 48)
  let since := fun x => (n + 65536 - x) % 65536
  let silent := fun (u : State) (bit cond : Nat) => ((u.wset i 7 bit bit 1).wlog i cond (usStamp now)).raiseG 39 4
  let t :=
    if wRED w0 && !bitOf w7 2 && rtmo != 0 then
      let a := since (bitsOf w3 31 16)
      let b := since (bitsOf w3 15 0)
      if rtmo ≤ since (bitsOf w3 47 32) then
        (((s.wset i 7 2 2 1).wadd i 5 1).wlog i 10 (usStamp now)).raiseG 39 3
      else if rtmo ≤ a ∧ b < rtmo ∧ bitOf w7 1 = false then silent s 1 8
      else if rtmo ≤ b ∧ a < rtmo ∧ bitOf w7 0 = false then silent s 0 9
      else s
    else s
  let stmo := bitsOf (s.wword i 1) 47 32
  if wSUP w0 ≠ 0 ∧ stmo ≠ 0 ∧ bitOf w7 4 = false ∧
      stmo * 100 < (usStamp now + 2 ^ 32 - bitsOf w7 63 32) % 2 ^ 32 then
    (t.wset i 7 4 4 1).wcond i 5 now
  else t

/-- While tests are suspended a visit rewrites the stamps, armed or not (R200); a plain waybill has none (R182). -/
def State.wstamps (s : State) (i : Nat) : State :=
  let ms := msOf s.stamp
  (s.wset i 7 63 32 (usStamp s.stamp)).wset i 3 47 0 (ms * 2 ^ 32 + ms * 2 ^ 16 + ms)

/-- WBL_PATROL_VISIT: the visit to the next waybill. -/
def execWblPatrolVisit (bad : Option (Fin 8)) (s : State) : Out State :=
  .next (
    let i := s.wbl.patrolAt
    let t := s.wrepair i
    let t := match bad with
      | some j => if t.wbl.poisoned.contains i then t else t.wparity i j.val
      | none =>
        if wPlain (t.wword i 0) then t
        else if t.wbl.hold ≠ 0 then t.wstamps i
        else if t.wbl.poisoned.contains i || !wVALID (t.wword i 0) then t
        else t.wtests i
    if i + 1 < 32768 then t.modWbl fun w => { w with patrolAt := i + 1 }
    else
      (t.modWbl fun w => { w with patrolAt := 0, hold := w.hold - 1 }).count R.WBL_C_PATROL_PASSES)

/-- A step of the time base suspends the timeout tests (R200). -/
def State.wblTimeStep (s : State) : State :=
  s.modWbl fun w => { w with hold := if w.patrolAt = 0 then 1 else 2 }

/-- WBL_STATE_REPAIR (R203). -/
def execWblStateRepair (w : Fin 32768) (s : State) : Out State := .next (s.wrepair w.val)

/-! ### Per-tag tables (R187, R194, R195) -/

/-- A write that R187 ignores. -/
def State.wrActive (s : State) : State := (s.setFlag F.WBL_STATUS_WR_ACTIVE true).raiseG 39 19

/-- A port that a pair write names lies in another valid pair of the same tag, whether or not the write makes its own
entry valid (R187). -/
def State.pairClash (s : State) (tag k : Nat) (v : W64) : Bool :=
  (List.range 64).any fun j =>
    j != k && s.flag (F.WBL_PAIR_VALID tag j) &&
    ([bitsOf v 6 0, bitsOf v 14 8].any fun p =>
      s.fld (F.WBL_PAIR_PORT_A tag j) == p || s.fld (F.WBL_PAIR_PORT_B tag j) == p)

/-- A write of one register of a pair, stream gate or meter table (R187, R194, R195). -/
def State.putTagTable (s : State) (off : Nat) (v : W64) : State :=
  let tag :=
    if 0x1402000 ≤ off ∧ off < 0x1402200 then some ((off - 0x1402000) / 256)
    else if 0x1410000 ≤ off ∧ off < 0x1418000 then some ((off - 0x1410000) / 16384)
    else if 0x1420000 ≤ off ∧ off < 0x1440000 then some ((off - 0x1420000) / 65536)
    else none
  match tag with
  | none => s
  | some t =>
    let clash := decide (off < 0x1402200) && s.pairClash t (off % 256 / 4) v
    if s.tagState t = 1 ∧ clash = false then s.plainWrite off v else s.wrActive

/-- PER_TAG_TABLE_WRITE: a BAR0 write to a pair, stream gate or meter entry. -/
def execPerTagTableWrite (off : BitVec 26) (wide : Bool) (data : W64) (s : State) : Out State :=
  .next (s.byHost off.toNat fun s => s.barWrite off.toNat wide data State.putTagTable)

end Sys2Proof.Machine
end

