-- ==== Sys2Proof/Machine/Binis.lean ====
section
/-! DEFINITION. The compositor and Binis classes A, F and B: issue, stalls, loops, END, and how a
frame leaves a running program (R71 to R93, R98). -/

namespace Sys2Proof.Machine

/-! ### How a frame leaves a running program (R91 to R93, R98) -/

/-- A lookup whose compositor gives it up: an L2SRC lookup still sends its learning request (R108), a scan goes on
with the bytes the frame has now (R169), and the result goes nowhere (R91). -/
def State.discardLookups (s : State) (c : Nat) : State :=
  let cs := s.comp c
  match cs.frame.bind s.frame with
  | none => s
  | some f =>
    let t := cs.slots.foldl (fun t x => match x.2 with
      | .waiting (.l2 key true) =>
        let k := bitsOf key 59 0
        t.learnFrom k f.inPort (t.l2Search f.tag k)
      | _ => t) s
    let detach := fun (sc : Scan) => match sc.owner with
      | some (d, _) => if d = c then { sc with owner := none, kept := f.bytes } else sc
      | none => sc
    t.modWatch fun w => { w with
      waiting := w.waiting.map detach
      engines := w.engines.map fun x => (x.1, x.2.map detach) }

/-- The compositor gives up its frame: nothing retires (R91, R117), and a stall that it stood in is counted up to now
(R101). Scratch stays (R73). -/
def State.abandon (s : State) (c counter : Nat) : State :=
  let cs := s.comp c
  match cs.frame with
  | none => s
  | some i =>
    let t := (s.discardLookups c).countStall c
    let t := t.setComp c { CompState.init with scratch := cs.scratch }
    (t.count counter).loseFrame i

/-- A parity error in the program memory word that compositor `c` fetched (R98). A fetch of a word whose repair runs
already drops the frame and counts, and reports nothing more (DESIGN CHOICE, log entry 104). -/
def State.pmParity (s : State) (c : Nat) : State :=
  let cs := s.comp c
  let k := c / 8
  match cs.frame.bind s.frame with
  | none => s
  | some f =>
    let word := (f.tag, cs.pc)
    let t := s.abandon c (R.CMP_C_PM_PARITY k (c % 8))
    if word ∈ (s.caseOf k).repair then t
    else
      let t := t.setCase k { t.caseOf k with repair := (s.caseOf k).repair ++ [word] }
      (t.raiseCase k 0).fault (0x540 + k) 0x12 0 false

/-- The program count has passed C_e (R93). -/
def State.watchdogDrop (s : State) (c : Nat) : State :=
  ((s.abandon c (R.CMP_C_WATCHDOG (c / 8) (c % 8))).raiseComp c 0).fault c 0x11 0 false

/-! ### Issue -/

/-- Where an instruction leaves its compositor. -/
inductive Flow where
  /-- The next instruction in order. -/
  | seq
  /-- A branch to an address. -/
  | goto (t : Nat)
  /-- It waits for a frame byte (R86). -/
  | stall (a : Nat)
  /-- It waits for the lookup of a tag (R104). -/
  | wait (tag : Nat)
  deriving DecidableEq, Repr

/-- What one instruction does: the flow, its cycles, the compositor, the rest of the block. -/
structure Issue where
  flow : Flow
  cycles : Nat
  cs : CompState
  st : State
  deriving DecidableEq, Repr

/-- After the instruction at `a`: the next address and the loop stack (R89 rules 3 and 6). -/
def stepPast (a : Nat) : List LoopLevel → Nat × List LoopLevel
  | [] => ((a + 1) % 16384, [])
  | l :: ls =>
    if a = l.last then
      if 0 < l.left then (l.first, { l with left := l.left - 1, lc := l.lc + 1 } :: ls) else stepPast a ls
    else ((a + 1) % 16384, l :: ls)

/-- A branch taken to `t` ends the loops whose bodies it leaves (R89 rule 4). -/
def leaveLoops (t : Nat) (ls : List LoopLevel) : List LoopLevel := ls.dropWhile fun l => decide (l.last < t)

def CompState.advance (cs : CompState) : Flow → CompState
  | .goto t => { cs with pc := t % 16384, loops := leaveLoops t cs.loops }
  | _ => let x := stepPast cs.pc cs.loops; { cs with pc := x.1, loops := x.2 }

/-- The frame as frame memory holds it. A further pass has the bytes that the path has read from the Galley so far
(R127). -/
def State.frameView (s : State) (cs : CompState) (fr : Frame) : Frame :=
  let n := cs.filled fr s.time.cycles
  if fr.bytes.length ≤ n then fr else { fr with bytes := fr.bytes.take n, complete := false }

/-- One instruction issues on a compositor that holds a frame; without one, nothing happens (R71). A word with bad
parity, or under repair, drops the frame (R98). -/
def State.issueOn (s : State) (f : Fetch) (body : State → CompState → Frame → Issue) : State :=
  let c := f.comp.val
  let cs := s.comp c
  match cs.frame.bind s.frame with
  | none => s
  | some fr =>
    if f.parityBad || (s.caseOf (c / 8)).repair.contains (fr.tag, cs.pc) then s.pmParity c
    else
      let r := body s cs (s.frameView cs fr)
      match r.flow with
      | .stall a => s.setComp c { cs with stall := some (cs.stall.getD (s.time.cycles, a)) }
      | .wait tag => s.setComp c { cs with lwait := some tag }
      | flow =>
        let t := (r.st.countStall c).countN (R.CMP_C_ISSUE_CYCLES (c / 8) (c % 8)) r.cycles
        t.setComp c { r.cs.advance flow with cyc := cs.cyc + r.cycles, stall := none, lwait := none }

/-- An instruction that changes its compositor only. -/
def State.issue (s : State) (f : Fetch) (cycles : Nat) (body : CompState → Frame → Flow × CompState) : Out State :=
  .next (s.issueOn f fun s cs fr => let r := body cs fr; ⟨r.1, cycles, r.2, s⟩)

/-- An instruction that never branches or stalls. -/
def State.issueSeq (s : State) (f : Fetch) (cycles : Nat) (body : CompState → Frame → CompState) : Out State :=
  s.issue f cycles fun cs fr => (.seq, body cs fr)

/-! ### Class A (R81 to R83) -/

/-- Count of leading zeros of a 64-bit word. -/
def clz64 (v : W64) : Nat := ((List.range 64).find? fun i => bitOf v (63 - i)).getD 64

/-- The functions of R82: `d` is the old rd. A FUNC that R82 does not list leaves rd unchanged (log entry 25). -/
def aluOp (func : BitVec 5) (d a b : W64) : W64 :=
  let sh := b.toNat % 64
  match func.toNat with
  | 0x00 => a + b
  | 0x01 => a - b
  | 0x02 => a &&& b
  | 0x03 => a ||| b
  | 0x04 => a ^^^ b
  | 0x05 => a &&& ~~~ b
  | 0x06 => a <<< sh
  | 0x07 => a >>> sh
  | 0x08 => a.sshiftRight sh
  | 0x0A => w64 (b2n (a == b))
  | 0x0B => w64 (b2n (a != b))
  | 0x0C => w64 (b2n (decide (a.toNat < b.toNat)))
  | 0x0D => w64 (b2n (decide (a.toInt < b.toInt)))
  | 0x0E => if a.toNat ≤ b.toNat then a else b
  | 0x0F => if a.toNat ≤ b.toNat then b else a
  | 0x10 => if a != 0 then b else d
  | 0x11 => w64 ((List.range 64).filter fun i => bitOf a i).length
  | 0x12 => w64 (clz64 a)
  | _ => d

/-- ALU. -/
def execAlu (f : Fetch) (func : BitVec 5) (rd rs1 rs2 : GReg) (s : State) : Out State :=
  s.issueSeq f 1 fun cs _ => cs.setG rd (aluOp func (cs.greg rd) (cs.greg rs1) (cs.greg rs2))

/-- ALUI. -/
def execAlui (f : Fetch) (func : BitVec 5) (rd rs1 : GReg) (imm : BitVec 38) (s : State) : Out State :=
  s.issueSeq f 1 fun cs _ => cs.setG rd (aluOp func (cs.greg rd) (cs.greg rs1) (sextTo imm))

/-- MOVHI. -/
def execMovhi (f : Fetch) (rd rs1 : GReg) (imm : BitVec 32) (s : State) : Out State :=
  s.issueSeq f 1 fun cs _ => cs.setG rd (w64 (imm.toNat * 2 ^ 32 + (cs.greg rs1).toNat % 2 ^ 32))

/-- MUL. -/
def execMul (f : Fetch) (rd rs1 rs2 : GReg) (s : State) : Out State :=
  s.issueSeq f 2 fun cs _ => cs.setG rd (cs.greg rs1 * cs.greg rs2)

/-- The code of a delivery (R120). -/
def Delivery.kind : Delivery → Nat
  | .drop => 0 | .fwd _ => 1 | .mcast _ => 2 | .fork _ _ => 3 | .punt _ => 4 | .second _ => 5

/-- The value of a special register but LEN (R75, R102); a reserved number reads 0. CYC is the count without the cycle
of the MFS that reads it (DESIGN CHOICE, log entry 106). -/
def State.special (s : State) (c : Nat) (cs : CompState) (fr : Frame) (n : Nat) : Nat :=
  match n with
  | 0 => fr.bytes.length
  | 1 => fr.bytes.length
  | 2 => fr.inPort
  | 3 => cs.entry
  | 4 => fr.tag
  | 5 => fr.pass
  | 6 => cs.qoff / 16
  | 7 => stampNs fr.stamp
  | 8 => stampSec (if fr.pass = 0 then fr.stamp else s.rebuiltStamp fr.stamp)
  | 9 => cs.cur
  | 10 => b2n cs.ovr + 2 * b2n fr.complete
  | 11 => cs.user.toNat
  | 12 => match cs.loops with
    | l :: _ => l.lc
    | [] => 0
  | 13 => c
  | 14 => cs.cyc
  | 16 => cs.lst
  | 17 => cs.lres1.toNat
  | 18 => cs.hash.value
  | 19 => cs.dtag
  | 20 => cs.dlen
  | 21 => cs.dstat
  | 22 => cs.qoff
  | 23 => match cs.act.dlv with
    | some d => 8 + d.kind
    | none => 0
  | 24 => cs.edits.length
  | 25 => match cs.wbl with
    | some w => 32768 + w
    | none => 0
  | _ => 0

/-- MFS; LEN waits for the end of the frame (R83). -/
def execMfs (f : Fetch) (rd : GReg) (spec : BitVec 5) (s : State) : Out State :=
  s.issue f 1 fun cs fr =>
    if spec.toNat = 0 ∧ fr.complete = false then (.stall 16383, cs)
    else (.seq, cs.setG rd (w64 (s.special f.comp.val cs fr spec.toNat)))

/-- Write QOFF, and with it CLASS (R103). -/
def CompState.setQoff (cs : CompState) (q : Nat) : CompState := { cs with qoff := q % 128 }

/-- MTS; a read-only or reserved register keeps its value (the verifier refuses such words; log entry 25). -/
def execMts (f : Fetch) (spec : BitVec 5) (rs1 : GReg) (s : State) : Out State :=
  s.issueSeq f 1 fun cs _ =>
    let v := cs.greg rs1
    match spec.toNat with
    | 6 => { cs with qoff := v.toNat % 8 * 16 + cs.qoff % 16 }
    | 9 => { cs with cur := v.toNat % 16384 }
    | 10 => { cs with ovr := bitOf v 0 }
    | 11 => { cs with user := v }
    | 18 => { cs with hash := { cs.hash with value := v.toNat % 2 ^ 32 } }
    | 22 => cs.setQoff v.toNat
    | _ => cs

/-! ### Class F (R84 to R87) -/

/-- EXT. -/
def execExt (f : Fetch) (rd rs1 : GReg) (scratch : Bool) (off : BitVec 14) (bit : BitVec 3) (wm1 : BitVec 6) (sx : Bool)
    (s : State) : Out State :=
  s.issue f 1 fun cs fr =>
    let w := wm1.toNat + 1
    let n := fieldBytes bit.toNat w
    if scratch then
      let (bs, ovr) := cs.readScratch (cs.scratchEa rs1 off) n
      (.seq, (cs.setOvr ovr).setG rd (extend (fieldOf bs bit.toNat w) w sx))
    else match fr.readBytes (cs.frameEa rs1 off) n with
      | .error a => (.stall a, cs)
      | .ok (bs, ovr) => (.seq, (cs.setOvr ovr).setG rd (extend (fieldOf bs bit.toNat w) w sx))

/-- INS. -/
def execIns (f : Fetch) (rs1 rs2 : GReg) (off : BitVec 14) (bit : BitVec 3) (wm1 : BitVec 6) (s : State) : Out State :=
  s.issueSeq f 1 fun cs _ =>
    let w := wm1.toNat + 1
    let ea := cs.scratchEa rs1 off
    let (bs, ovr) := cs.readScratch ea (fieldBytes bit.toNat w)
    (cs.writeScratch ea (setField bs bit.toNat w (cs.greg rs2).toNat)).setOvr ovr

/-- SETC. -/
def execSetc (f : Fetch) (rs1 : GReg) (imm : BitVec 14) (s : State) : Out State :=
  s.issueSeq f 1 fun cs _ => { cs with cur := wrap 14 (sx64 (cs.greg rs1) + imm.toInt) }

/-- ADVC. -/
def execAdvc (f : Fetch) (rs1 : GReg) (imm : BitVec 14) (s : State) : Out State :=
  s.issueSeq f 1 fun cs _ => { cs with cur := wrap 14 (cs.cur + sx64 (cs.greg rs1) + imm.toInt) }

/-! ### Class B (R88 to R90) -/

/-- BR. -/
def execBr (f : Fetch) (cond : BitVec 3) (rs1 rs2 : GReg) (disp : BitVec 14) (s : State) : Out State :=
  s.issue f 1 fun cs _ =>
    (if condHolds cond (cs.greg rs1) (cs.greg rs2) then .goto (cs.target disp) else .seq, cs)

/-- BRI. -/
def execBri (f : Fetch) (cond : BitVec 3) (rs1 : GReg) (imm : BitVec 16) (disp : BitVec 14) (s : State) : Out State :=
  s.issue f 1 fun cs _ =>
    (if condHolds cond (cs.greg rs1) (briImm cond imm) then .goto (cs.target disp) else .seq, cs)

/-- JMP. -/
def execJmp (f : Fetch) (disp : BitVec 14) (s : State) : Out State :=
  s.issue f 1 fun cs _ => (.goto (cs.target disp), cs)

/-- JTAB. -/
def execJtab (f : Fetch) (rs1 : GReg) (nmax : BitVec 8) (disp : BitVec 14) (s : State) : Out State :=
  s.issue f 1 fun cs _ => (.goto (cs.target disp + min (cs.greg rs1).toNat nmax.toNat), cs)

/-- A loop instruction opens a loop of `count` iterations over the next `len` instructions (R89). A count of zero goes
past the body; an enclosing body that ends with it iterates (DEDUCED, log entry 26). -/
def CompState.openLoop (cs : CompState) (count len : Nat) : CompState :=
  if len = 0 then cs.advance .seq
  else if count = 0 then { cs with pc := cs.pc + len }.advance .seq
  else { cs with pc := cs.pc + 1, loops := (⟨cs.pc + 1, cs.pc + len, count - 1, 0⟩ :: cs.loops).take 2 }

/-- The loop instruction that `cs.openLoop` places: `advance` must not move it again. -/
def State.issueLoop (s : State) (f : Fetch) (count : CompState → Nat) (len : BitVec 14) : Out State :=
  .next (s.issueOn f fun s cs _ =>
    let r := cs.openLoop (count cs) len.toNat
    ⟨.goto r.pc, 1, { cs with loops := r.loops }, s⟩)

/-- LOOP. -/
def execLoop (f : Fetch) (count : BitVec 7) (len : BitVec 14) (s : State) : Out State :=
  s.issueLoop f (fun _ => count.toNat) len

/-- LOOPR. -/
def execLoopr (f : Fetch) (rs1 : GReg) (count : BitVec 7) (len : BitVec 14) (s : State) : Out State :=
  s.issueLoop f (fun cs => min (cs.greg rs1).toNat count.toNat) len

/-- What END hands to the reorder buffer (R117, R125): the frame with its action set. -/
def Frame.retire (fr : Frame) (cs : CompState) : Frame :=
  { fr with
    stage := .ended, qoff := cs.qoff, user := cs.user, wbl := cs.wbl, tsreq := cs.tsreq, edits := cs.edits
    act := cs.act, passScratch := Memory.readN 0 cs.scratch 0 192 }

/-- A frame that the pool refused a cell while its program ran retires nothing (R47); its record stays while bytes of it
arrive. Its program runs on to END and counts in FRAMES (DESIGN CHOICE, log entry 105). -/
def State.endLost (s : State) (i : Nat) (fr : Frame) : State :=
  if (s.port fr.inPort).rx = some i then s else (s.dropFrame i).checkSettled

/-- END (R90): the program ends and the compositor stands ready. -/
def execEnd (f : Fetch) (s : State) : Out State :=
  .next (
    let c := f.comp.val
    let t := s.issueOn f fun s cs _ => ⟨.seq, 1, cs, s⟩
    let cs := t.comp c
    if (s.comp c).frame.isSome ∧ cs.frame = (s.comp c).frame then
      let t := t.discardLookups c
      let u := (t.setComp c { CompState.init with scratch := cs.scratch }).count (R.CMP_C_FRAMES (c / 8) (c % 8))
      match cs.frame with
      | none => u
      | some i => match u.frame i with
        | none => u
        | some fr => if fr.stage = .dropped then u.endLost i fr else u.setFrame i (fr.retire cs)
    else t)

/-- PM_REPAIR_DONE: the oldest word under repair is copied; the case accepts frames again when none is left (R98). -/
def execPmRepairDone (k : Case) (s : State) : Out State :=
  .next (s.setCase k.val { s.caseOf k.val with repair := (s.caseOf k.val).repair.tail })

/-- C_e of an entry point of a tag's image, as CMP_ENTRY shows it (R96, R100). -/
def State.worstPath (s : State) (t e : Nat) : Nat := match tget (fun _ => none) (s.image t).info e with
  | some x => x.wcet
  | none => 0

/-- WATCHDOG: the compositor's cycle count is compared with C_e of its entry point (R93). -/
def execWatchdog (c : Comp) (s : State) : Out State :=
  .next (
    let cs := s.comp c.val
    match cs.frame.bind s.frame with
    | none => s
    | some fr =>
      if s.worstPath fr.tag cs.entry < cs.cyc then s.watchdogDrop c.val else s)

end Sys2Proof.Machine
end

