-- ==== Sys2Proof/Machine/BinisActions.lean ====
section
/-! DEFINITION. Binis classes L, H, D, S and X: lookups, hashing, BER and ASDU decoding, waybill operations and the
action set (R102 to R124). -/

namespace Sys2Proof.Machine

/-! ### Class L (R104 to R109) -/

def CompState.slot (cs : CompState) (tag : Nat) : Slot := tget (fun _ => Slot.idle) cs.slots tag
def CompState.setSlot (cs : CompState) (tag : Nat) (v : Slot) : CompState :=
  { cs with slots := tput (fun _ => Slot.idle) cs.slots tag v }

/-- The result of a lookup arrives under its tag: a wait for it ends (R104). -/
def CompState.answer (cs : CompState) (tag : Nat) (v : Slot) : CompState :=
  { cs.setSlot tag v with lwait := match v with
    | .waiting _ => cs.lwait
    | _ => if cs.lwait = some tag then none else cs.lwait }

/-- Issue a lookup, its key copied (R106). -/
def State.lki (s : State) (f : Fetch) (tag : BitVec 3) (req : CompState → LookupReq) : Out State :=
  s.issueSeq f 1 fun cs _ => cs.setSlot tag.toNat (.waiting (req cs))

/-- LKI.L2DST. -/
def execLkiL2dst (f : Fetch) (tag : BitVec 3) (rs1 : GReg) (s : State) : Out State :=
  s.lki f tag fun cs => .l2 (cs.greg rs1) false

/-- LKI.L2SRC. -/
def execLkiL2src (f : Fetch) (tag : BitVec 3) (rs1 : GReg) (s : State) : Out State :=
  s.lki f tag fun cs => .l2 (cs.greg rs1) true

/-- LKI.IPV4. -/
def execLkiIpv4 (f : Fetch) (tag : BitVec 3) (rs1 : GReg) (s : State) : Out State :=
  s.lki f tag fun cs => .ipv4 (cs.greg rs1)

/-- LKI.IPV6. -/
def execLkiIpv6 (f : Fetch) (tag : BitVec 3) (rs1 rs2 : GReg) (s : State) : Out State :=
  s.lki f tag fun cs => .ipv6 (cs.greg rs1) (cs.greg rs2)

/-- LKI.RULE: the 60 scratch bytes from g[rs1] + ARG; those beyond scratch read zero and set OVR (R106). -/
def execLkiRule (f : Fetch) (tag : BitVec 3) (rs1 : GReg) (arg : BitVec 11) (s : State) : Out State :=
  s.issueSeq f 1 fun cs _ =>
    let (bs, ovr) := cs.readScratch (sx64 (cs.greg rs1) + (arg.toNat : Int)) 60
    (cs.setSlot tag.toNat (.waiting (.rule bs))).setOvr ovr

/-- LKI.FORK. -/
def execLkiFork (f : Fetch) (tag : BitVec 3) (rs1 : GReg) (table : BitVec 6) (s : State) : Out State :=
  s.lki f tag fun cs => .fork table.toNat ((cs.greg rs1).toNat % 256)

/-- LKI.WATCH (R166, R168): an invalid set misses, a broken one errs, a best-effort scan that finds its queue full errs;
any other scan waits for an engine. -/
def execLkiWatch (f : Fetch) (tag : BitVec 3) (rs2 : GReg) (set : BitVec 8) (s : State) : Out State :=
  .next (s.issueOn f fun s cs fr =>
    let d := s.wchDir (256 * fr.tag + set.toNat)
    let adm := s.admClass fr.tag (cs.qoff / 16)
    let len := if rs2.val = 0 then none else some (cs.greg rs2).toNat
    let req : LookupReq := .watch set.toNat cs.cur len
    let done := fun (t : State) (v : Slot) => (⟨.seq, 1, cs.setSlot tag.toNat v, t⟩ : Issue)
    if dirValid d = false then done s (.ready 0 0 0)
    else if bitOf d.1 62 then done s (.ready 2 0 0)
    else if adm = false ∧ 256 ≤ s.waitingBe then
      done ((s.count R.WCH_C_SCAN_REFUSED).raiseG 38 20) (.ready 2 0 0)
    else
      let i := cs.frame.getD 0
      done (s.modWatch fun w => { w with
        waiting := w.waiting ++ [⟨some (f.comp.val, tag.toNat), i, [], fr.tag, set.toNat, cs.cur, len, adm⟩] })
        (.waiting req))

/-- The result of a lookup that has reached its table (R105, R153). -/
def State.lookupResult (s : State) (fr : Frame) (req : LookupReq) (parityBad : Bool) : Slot × State :=
  match req with
  | .waybill st w0 => (.ready st w0 0, s)
  | .watch set start len => (.waiting (.watch set start len), s)
  | req =>
    let learn := fun (t : State) (a : Option Nat) => match req with
      | .l2 key true => t.learnFrom (bitsOf key 59 0) fr.inPort a
      | _ => t
    match s.findEntry fr.tag req with
    | none => (.ready 0 0 0, learn s none)
    | some (t, a) =>
      if parityBad then (.ready 2 0 0, learn (s.paritySeen t a) none)
      else (.ready 1 (s.resultWords t a).1 (s.resultWords t a).2, learn s (some a))

/-- LOOKUP_COMPLETE: the result of the lookup under a tag returns; `parityBad` is a parity error in the entry found. -/
def execLookupComplete (c : Comp) (tag : BitVec 3) (parityBad : Bool) (s : State) : Out State :=
  .next (
    let cs := s.comp c.val
    match cs.frame.bind s.frame, cs.slot tag.toNat with
    | some fr, .waiting req =>
      let (v, t) := s.lookupResult fr req parityBad
      t.setComp c.val (cs.answer tag.toNat v)
    | _, _ => s)

/-- LKW. -/
def execLkw (f : Fetch) (rd : GReg) (tag : BitVec 3) (bm : Bool) (disp : BitVec 14) (s : State) : Out State :=
  s.issue f 1 fun cs _ =>
    match cs.slot tag.toNat with
    | .waiting _ => (.wait tag.toNat, cs)
    | .idle => (.seq, cs)
    | .ready st w0 w1 =>
      let cs' := { (cs.setG rd w0).setSlot tag.toNat .idle with lres1 := w1, lst := st + 16 * tag.toNat }
      (if bm && st != 1 then .goto (cs.target disp) else .seq, cs')

/-! ### Class H (R110) -/

/-- The 320-bit Toeplitz key `k` of a tag. -/
def State.toeplitzKey (s : State) (t k : Nat) : Nat :=
  (List.range 10).foldl (fun a j => a * 2 ^ 32 + s.fld (F.FRM_TOEPLITZ_KEY t k j)) 0

/-- Accumulate one byte; beyond 36 bytes Toeplitz ignores it. -/
def HashState.byte (h : HashState) (key : Nat) (b : Byte) : HashState :=
  if h.toeplitz = false then { h with value := crcStep 0x82F63B78 h.value b }
  else if 36 ≤ h.taken then h
  else
    let v := (List.range 8).foldl (fun v i =>
      if bitOf b (7 - i) then v ^^^ (key / 2 ^ (320 - 32 - (8 * h.taken + i)) % 2 ^ 32) else v) h.value
    { h with value := v, taken := h.taken + 1 }

/-- Accumulate bytes in order; Toeplitz bytes beyond 36 set OVR. -/
def CompState.hashBytes (cs : CompState) (key : Nat) (bs : List Byte) : CompState :=
  let h := bs.foldl (fun h b => HashState.byte h key b) cs.hash
  { cs with hash := h }.setOvr (h.toeplitz && decide (36 < cs.hash.taken + bs.length))

/-- HINI. -/
def execHini (f : Fetch) (alg : Bool) (key : BitVec 2) (seed : BitVec 32) (s : State) : Out State :=
  s.issueSeq f 1 fun cs _ => { cs with hash := ⟨alg, key.toNat, if alg then 0 else seed.toNat, 0⟩ }

/-- HACC. -/
def execHacc (f : Fetch) (rs1 : GReg) (nm1 : BitVec 3) (s : State) : Out State :=
  s.issueSeq f 1 fun cs fr =>
    cs.hashBytes (s.toeplitzKey fr.tag cs.hash.key) (toBE (nm1.toNat + 1) (cs.greg rs1).toNat)

/-- HACF: ⌈n / 8⌉ cycles. -/
def execHacf (f : Fetch) (rs1 : GReg) (off : BitVec 14) (nm1 : BitVec 6) (s : State) : Out State :=
  s.issue f (ceilDiv (nm1.toNat + 1) 8) fun cs fr =>
    match fr.readBytes (cs.frameEa rs1 off) (nm1.toNat + 1) with
    | .error a => (.stall a, cs)
    | .ok (bs, ovr) => (.seq, (cs.hashBytes (s.toeplitzKey fr.tag cs.hash.key) bs).setOvr ovr)

/-- HFIN. -/
def execHfin (f : Fetch) (rd : GReg) (s : State) : Out State :=
  s.issueSeq f 1 fun cs _ =>
    let v := if cs.hash.toeplitz then cs.hash.value else cs.hash.value ^^^ 0xFFFFFFFF
    { cs.setG rd (w64 v) with hash := { cs.hash with value := v } }

/-! ### Class D (R111 to R113) -/

/-- The number of length bytes that a first length byte calls for, none for an unsupported form (R112). -/
def berForm (b : Nat) : Option Nat :=
  if b < 0x80 then some 0
  else if b = 0x81 then some 1
  else if b = 0x82 then some 2
  else if b = 0x83 then some 3
  else none

/-- BERX: a header of 2 to 4 bytes at CUR. Form 0x83 has a header of 4, the most that R112 lets it read; the length that
the rest of that form spells is a free value of 24 bits (log entry 27). -/
def execBerx (f : Fetch) (rd : GReg) (any : Bool) (btag : BitVec 8) (disp : BitVec 14) (skip : Bool) (s : State) :
    Out State :=
  .next (s.issueOn f fun s cs fr =>
    match fr.readBytes cs.cur 2 with
    | .error a => ⟨.stall a, 2, cs, s⟩
    | .ok (hd, ovr) =>
      let tag := (byteAt hd 0).toNat
      let fail := fun (st : Nat) =>
        (⟨.goto (cs.target disp), 2, ({ cs with dtag := tag, dstat := st }).setOvr ovr, s⟩ : Issue)
      if tag % 32 = 31 then fail 2
      else if any = false ∧ tag ≠ btag.toNat then fail 1
      else match berForm (byteAt hd 1).toNat with
        | none => fail 2
        | some n =>
          match fr.readBytes ((cs.cur : Int) + 2) (min n 2) with
          | .error a => ⟨.stall a, 2, cs, s⟩
          | .ok (ext, ovr') =>
            let (free, t) := if n = 3 then s.takeFree 24 else (0, s)
            let len := if n = 3 then free.toNat else if n = 0 then (byteAt hd 1).toNat else beNat ext
            let cur := (cs.cur + 2 + min n 2 + (if skip then len else 0)) % 16384
            ⟨.seq, 2, ({ cs.setG rd (w64 len) with dtag := tag, dlen := len, dstat := 0, cur := cur }).setOvr
              (ovr || ovr'), t⟩)

/-- Where an ASDU walk ends. -/
inductive Walk (α : Type) where
  | ok (v : α)
  /-- It needs a byte that has not arrived. -/
  | stall (a : Nat)
  /-- It fails with a status of R111. -/
  | fail (st : Nat)

/-- One byte that the walk may read: up to CUR + 159 and inside the frame (R113). -/
def Frame.walkByte (f : Frame) (cur a : Nat) : Walk Nat :=
  if cur + 159 < a then .fail 4
  else match f.byteAt a with
    | none => .stall a
    | some (b, ovr) => if ovr then .fail 4 else .ok b.toNat

/-- The big-endian number of `n` bytes from `a`. -/
def Frame.walkNum (f : Frame) (cur : Nat) : Nat → Nat → Nat → Walk Nat
  | 0, _, acc => .ok acc
  | n + 1, a, acc => match f.walkByte cur a with
    | .ok b => f.walkNum cur n (a + 1) (acc * 256 + b)
    | .stall x => .stall x
    | .fail st => .fail st

/-- The header at `a`: tag, first content byte and content length. -/
def Frame.walkHeader (f : Frame) (cur a : Nat) : Walk (Nat × Nat × Nat) :=
  match f.walkByte cur a with
  | .stall x => .stall x
  | .fail st => .fail st
  | .ok tag =>
    if tag % 32 = 31 then .fail 2
    else match f.walkByte cur (a + 1) with
      | .stall x => .stall x
      | .fail st => .fail st
      | .ok l0 =>
        match berForm l0 with
        | none => .fail 2
        | some n =>
          match f.walkNum cur n (a + 2) 0 with
          | .stall x => .stall x
          | .fail st => .fail st
          | .ok len => .ok (tag, a + 2 + n, if n = 0 then l0 else len)

/-- Find child `want` among the children from `a` to `stop`: content and length. -/
def Frame.walkChild (f : Frame) (cur stop want : Nat) : Nat → Nat → Walk (Nat × Nat)
  | 0, _ => .fail 3
  | n + 1, a =>
    if stop ≤ a then .fail 3
    else match f.walkHeader cur a with
      | .stall x => .stall x
      | .fail st => .fail st
      | .ok (tag, c, len) =>
        if stop < c + len then .fail 2
        else if tag = want then .ok (c, len)
        else f.walkChild cur stop want n (c + len)

/-- The tag and the content width of an ASDU field; width none for one that answers an offset or qualities (R113). -/
def asduField (fld : Nat) : Option (Nat × Option Nat) :=
  match fld with
  | 0 => some (0x80, none) | 1 => some (0x82, some 2) | 2 => some (0x83, some 4) | 3 => some (0x84, some 8)
  | 4 => some (0x85, some 1) | 5 => some (0x86, some 2) | 6 => some (0x87, none) | 7 => some (0x87, none)
  | 8 => some (0x87, none) | 9 => some (0x88, some 2)
  | _ => none

/-- The field's content when the whole walk succeeds. -/
def Frame.asduFind (f : Frame) (cur fld : Nat) : Walk (Nat × Nat) :=
  match asduField fld with
  | none => .fail 3
  | some (want, _) =>
    match f.walkByte cur cur with
    | .stall x => .stall x
    | .fail st => .fail st
    | .ok tag =>
      if tag % 32 = 31 then .fail 2
      else if tag ≠ 0x30 then .fail 1
      else match f.walkHeader cur cur with
        | .stall x => .stall x
        | .fail st => .fail st
        | .ok (_, c, len) => f.walkChild cur (c + len) want 160 c

/-- The value of the field found at `c` with `len` bytes: none where the content's length is not the field's width. -/
def Frame.asduValue (f : Frame) (cur fld chan c len : Nat) : Walk (Option Nat) :=
  let opt := fun (w : Walk Nat) => match w with
    | .ok v => Walk.ok (some v)
    | .stall x => .stall x
    | .fail st => .fail st
  match fld with
  | 7 =>
    if 31 < chan ∨ len < 8 * chan + 8 then .fail 3
    else opt (f.walkNum cur 4 (c + 8 * chan + 4) 0)
  | 8 =>
    opt ((List.range (min 32 (len / 8))).foldl (fun (w : Walk Nat) k => match w with
      | .ok acc => match f.walkNum cur 4 (c + 8 * k + 4) 0 with
        | .ok q => .ok (acc ||| q)
        | .stall x => .stall x
        | .fail st => .fail st
      | w => w) (.ok 0))
  | _ =>
    match (asduField fld).bind Prod.snd with
    | some w => if len = w then opt (f.walkNum cur w c 0)
        else match f.walkNum cur len c 0 with
          | .ok _ => .ok none
          | .stall x => .stall x
          | .fail st => .fail st
    | none =>
      if len = 0 then .ok (some c)
      else match f.walkByte cur (c + len - 1) with
        | .ok _ => .ok (some c)
        | .stall x => .stall x
        | .fail st => .fail st

/-- Cycles of ASDU (R113). -/
def asduCycles (fld : Nat) : Nat := if fld = 7 then 7 else if fld = 8 then 12 else 6

/-- ASDU. DTAG takes the byte at CUR, 0 where it cannot be read, and no child's tag (DESIGN CHOICE, log entry 107). A
value field whose content is not as wide as R113 gives it takes a free value of the field's width (log entry 28). -/
def execAsdu (f : Fetch) (rd : GReg) (fld : BitVec 4) (rs2 : GReg) (disp : BitVec 14) (s : State) : Out State :=
  .next (s.issueOn f fun s cs fr =>
    let n := fld.toNat
    let dtag := match fr.walkByte cs.cur cs.cur with
      | .ok b => b
      | _ => 0
    let out := match fr.asduFind cs.cur n with
      | .ok (c, len) => (match fr.asduValue cs.cur n (cs.greg rs2).toNat c len with
        | .ok v => Walk.ok (v, len)
        | .stall x => .stall x
        | .fail st => .fail st)
      | .stall x => .stall x
      | .fail st => .fail st
    match out with
    | .stall a => ⟨.stall a, 0, cs, s⟩
    | .fail st => ⟨.goto (cs.target disp), asduCycles n, { cs with dtag := dtag, dstat := st }, s⟩
    | .ok (v, len) =>
      let width := 8 * (((asduField n).bind Prod.snd).getD 8)
      let (free, t) := s.takeFree width
      let cs' := { cs with dtag := dtag, dstat := 0, dlen := if n = 0 ∨ n = 6 then len else cs.dlen }
      match v with
      | some x => ⟨.seq, asduCycles n, cs'.setG rd (w64 x), s⟩
      | none => ⟨.seq, asduCycles n, cs'.setG rd (w64 free.toNat), t⟩)

/-! ### Class S (R114, R115) -/

/-- The full timestamp that a pass sees (R52, R75). -/
def State.passStamp (s : State) (fr : Frame) : Stamp := if fr.pass = 0 then fr.stamp else s.rebuiltStamp fr.stamp

/-- Issue a waybill operation: the unit performs it in issue order, and its outcome waits under the tag (R115, R180). -/
def State.wbop (s : State) (f : Fetch) (tag : BitVec 3) (rs1 : GReg)
    (op : State → Nat → OpCtx → CompState → Nat × W64 × State) : Out State :=
  .next (s.issueOn f fun s cs fr =>
    let (st, w0, t) := op s (cs.greg rs1).toNat ⟨fr.inPort, fr.tag, s.passStamp fr⟩ cs
    ⟨.seq, 1, cs.setSlot tag.toNat (.waiting (.waybill st w0)), t⟩)

/-- WBOP.READ. -/
def execWbopRead (f : Fetch) (tag : BitVec 3) (rs1 : GReg) (word : Fin 8) (bad : Option (Fin 16)) (s : State) : Out State :=
  s.wbop f tag rs1 fun s i _ _ => s.wRead i word.val bad

/-- WBOP.ADD. -/
def execWbopAdd (f : Fetch) (tag : BitVec 3) (rs1 rs2 : GReg) (word : Fin 8) (bad : Option (Fin 16)) (s : State) :
    Out State :=
  s.wbop f tag rs1 fun s i _ cs => s.wAdd i word.val (cs.greg rs2) bad

/-- WBOP.DUPCHK. -/
def execDupchk (f : Fetch) (tag : BitVec 3) (rs1 rs2 : GReg) (bad : Option (Fin 16)) (s : State) : Out State :=
  s.wbop f tag rs1 fun s i x cs => s.wDupchk i x (cs.greg rs2) bad

/-- WBOP.SVCHK. -/
def execSvchk (f : Fetch) (tag : BitVec 3) (rs1 rs2 : GReg) (bad : Option (Fin 16)) (s : State) : Out State :=
  s.wbop f tag rs1 fun s i x cs => s.wSvchk i x (cs.greg rs2) bad

/-- WBOP.GSCHK. -/
def execGschk (f : Fetch) (tag : BitVec 3) (rs1 rs2 : GReg) (bad : Option (Fin 16)) (s : State) : Out State :=
  s.wbop f tag rs1 fun s i x cs => s.wGschk i x (cs.greg rs2) bad

/-- WBOP.METER. -/
def execMeter (f : Fetch) (tag : BitVec 3) (rs1 rs2 : GReg) (bad : Option (Fin 16)) (s : State) : Out State :=
  s.wbop f tag rs1 fun s i x cs => s.wMeter i x (cs.greg rs2) bad

/-- WBIND. -/
def execWbind (f : Fetch) (rs1 : GReg) (s : State) : Out State :=
  s.issueSeq f 1 fun cs _ =>
    let i := (cs.greg rs1).toNat
    if i < 32768 then { cs with wbl := some i } else cs.setOvr true

/-! ### Class X (R116 to R124) -/

/-- Set the delivery (R117). -/
def CompState.deliver (cs : CompState) (d : Delivery) : CompState := { cs with act := { cs.act with dlv := some d } }

/-- DLV.DROP. -/
def execDlvDrop (f : Fetch) (s : State) : Out State := s.issueSeq f 1 fun cs _ => cs.deliver .drop

/-- DLV.FWD: a port of 128 or more makes the delivery DROP and sets OVR. It is DROP from here on, so that DLVS shows
DKIND 0 (DESIGN CHOICE, log entry 108). -/
def execDlvFwd (f : Fetch) (imm : Bool) (port : BitVec 7) (rs1 : GReg) (s : State) : Out State :=
  s.issueSeq f 1 fun cs _ =>
    let p := if imm then port.toNat else (cs.greg rs1).toNat
    if p < 128 then cs.deliver (.fwd p) else (cs.deliver .drop).setOvr true

/-- DLV.MCAST; an empty mask makes it DROP from here on (DESIGN CHOICE, log entry 108). -/
def execDlvMcast (f : Fetch) (rs1 rs2 : GReg) (excl : Bool) (s : State) : Out State :=
  s.issueSeq f 1 fun cs fr =>
    let mask := BitVec.ofNat 128 ((cs.greg rs1).toNat + (cs.greg rs2).toNat * 2 ^ 64)
    let mask := if excl then mask &&& ~~~ BitVec.ofNat 128 (2 ^ fr.inPort) else mask
    cs.deliver (if mask = 0 then .drop else .mcast mask)

/-- DLV.FORK. -/
def execDlvFork (f : Fetch) (table : BitVec 6) (rs1 : GReg) (s : State) : Out State :=
  s.issueSeq f 1 fun cs _ => cs.deliver (.fork table.toNat ((cs.greg rs1).toNat % 256))

/-- DLV.PUNT. -/
def execDlvPunt (f : Fetch) (reason : BitVec 8) (s : State) : Out State :=
  s.issueSeq f 1 fun cs _ => cs.deliver (.punt reason.toNat)

/-- DLV.SECOND. -/
def execDlvSecond (f : Fetch) (entry : BitVec 6) (s : State) : Out State :=
  s.issueSeq f 1 fun cs _ => cs.deliver (.second entry.toNat)

/-- QSEL. -/
def execQsel (f : Fetch) (imm : Bool) (qoff : BitVec 7) (rs1 : GReg) (s : State) : Out State :=
  s.issueSeq f 1 fun cs _ => cs.setQoff (if imm then qoff.toNat else (cs.greg rs1).toNat)

/-- SIDE.MIRROR (R122). -/
def execSideMirror (f : Fetch) (session : BitVec 4) (s : State) : Out State :=
  s.issueSeq f 1 fun cs fr =>
    let m := session.toNat
    if s.flag (F.FRM_MIRROR_VALID fr.tag m) = false ∨ cs.act.mirrors.contains m = true then cs
    else if 2 ≤ cs.act.mirrors.length then cs.setOvr true
    else { cs with act := { cs.act with mirrors := cs.act.mirrors ++ [m] } }

/-- SIDE.CAPMARK. -/
def execSideCapmark (f : Fetch) (selector : BitVec 8) (s : State) : Out State :=
  s.issueSeq f 1 fun cs _ => { cs with act := { cs.act with capmark := some selector.toNat } }

/-- SIDE.CAPTRIG. -/
def execSideCaptrig (f : Fetch) (cause : BitVec 8) (s : State) : Out State :=
  s.issueSeq f 1 fun cs _ => { cs with act := { cs.act with captrig := some cause.toNat } }

/-- SIDE.TSTAMP. -/
def execSideTstamp (f : Fetch) (ident : BitVec 8) (s : State) : Out State :=
  s.issueSeq f 1 fun cs _ => { cs with tsreq := some ident.toNat }

/-- Append an edit (R123); a ninth is not appended (the verifier refuses such programs; log entry 25). -/
def State.edit (s : State) (f : Fetch) (eop off : Nat) (value : CompState → W64) : Out State :=
  s.issueSeq f 1 fun cs fr =>
    if 8 ≤ cs.edits.length then cs
    else { cs with edits := cs.edits ++ [⟨eop, fr.pass, off, value cs⟩] }

/-- EDIT.VPUSH. -/
def execEditVpush (f : Fetch) (rs1 : GReg) (s : State) : Out State := s.edit f 1 0 fun cs => cs.greg rs1
/-- EDIT.VPOP. -/
def execEditVpop (f : Fetch) (s : State) : Out State := s.edit f 2 0 fun _ => 0
/-- EDIT.VSWAP. -/
def execEditVswap (f : Fetch) (rs1 : GReg) (s : State) : Out State := s.edit f 3 0 fun cs => cs.greg rs1
/-- EDIT.HSR_INS. -/
def execEditHsrIns (f : Fetch) (rs1 : GReg) (path : BitVec 4) (s : State) : Out State :=
  s.edit f 4 path.toNat fun cs => cs.greg rs1
/-- EDIT.HSR_REM. -/
def execEditHsrRem (f : Fetch) (s : State) : Out State := s.edit f 5 0 fun _ => 0
/-- EDIT.PRP_ADD. -/
def execEditPrpAdd (f : Fetch) (rs1 : GReg) (lan : BitVec 14) (s : State) : Out State :=
  s.edit f 6 lan.toNat fun cs => cs.greg rs1
/-- EDIT.PRP_STRIP. -/
def execEditPrpStrip (f : Fetch) (s : State) : Out State := s.edit f 7 0 fun _ => 0
/-- EDIT.MAC_DA. -/
def execEditMacDa (f : Fetch) (rs1 : GReg) (s : State) : Out State := s.edit f 8 0 fun cs => cs.greg rs1
/-- EDIT.MAC_SA. -/
def execEditMacSa (f : Fetch) (rs1 : GReg) (s : State) : Out State := s.edit f 9 0 fun cs => cs.greg rs1
/-- EDIT.TTL_DEC. -/
def execEditTtlDec (f : Fetch) (off : BitVec 14) (s : State) : Out State := s.edit f 10 off.toNat fun _ => 0
/-- EDIT.PTP_CF. -/
def execEditPtpCf (f : Fetch) (off : BitVec 14) (s : State) : Out State := s.edit f 11 off.toNat fun _ => 0

end Sys2Proof.Machine
end

