-- ==== Sys2Proof/Machine/Host.lean ====
section
/-! DEFINITION. The PCIe endpoint and the DMA engine: windows, channels, rings, descriptors, punted and injected frames,
resets, the freeze and MSI-X (R300 to R337). -/

namespace Sys2Proof.Machine

def State.modHost (s : State) (g : HostUnit → HostUnit) : State := { s with host := g s.host }

/-! ### Punted frames (R315, R316) -/

def State.puntQueue (s : State) (k : Nat) : List PuntRef := tget (fun _ => []) s.host.punt k
def State.setPuntQueue (s : State) (k : Nat) (l : List PuntRef) : State :=
  s.modHost fun h => { h with punt := tput (fun _ => []) h.punt k l }

/-- Send a frame to the ring of a punt reason: the punt queue takes its reference, or the frame is dropped. -/
def State.puntFrame (s : State) (i reason : Nat) : State :=
  let k := s.fld (F.HST_PUNT_MAP_RING reason)
  if s.flag (F.HST_PUNT_MAP_VALID reason) = false ∨ s.fld (F.DMA_RING_CFG_KIND k) ≠ 0 then
    (s.count R.HST_C_PUNT_NOMAP).raiseG 43 8
  else if max 1 (s.fld (F.DMA_RING_CFG_PQ_LIMIT k)) ≤ (s.puntQueue k).length then
    (s.count (R.DMA_RING_C_PUNT_DROP k)).raiseG 43 8
  else (s.acquire i).setPuntQueue k (s.puntQueue k ++ [⟨i, reason⟩])

/-- Every punt queue is flushed: each frame is dropped as one that found it full. -/
def State.flushPunts (s : State) : State :=
  s.host.punt.foldl (fun t x =>
    (x.2.foldl (fun u r => ((u.count (R.DMA_RING_C_PUNT_DROP x.1)).raiseG 43 8).release r.frame 0x11) t).setPuntQueue
      x.1 []) s

/-- The 32-byte header of a punted frame. -/
def State.puntHeader (s : State) (f : Frame) (reason : Nat) : List Byte :=
  let ts := s.rebuiltStamp f.stamp
  toLE 8 f.user.toNat ++ toLE 6 (stampSec ts) ++ toLE 4 (stampNs ts) ++ toLE 2 (stampFrac ts) ++ toLE 1 reason ++
    toLE 1 f.inPort ++ toLE 1 (f.tag % 2 * 128 + f.cls) ++ toLE 1 0 ++ toLE 2 f.bytes.length ++
    toLE 2 (match f.wbl with
      | some w => 32768 + w
      | none => 0) ++ toLE 4 0

/-! ### Channels and rings (R321 to R327) -/

def State.ringState (s : State) (k : Nat) : Nat := s.fld (F.DMA_RING_STATE_STATE k)
def State.setRingState (s : State) (k n : Nat) : State := s.setFld (F.DMA_RING_STATE_STATE k) n
def State.injecting (s : State) (k : Nat) : Option Inject := tget (fun _ => none) s.host.inject k
def State.setInjecting (s : State) (k : Nat) (v : Option Inject) : State :=
  s.modHost fun h => { h with inject := tput (fun _ => none) h.inject k v }

/-- No new request may be issued (R329, R333). -/
def State.dmaBlocked (s : State) : Bool :=
  !s.host.linkUp || !s.host.bme || s.host.d3hot || s.flag F.HST_STATUS_FROZEN

/-- Discard the TX_FRAME descriptor that a ring has in progress, and free its frame's cells. -/
def State.dropInjected (s : State) (k : Nat) : State :=
  match s.injecting k with
  | some (.frame i _ _) => (s.setInjecting k none).loseFrame i
  | some .pool => s.setInjecting k none
  | none => s

/-- The rings of a channel. -/
def chanRings (c : Nat) : List Nat := (List.range 16).map fun i => 16 * c + i

/-- A completion of ring `k` signals its vector, or waits for its IRQ_HOLD to end (R332). -/
def State.ringSignal (s : State) (k : Nat) : State :=
  if s.host.holdRun.contains k then
    s.modHost fun h => { h with holdPend := if h.holdPend.contains k then h.holdPend else h.holdPend ++ [k] }
  else
    let t := s.signalVec (s.fld (F.DMA_RING_CFG_VECTOR k))
    if s.fld (F.DMA_RING_CFG_IRQ_HOLD k) = 0 then t else t.modHost fun h => { h with holdRun := h.holdRun ++ [k] }

/-- The write-back of the descriptor at CUR (R314), and its interrupt (R332). -/
def State.writeBack (s : State) (k status xfer : Nat) (trunc eos : Bool) (word1 : W64) : State :=
  let w := 2 ^ 63 + b2n trunc * 2 ^ 62 + b2n eos * 2 ^ 61 + status * 2 ^ 56 + xfer
  let t := s.emit (.hostWrite ((s.reg (R.DMA_RING_CUR k)).toNat + 24) (toLE 8 w) false)
  let t := (t.count (R.DMA_RING_C_DESC_DONE k)).countN (R.DMA_RING_C_BYTES k) xfer
  let t := if status = 0 ∨ status = 1 then t else (t.count (R.DMA_RING_C_DESC_ERR k)).raiseG 43 7
  if bitOf word1 2 then
    (t.setReg (R.DMA_RING_PEND (k / 32)) (t.reg (R.DMA_RING_PEND (k / 32)) ||| w64 (2 ^ (k % 32)))).ringSignal k
  else t

/-- Word 1 of CUR has arrived (R321): the ring advances, parks, or reads it again. -/
def State.word1Arrived (s : State) (k : Nat) (w : W64) : State :=
  let t := s.modHost fun h => { h with reread := h.reread.filter (· != k) }
  if s.ringState k = 3 then t.setRingState k 0
  else if bitOf w 0 = false then
    (t.setReg (R.DMA_RING_CUR k) (w64 (w.toNat / 32 * 32))).setRingState k 1
  else if s.ringState k = 2 then t
  else if s.flag (F.DMA_RING_STATE_DB_PEND k) then
    (t.setFlag (F.DMA_RING_STATE_DB_PEND k) false).modHost fun h => { h with reread := h.reread ++ [k] }
  else t.setRingState k 2

/-- A descriptor is complete: write-back, and what its word 1 says. -/
def State.descDone (s : State) (k status xfer : Nat) (trunc eos : Bool) (word1 : W64) : State :=
  (s.writeBack k status xfer trunc eos word1).word1Arrived k word1

/-- A channel stops with a code: only the first cause since the last START is recorded (R326). -/
def State.stopChan (s : State) (c code : Nat) : State :=
  if s.fld (F.DMA_CH_STATUS_STATE c) = 0 then s
  else
    let code := (tget (fun _ => none) s.host.stopping c).getD code
    let t := s.modHost fun h => { h with stopping := tput (fun _ => none) h.stopping c none }
    let t := (t.setFld (F.DMA_CH_STATUS_STATE c) 0).setFld (F.DMA_CH_STATUS_STOP_CODE c) code
    if 2 ≤ code then t.raiseG 43 6 else t

/-- A descriptor of ring `k` that retries a NONE is at a boundary: its cells are freed, and it will be written back with
POOL (R325). -/
def State.poolBoundary (s : State) (k : Nat) : State :=
  match s.injecting k with
  | some (.frame _ _ true) => (s.dropInjected k).setInjecting k (some .pool)
  | _ => s

/-- A channel that is STOPPING is STOPPED once no ring of it has a descriptor in progress (R325). -/
def State.chanSettle (s : State) (c : Nat) : State :=
  if s.fld (F.DMA_CH_STATUS_STATE c) = 2 ∧ ((chanRings c).all fun k => (s.injecting k).isNone) then s.stopChan c 1 else s

/-- A channel stops at its descriptor boundaries (R325): it is STOPPING until every descriptor in progress is written back.
-/
def State.stopAtBoundary (s : State) (c code : Nat) : State :=
  if s.fld (F.DMA_CH_STATUS_STATE c) ≠ 1 then s
  else
    let t := (chanRings c).foldl State.poolBoundary s
    let t := t.modHost fun h => { h with stopping := tput (fun _ => none) h.stopping c (some code) }
    (t.setFld (F.DMA_CH_STATUS_STATE c) 2).chanSettle c

/-- The tags of the reads that are outstanding now: which they are is open; none when no channel and no command ring can
have issued one (R300, R328, log entry 117). -/
def State.issuedTags (s : State) : BitVec 1024 × State :=
  let ring := s.flag F.CMD_RING_CFG_EN && s.fld F.CMD_RING_PI_PI != s.fld F.CMD_RING_CI_CI
  if s.dmaBlocked || !(ring || (List.range 32).any fun c => s.fld (F.DMA_CH_STATUS_STATE c) != 0) then (0, s)
  else
    let (v, t) := s.takeFree 1024
    (if s.host.cfg.tag10 then v else v &&& BitVec.ofNat 1024 (2 ^ 256 - 1), t)

/-- Every channel is aborted (R327, R328): interrupted descriptors are not written back, and their rings keep CUR; the
tags of the reads already issued go into quarantine. -/
def State.abortAll (s : State) (code : Nat) : State :=
  let (tags, t) := s.issuedTags
  let t := (t.host.inject.map Prod.fst).foldl State.dropInjected t
  let t := t.modHost fun h => { h with quarantine := h.quarantine ||| tags }
  (List.range 32).foldl (fun u c => u.stopChan c code) t

/-- DMA_CH_START (R323). Its rings and the channels take turns in command order (log entry 116). -/
def State.chanStart (s : State) (c : Nat) : State :=
  if s.dmaBlocked || s.fld (F.DMA_CH_STATUS_STATE c) != 0 then s
  else (s.setFld (F.DMA_CH_STATUS_STATE c) 1).setFld (F.DMA_CH_STATUS_STOP_CODE c) 0

def execDmaChStart (c : Chan) (s : State) : Out State :=
  .next (s.byHost (R.DMA_CH_CTRL c) fun s => s.chanStart c.val)

/-- DMA_CH_STOP (R325). -/
def State.chanStop (s : State) (c : Nat) : State := s.stopAtBoundary c 1

def execDmaChStop (c : Chan) (s : State) : Out State :=
  .next (s.byHost (R.DMA_CH_CTRL c) fun s => s.chanStop c.val)

/-- RING_ENABLE: EN written 1 (R321). -/
def State.ringOn (s : State) (k : Nat) : State :=
  let t := s.setFlag (F.DMA_RING_CFG_EN k) true
  if s.ringState k = 0 then
    (t.setReg (R.DMA_RING_CUR k) (w64 ((s.reg (R.DMA_RING_HEAD k)).toNat / 32 * 32))).setRingState k 1
  else t

def execRingEnable (k : Ring) (s : State) : Out State :=
  .next (s.byHost (R.DMA_RING_CFG k) fun s => s.ringOn k.val)

/-- RING_DISABLE: EN written 0 (R321). A descriptor in progress completes first. -/
def State.ringOff (s : State) (k : Nat) : State :=
  let t := s.setFlag (F.DMA_RING_CFG_EN k) false
  let t := t.modHost fun h => { h with reread := h.reread.filter (· != k) }
  if s.ringState k = 1 ∧ (s.injecting k).isSome then t.setRingState k 3
  else if s.ringState k = 3 then t
  else t.setRingState k 0

def execRingDisable (k : Ring) (s : State) : Out State :=
  .next (s.byHost (R.DMA_RING_CFG k) fun s => s.ringOff k.val)

/-- DMA_RING_DB (R321, R322). -/
def State.ringBell (s : State) (k : Nat) : State :=
  if s.ringState k = 1 then s.setFlag (F.DMA_RING_STATE_DB_PEND k) true
  else if s.ringState k = 2 ∧ s.host.reread.contains k = false then
    s.modHost fun h => { h with reread := h.reread ++ [k] }
  else s

def execDmaRingDb (k : Ring) (s : State) : Out State :=
  .next (s.byHost (R.DMA_RING_DB k) fun s => s.ringBell k.val)

/-! ### Descriptors -/

/-- Ring `k` may take a descriptor of a kind now: it is ACTIVE on it, or CLOSING on one that an abort interrupted, its
channel runs, and a BARRIER has nothing left to wait for (R321, R323, R324, R327). -/
def State.ringReady (s : State) (k kind : Nat) (word1 : W64) : Bool :=
  !s.dmaBlocked && (s.ringState k == 1 || s.ringState k == 3) && s.fld (F.DMA_CH_STATUS_STATE (k / 16)) == 1 &&
  s.fld (F.DMA_RING_CFG_KIND k) == kind && (s.injecting k).isNone && !s.host.reread.contains k &&
  (!bitOf word1 1 || (chanRings (k / 16)).all fun j => (s.injecting j).isNone)

/-- Bits of word 2 that a kind leaves zero (R313). -/
def descBad (kind : Nat) (request : W64) : Bool :=
  match kind with
  | 1 => bitsOf request 63 54 != 0
  | 3 => bitsOf request 63 57 != 0
  | 0 => bitsOf request 63 16 != 0 || decide (bitsOf request 15 0 < 96)
  | _ => bitsOf request 63 16 != 0

/-- A descriptor that breaks R313. -/
def State.descError (s : State) (k : Nat) (word1 : W64) : State :=
  (s.descDone k 10 0 false false word1).stopAtBoundary (k / 16) 6

/-- A descriptor whose host read failed with Unsupported Request or Completer Abort (R314, R326). -/
def State.descHostError (s : State) (k xfer : Nat) (word1 : W64) : State :=
  (s.descDone k 11 xfer false false word1).stopAtBoundary (k / 16) 7

/-- The commit of an injected frame that has its cells (R317). -/
def State.commitInjected (s : State) (k i : Nat) (request word1 : W64) : State :=
  let port := bitsOf request 22 16
  let q := 128 * port + bitsOf request 29 23
  let len := bitsOf request 15 0
  let t := s.setInjecting k none
  let t := t.modFrame i fun f => { f with stage := .committed, tag := t.builtTag, stamp := t.stamp }
  let t := match t.frame i with
    | some f => t.reown (f.cells ++ f.editCell.toList) 0x12
    | none => t
  match t.frame i with
  | none => t
  | some f =>
    if t.threshOk q f = false then ((t.threshDrop q).releaseFrame i 0x11).descDone k 5 0 false false word1
    else
      let u := t.enqueue q i false
      match u.frame i with
      | some g =>
        if g.refcnt = 0 then (u.releaseFrame i 0x11).descDone k 6 0 false false word1
        else u.descDone k 0 len false false word1
      | none => u

/-- The injected frame of ring `k` lacks a data cell, or its edit cell. -/
def State.injectNeeds (s : State) (k : Nat) : Bool × Bool :=
  match s.injecting k with
  | some (.frame i _ _) => (match s.frame i with
    | some f => (decide (f.cells.length < dataCells f.bytes.length), f.ptpCf.isSome && f.editCell.isNone)
    | none => (false, false))
  | _ => (false, false)

/-- What the pool's answer does to the injected frame of ring `k` (R47): a cell joins it; after a NONE it retries, and
in a channel that is STOPPING it is at its boundary (R325). -/
def State.injectGrant (s : State) (k : Nat) (g : Grant) : State :=
  match g, s.injecting k with
  | .none, some (.frame i r _) =>
    let t := (((s.count R.GAL_C_NONE_DMA).raiseG 36 14).setInjecting k (some (.frame i r true)))
    if t.fld (F.DMA_CH_STATUS_STATE (k / 16)) = 2 then t.poolBoundary k else t
  | .cell c, some (.frame i r _) =>
    let t := s.setInjecting k (some (.frame i r false))
    if (s.injectNeeds k).1 then
      let prev := (t.frame i).bind fun f => f.cells.getLast?
      (t.linkCell prev c).modFrame i fun f => { f with cells := f.cells ++ [c] }
    else t.modFrame i fun f => { f with editCell := some c, edits := [⟨11, 0, f.ptpCf.getD 0, 0⟩] }
  | _, _ => s

/-- Request the cells that the injected frame of ring `k` still lacks; `n` bounds them. A NONE or a busy bank leaves it
waiting (R47). -/
def State.injectCells : Nat → Nat → Bool → State → State
  | 0, _, _, s => s
  | n + 1, k, bad, s =>
    if (s.injectNeeds k).1 || (s.injectNeeds k).2 then
      let (g, _, _, t) := s.request 0x11 false bad []
      match g with
      | .cell _ => State.injectCells n k false (t.injectGrant k g)
      | _ => t.injectGrant k g
    else s

/-- The most cells that an injected frame takes: 38 data cells and an edit cell. -/
def injectMax : Nat := 48

/-- Word 1 of a TX_FRAME descriptor in progress is read, as soon as its frame has its cells (R312): the frame commits,
or the descriptor is written back with POOL. -/
def State.injectFinish (s : State) (k : Nat) (word1 : W64) : State :=
  match s.injecting k with
  | some (.frame i request _) =>
    if (s.frame i).isNone then s.setInjecting k none
    else if (s.injectNeeds k).1 || (s.injectNeeds k).2 then s
    else (s.commitInjected k i request word1).chanSettle (k / 16)
  | some .pool => ((s.setInjecting k none).descDone k 7 0 false false word1).chanSettle (k / 16)
  | none => s

/-- DESC_WORD1_READ: word 1 of CUR arrives at a ring that reads it again (R321), or at one whose TX_FRAME descriptor is
done but for it (R312). -/
def execDescWord1Read (k : Ring) (w : W64) (s : State) : Out State :=
  .next (
    if s.dmaBlocked then s
    else if (s.injecting k).isSome then s.injectFinish k w
    else if s.host.reread.contains k.val then s.word1Arrived k w
    else s)

/-- TX_FRAME_INJECT (R317). Fewer bytes than LEN are a host read that failed (log entry 30). A frame whose cells are all
granted at once commits with the word 1 of `d`; one that waits has word 1 read when it has them (R312). -/
def execTxFrameInject (k : Ring) (d : Desc) (data : List Byte) (s : State) : Out State :=
  .next (
    let r := d.request
    let len := bitsOf r 15 0
    let port := bitsOf r 22 16
    let cls := bitsOf r 29 23 / 16
    if s.ringReady k 1 d.word1 = false then s
    else if descBad 1 r then s.descError k d.word1
    else if (match s.activeTag with
      | some t => s.admClass t cls
      | none => false) = true then s.descDone k 2 0 false false d.word1
    else if s.fld (F.PRT_MODE_MODE port) = 0 ∨ s.flag (F.PRT_STATUS_FUSED_SUB port) = true then
      s.descDone k 3 0 false false d.word1
    else if len < 60 ∨ 9724 < len then s.descDone k 4 0 false false d.word1
    else if data.length < len then s.descHostError k 0 d.word1
    else
      let f := { Frame.start (.host k) s.builtTag 0 false s.stamp (bitsOf r 29 23) with
        bytes := data.take len, complete := true
        tsreq := if bitOf r 30 then some (bitsOf r 53 46) else none
        ptpCf := if bitOf r 31 then some (bitsOf r 45 32) else none }
      let (i, t) := s.newFrame f
      (State.injectCells injectMax k false (t.setInjecting k (some (.frame i r false)))).injectFinish k d.word1)

/-- DMA_POOL_RETRY: 64 ns after a NONE the request is made again (R47). -/
def execDmaPoolRetry (k : Ring) (s : State) : Out State := .next (State.injectCells injectMax k false s)

/-- RX_FRAME_DELIVER (R316): the oldest punted frame of the ring is written into the descriptor. -/
def execRxFrameDeliver (k : Ring) (d : Desc) (s : State) : Out State :=
  .next (
    match s.puntQueue k with
    | [] => s
    | r :: rest =>
      if s.ringReady k 0 d.word1 = false then s
      else if descBad 0 d.request then s.descError k d.word1
      else match s.frame r.frame with
        | none => s.setPuntQueue k rest
        | some f =>
          let len := bitsOf d.request 15 0
          let bs := s.puntHeader f r.reason ++ f.bytes
          let t := s.emit (.hostWrite d.buf.toNat (bs.take len) s.host.cfg.relaxed)
          let t := (t.setPuntQueue k rest).descDone k 0 (min len bs.length) (decide (len < bs.length)) false d.word1
          t.release r.frame 0x11)

/-- DMA_COPY (R318). `data` is what a host-to-DDR copy reads; fewer bytes than LEN are a host read that failed. `finds`
is what the reads of DDR bursts find: one that is uncorrectable ends a copy to the host, which delivers the bytes
before it (R314). -/
def execDmaCopy (k : Ring) (d : Desc) (data : List Byte) (finds : EccFinds) (s : State) : Out State :=
  .next (
    let r := d.request
    let len := if bitsOf r 15 0 = 0 then 65536 else bitsOf r 15 0
    let addr := bitsOf r 55 16
    if s.ringReady k 3 d.word1 = false then s
    else if descBad 3 r then s.descError k d.word1
    else if s.ddrMapped addr len = false then s.descDone k 8 0 false false d.word1
    else if bitOf r 56 = false then
      if data.length < len then s.descHostError k 0 d.word1
      else (s.ddrWrite 4 addr (data.take len) finds).descDone k 0 len false false d.word1
    else
      let (bs, ok, t) := s.ddrReadTo 4 addr len finds
      let t := if bs.isEmpty then t else t.emit (.hostWrite d.buf.toNat bs s.host.cfg.relaxed)
      t.descDone k (if ok then 0 else 9) bs.length false false d.word1)

def State.streams (s : State) (k : Nat) : List (List Byte) := tget (fun _ => []) s.host.stream k
def State.setStreams (s : State) (k : Nat) (l : List (List Byte)) : State :=
  s.modHost fun h => { h with stream := tput (fun _ => []) h.stream k l }

/-- RX_STREAM_DELIVER (R320): the stream's bytes fill the descriptor. A requester that withdraws has `withdraw` bytes
of it delivered by the end of the burst that is in flight. -/
def execRxStreamDeliver (k : Ring) (d : Desc) (withdraw : Option (BitVec 16)) (s : State) : Out State :=
  .next (
    match s.streams k with
    | [] => s
    | bs :: rest =>
      if s.ringReady k 2 d.word1 = false then s
      else if descBad 2 d.request then s.descError k d.word1
      else
        let len := bitsOf d.request 15 0
        let now := bs.take (match withdraw with
          | some n => min n.toNat len
          | none => len)
        let t := if now.isEmpty then s else s.emit (.hostWrite d.buf.toNat now s.host.cfg.relaxed)
        if withdraw.isSome then (t.setStreams k rest).descDone k 1 now.length false false d.word1
        else
          let ends := decide (bs.length ≤ len)
          (t.setStreams k (if ends then rest else bs.drop len :: rest)).descDone k 0 now.length false ends d.word1)

/-! ### Resets and losing the bus (R303, R304, R327 to R330) -/

/-- The registers that a reset of R304 resets: the host block's but its counters, and the command ring's. -/
def hostResetReg (off : Nat) : Bool :=
  (decide (off / 2 ^ 20 = 4) && !(decide (0x400800 ≤ off) && decide (off < 0x400848)) && decide (off < 0x440000)) ||
  (decide (0x500010 ≤ off) && decide (off < 0x50002C))

/-- Reset the host-interface state with a stop code for its channels (R304). Blocks already in the command queue
complete without a write to host memory. -/
def State.hostReset (s : State) (code : Nat) : State :=
  let t := (s.abortAll code).flushPunts
  let codes := (List.range 32).map fun c => (c, t.fld (F.DMA_CH_STATUS_STOP_CODE c))
  let status := (t.fld F.HST_STATUS_SPEED, t.fld F.HST_STATUS_WIDTH)
  let t := { t with regs := t.regs.filter fun x => !hostResetReg x.1 }
  let t := codes.foldl (fun u x => u.setFld (F.DMA_CH_STATUS_STOP_CODE x.1) x.2) t
  let t := (t.setFld F.HST_STATUS_SPEED status.1).setFld F.HST_STATUS_WIDTH status.2
  let t : State := { t with cmd := { t.cmd with queue := t.cmd.queue.map fun b => { b with mute := true } } }
  t.modHost fun h => { HostUnit.init with linkUp := h.linkUp, quarantine := h.quarantine, stream := h.stream }

/-- The link goes down with a reset (R304, R334). -/
def State.linkReset (s : State) : State :=
  let t := ((s.hostReset 4).count R.HST_C_LINK_RESETS).raiseG 43 3
  (t.setFld F.HST_STATUS_SPEED 0).setFld F.HST_STATUS_WIDTH 0 |>.modHost fun h => { h with linkUp := false }

/-- PERST_N_FALL. -/
def execPerstNFall (s : State) : Out State :=
  let t := s.linkReset
  .next { t with boot := { t.boot with perstLow := true } }

/-- PERST_N_RISE: the endpoint trains (R303). -/
def execPerstNRise (s : State) : Out State := .next { s with boot := { s.boot with perstLow := false } }

/-- HOT_RESET. -/
def execHotReset (s : State) : Out State := .next s.linkReset

/-- PCIE_LINK_DOWN (DL_Down). -/
def execPcieLinkDown (s : State) : Out State := .next s.linkReset

/-- PCIE_LINK_UP: the link trains at a rate and width (R334, R335); not while PERST_N or RESET_N is low. -/
def execPcieLinkUp (speed : Fin 5) (width : Fin 9) (s : State) : Out State :=
  .next (
    if s.boot.perstLow || s.held then s
    else
      let changed := s.fld F.HST_STATUS_SPEED != speed.val || s.fld F.HST_STATUS_WIDTH != width.val
      let t := (s.setFld F.HST_STATUS_SPEED speed.val).setFld F.HST_STATUS_WIDTH width.val
      let t := t.modHost fun h => { h with linkUp := true }
      (if changed then t.raiseG 43 10 else t).flushPba)

/-- FLR (R330). -/
def execFlr (s : State) : Out State := .next (((s.hostReset 3).count R.HST_C_FLRS).raiseG 43 2)

/-- BME_CLEAR (R329). -/
def execBmeClear (s : State) : Out State :=
  .next (
    let t := (s.abortAll 2).modHost fun h => { h with bme := false }
    if s.host.bme then t.raiseG 43 1 else t)

/-- BME_SET: held messages resume (R329). `cfg` is what the host has set in the configuration space by then, which has
no row of its own (DESIGN CHOICE, log entry 31). -/
def execBmeSet (cfg : PcieConfig) (s : State) : Out State :=
  .next (s.modHost fun h => { h with bme := true, cfg := cfg }).flushPba

/-- D3HOT_ENTRY (R304, R329). -/
def execD3hotEntry (s : State) : Out State := .next ((s.abortAll 2).modHost fun h => { h with d3hot := true })

/-- D0_RETURN (R304). -/
def execD0Return (s : State) : Out State := .next (s.modHost fun h => { h with d3hot := false }).flushPba

/-- What the configuration header reads (R302): the IDs, the class code, the BAR sizes as powers of two, and the
device's serial number. BAR4, BAR5 and the expansion ROM read 0 (R301). -/
structure ConfigHeader where
  vendor : Nat
  device : Nat
  revision : Nat
  classCode : Nat
  subVendor : Nat
  subId : Nat
  bar0Log : Nat
  bar2Log : Nat
  serial : Nat
  deriving DecidableEq, Repr

def State.configHeader (s : State) : ConfigHeader :=
  let o := s.boot.otp
  ⟨0x1FD7, 0x5128, bitsOf o.chipId 15 8, 0x028000, o.subVendor.toNat, o.subId.toNat, 26, s.host.bar2Log, o.serial⟩

/-- AER Uncorrectable Error Status bits of the freezing errors (bit numbers PRESUMED from PCI Express, log entry 31):
Data Link Protocol, Poisoned TLP, Flow Control Protocol, Completion Timeout, Receiver Overflow, Malformed TLP, ECRC. -/
def freezing (bit : Nat) : Bool := [4, 12, 13, 14, 17, 18, 19].contains bit

/-- The host interface freezes (R333). -/
def State.freeze (s : State) : State :=
  if s.flag F.HST_STATUS_FROZEN then s
  else (((s.abortAll 5).setFlag F.HST_STATUS_FROZEN true).count R.HST_C_FREEZES).raiseG 43 0

/-- AER records an uncorrectable error: its status bit, and the header of the TLP while no other stands (R300). -/
def State.aerError (s : State) (bit : Nat) (header : BitVec 128) : State :=
  s.modHost fun h => { h with aer := { h.aer with
    uncorrectable := h.aer.uncorrectable ||| BitVec.ofNat 32 (2 ^ bit)
    header := if h.aer.uncorrectable = 0 then header else h.aer.header } }

/-- FREEZING_ERROR: AER records the error, and the interface freezes (R331, R333). -/
def execFreezingError (bit : BitVec 5) (header : BitVec 128) (s : State) : Out State :=
  .next (
    if freezing bit.toNat = false then s
    else
      let t := s.aerError bit.toNat header
      if s.flag F.HST_STATUS_FROZEN then t else t.freeze.setFld F.HST_FREEZE_CAUSE bit.toNat)

/-- A withdrawn PCIe endpoint is not released while its record is uncleared (R402). -/
def State.freezeHeld (s : State) : Bool :=
  s.fencedSrc 0x604 && (List.range 256).any fun k =>
    let w := s.logWord0 k
    bitOf w 63 && !bitOf w 61 && bitsOf w 51 40 == 0x604

/-- RELEASE written 1: the freeze ends when no bit of a freezing error stands in the AER status (R333). -/
def State.unfreeze (s : State) : State :=
  if s.flag F.HST_STATUS_FROZEN = false then s
  else if s.freezeHeld || ((List.range 32).any fun b => freezing b && bitOf s.host.aer.uncorrectable b) then
    s.setFlag F.HST_FREEZE_REL_REFUSED true
  else (s.setFlag F.HST_STATUS_FROZEN false).flushPba

/-- The host clears bits of the AER Uncorrectable Error Status. -/
def State.aerClear (s : State) (bits : W32) : State :=
  s.modHost fun h => { h with aer := { h.aer with uncorrectable := h.aer.uncorrectable &&& ~~~ bits } }

/-- FREEZE_RELEASE: the host has cleared the bits `cleared` of the AER Uncorrectable Error Status, a configuration
write that has no row of its own (DESIGN CHOICE, log entry 31), and writes RELEASE (R333). -/
def execFreezeRelease (cleared : W32) (s : State) : Out State :=
  .next ((s.aerClear cleared).byHost R.HST_FREEZE State.unfreeze)

/-- CORRECTABLE_ERROR: AER records one (R300, R334, R337). -/
def execCorrectableError (bit : BitVec 5) (s : State) : Out State :=
  .next (((s.modHost fun h => { h with aer := { h.aer with
    correctable := h.aer.correctable ||| BitVec.ofNat 32 (2 ^ bit.toNat) } }).count R.HST_C_CORR_ERRS).raiseG 43 9)

/-- IRQ_HOLD_EXPIRY (R332). -/
def execIrqHoldExpiry (k : Ring) (s : State) : Out State :=
  .next (
    if s.host.holdRun.contains k.val = false then s
    else
      let pend := s.host.holdPend.contains k.val
      let t := s.modHost fun h => { h with
        holdRun := h.holdRun.filter (· != k.val), holdPend := h.holdPend.filter (· != k.val) }
      if pend then t.ringSignal k else t)

/-- MSIX_UNMASK (R332). -/
def execMsixUnmask (v : Fin 64) (s : State) : Out State :=
  .next (s.byHost (R.MSIX_CTRL v) fun s => (s.setFlag (F.MSIX_CTRL_MASK v) false).flushPba)

/-- LATE_COMPLETION (R328). -/
def execLateCompletion (tag : BitVec 10) (s : State) : Out State :=
  .next (if bitOf s.host.quarantine tag.toNat then s.count R.HST_C_LATE_CPL else s)

/-- TAG_QUARANTINE_END (R328). -/
def execTagQuarantineEnd (tag : BitVec 10) (s : State) : Out State :=
  .next (s.modHost fun h => { h with quarantine := h.quarantine &&& ~~~ BitVec.ofNat 1024 (2 ^ tag.toNat) })

/-! ### Windows (R306 to R310) -/

/-- BAR0_BAD_ACCESS: ignored or read as zero, and recorded (R305). -/
def execBar0BadAccess (read : Bool) (off : BitVec 26) (s : State) : Out State :=
  .next (s.hostRead fun s =>
    let t := s.barErr read off.toNat
    if read then t.emit (.readData (toLE 4 0) false) else t)

/-- WIN_ENTRY_WRITE: an 8-byte write updates the entry; a 4-byte write is recorded (R307). -/
def execWinEntryWrite (w : Fin 16) (wide : Bool) (data : W64) (s : State) : Out State :=
  .next (s.byHost (R.HST_WIN w) fun s =>
    if wide then s.setReg (R.HST_WIN w) (data &&& 0xE00000FFFFFFF000)
    else s.barErr false (R.HST_WIN w))

/-- WIN_ENTRY_READ (R310): every request before it has been translated, since requests are served in order. -/
def execWinEntryRead (w : Fin 16) (s : State) : Out State :=
  .next (s.hostRead fun s => s.emit (.readData (toLE 8 (s.reg (R.HST_WIN w)).toNat) false))

/-- BAR_RESIZE: 16 MiB to 64 GiB; every window becomes invalid (R302, R306). -/
def execBarResize (log2 : Fin 37) (s : State) : Out State :=
  .next (
    if log2.val < 24 then s
    else
      let t := s.modHost fun h => { h with bar2Log := log2.val }
      (List.range 16).foldl (fun u w => u.setReg (R.HST_WIN w) (setBits (u.reg (R.HST_WIN w)) 63 63 0)) t)

/-- Record a request refused under R309. KIND: 1 window, 2 target, 3 unmapped. -/
def State.winRefused (s : State) (kind w x : Nat) (read : Bool) : State :=
  let first := !bitOf (s.reg R.HST_WIN_ERR) 31
  let t := s.logFirst R.HST_WIN_ERR 31 (kind * 2 ^ 28 + b2n read * 2 ^ 27 + w * 2 ^ 23)
  let t := if first then t.setReg R.HST_WIN_ERR_OFF (w64 (x % 2 ^ 32)) else t
  (t.count R.HST_C_WIN_REFUSED).raiseG 43 4

end Sys2Proof.Machine
end

