-- ==== Sys2Proof/Machine/CmdQueue.lean ====
section
/-! DEFINITION. The command queue: block format and checks, entry, result buffers, completions and replies (R276 to R295).
-/

namespace Sys2Proof.Machine

/-! ### Blocks (R282 to R285) -/

/-- A control instruction word's opcode, FUNC and NDATA. -/
def ctrlOp (w : W64) : Nat := bitsOf w 63 58
def ctrlFunc (w : W64) : Nat := bitsOf w 57 53
def ctrlData (w : W64) : Nat := bitsOf w 52 45

/-- The largest number of result words of a control instruction; none for a FUNC or opcode that R285 does not list. -/
def ctrlResults (op func : Nat) : Option Nat :=
  match op, func with
  | 0x3C, 0 => some 2 | 0x3C, 1 => some 0 | 0x3C, 2 => some 18 | 0x3C, 3 => some 2 | 0x3C, 4 => some 18 | 0x3C, 5 => some 0
  | 0x3D, 0 => some 0 | 0x3D, 1 => some 0 | 0x3D, 2 => some 0 | 0x3D, 3 => some 1 | 0x3D, 4 => some 2
  | 0x3E, 0 => some 0 | 0x3E, 1 => some 2 | 0x3E, 2 => some 0 | 0x3E, 3 => some 0 | 0x3E, 4 => some 0 | 0x3E, 5 => some 4
  | _, _ => none

/-- The operand bits that a control instruction's row names (R285). -/
def ctrlNamed (op func : Nat) : W64 :=
  match op, func with
  | 0x3C, 0 => 0x1F800003FFFF | 0x3C, 1 => 0x1F800003FFFF | 0x3C, 2 => 0x1E800003FFFF | 0x3C, 3 => 0x1F0000000000
  | 0x3C, 4 => 0x1F000003FFFF | 0x3C, 5 => 0x00FE00001FFF | 0x3D, 0 => 0x100000000000 | 0x3E, 1 => 0x1FFFFFF80000
  | 0x3E, 2 => 0x1FF000000000 | 0x3E, 3 => 0x1FE000000000 | 0x3E, 4 => 0x1FF800000000
  | _, _ => 0

/-- A bit that R285 has as zero is not zero in a control instruction. -/
def ctrlZeroBad (w : W64) : Bool := w &&& 0x1FFFFFFFFFFF &&& ~~~ (ctrlNamed (ctrlOp w) (ctrlFunc w)) != 0

/-- Whether role STATUS permits a control instruction (R277). -/
def statusMay (op func : Nat) : Bool :=
  [(0x3E, 0), (0x3C, 2), (0x3C, 3), (0x3C, 4), (0x3D, 3), (0x3E, 1), (0x3E, 5)].contains (op, func)

/-- Whether a role permits a control instruction (R277). -/
def roleMay (role op func : Nat) : Bool := role == 2 || (role == 1 && statusMay op func)

/-- The instructions of a block with their data words; none where data runs past the block or an instruction is not
listed (R283). `n` bounds the instructions. -/
def ctrlParse : Nat → List W64 → Option (List (W64 × List W64))
  | _, [] => some []
  | 0, _ => none
  | n + 1, w :: ws =>
    match ctrlResults (ctrlOp w) (ctrlFunc w) with
    | none => none
    | some _ =>
      if ws.length < ctrlData w ∨ ctrlZeroBad w = true then none
      else (ctrlParse n (ws.drop (ctrlData w))).map fun l => (w, ws.take (ctrlData w)) :: l

def blockInstrs (words : List W64) : Option (List (W64 × List W64)) := ctrlParse words.length (words.drop 2)

def blockSeq (words : List W64) : Nat := bitsOf (words.headD 0) 55 40

/-- CRC-32C of a block, its CRC field taken as zero (R282). -/
def blockCrc (words : List W64) : Nat :=
  crc32c 0xFFFFFFFF ((words.set 1 (setBits (words.getD 1 0) 31 0 0)).flatMap fun w => toBE 8 w.toNat)

/-- The block is refused as MALFORMED (R283). -/
def blockBad (source : Nat) (words : List W64) : Bool :=
  let w0 := words.headD 0
  let w1 := words.getD 1 0
  let n := bitsOf w0 39 30
  bitsOf w0 63 56 != 1 || bitsOf w0 27 0 != 0 || bitsOf w1 63 32 != 0 || decide (n < 2) || decide (512 < n) ||
  n != words.length ||
  (if bitOf w0 28 then blockCrc words != bitsOf w1 31 0 else bitsOf w1 31 0 != 0 || source == 1) ||
  (match blockInstrs words with
    | none => true
    | some is => decide (511 < (is.map fun x => 1 + (ctrlResults (ctrlOp x.1) (ctrlFunc x.1)).getD 0).foldl (· + ·) 0))

/-! ### Results (R290, R294, R295) -/

/-- A result header with READY = 1. -/
def resultHeader (seq code ndone nwords : Nat) : W64 :=
  w64 (2 ^ 63 + seq * 2 ^ 40 + code * 2 ^ 32 + min 255 ndone * 2 ^ 24 + nwords * 2 ^ 14)

/-- The header that a read of source `src`'s result buffer returns (R294, R295). -/
def State.resultView (s : State) (src : Nat) : W64 :=
  match s.cmd.queue.find? fun b => b.source == src with
  | some b => w64 (blockSeq b.words * 2 ^ 40)
  | none => s.reg (R.CMD_RESULT src 0)

/-- Write a result: records first, header last. -/
def State.putResult (s : State) (src : Nat) (words : List W64) : State :=
  let n := words.length
  let t := (List.range (n - 1)).foldl (fun t j => t.setReg (R.CMD_RESULT src (j + 1)) (words.getD (j + 1) 0)) s
  t.setReg (R.CMD_RESULT src 0) (words.headD 0)

/-- Send the reply frame of a command frame (R293). -/
def State.sendReply (s : State) (p : Nat) (dst : Nat) (words : List W64) : State :=
  let room := s.maxFrame p - 18
  let bytes := words.flatMap fun w => toBE 8 w.toNat
  let head := words.headD 0
  let bytes := if room < bytes.length then (toBE 8 (head ||| w64 (2 ^ 61)).toNat ++ bytes.drop 8).take room else bytes
  let body := toBE 6 dst ++ toBE 6 (s.ownAddr p) ++ toBE 2 (s.fld F.CMD_NET_CFG_ETHERTYPE) ++ bytes
  let f := { Frame.start (.reply p) s.builtTag 0 false s.stamp 0 with bytes := body ++ fcsOf body }
  (s.sendBuilt p (s.fld F.CMD_NET_CFG_QOFF) f fun u => u.count R.CMD_C_REPLY_DROP).2

/-- Slots of the command ring (R291): LOG2N from 1 to 8. -/
def State.ringSlots (s : State) : Nat := 2 ^ max 1 (min 8 (s.fld F.CMD_RING_CFG_LOG2N))

/-- A block completes or is refused with a result: its buffer, its host-memory copy or reply, its event (R291 to R295,
R297). -/
def State.blockDone (s : State) (b : CmdBlock) (words : List W64) : State :=
  let t := s.putResult b.source words
  if b.source = 0 then
    let addr := (t.fld F.CMD_CPL_BASE_HI_ADDR_HI) * 2 ^ 32 + t.fld F.CMD_CPL_BASE_LO_ADDR_LO * 4096 + 4096 * b.slot
    let t := if t.flag F.CMD_RING_CFG_CPL_EN && !t.dmaBlocked && !b.mute then
        t.emit (.hostWrite addr (words.flatMap fun w => toLE 8 w.toNat) false) else t
    t.raiseG 41 0
  else if b.source = 1 then t.raiseG 41 1
  else match b.reply with
    | some (p, dst) => (t.sendReply p dst words).raiseG 41 2
    | none => t.raiseG 41 2

/-! ### Entry (R280, R281, R283, R291 to R293) -/

/-- The unit takes no block: it holds 64, or is not open (R281, R422, R431). -/
def State.cmdFull (s : State) : Bool := decide (64 ≤ s.cmd.queue.length) || !s.cmdOpen

/-- A block that arrived found no place (R281). -/
def State.cmdQueueFull (s : State) : State := s.raiseG 41 5

/-- Some instruction of the block is forbidden to its source's role (R277). -/
def CmdBlock.forbidden (b : CmdBlock) : Bool :=
  ((blockInstrs b.words).getD []).any fun x => !roleMay b.role (ctrlOp x.1) (ctrlFunc x.1)

/-- A block is refused by role: a command frame's without a reply, any other with a result (R35, R277, R293). -/
def State.roleRefuse (s : State) (b : CmdBlock) : State :=
  let res := [resultHeader (blockSeq b.words) 0x21 0 1]
  if b.source = 0 then ((s.count R.CMD_C_ROLE_DROP_HOST).raiseG 41 3).blockDone b res
  else if b.source = 1 then ((s.count R.CMD_C_ROLE_DROP_I2C).raiseG 41 3).blockDone b res
  else ((s.count (R.PRT_C_CMD_ROLE_DROP (b.source - 2))).raisePort (b.source - 2) 5).raiseG 41 3

/-- A received block joins the queue, or is refused as MALFORMED or by its role. -/
def State.blockEnter (s : State) (b : CmdBlock) : State :=
  if blockBad b.source b.words then
    let t := (s.count R.CMD_C_MALFORMED).raiseG 41 4
    t.blockDone b [resultHeader (blockSeq b.words) 0x20 0 1]
  else if b.forbidden then s.roleRefuse b
  else { s with cmd := { s.cmd with queue := s.cmd.queue ++ [b] } }

/-- Big-endian words of bytes; a last part word is filled with zeros. -/
def wordsBE (n : Nat) (bs : List Byte) : List W64 := (List.range n).map fun i => w64 (beAt bs (8 * i) 8)

/-- A command frame's payload enters the queue (R293). Words beyond NWORDS are padding. -/
def State.commandFrame (s : State) (p role : Nat) (bytes : List Byte) : State :=
  let payload := (bytes.take (bytes.length - 4)).drop 14
  let have_ := payload.length / 8
  let n := bitsOf (w64 (beAt payload 0 8)) 39 30
  if s.cmdFull then (s.count R.CMD_C_QFULL_DROP).cmdQueueFull
  else s.blockEnter ⟨2 + p, wordsBE (if n ≤ have_ then n else have_) payload, role, 0, some (p, beAt bytes 6 6), false⟩

/-- RING_DOORBELL: a write of CMD_RING_PI (R291). -/
def State.ringPi (s : State) (pi : Nat) : State :=
  let ci := s.fld F.CMD_RING_CI_CI
  if s.ringSlots < (pi + 65536 - ci) % 65536 then
    ((s.setFlag F.CMD_RING_CI_ERR true).count R.CMD_C_RING_ERR).raiseG 41 6
  else s.setFld F.CMD_RING_PI_PI pi

def execRingDoorbell (pi : BitVec 16) (s : State) : Out State :=
  .next (s.byHost R.CMD_RING_PI fun s => s.ringPi pi.toNat)

/-- A block fetched from the command ring, and the state with CI past it (R283, R281). -/
def State.fetchedBlock (s : State) (words : List W64) : CmdBlock × State :=
  let ci := s.fld F.CMD_RING_CI_CI
  let t := s.setFld F.CMD_RING_CI_CI ((ci + 1) % 65536)
  (⟨0, words, t.fld F.CMD_ROLE_HOST_ROLE, ci % s.ringSlots, none, false⟩, t)

/-- RING_BLOCK_FETCHED: the block of slot CI arrives whole (R291). -/
def execRingBlockFetched (words : List W64) (s : State) : Out State :=
  .next (
    if s.dmaBlocked || !s.flag F.CMD_RING_CFG_EN || s.fld F.CMD_RING_PI_PI == s.fld F.CMD_RING_CI_CI || s.cmdFull then s
    else (s.fetchedBlock words).2.blockEnter (s.fetchedBlock words).1)

/-- The mailbox's words: as many as word 0 names, at most 512 (R292). -/
def State.mailbox (s : State) : List W64 :=
  let bytes := (List.range 1024).flatMap fun i => toLE 4 (s.reg (R.CMD_MAILBOX i)).toNat
  wordsBE (min 512 (max 2 (bitsOf (w64 (beAt bytes 0 8)) 39 30))) bytes

/-- The block that stands in the mailbox, with the I2C role of the moment (R291, R294). -/
def State.mailBlock (s : State) : CmdBlock := ⟨1, s.mailbox, s.fld F.CMD_ROLE_I2C_ROLE, 0, none, false⟩

/-- A write of CMD_I2C_CTRL.GO (R292). -/
def State.i2cGo (s : State) : State :=
  if s.cmdFull then (s.setFlag F.CMD_I2C_CTRL_REFUSED true).cmdQueueFull
  else s.blockEnter s.mailBlock

/-- The I2C master's words in the mailbox, from its first on (R292). No role gates them: R278 drops PCIe writes alone.
-/
def State.mailboxWrite (s : State) (words : List W32) : State :=
  ((List.range (min 1024 words.length)).foldl fun t i => t.setReg (R.CMD_MAILBOX i) ((words.getD i 0).setWidth 64)) s

/-- I2C_GO: an I2C master writes words into the mailbox, and GO (R292). Held in reset it reaches nothing. -/
def execI2cGo (words : List W32) (s : State) : Out State := .next (if s.held then s else (s.mailboxWrite words).i2cGo)

/-- RESULT_HEADER_READ: an 8-byte read of a result header (R295). -/
def execResultHeaderRead (source : Fin 130) (s : State) : Out State :=
  .next (s.hostRead fun s =>
    let v := s.resultView source.val
    let t := s.emit (.readData (toLE 8 v.toNat) false)
    if bitOf v 63 then t.setReg (R.CMD_RESULT source.val 0) (s.reg (R.CMD_RESULT source.val 0) ||| w64 (2 ^ 62)) else t)

end Sys2Proof.Machine
end

