-- ==== Sys2Proof/Machine/Power.lean ====
section
/-! DEFINITION. Clocks, sleep, power and heat: operating points and rails, voltage scaling, the cap, the sensors, the
order of shedding (R375 to R394). -/

namespace Sys2Proof.Machine

def State.modPwr (s : State) (g : PowerUnit → PowerUnit) : State := { s with pwr := g s.pwr }

/-! ### Limits (R380, R382, R384, R385, R387) -/

/-- The variant is the PHV-5128-10IF (R4). -/
def State.variant10 (s : State) : Bool := bitsOf s.boot.otp.chipId 7 4 == 1

/-- The variant's maximum power in 0.1 W (R1). -/
def State.maxPower (s : State) : Nat := if s.variant10 then 1200 else 1650

/-- The cap in 0.1 W (R385). -/
def State.capTenths (s : State) : Nat := if s.flag F.PWR_CAP_CAP_EN then s.fld F.PWR_CAP_CAP else s.maxPower

/-- The reading of a sensor in °C; a failed one counts as 112 (R387). -/
def State.sensor (s : State) (i : Nat) : Int := if bitOf s.pwr.failed i then 112 else tget (fun _ => 0) s.pwr.temp i

def State.throttleAt (s : State) : Int := s.fld F.PWR_THERM_CFG_T_THROTTLE

/-- Boost is permitted (R387). -/
def State.boostPermitted (s : State) : Bool :=
  ((List.range 24).all fun i => decide (s.sensor i + 10 ≤ s.throttleAt)) &&
    decide (s.fld F.PWR_EST_ESTIMATE + 100 ≤ s.capTenths)

def State.casePoint (s : State) (c : Nat) : Nat := s.fld (F.PWR_CASE_POINT c)

/-- The lower limit of a case (R380). -/
def State.lowerLimit (s : State) (c : Nat) : Nat := if 0 < s.effReserve c then s.effFloor c else 0

/-- The upper limit of a case: boost, and one point less where its region needs more than +25 mV (R380, R382). -/
def State.upperLimit (s : State) (c : Nat) : Nat :=
  let top := if s.flag F.PWR_THERM_CFG_BOOST_EN && s.boostPermitted && s.pwr.step == 0 then 3 else 2
  max (s.lowerLimit c) (top - b2n (bitOf s.pwr.avsShort (c / 2)))

def State.heatCut (s : State) (c : Nat) : Nat := tget (fun _ => 0) s.pwr.heatCut c
def State.capCut (s : State) (c : Nat) : Nat := tget (fun _ => 0) s.pwr.capCut c
def State.setHeatCut (s : State) (c n : Nat) : State :=
  s.modPwr fun p => { p with heatCut := tput (fun _ => 0) p.heatCut c n }
def State.setCapCut (s : State) (c n : Nat) : State :=
  s.modPwr fun p => { p with capCut := tput (fun _ => 0) p.capCut c n }

/-- The point at which a case runs while frames are offered to it (R380, R388, R389). -/
def State.pointGoal (s : State) (c : Nat) : Nat :=
  max (s.lowerLimit c) (s.upperLimit c - s.heatCut c - s.capCut c)

/-- Nominal millivolts of a point (R469). -/
def pointMv (p : Nat) : Nat :=
  match p with
  | 0 => 700 | 1 => 750 | 2 => 820 | _ => 870

/-! ### Rails and points (R381) -/

def State.railPoint (s : State) (r : Nat) : Nat := tget (fun _ => 1) s.pwr.rail r
def State.setRail (s : State) (r p : Nat) : State := s.modPwr fun w => { w with rail := tput (fun _ => 1) w.rail r p }

/-- The PMBus write of region r's setpoint for a point, with its trim. -/
def State.writeRail (s : State) (r p : Nat) : State :=
  s.emit (.pmbus ((s.fld F.PWR_AVS_CFG_ADDR_BASE + r) % 128)
    ((pointMv p : Int) + signed 8 (s.fld (F.PWR_REGION_TRIM r))).toNat)

/-- The divider switches. -/
def State.switchPoint (s : State) (c p : Nat) : State :=
  let t := (s.setFld (F.PWR_CASE_POINT c) p).count R.PWR_C_POINT_CHANGES
  if p = 3 then t.raiseG 46 8 else t

/-- The highest point that a region's cases run at or are being raised to. -/
def State.railNeed (s : State) (r : Nat) : Nat :=
  let one := fun c => max (s.casePoint c) (match (s.caseOf c).raise with
    | some (p, _) => p
    | none => 0)
  max (one (2 * r)) (one (2 * r + 1))

/-- Bring a case to point `p`: a lowering at once with the setpoint after it; a raise when the rail confirms it, at once
where the rail already stands high enough. -/
def State.setPoint (s : State) (c p : Nat) : State :=
  let cs := s.caseOf c
  let r := c / 2
  if p < s.casePoint c then
    let t := (s.setCase c { cs with raise := none }).switchPoint c p
    let need := t.railNeed r
    if need < t.railPoint r then (t.setRail r need).writeRail r need else t
  else if p = s.casePoint c then s.setCase c { cs with raise := none }
  else if p ≤ s.railPoint r then (s.setCase c { cs with raise := none }).switchPoint c p
  else if cs.raise.map Prod.fst = some p then s
  else (s.setCase c { cs with raise := some (p, 0) }).writeRail r p

/-- Bring a case's point within its limits: one that frames are offered to runs at its goal. -/
def State.refit (s : State) (c : Nat) : State :=
  if s.caseFenced c then s
  else if (s.caseOf c).active then s.setPoint c (s.pointGoal c)
  else if s.casePoint c < s.lowerLimit c then s.setPoint c (s.lowerLimit c)
  else if s.upperLimit c < s.casePoint c then s.setPoint c (s.upperLimit c)
  else s

def State.refitAll (s : State) : State := (List.range 16).foldl State.refit s

/-- A frame is offered to a case (R380). -/
def State.offerCase (s : State) (c : Nat) : State :=
  (s.setCase c { s.caseOf c with active := true }).refit c

/-- CASE_POINT_IDLE: no frame for 100 µs (R380). -/
def execCasePointIdle (k : Case) (s : State) : Out State :=
  .next (
    if s.caseFenced k.val then s
    else (s.setCase k.val { s.caseOf k.val with active := false, raise := none }).setPoint k.val (s.lowerLimit k.val))

/-- RAIL_CONFIRM (R381): `ok` when the command was acknowledged and the voltage confirmed. The first failure and two
retries make three. -/
def execRailConfirm (k : Case) (ok : Bool) (s : State) : Out State :=
  .next (
    let c := k.val
    let cs := s.caseOf c
    match cs.raise with
    | none => s
    | some (p, tries) =>
      if ok then ((s.setCase c { cs with raise := none }).setRail (c / 2) (max p (s.railPoint (c / 2)))).switchPoint c p
      else if tries < 2 then (s.setCase c { cs with raise := some (p, tries + 1) }).writeRail (c / 2) p
      else (s.setCase c { cs with raise := none }).raiseG 46 6)

/-- AVS_TICK (R382): `marginMv` is the region's ring-oscillator margin less the margin fused for its point. One step of
5 mV a tick (log entry 32). -/
def execAvsTick (r : Region) (marginMv : Int) (s : State) : Out State :=
  .next (
    let k := r.val
    if s.flag F.PWR_AVS_CFG_AVS_EN = false then s
    else
      let trim := signed 8 (s.fld (F.PWR_REGION_TRIM k))
      let put := fun (t : State) (v : Int) => (t.setFld (F.PWR_REGION_TRIM k) (wrap 8 v)).writeRail k (t.railPoint k)
      let need := decide (marginMv < 0)
      let short := need && decide (25 ≤ trim)
      let t := s.modPwr fun p => { p with
        avsShort := setBits p.avsShort k k (b2n short) }
      if short then
        if bitOf s.pwr.avsShort k then t
        else ((t.raiseG 46 5).fault (0x580 + k) 0x68 0 false).refitAll
      else
        let t := if need then put t (trim + 5) else if 5 ≤ marginMv ∧ -25 < trim then put t (trim - 5) else t
        if bitOf s.pwr.avsShort k then t.refitAll else t)

/-! ### Sleep (R377 to R379) -/

/-- The case holds a frame. -/
def State.caseBusy (s : State) (c : Nat) : Bool := (List.range 8).any fun i => (s.comp (8 * c + i)).frame.isSome

/-- CASE_SLEEP: IDLE_US has passed; a second one ends the entry (log entry 33). -/
def execCaseSleep (k : Case) (s : State) : Out State :=
  .next (
    if !s.effSleep k.val || s.caseFenced k.val || s.caseBusy k.val then s
    else match s.fld (F.PWR_CASE_STATE k.val) with
      | 0 => s.setFld (F.PWR_CASE_STATE k.val) 1
      | 1 => s.setFld (F.PWR_CASE_STATE k.val) 2
      | _ => s)

/-- The wakes of the eligible cases have ended when a frame is offered to them (log entry 33). -/
def State.wakesEnd (s : State) (cs : List Nat) : State :=
  cs.foldl (fun t c => if t.fld (F.PWR_CASE_STATE c) = 3 then t.setFld (F.PWR_CASE_STATE c) 0 else t) s

/-! ### Guaranteed power (R384) -/

/-- Worst power of a lane in mW. -/
def lanePower (m : Nat) : Nat :=
  match m with
  | 1 => 60 | 2 => 60 | 3 => 80 | 4 => 200 | 5 => 380 | 6 => 1520
  | _ => 0

/-- Worst power of a case at a point, in mW. -/
def pointPower (p : Nat) : Nat :=
  match p with
  | 0 => 2000 | 1 => 3000 | 2 => 4200 | _ => 4750

/-- P_G in mW of the formes of some tags, with the overlap values of R242. -/
def State.guaranteedMw (s : State) (tags : List Nat) : Nat :=
  let lanes := (List.range 128).map fun p =>
    if s.flag (F.PRT_STATUS_FUSED_SUB p) then 0 else lanePower (s.fld (F.PRT_MODE_MODE p))
  let cases := (List.range 16).map fun c =>
    let resv := (tags.map fun t => s.fld (F.FRM_CASE_CFG_RESERVE t c)).foldl max 0
    let floor := (tags.map fun t => s.fld (F.FRM_CASE_CFG_FLOOR t c)).foldl max 0
    if 0 < resv then pointPower floor
    else if tags.all fun t => s.flag (F.FRM_CASE_CFG_SLEEP t c) then 250 else 2000
  (if s.variant10 then 18000 else 40000) + lanes.foldl (· + ·) 0 + cases.foldl (· + ·) 0

/-! ### The cap and the estimate (R385, R386) -/

/-- CAP_WRITE (R386). -/
def State.putCap (s : State) (v : W32) : State :=
  let cap := min (bitsOf v 15 0) s.maxPower
  if !s.inForce.isEmpty && decide (100 * cap < s.guaranteedMw s.inForce) then s.raiseG 46 4
  else (s.setFlag F.PWR_CAP_CAP_EN (bitOf v 31)).setFld F.PWR_CAP_CAP cap

def execCapWrite (v : W32) (s : State) : Out State :=
  .next (s.byHost R.PWR_CAP fun s => s.putCap v)

/-- SHED_LEVEL of a step (R389). -/
def shedLevel (step : Nat) : Nat := step - 3

def State.setStep (s : State) (n : Nat) : State :=
  (s.modPwr fun p => { p with step := n }).setFld F.PWR_STATUS_SHED_LEVEL (shedLevel n)

/-- The case accepts no best-effort frame for heat (R388). -/
def State.caseSheds (s : State) (c : Nat) : Bool := bitOf s.pwr.shedOn c || bitOf s.pwr.shedOn (16 + c / 2)

/-- Shedding: SHED_LEVEL is not 0, or some case sheds (R391). -/
def State.shedding (s : State) : Bool := decide (3 < s.pwr.step) || s.pwr.shedOn != 0

/-- SHED latches when shedding begins. -/
def State.shedEvent (before s : State) : State := if s.shedding && !before.shedding then s.raiseG 46 1 else s

/-- Some case is below its upper limit for heat (R392). -/
def State.throttledCase (s : State) (c : Nat) : Bool := decide (0 < s.heatCut c)

/-- Estimates that a window holds: one every 10 µs for WINDOW times 100 µs (R385, R393). -/
def State.windowLen (s : State) : Nat := 10 * max 1 (s.fld F.PWR_CAP_CFG_WINDOW)

/-- The average of the window's estimates exceeds the cap (R385). -/
def State.overCap (s : State) : Bool :=
  decide (s.capTenths * s.pwr.samples.length < s.pwr.samples.foldl (· + ·) 0)

/-- A new power estimate beside the earlier estimates `old` of its window (R385). The cap limits from the moment it
binds until every step taken is withdrawn. -/
def State.newEstimate (s : State) (old : List Nat) (tenths : Nat) : State :=
  let t := s.setFld F.PWR_EST_ESTIMATE tenths
  let t := t.modPwr fun p => { p with samples := (tenths :: old).take t.windowLen }
  let binds := t.flag F.PWR_CAP_CAP_EN && t.overCap
  let t := t.modPwr fun p => { p with capBinds := binds }
  let was := s.flag F.PWR_STATUS_CAP_ACTIVE
  let active := binds || (was && decide (0 < s.pwr.step))
  let t := t.setFlag F.PWR_STATUS_CAP_ACTIVE active
  let t := if binds then t else t.setFlag F.PWR_STATUS_CAP_UNMET false
  let t := if active && !was then t.raiseG 46 2 else t
  t.refitAll

/-- POWER_ESTIMATE: every 10 µs (R385, R394). -/
def execPowerEstimate (tenths : BitVec 16) (s : State) : Out State :=
  .next (
    let t := s.newEstimate s.pwr.samples tenths.toNat
    let t := if t.flag F.PWR_STATUS_CAP_ACTIVE then t.countN R.PWR_C_CAP_US 10 else t
    if (List.range 16).any t.throttledCase then t.countN R.PWR_C_THROTTLE_US 10 else t)

/-- POWER_RECALIBRATE: READ_VOUT of the region rails in mV, and the corrected estimate, which stands in the newest one's
place in the window (R385). -/
def execPowerRecalibrate (vouts : List (BitVec 16)) (tenths : BitVec 16) (s : State) : Out State :=
  .next (((List.range 8).zip vouts).foldl (fun t x => t.setFld (F.PWR_REGION_VOUT x.1) x.2.toNat)
    s |>.newEstimate (s.pwr.samples.drop 1) tenths.toNat)

/-- DDR_LOW_SWITCH (R386): to the other set when it has the lower rate, or back to the higher. -/
def execDdrLowSwitch (lower : Bool) (s : State) : Out State :=
  .next (
    let now := s.fld F.DDR_STATUS_SET_ACTIVE
    let other := 1 - now
    let rate := fun k => s.fld (F.DDR_TSET_RATE k)
    let valid := s.flag (F.DDR_TSET_VALID other) && bitOf s.ddr.trained other && s.flag F.PWR_CAP_CFG_DDR_LOW_EN
    if lower then
      if valid && decide (rate other < rate now) && s.flag F.PWR_STATUS_CAP_ACTIVE then s.ddrFreqGo other else s
    else if valid && decide (rate now < rate other) && decide (s.fld F.PWR_EST_ESTIMATE + 50 ≤ s.capTenths) then
      s.ddrFreqGo other
    else s)

/-! ### Shedding (R389) -/

/-- The cause of shedding: the cap binds, or a sensor is at T_SHED. -/
def State.shedCause (s : State) : Bool := s.pwr.capBinds || s.pwr.shedOn != 0

/-- The hottest awake case whose point step 2 may still lower. -/
def State.hottestAbove (s : State) : Option Nat :=
  ((List.range 16).filter fun c => !s.caseFenced c && decide (s.lowerLimit c < s.pointGoal c)).foldl (fun m c =>
    match m with
    | none => some c
    | some d => if s.sensor d < s.sensor c then some c else some d) none

/-- The coolest case that step 2 has lowered. -/
def State.coolestCut (s : State) : Option Nat :=
  ((List.range 16).filter fun c => decide (0 < s.capCut c)).foldl (fun m c =>
    match m with
    | none => some c
    | some d => if s.sensor c < s.sensor d then some c else some d) none

/-- SHED_STEP: 100 µs with the cause present. Step 2 takes one point at a time while a case stands above its limit. -/
def execShedStep (s : State) : Out State :=
  .next (
    if s.shedCause = false then s
    else
      let t := match s.pwr.step with
        | 0 => (s.setStep 1).refitAll
        | 1 => match s.hottestAbove with
          | some c => ((s.setStep 2).setCapCut c (s.capCut c + 1)).refit c
          | none => s.setStep 2
        | 2 => match s.hottestAbove with
          | some c => (s.setCapCut c (s.capCut c + 1)).refit c
          | none => s.setStep 3
        | n => if n < 13 then s.setStep (n + 1)
          else if s.pwr.capBinds then (s.setFlag F.PWR_STATUS_CAP_UNMET true).raiseG 46 3 else s
      State.shedEvent s t)

/-- SHED_WITHDRAW: 1 ms after the cause has cleared; in step 2 one point comes back at a time, coolest case first (log
entry 34). -/
def execShedWithdraw (s : State) : Out State :=
  .next (
    if s.shedCause then s
    else match s.pwr.step with
      | 0 => s
      | 1 => (s.setStep 0).refitAll
      | 2 => match s.coolestCut with
        | some c => (s.setCapCut c (s.capCut c - 1)).refit c
        | none => s.setStep 1
      | n => s.setStep (n - 1))

/-! ### Sensors (R387, R388, R390) -/

/-- Sensor bit `i` with hysteresis: set at the threshold, cleared 3 °C below it. -/
def hysteresis (bits : BitVec 24) (i : Nat) (t at_ : Int) : BitVec 24 :=
  if at_ ≤ t then bits ||| BitVec.ofNat 24 (2 ^ i)
  else if t ≤ at_ - 3 then bits &&& ~~~ BitVec.ofNat 24 (2 ^ i)
  else bits

/-- The case is concerned by a sensor at T_THROTTLE. -/
def State.caseHot (s : State) (c : Nat) : Bool := bitOf s.pwr.throttleOn c || bitOf s.pwr.throttleOn (16 + c / 2)

/-- HOTTEST and SENSOR of PWR_STATUS. -/
def State.showHottest (s : State) : State :=
  let best := (List.range 24).foldl (fun m i => if s.sensor m < s.sensor i then i else m) 0
  (s.setFld F.PWR_STATUS_HOTTEST (wrap 8 (s.sensor best))).setFld F.PWR_STATUS_SENSOR best

/-- SENSOR_SAMPLE (R387, R388, R390). `frozen` when it has repeated one value for 100 ms while its case changed point.
-/
def execSensorSample (i : Fin 24) (temp : BitVec 8) (frozen : Bool) (s : State) : Out State :=
  .next (
    let k := i.val
    let v := temp.toInt
    let fails := (frozen || decide (v < -50)) && !bitOf s.pwr.failed k
    let t := s.modPwr fun p => { p with
      temp0 := tput (fun _ => 0) p.temp0 k (tget (fun _ => 0) p.temp k)
      temp := tput (fun _ => 0) p.temp k v
      failed := if fails then p.failed ||| BitVec.ofNat 24 (2 ^ k) else p.failed }
    let t := if fails then (t.raiseG 46 7).fault (if k < 16 then 0x540 + k else 0x580 + (k - 16)) 0x69 0 false else t
    let shown := wrap 8 (t.sensor k)
    let t := if k < 16 then t.setFld (F.PWR_CASE_TEMP k) shown else t.setFld (F.PWR_REGION_TEMP (k - 16)) shown
    let wasHot := bitOf t.pwr.throttleOn k
    let t := t.modPwr fun p => { p with
      throttleOn := hysteresis p.throttleOn k (t.sensor k) t.throttleAt
      shedOn := hysteresis p.shedOn k (t.sensor k) 112 }
    let t := if bitOf t.pwr.throttleOn k && !wasHot then t.raiseG 46 0 else t
    let t := State.shedEvent s t.showHottest
    let t := (List.range 16).foldl (fun u c => if u.caseHot c then u else u.setHeatCut c 0) t
    let t := t.refitAll
    if bitOf t.pwr.failed k = false ∧ 125 ≤ v ∧ 125 ≤ tget (fun _ => 0) t.pwr.temp0 k then t.fault 0x611 0x6A 0 false
    else t)

/-- THROTTLE_STEP: 100 µs with a sensor of the case at T_THROTTLE (R388, R392). -/
def execThrottleStep (k : Case) (s : State) : Out State :=
  .next (
    let c := k.val
    if s.caseHot c = false ∨ s.casePoint c ≤ s.lowerLimit c then s
    else
      let goal := s.casePoint c - 1
      let t := s.setHeatCut c (s.upperLimit c - s.capCut c - goal)
      (t.setPoint c goal).raiseRegion (c / 2) 4)

/-! ### Clock losses (R376) -/

/-- CRYSTAL_LOSS. -/
def execCrystalLoss (s : State) : Out State :=
  .next ((s.modPwr fun p => { p with oscillator := true }).fault 0x611 0x60 0 false)

/-- PLL_LOCK_LOSS: charged to the region that it serves, at level 5 when it serves no single one. -/
def execPllLockLoss (serves : PllServes) (s : State) : Out State :=
  .next (
    match serves with
    | .region r => s.faultAt (0x580 + r.val) 0x61 4 0 false
    | .chip => s.faultAt 0x611 0x61 5 0 false)

end Sys2Proof.Machine
end

