-- ==== Sys2Proof/Machine/Verifier.lean ====
section
/-! DEFINITION. The program verifier (R76 to R97, R104 to R129): the check of every word, the walks over the paths of an
entry point, the worst path, REACH, edits and passes, and the verifier record. -/

namespace Sys2Proof.Machine

/-! ### Fields of an instruction word (R78) -/

def wOp (w : W64) : Nat := bitsOf w 63 58
def wRd (w : W64) : Nat := bitsOf w 57 53
def wRs1 (w : W64) : Nat := bitsOf w 52 48
def wRs2 (w : W64) : Nat := bitsOf w 47 43

/-- The TAG of an LKI, LKW or WBOP. -/
def wTag (w : W64) : Nat := bitsOf w 42 40

/-- LOOP or LOOPR. -/
def wIsLoop (w : W64) : Bool := wOp w == 0x1C || wOp w == 0x1D

/-- COUNT and LEN of a loop instruction (R88). -/
def wCount (w : W64) : Nat := bitsOf w 42 36
def wLen (w : W64) : Nat := bitsOf w 35 22

/-- The edits, deliveries and lookups that the walks look for. -/
def wIsEdit (w : W64) : Bool := wOp w == 0x37
def wIsWatch (w : W64) : Bool := wOp w == 0x20 && bitsOf w 39 36 == 6
def wIsIssue (w : W64) : Bool := wOp w == 0x20 || wOp w == 0x30
def wIsWait (w : W64) : Bool := wOp w == 0x21
def wSecond (w : W64) : Option Nat := if wOp w = 0x34 ∧ bitsOf w 42 40 = 5 then some (bitsOf w 23 18) else none

/-- The addresses a word at `a` may branch to, first and last (R88, R104, R112, R113). -/
def wTargets (a : Nat) (w : W64) : Option (Nat × Nat) :=
  let jump := fun d => some (a + 1 + d, a + 1 + d)
  match wOp w with
  | 0x18 => jump (bitsOf w 39 26)
  | 0x19 => jump (bitsOf w 39 26)
  | 0x1A => jump (bitsOf w 39 26)
  | 0x1B => some (a + 1 + bitsOf w 39 26, a + 1 + bitsOf w 39 26 + bitsOf w 25 18)
  | 0x21 => if bitOf w 25 then jump (bitsOf w 39 26) else none
  | 0x2C => jump (bitsOf w 33 20)
  | 0x2D => jump (bitsOf w 38 25)
  | _ => none

/-- Whether the word may go on to the next address. -/
def wFalls (w : W64) : Bool := wOp w != 0x1A && wOp w != 0x1B && wOp w != 0x1F

/-- The targets of a word as a list. -/
def wTargetList (a : Nat) (w : W64) : List Nat :=
  match wTargets a w with
  | some (lo, hi) => (List.range (hi + 1 - lo)).map (lo + ·)
  | none => []

/-- The cycle count of a word (R80, R81, R104, R110 to R116). -/
def wCycles (w : W64) : Nat :=
  match wOp w with
  | 0x06 => 2
  | 0x2A => ceilDiv (bitsOf w 27 22 + 1) 8
  | 0x2C => 2
  | 0x2D => if bitsOf w 42 39 = 7 then 7 else if bitsOf w 42 39 = 8 then 12 else 6
  | _ => 1

/-! ### The check of one word (R94 step 2) -/

/-- Every bit outside the listed ranges is zero (R78). -/
def onlyBits (w : W64) (fs : List (Nat × Nat)) : Bool :=
  (fs.foldl (fun v f => setBits v f.1 f.2 0) w).toNat == 0

/-- Layout and operand rules of a class A, F or B word (R78, R81, R82, R84, R88). -/
def legalAFB (w : W64) : Bool :=
  let op := (63, 58)
  match wOp w with
  | 0x01 =>
    let f := bitsOf w 42 38
    onlyBits w [op, (57, 38)] && decide (f ≤ 0x12) && f != 9 && (decide (f < 0x11) || wRs2 w == 0)
  | 0x02 =>
    let f := bitsOf w 42 38
    onlyBits w [op, (57, 48), (42, 0)] && decide (f ≤ 0x0F) && f != 9
  | 0x03 => onlyBits w [op, (57, 48), (31, 0)]
  | 0x04 => onlyBits w [op, (57, 53), (42, 38)]
  | 0x05 => onlyBits w [op, (52, 48), (42, 38)]
  | 0x06 => onlyBits w [op, (57, 43)]
  | 0x10 => onlyBits w [op, (57, 48), (42, 18)]
  | 0x11 => onlyBits w [op, (52, 43), (42, 19)]
  | 0x12 => onlyBits w [op, (52, 48), (42, 28)]
  | 0x18 => onlyBits w [op, (52, 26)]
  | 0x19 => onlyBits w [op, (52, 48), (42, 10)]
  | 0x1A => onlyBits w [op, (39, 26)]
  | 0x1B => onlyBits w [op, (52, 48), (39, 18)]
  | 0x1C => onlyBits w [op, (42, 22)]
  | 0x1D => onlyBits w [op, (52, 48), (42, 22)]
  | 0x1F => onlyBits w [op]
  | _ => false

/-- Whether an L, H, D, S or X chapter defines the opcode (R104, R110, R111, R114, R116). -/
def definedLX (op : Nat) : Bool :=
  [0x20, 0x21, 0x28, 0x29, 0x2A, 0x2B, 0x2C, 0x2D, 0x30, 0x31, 0x34, 0x35, 0x36, 0x37].contains op

/-- Layout and operand rules of a class L, H, D, S or X word (R104, R110 to R114, R116, R120, R121, R123). -/
def legalLX (w : W64) : Bool :=
  let op := (63, 58)
  let rs1z := wRs1 w == 0
  let rs2z := wRs2 w == 0
  match wOp w with
  | 0x20 =>
    let t := bitsOf w 39 36
    let arg := bitsOf w 35 25
    onlyBits w [op, (52, 25)] && decide (t ≤ 6) && (t != 6 || rs1z) && (t == 3 || t == 6 || rs2z) &&
      (if t = 4 then true else if t = 5 then decide (arg < 64) else if t = 6 then decide (arg < 256) else arg == 0)
  | 0x21 => onlyBits w [op, (57, 53), (42, 25)] && (bitOf w 25 || bitsOf w 39 26 == 0)
  | 0x28 => onlyBits w [op, (42, 40), (31, 0)] && (!bitOf w 42 || bitsOf w 31 0 == 0)
  | 0x29 => onlyBits w [op, (52, 48), (42, 40)]
  | 0x2A => onlyBits w [op, (52, 48), (41, 22)]
  | 0x2B => onlyBits w [op, (57, 53)]
  | 0x2C => onlyBits w [op, (57, 53), (42, 19)] && (!bitOf w 42 || bitsOf w 41 34 == 0)
  | 0x2D => onlyBits w [op, (57, 53), (47, 25)] && decide (bitsOf w 42 39 ≤ 9) && (bitsOf w 42 39 == 7 || rs2z)
  | 0x30 => onlyBits w [op, (52, 33)] && decide (bitsOf w 39 36 ≤ 5) && (bitsOf w 39 36 != 0 || rs2z)
  | 0x31 => onlyBits w [op, (52, 48)]
  | 0x34 =>
    let k := bitsOf w 42 40
    onlyBits w [op, (52, 17)] && decide (k ≤ 5) &&
      ((k == 1 && !bitOf w 39) || k == 2 || k == 3 || rs1z) && (k == 2 || rs2z)
  | 0x35 => onlyBits w [op, (52, 48), (39, 32)] && (!bitOf w 39 || rs1z)
  | 0x36 => onlyBits w [op, (42, 32)] && decide (bitsOf w 42 40 ≤ 3)
  | 0x37 =>
    let e := bitsOf w 42 39
    let off := bitsOf w 38 25
    onlyBits w [op, (52, 48), (42, 25)] && decide (1 ≤ e) && decide (e ≤ 11) &&
      (!([2, 5, 7, 10, 11].contains e) || rs1z) &&
      (if e = 4 then decide (off < 16) else if e = 6 then off == 0xA || off == 0xB else
        e == 10 || e == 11 || off == 0)
  | _ => false

/-- Special registers that MTS may write: CLASS, CUR, FLAGS, USER, HASH, QOFF (R75, R102). -/
def mtsWritable (spec : Nat) : Bool := [6, 9, 10, 11, 18, 22].contains spec

/-- Special registers that are reserved (R75, R102). -/
def specReserved (spec : Nat) : Bool := spec == 15 || decide (26 ≤ spec)

/-- The loop bodies of an image: the loop instruction's address and the body's last address (R89). -/
def bodiesFrom : Nat → List W64 → List (Nat × Nat)
  | _, [] => []
  | a, w :: ws => if wIsLoop w then (a, a + wLen w) :: bodiesFrom (a + 1) ws else bodiesFrom (a + 1) ws

/-- The codes of R95 and R128 that the word at `a` breaks, lowest first. -/
def wordCodes (size : Nat) (bodies : List (Nat × Nat)) (a : Nat) (w : W64) : List Nat :=
  let op := wOp w
  let cclass := decide (0x3C ≤ op) && decide (op ≤ 0x3E)
  let illegal := !cclass && (if op < 0x20 then !legalAFB w else !definedLX op)
  let encoding := decide (0x20 ≤ op) && definedLX op && !legalLX w
  let outer := bodies.filter fun b => decide (b.1 < a) && decide (a ≤ b.2)
  let isLoop := wIsLoop w
  let target :=
    (match wTargets a w with
      | some (_, hi) => decide (size ≤ hi)
      | none => false) || (isLoop && decide (size ≤ a + wLen w))
  let loop := (isLoop && (wCount w == 0 || decide (64 < wCount w) || wLen w == 0 || decide (2 ≤ outer.length) ||
      outer.any fun b => decide (b.2 < a + wLen w))) ||
    (match wTargets a w with
      | some (lo, hi) => bodies.any fun b =>
          decide (max lo (b.1 + 1) ≤ min hi b.2) && !(decide (b.1 < a) && decide (a ≤ b.2))
      | none => false)
  let writeRo := (op == 4 && specReserved (bitsOf w 42 38)) || (op == 5 && !mtsWritable (bitsOf w 42 38)) ||
    (op == 0x11 && !bitOf w 42)
  let scanDepth := wIsWatch w && !outer.isEmpty
  ((([(illegal, 1), (cclass, 2), (target, 3), (loop, 5), (writeRo, 7), (encoding, 0x10), (scanDepth, 0x15)] :
    List (Bool × Nat)).filter (·.1)).map (·.2))

/-- The first word, from the lowest address, that breaks a code: its address and its lowest code. -/
def firstBadWord (size : Nat) (bodies : List (Nat × Nat)) : Nat → List W64 → Option (Nat × Nat)
  | _, [] => none
  | a, w :: ws =>
    match wordCodes size bodies a w with
    | c :: _ => some (a, c)
    | [] => firstBadWord size bodies (a + 1) ws

/-! ### Walks: what every path from an entry point carries -/

/-- A set of path facts: how two paths join, how a word changes the facts for its branch and for its fall-through, and
what is noted of a word that a path reaches. -/
structure PathWalk (D A : Type) where
  join : D → D → D
  move : W64 → Bool → D → D
  see : Nat → W64 → D → A → A

/-- Facts that arrive at addresses. -/
abbrev Arrivals (D : Type) := List (Nat × D)

/-- Add facts that arrive at `a`. -/
def arrive {D : Type} (join : D → D → D) : Arrivals D → Nat → D → Arrivals D
  | [], a, x => [(a, x)]
  | (b, y) :: t, a, x => if b = a then (b, join y x) :: t else (b, y) :: arrive join t a x

/-- What has arrived at `a`, and the rest. -/
def arrived {D : Type} : Arrivals D → Nat → Option D × Arrivals D
  | [], _ => (none, [])
  | (b, y) :: t, a => if b = a then (some y, t) else ((arrived t a).1, (b, y) :: (arrived t a).2)

def joinOpt {D : Type} (join : D → D → D) : Option D → Option D → Option D
  | none, y => y
  | x, none => x
  | some x, some y => some (join x y)

/-- The end of a walk over a range: the facts that run off its end, the facts that branch beyond it, the notes. -/
structure WalkEnd (D A : Type) where
  off : Option D
  out : Arrivals D
  notes : A

/-- How a walk runs a loop: the words of its body, the loop word, one pass over the body from some facts, the facts on
arrival, the notes. -/
abbrev LoopRule (D A : Type) := List W64 → W64 → (D → A → WalkEnd D A) → D → A → WalkEnd D A

/-- PathWalk a range of words from address `a`: `falls` has arrived in sequence, `jumps` by a branch. `body` runs the
body of a loop: its words, its first address, the facts. -/
def walkRange {D A : Type} (k : PathWalk D A) (rule : LoopRule D A) (body : List W64 → Nat → D → A → WalkEnd D A) :
    List W64 → Nat → Arrivals D → Arrivals D → A → WalkEnd D A
  | [], a, falls, jumps, n => ⟨(arrived falls a).1, jumps, n⟩
  | w :: ws, a, falls, jumps, n =>
    let f := arrived falls a
    let j := arrived jumps a
    match joinOpt k.join f.1 j.1 with
    | none => walkRange k rule body ws (a + 1) f.2 j.2 n
    | some x =>
      let n := k.see a w x n
      if wIsLoop w then
        let r := rule (ws.take (wLen w)) w (body (ws.take (wLen w)) (a + 1)) (k.move w false x) n
        let falls := match r.off with
          | some y => arrive k.join f.2 (a + wLen w + 1) y
          | none => f.2
        walkRange k rule body ws (a + 1) falls (r.out.foldl (fun t y => arrive k.join t y.1 y.2) j.2) r.notes
      else
        let jumps := (wTargetList a w).foldl (fun t b => arrive k.join t b (k.move w true x)) j.2
        let falls := if wFalls w then arrive k.join f.2 (a + 1) (k.move w false x) else f.2
        walkRange k rule body ws (a + 1) falls jumps n

/-- A body with no loop in it. -/
def walkBody0 {D A : Type} (k : PathWalk D A) (rule : LoopRule D A) (ws : List W64) (a : Nat) (x : D) (n : A) : WalkEnd D A :=
  walkRange k rule (fun _ _ _ m => ⟨none, [], m⟩) ws a [(a, x)] [] n

/-- A body that may hold one more loop (R89: at most two deep). -/
def walkBody1 {D A : Type} (k : PathWalk D A) (rule : LoopRule D A) (ws : List W64) (a : Nat) (x : D) (n : A) : WalkEnd D A :=
  walkRange k rule (walkBody0 k rule) ws a [(a, x)] [] n

/-- The whole image from the entry at `a`, with no loop active (R77). -/
def walkFrom {D A : Type} (k : PathWalk D A) (rule : LoopRule D A) (ws : List W64) (a : Nat) (x : D) (n : A) : WalkEnd D A :=
  walkRange k rule (walkBody1 k rule) ws 0 [(a, x)] [] n

/-- Run a body `k` more times (R89): the facts at its end go round, branches out of it leave. -/
def loopTimes {D A : Type} (join : D → D → D) (body : D → A → WalkEnd D A) : Nat → WalkEnd D A → WalkEnd D A
  | 0, r => r
  | k + 1, r =>
    match r.off with
    | none => r
    | some x =>
      let b := body x r.notes
      loopTimes join body k ⟨b.off, b.out.foldl (fun t y => arrive join t y.1 y.2) r.out, b.notes⟩

/-- As `loopTimes`, but the loop may end before each pass: the facts before it also leave in sequence. -/
def loopUpTo {D A : Type} (join : D → D → D) (body : D → A → WalkEnd D A) : Nat → Option D → WalkEnd D A → WalkEnd D A
  | 0, done, r => ⟨joinOpt join done r.off, r.out, r.notes⟩
  | k + 1, done, r =>
    match r.off with
    | none => ⟨done, r.out, r.notes⟩
    | some x =>
      let b := body x r.notes
      loopUpTo join body k (joinOpt join done (some x))
        ⟨b.off, b.out.foldl (fun t y => arrive join t y.1 y.2) r.out, b.notes⟩

/-- The rule of R89: LOOP runs its body COUNT times, LOOPR 0 to COUNT times. -/
def loopExact {D A : Type} (join : D → D → D) : LoopRule D A := fun _ w body x n =>
  if wOp w = 0x1C then loopTimes join body (wCount w) ⟨some x, [], n⟩
  else loopUpTo join body (wCount w) none ⟨some x, [], n⟩

/-! ### Tags, reachable words, NO_END (R77, R95, R128) -/

/-- Tags that may be outstanding, and tags that may not be, as bit masks. -/
abbrev TagFacts := Nat × Nat

/-- What a walk notes of the paths of an entry: tag failures (address, code), edits, SECOND words (address, entry),
whether a WATCH lookup is reachable, and the LOOPR words reached (address, last body address). -/
structure PathNotes where
  tagFail : Option (Nat × Nat)
  edit : Option Nat
  seconds : List (Nat × Nat)
  watch : Bool
  loopr : List (Nat × Nat)

def minFirst (o : Option (Nat × Nat)) (a c : Nat) : Option (Nat × Nat) :=
  match o with
  | some (b, d) => if b ≤ a then some (b, d) else some (a, c)
  | none => some (a, c)

def tagWalk : PathWalk TagFacts PathNotes where
  join x y := (x.1 ||| y.1, x.2 ||| y.2)
  move w _ x :=
    let bit := 2 ^ wTag w
    if wIsIssue w then (x.1 ||| bit, x.2 &&& (255 - bit))
    else if wIsWait w then (x.1 &&& (255 - bit), x.2 ||| bit)
    else x
  see a w x n :=
    let t := wTag w
    let fail :=
      if wIsIssue w && x.1.testBit t then minFirst n.tagFail a 0x11
      else if wIsWait w && x.2.testBit t then minFirst n.tagFail a 0x12
      else n.tagFail
    { tagFail := fail
      edit := if wIsEdit w then some (min a (n.edit.getD a)) else n.edit
      seconds := match wSecond w with
        | some e => if n.seconds.contains (a, e) then n.seconds else n.seconds ++ [(a, e)]
        | none => n.seconds
      watch := n.watch || wIsWatch w
      loopr := if wOp w = 0x1D ∧ !n.loopr.contains (a, a + wLen w) then n.loopr ++ [(a, a + wLen w)] else n.loopr }

/-! ### The worst path (R96) -/

/-- The costs of R96 for the words of a range, from its first address: `step(a, lim)` with `lim` the last address of the
range. `body` gives the cost of one pass through a loop's body. -/
def costsWith (body : List W64 → Nat → Nat) : List W64 → Nat → List Nat
  | [], _ => []
  | w :: ws, a =>
    let rest := costsWith body ws (a + 1)
    let at_ := fun b => if b ≤ a then 0 else rest.getD (b - a - 1) 0
    let worst := fun (ts : List Nat) => (ts.map at_).foldl max 0
    let c :=
      if wOp w = 0x1F then 1
      else if wIsLoop w then
        let e := a + wLen w
        let inBody := ws.take (wLen w)
        let exits := ((inBody.zip (List.range inBody.length)).flatMap fun x => wTargetList (a + 1 + x.2) x.1).filter
          fun t => decide (e < t)
        1 + wCount w * body inBody (a + 1) + worst ((e + 1) :: exits)
      else wCycles w + max (worst (wTargetList a w)) (if wFalls w then at_ (a + 1) else 0)
    c :: rest

def bodyCost0 (ws : List W64) (a : Nat) : Nat := (costsWith (fun _ _ => 0) ws a).headD 0
def bodyCost1 (ws : List W64) (a : Nat) : Nat := (costsWith bodyCost0 ws a).headD 0

/-- C_e of every address of an image. -/
def wordCosts (ws : List W64) : List Nat := costsWith bodyCost1 ws 0

/-! ### Dependent lookups (R109) -/

/-- A path's state for R109: an LKW has run; the next LKW on no WATCH tag is dependent whatever its tag; tags issued
since the last LKW; tags last issued for WATCH. -/
structure DepState where
  seen : Bool
  forced : Bool
  issued : Nat
  watch : Nat
  deriving DecidableEq

/-- The states in which paths arrive, each with its largest count. -/
abbrev DepFacts := List (DepState × Nat)

def depAdd : DepFacts → DepState → Nat → DepFacts
  | [], s, k => [(s, k)]
  | (t, m) :: r, s, k => if t = s then (t, max m k) :: r else (t, m) :: depAdd r s k

def depJoin (x y : DepFacts) : DepFacts := y.foldl (fun t z => depAdd t z.1 z.2) x

/-- One word's effect on one state (R109). -/
def depMove (w : W64) (s : DepState) : DepState × Nat :=
  let bit := 2 ^ wTag w
  if wIsIssue w then
    ({ s with issued := s.issued ||| bit
              watch := if wIsWatch w then s.watch ||| bit else s.watch &&& (255 - bit) }, 0)
  else if wIsWait w then
    if s.watch.testBit (wTag w) then ({ s with seen := true, issued := 0, watch := s.watch &&& (255 - bit) }, 0)
    else (⟨true, false, 0, s.watch⟩, b2n (!s.seen || s.forced || s.issued.testBit (wTag w)))
  else (s, 0)

def depMap (f : DepState → DepState × Nat) (x : DepFacts) : DepFacts :=
  x.foldl (fun t z => depAdd t (f z.1).1 (z.2 + (f z.1).2)) []

def depMax (x : DepFacts) : Nat := (x.map Prod.snd).foldl max 0

/-- The walk that counts dependent lookups; its note is the largest count on any path. -/
def depWalk : PathWalk DepFacts Nat where
  join := depJoin
  move w _ x := depMap (depMove w) x
  see _ w x n := max n (depMax (depMap (depMove w) x))

/-- The loop rule of R96 for K_e, with the forced cases of R109: the first pass runs from the state on arrival, each
later pass costs what a pass from the forced states at the end of the first one costs, and after a body with an LKW on
no WATCH tag the next one is forced. -/
def depLoop : LoopRule DepFacts Nat := fun ws w body x n =>
  x.foldl (fun (r : WalkEnd DepFacts Nat) z =>
    let b := body [(z.1, 0)] 0
    let w1 := b.notes
    let force := fun (s : DepState) => ({ s with forced := true, issued := 0 } : DepState)
    let again := match b.off with
      | some y => (body (depMap (fun s => (force s, 0)) (y.map fun q => (q.1, 0))) 0).notes
      | none => 0
    let total := z.2 + w1 + (wCount w - 1) * again
    let left := (match b.off with
      | some y => y
      | none => []) ++ b.out.flatMap Prod.snd
    let left := if wOp w = 0x1D then (z.1, 0) :: left else left
    let waits := ws.any fun v => wIsWait v && !z.1.watch.testBit (wTag v)
    let left := if waits || decide (0 < w1 + again) then left.map fun q => (force q.1, q.2) else left
    let left := depMap (fun s => (s, 0)) (left.map fun q => (q.1, total))
    ⟨joinOpt depJoin r.off (some left), b.out.foldl (fun t y => arrive depJoin t y.1 left) r.out, max r.notes total⟩)
    ⟨none, [], n⟩

/-! ### REACH (R97) -/

/-- Whether a word makes REACH unbounded by itself. -/
def wUnbounded (w : W64) : Bool :=
  match wOp w with
  | 0x04 => bitsOf w 42 38 == 0
  | 0x10 => !bitOf w 42 && wRs1 w != 0
  | 0x12 => !bitOf w 42 || wRs1 w != 0
  | 0x2A => wRs1 w != 0
  | 0x2C => bitOf w 19
  | _ => false

/-- The last frame byte that a word touches, from the cursor, if it touches one (R85, R97, R112, R113). -/
def wTouch (w : W64) : Option Int :=
  match wOp w with
  | 0x10 =>
    if bitOf w 42 then none
    else some (signed 14 (bitsOf w 41 28) + (ceilDiv (bitsOf w 27 25 + bitsOf w 24 19 + 1) 8 : Nat) - 1)
  | 0x2A => some (signed 14 (bitsOf w 41 28) + (bitsOf w 27 22 + 1 : Nat) - 1)
  | 0x2C => some 3
  | 0x2D => some 159
  | _ => none

/-- The lowest and the highest cursor on the paths so far. -/
abbrev CurFacts := Int × Int

/-- REACH so far, and whether it is unbounded. -/
abbrev ReachNote := Nat × Bool

def curMove (w : W64) (taken : Bool) (x : CurFacts) : CurFacts :=
  match wOp w with
  | 0x12 => (x.1 + signed 14 (bitsOf w 41 28), x.2 + signed 14 (bitsOf w 41 28))
  | 0x2C => if taken then x else (x.1, x.2 + 4)
  | _ => x

def reachWalk : PathWalk CurFacts ReachNote where
  join x y := (min x.1 y.1, max x.2 y.2)
  move := curMove
  see _ w x n :=
    let top := match wTouch w with
      | some d => max n.1 (x.2 + d).toNat
      | none => n.1
    (top, n.2 || wUnbounded w || decide ((curMove w false x).1 < 0))

/-! ### Edits (R129) -/

/-- The entry that the path's last delivery names, if it is SECOND, with the largest number of edits. -/
abbrev EditFacts := List (Option Nat × Nat)

def editAdd : EditFacts → Option Nat → Nat → EditFacts
  | [], s, k => [(s, k)]
  | (t, m) :: r, s, k => if t = s then (t, max m k) :: r else (t, m) :: editAdd r s k

def editJoin (x y : EditFacts) : EditFacts := y.foldl (fun t z => editAdd t z.1 z.2) x

/-- The note keeps what stood at every END. -/
def editWalk : PathWalk EditFacts EditFacts where
  join := editJoin
  move w _ x :=
    if wIsEdit w then x.map fun z => (z.1, z.2 + 1)
    else if wOp w = 0x34 then x.foldl (fun t z => editAdd t (wSecond w) z.2) []
    else x
  see _ w x n := if wOp w = 0x1F then editJoin n x else n

/-! ### The verifier (R94) -/

/-- A verifier record (R94). -/
def verifierRecord (code entry addr detail : Nat) : W64 := w64 (code * 2 ^ 56 + entry * 2 ^ 50 + addr * 2 ^ 32 + detail)

/-- What the verifier finds out about one valid entry. -/
structure EntryFacts where
  info : EntryInfo
  noEnd : Option Nat
  tagFail : Option (Nat × Nat)
  editAt : Nat
  seconds : List (Nat × Nat)
  edits : EditFacts

/-- The facts of the entry at `addr`. Where the body of a LOOPR that is skipped ends the image, NO_END names the
LOOPR's address (DESIGN CHOICE, log entry 111). -/
def entryFacts (ws : List W64) (costs : List Nat) (addr : Nat) : EntryFacts :=
  let t := walkFrom tagWalk (loopExact tagWalk.join) ws addr (0, 255) ⟨none, none, [], false, []⟩
  let k := walkFrom depWalk depLoop ws addr [(⟨false, false, 0, 0⟩, 0)] 0
  let r := walkFrom reachWalk (loopExact reachWalk.join) ws addr (0, 0) (0, false)
  let e := walkFrom editWalk (loopExact editJoin) ws addr [(none, 0)] []
  let skips := (t.notes.loopr.filter fun x => x.2 + 1 == ws.length).map Prod.fst
  { info := ⟨addr, costs.getD addr 0, k.notes, if r.notes.2 then none else some r.notes.1, t.notes.watch,
      (t.notes.seconds.map Prod.snd).eraseDups, false⟩
    noEnd := if t.off.isSome then some (skips.foldl min (ws.length - 1)) else none
    tagFail := t.notes.tagFail
    editAt := t.notes.edit.getD 0
    seconds := t.notes.seconds
    edits := e.notes }

/-- The largest count of edits over the paths of entry `e` and of the passes its paths name, `k` passes deep (R129). -/
def editCount (facts : List (Nat × EntryFacts)) : Nat → Nat → Nat
  | 0, e =>
    match facts.find? (fun f => f.1 == e) with
    | some f => (f.2.edits.map Prod.snd).foldl max 0
    | none => 0
  | k + 1, e =>
    match facts.find? (fun f => f.1 == e) with
    | some f => (f.2.edits.map fun x =>
        x.2 + (match x.1 with
          | some y => editCount facts k y
          | none => 0)).foldl max 0
    | none => 0

/-- The entries that can run with PASS 0, 1 and 2 (R129). -/
def passSets (facts : List (Nat × EntryFacts)) (profiles : List Nat) : List Nat × List Nat × List Nat :=
  let ids := facts.map Prod.fst
  let named := facts.flatMap fun f => f.2.info.seconds
  let p0 := ids.filter fun e => profiles.contains e || !named.contains e
  let after := fun (p : List Nat) =>
    ids.filter fun e => facts.any fun f => p.contains f.1 && f.2.info.seconds.contains e
  (p0, after p0, after (after p0))

/-- The first failure of entry `e`, in the order of R94. `budget` is B_e, and `second` whether the rules of the second
impression are checked. -/
def entryFailure (facts : List (Nat × EntryFacts)) (passes : List Nat × List Nat × List Nat) (valid : Nat → Bool)
    (budget : Nat) (e : Nat) (f : EntryFacts) : Option W64 :=
  match f.noEnd, f.tagFail with
  | some a, _ => some (verifierRecord 4 e a 0)
  | none, some (a, c) => some (verifierRecord c e a 0)
  | none, none =>
    let inP := fun (p : List Nat) => p.contains e
    let edits :=
      if inP passes.1 then editCount facts 2 e
      else if inP passes.2.1 then editCount facts 1 e
      else editCount facts 0 e
    let bad := f.seconds.filter fun x => !valid x.2 || inP passes.2.2
    if 16383 < f.info.wcet then some (verifierRecord 9 e 0 f.info.wcet)
    else if budget < f.info.wcet then some (verifierRecord 0xA e 0 f.info.wcet)
    else if 8 < edits then some (verifierRecord 0x13 e f.editAt 0)
    else if bad.isEmpty then none
    else some (verifierRecord 0x14 e ((bad.map Prod.fst).foldl min 16383) 0)

/-- What the verifier finds: the record, and what it records of every entry when it passes. -/
structure Verdict where
  record : W64
  info : Tbl (Option EntryInfo)

def Verdict.fail (r : W64) : Verdict := ⟨r, []⟩

/-- The check of the entries of an image whose words pass, from the lowest entry. -/
def verifyEntries (words : List W64) (entries : List (Nat × Nat)) (budget : Nat → Nat) (ports : List (Nat × Nat)) :
    Verdict :=
  let size := words.length
  let valid := fun e => entries.any fun x => x.1 == e
  let costs := wordCosts words
  let inside := entries.filter fun x => decide (x.2 < size)
  let facts : List (Nat × EntryFacts) := inside.map fun x => (x.1, entryFacts words costs x.2)
  let passes := passSets facts (ports.map Prod.snd)
  let failure := entries.foldl (fun (o : Option W64) (x : Nat × Nat) =>
    match o with
    | some r => some r
    | none =>
      if size ≤ x.2 then some (verifierRecord 6 x.1 0 0xFFFFFFFF)
      else match facts.find? (fun f => f.1 == x.1) with
        | some f => entryFailure facts passes valid (budget x.1) x.1 f.2
        | none => none) none
  let failure := match failure with
    | some r => some r
    | none => (ports.find? fun (x : Nat × Nat) => !valid x.2).map fun (x : Nat × Nat) => verifierRecord 6 x.2 0 x.1
  match failure with
  | some r => .fail r
  | none =>
    ⟨0, facts.foldl (fun (t : Tbl (Option EntryInfo)) (f : Nat × EntryFacts) =>
      tput (fun _ => none) t f.1 (some { f.2.info with edits := decide (0 < editCount facts 2 f.1) })) []⟩

/-- The verifier of R94 on an image: words, valid entries in rising order with their addresses, budgets B_e, and the
profiles of the ports that are checked, as (port, profile) in port order. -/
def verifyImage (words : List W64) (entries : List (Nat × Nat)) (budget : Nat → Nat) (ports : List (Nat × Nat)) :
    Verdict :=
  if 16384 < words.length then .fail (verifierRecord 8 0 0 0)
  else match firstBadWord words.length (bodiesFrom 0 words) 0 words with
    | some (a, c) => .fail (verifierRecord c 0 a 0)
    | none => verifyEntries words entries budget ports

/-- B_e of entry `e` of tag `t`'s forme (R95, R258). -/
def State.budgetOf (s : State) (t e : Nat) : Nat :=
  let b := s.fld (F.FRM_BUDGET_BUDGET t e)
  if b = 0 then 16383 else b

/-- The profiles of the ports of tag `t`'s forme whose declared MODE is not DISABLED (R95). -/
def State.declaredProfiles (s : State) (t : Nat) : List (Nat × Nat) :=
  ((List.range 128).filter fun p => s.fld (F.FRM_PORT_DECL_MODE t p) != 0).map fun p =>
    (p, s.fld (F.FRM_PORT_DECL_PROFILE t p))

/-- The verifier on the staged image and profiles of tag `t` (R94, R285). -/
def State.verifyTag (s : State) (t : Nat) : Verdict :=
  let img := s.image t
  verifyImage img.words img.entries (s.budgetOf t) (s.declaredProfiles t)

end Sys2Proof.Machine
end

