-- ==== Sys2Proof/Machine/Admission.lean ====
section
/-! DEFINITION. The admission checker (R246 to R256, R170, R384, R408): the residence bound of every declared stream and
the conditions on a forme. Times are exact rationals in ns, rates in Gb/s. -/

namespace Sys2Proof.Machine

/-! ### Declaration records (R247, R248) -/

structure Decl where
  idx : Nat
  w0 : W64
  w1 : W64
  w2 : W64

def Decl.cut (d : Decl) : Bool := bitOf d.w0 62
def Decl.stream (d : Decl) : Nat := bitsOf d.w0 61 47
def Decl.inPort (d : Decl) : Nat := bitsOf d.w0 46 40
def Decl.outPort (d : Decl) : Nat := bitsOf d.w0 39 33
def Decl.qoff (d : Decl) : Nat := bitsOf d.w0 32 26
def Decl.cls (d : Decl) : Nat := d.qoff / 16
def Decl.len (d : Decl) : Nat := bitsOf d.w0 25 12
def Decl.burst (d : Decl) : Nat := bitsOf d.w0 11 4
def Decl.interval (d : Decl) : Nat := bitsOf d.w1 63 32
def Decl.deadline (d : Decl) : Nat := bitsOf d.w1 31 0
/-- The bytes that a scan selects: SCAN_BYTES, or LEN when it is 0. -/
def Decl.scan (d : Decl) : Nat := if bitsOf d.w2 63 50 = 0 then d.len else bitsOf d.w2 63 50
def Decl.region (d : Decl) : Nat := d.inPort / 16
/-- b_i in bytes and r_i in Gb/s (R248). -/
def Decl.bytes (d : Decl) : Nat := d.burst * (d.len + 20)
def Decl.rate (d : Decl) : Rat := ((8 * (d.len + 20) : Nat) : Rat) / (d.interval : Nat)

/-- The valid records that the checker reads (R247). -/
def State.decls (s : State) (t : Nat) : List Decl :=
  ((List.range (s.ndecl t)).map fun i => (⟨i, s.decl t i 0, s.decl t i 1, s.decl t i 2⟩ : Decl)).filter fun d =>
    bitOf d.w0 63

/-! ### Arithmetic -/

def ceilNat (x : Rat) : Nat := x.ceil.toNat
def floorNat (x : Rat) : Nat := x.floor.toNat
def sumRat (l : List Rat) : Rat := l.foldl (· + ·) 0
def sumNat (l : List Nat) : Nat := l.foldl (· + ·) 0
def maxRat (l : List Rat) : Rat := l.foldl max 0
def maxNat (l : List Nat) : Nat := l.foldl max 0

/-- The declared rate of port `p` in Gb/s (R249). -/
def State.declRate (s : State) (t p : Nat) : Rat := (modeRate (s.fld (F.FRM_PORT_DECL_MODE t p)) : Nat) / 1000

/-- The entry point that port `p`'s profile selects. -/
def State.profile (s : State) (t p : Nat) : Nat := s.fld (F.FRM_PORT_DECL_PROFILE t p)

/-- The clock of a FLOOR code in GHz (R258). -/
def floorClock (code : Nat) : Rat := if code = 0 then 4 / 5 else if code = 1 then 6 / 5 else 8 / 5

/-- FLOOR and SLEEP of case `c` over some tags (R242). -/
def State.floorOver (s : State) (tags : List Nat) (c : Nat) : Nat :=
  maxNat (tags.map fun t => s.fld (F.FRM_CASE_CFG_FLOOR t c))
def State.sleepOver (s : State) (tags : List Nat) (c : Nat) : Bool :=
  tags.all fun t => s.flag (F.FRM_CASE_CFG_SLEEP t c)

/-- The clock f of R249 for a region. -/
def State.regionClock (s : State) (tags : List Nat) (r : Nat) : Rat :=
  floorClock (min (s.floorOver tags (2 * r)) (s.floorOver tags (2 * r + 1)))
def State.regionSleep (s : State) (tags : List Nat) (r : Nat) : Bool :=
  s.sleepOver tags (2 * r) || s.sleepOver tags (2 * r + 1)

/-- T_scan with W = 0 (R170, R249). -/
def scanTerm (n : Nat) (rin : Rat) : Rat := 50 + 8 * (n : Nat) / min (48 / 5) rin + (ceilDiv n 64 : Nat) / (6 / 5)

/-- The compositor term of one pass through an entry (R249). -/
def passTerm (i : EntryInfo) (f rin : Rat) (n : Nat) : Rat :=
  (i.wcet : Nat) / f + 60 * (i.deps : Nat) + (if i.watch then scanTerm n rin else 0)

/-- What the verifier recorded of an entry; zeros for an entry that is not valid. -/
def entryOf (info : Tbl (Option EntryInfo)) (e : Nat) : EntryInfo :=
  (tget (fun _ => none) info e).getD ⟨0, 0, 0, none, false, [], false⟩

/-- The entries that each extra pass may name (R129, R249): at most two extra passes. -/
def extraPasses (info : Tbl (Option EntryInfo)) (e : Nat) : List (List Nat) :=
  let p1 := (entryOf info e).seconds
  let p2 := (p1.flatMap fun x => (entryOf info x).seconds).eraseDups
  if p1.isEmpty then [] else if p2.isEmpty then [p1] else [p1, p2]

/-! ### Timetables (R222, R250) -/

/-- Whether the word breaks R219. -/
def badTtEntry (w : W64) : Bool :=
  bitsOf w 63 62 == 3 || bitsOf w 61 56 != 0 || bitsOf w 47 32 != 0 || decide (bitsOf w 31 0 < 16)

/-- What is wrong with port `p`'s enabled timetable under tag `t`: 0x7FF for the header, else the lowest bad entry. -/
def State.ttError (s : State) (p t : Nat) : Option Nat :=
  if !s.flag (F.EGR_TT_CTRL_EN p t) then none
  else if s.fld (F.EGR_TT_CYCLE_CYCLE_NS p t) < 256 ∨ 999999999 < s.fld (F.EGR_TT_BASE_NS_BASE_NS p t) then some 0x7FF
  else (List.range (s.fld (F.EGR_TT_CTRL_NENT p t))).find? fun e => badTtEntry (s.ttWord p t e)

/-- A stretch of a cycle: its start and length in ns, and whether the gate is open. -/
structure Span where
  start : Nat
  len : Nat
  isOpen : Bool

def spansFrom : Nat → List (Nat × Bool) → List Span
  | _, [] => []
  | a, (n, o) :: r => if n = 0 then spansFrom a r else ⟨a, n, o⟩ :: spansFrom (a + n) r

/-- The windows of a list of spans that begins with a closed one: maximal runs of open spans. -/
def windowsOf : List Span → Option (Nat × Nat) → List (Nat × Nat)
  | [], w => w.toList
  | x :: r, w =>
    if x.isOpen then windowsOf r (some (match w with
      | some (a, _) => (a, x.start + x.len)
      | none => (x.start, x.start + x.len)))
    else w.toList ++ windowsOf r none

/-- C_eff and G_c of R250 for class group `c` of port `p` under tag `t`, at rate `rate`, `lc` being L_c. -/
def State.gateTerms (s : State) (p t c : Nat) (rate : Rat) (lc : Nat) : Rat × Rat :=
  let cycle := s.fld (F.EGR_TT_CYCLE_CYCLE_NS p t)
  if !s.flag (F.EGR_TT_CTRL_EN p t) || cycle == 0 then (rate, 0)
  else
    let n := s.fld (F.EGR_TT_CTRL_NENT p t)
    let gates := (List.range n).map fun e => Nat.testBit (bitsOf (s.ttWord p t e) 55 48) c
    let spans := spansFrom 0 ((ttSpans (s.ttIntervals p t) cycle).zip gates)
    if spans.all (·.isOpen) then (rate, 0)
    else
      let first := spans.takeWhile (·.isOpen)
      let order := spans.dropWhile (·.isOpen) ++ first.map fun x => { x with start := x.start + cycle }
      let tau : Rat := (8 * (lc + 20) : Nat) / rate
      let wins := ((windowsOf order none).map fun w => (((w.1 : Nat) : Rat), ((w.2 : Nat) : Rat) - tau)).filter fun w =>
        decide (w.1 < w.2)
      let tot := sumRat (wins.map fun w => w.2 - w.1)
      if tot = 0 then (0, 0)
      else
        let perNs := (cycle : Nat) / tot
        let m := wins.length
        let at_ := fun k => let w := wins.getD (k % m) (0, 0)
          (w.1 + (cycle * (k / m) : Nat), w.2 + (cycle * (k / m) : Nat))
        let lat := fun i => maxRat ((List.range m).map fun j =>
          let done := sumRat ((List.range j).map fun k => (at_ (i + 1 + k)).2 - (at_ (i + 1 + k)).1)
          (at_ (i + 1 + j)).1 - (at_ i).2 - perNs * done)
        (rate * tot / (cycle : Nat), maxRat ((List.range m).map lat))

/-! ### The check -/

/-- One failure (R255). -/
structure AdmFail where
  code : Nat
  record : Nat
  stream : Nat
  port : Nat
  forme : Bool
  detail : Nat

/-- A forme-wide failure. -/
def AdmFail.wide (code port detail : Nat) : AdmFail := ⟨code, 0, 0, port, true, detail⟩

/-- A failure of a record; the port is its OUT_PORT. -/
def Decl.fail (d : Decl) (code detail : Nat) : AdmFail := ⟨code, d.idx, d.stream, d.outPort, false, detail⟩

/-- What the check computes of one record: its bound, its terms in 100 ps, and whether it would meet its deadline with
SLEEP = 0 in the region. -/
structure DeclBound where
  idx : Nat
  bound : Nat
  terms : List Nat
  awakeOk : Bool

structure AdmResult where
  fails : List AdmFail
  bounds : List DeclBound
  resv : Nat
  hint : Nat
  /-- Records whose bound fails, rising (R408). -/
  failing : List Nat

/-- The word in error of a record with a field out of range (R256). -/
def State.badWord (s : State) (t : Nat) (d : Decl) : Option Nat :=
  let off := fun p => s.declRate t p == 0
  if bitsOf d.w0 3 0 != 0 || decide (d.len < 64) || decide (9728 < d.len) || d.burst == 0 || off d.inPort ||
    off d.outPort then some d.w0.toNat
  else if d.interval = 0 then some d.w1.toNat
  else if bitsOf d.w2 49 32 ≠ 0 then some d.w2.toNat
  else none

/-- The failure of a record's own fields and class, if any (R254, R256). -/
def State.fieldFail (s : State) (t : Nat) (d : Decl) : Option AdmFail :=
  let adm := s.fld (F.FRM_PARAM_CLS_ADM_CLASSES t)
  match s.badWord t d with
  | some w => some (d.fail 0xD w)
  | none =>
    if !adm.testBit d.cls then some (d.fail 4 adm)
    else if s.preemptMask d.outPort t d.cls then some (d.fail 5 d.cls)
    else none

/-- Port `p` has the same egress parameters and declarations under both tags (R246). -/
def State.portUnchanged (s : State) (mine theirs : List Decl) (p : Nat) : Bool :=
  let same := fun (a b : Nat) => s.reg a == s.reg b
  let named := fun (l : List Decl) => (l.filter fun d => d.outPort == p).map fun d => (d.w0, d.w1)
  same (R.EGR_TT_BASE_SEC_LO p 0) (R.EGR_TT_BASE_SEC_LO p 1) && same (R.EGR_TT_BASE_SEC_HI p 0) (R.EGR_TT_BASE_SEC_HI p 1)
    && same (R.EGR_TT_BASE_NS p 0) (R.EGR_TT_BASE_NS p 1) && same (R.EGR_TT_CYCLE p 0) (R.EGR_TT_CYCLE p 1)
    && same (R.EGR_TT_CTRL p 0) (R.EGR_TT_CTRL p 1)
    && (List.range 1024).all (fun e => s.ttWord p 0 e == s.ttWord p 1 e)
    && bitsOf (s.reg (R.EGR_PORT_PREEMPT p)) 7 0 == bitsOf (s.reg (R.EGR_PORT_PREEMPT p)) 15 8
    && (portQueues p).all (fun q => same (R.EGR_Q_SHAPE q 0) (R.EGR_Q_SHAPE q 1))
    && (named mine).all (fun x => (named theirs).contains x) && (named theirs).all (fun x => (named mine).contains x)

/-- The records of carried-over streams of tag `t`'s forme, when the other tag holds a resident one (R246). -/
def State.carriedOver (s : State) (t : Nat) (recs : List Decl) : List Nat :=
  let o := 1 - t
  if s.tagState o ≠ 3 ∨ !(s.image o).verified then []
  else
    let theirs := s.decls o
    (recs.filter fun d =>
      (theirs.any fun x => x.w0 == d.w0 && x.w1 == d.w1) && s.portUnchanged recs theirs d.outPort).map Decl.idx

/-- The terms of R249 of record `d`, in table order, and whether the staging term is the cut-through one. `good` are
the records evaluated, `path` those of R252 in d's region, `gate` C_eff and G_c, `tags` the tags whose larger C_e and
K_e and case values bound the record (R246). -/
def State.boundTerms (s : State) (t : Nat) (info : Tbl (Option EntryInfo)) (good path : List Decl) (gate : Rat × Rat)
    (tags : List Nat) (d : Decl) : List Rat :=
  let rin := s.declRate t d.inPort
  let c := s.declRate t d.outPort
  let f := s.regionClock tags d.region
  let e := entryOf info (s.profile t d.inPort)
  let old := entryOf (s.image (1 - t)).info (s.profile (1 - t) d.inPort)
  let e := if tags.length = 2 then
      { e with wcet := max e.wcet old.wcet, deps := max e.deps old.deps }
    else e
  let h := good.filter fun x => x.outPort == d.outPort && decide (d.qoff ≤ x.qoff)
  let resid := gate.1 - sumRat ((h.filter fun x => decide (d.qoff < x.qoff)).map Decl.rate)
  let interf := ((8 * (sumNat (h.map Decl.bytes) - (d.len + 20)) : Nat) : Rat) / resid
  let r26 := s.mergeActive d.outPort && s.fld (F.PRT_MERGE_CFG_TX_ADD_FRAG_SIZE d.outPort) == 0
  let block : Nat := if r26 then 123 else s.maxFrame d.outPort + 20
  let be := s.fld (F.FRM_PARAM_RC_RC_BE_BYTES t)
  let others : Nat := sumNat (path.map fun x => x.burst * x.len) - d.len
  let passes := extraPasses info (s.profile t d.inPort)
  let second := sumRat (passes.map fun p =>
    90 + ((8 * (be + others + d.len) : Nat) : Rat) / 100 +
      maxRat (p.map fun x => passTerm (entryOf info x) f rin d.scan))
  let sf : Rat := ((8 * d.len : Nat) : Rat) / rin
  let ct : Rat := ((8 * min d.len 192 : Nat) : Rat) / rin
  let rest := [40 + (if s.regionSleep tags d.region then 250 else 0), passTerm e f rin d.scan, 30, 20, gate.2,
    ((8 * block : Nat) : Rat) / c, interf, second]
  let bounded := match e.reach with
    | some r => decide (r < 192)
    | none => false
  let unicast := !good.any fun x => x.stream == d.stream && x.idx != d.idx
  let cut := d.cut && decide (c ≤ rin) && passes.isEmpty && unicast && bounded && decide (interf = 0) && d.burst == 1 &&
    decide (ceilNat (ct + sumRat rest) ≤ d.interval)
  (if cut then ct else sf) :: rest

/-- The compositors in service of case `c`. -/
def State.openComps (s : State) (c : Nat) : Nat := ((List.range 8).filter fun i => !s.compFenced (8 * c + i)).length

/-- The reserve that region `r` has for tag `t`'s forme, counting only compositors that are not fenced (R253, R407). -/
def State.regionReserve (s : State) (t r : Nat) : Nat :=
  let a := s.fld (F.FRM_CASE_CFG_RESERVE t (2 * r))
  let b := s.fld (F.FRM_CASE_CFG_RESERVE t (2 * r + 1))
  if s.caseFenced (2 * r) then min (a + b) (s.openComps (2 * r + 1))
  else if s.caseFenced (2 * r + 1) then min (a + b) (s.openComps (2 * r))
  else min a (s.openComps (2 * r)) + min b (s.openComps (2 * r + 1))

/-- The compositor demand of the records of one region (R253). -/
def State.compDemand (s : State) (t : Nat) (info : Tbl (Option EntryInfo)) (own : List Decl) : Nat :=
  let term := fun (e : Nat) (d : Decl) =>
    passTerm (entryOf info e) (s.regionClock [t] d.region) (s.declRate t d.inPort) d.scan
  let ports := (own.map Decl.inPort).eraseDups
  let first := ports.map fun p =>
    let worst := maxRat ((own.filter fun d => d.inPort == p).map fun d => term (s.profile t p) d)
    1 + ceilNat (worst * s.declRate t p / (8 * 84))
  let second := own.map fun d =>
    match (extraPasses info (s.profile t d.inPort)).head? with
    | some l => d.burst + ceilNat (maxRat (l.map fun e => term e d) / (d.interval : Nat))
    | none => 0
  sumNat first + sumNat second

/-- RESV of R254 over the records that have a bound: each stream once, at its largest values. -/
def State.resvCells (s : State) (t : Nat) (info : Tbl (Option EntryInfo)) (recs : List (Decl × DeclBound)) : Nat :=
  let streams := (recs.map fun x => x.1.stream).eraseDups
  sumNat (streams.map fun m =>
    let l := recs.filter fun x => x.1.stream == m
    let frames := maxNat (l.map fun x => x.1.burst) +
      maxNat (l.map fun x => ceilNat ((x.2.bound : Nat) / (x.1.interval : Nat)))
    let cells := maxNat (l.map fun x => ceilDiv x.1.len 256) + maxNat (l.map fun x =>
      let e := s.profile t x.1.inPort
      b2n (entryOf info e).edits + (extraPasses info e).length)
    frames * cells)

/-- The failures of declared ports (R254): mode, FEC or preemption differs from the PRT_ registers, or the variant has
no such mode. -/
def State.portFails (s : State) (t : Nat) (recs : List Decl) : List AdmFail :=
  ((List.range 128).filter fun p =>
    let m := s.fld (F.FRM_PORT_DECL_MODE t p)
    let named := m != 0 || recs.any fun d => d.inPort == p || d.outPort == p
    named && (m != s.fld (F.PRT_MODE_MODE p) || s.fld (F.FRM_PORT_DECL_FEC t p) != s.fld (F.PRT_MODE_FEC p) ||
      s.flag (F.FRM_PORT_DECL_PREEMPT t p) != s.flag (F.PRT_MERGE_CFG_MERGE_EN p) ||
      (s.variant10 && (m == 5 || m == 6)))).map fun p =>
    .wide 3 p (s.fld (F.FRM_PORT_DECL_MODE t p) + 16 * s.fld (F.FRM_PORT_DECL_FEC t p))

/-- ADM_CLASSES is a set of the highest classes (R254). -/
def topSet (adm : Nat) : Bool := (List.range 9).any fun k => adm == 256 - 2 ^ k

/-- C_eff and G_c of a record, over the records `good` that have no word in error (R250). -/
def State.gateOf (s : State) (t : Nat) (good : List Decl) (d : Decl) : Rat × Rat :=
  let lc := maxNat ((good.filter fun x => x.outPort == d.outPort && x.cls == d.cls).map Decl.len)
  s.gateTerms d.outPort t d.cls (s.declRate t d.outPort) lc

/-- OVERLOAD of a record (R251), which rests on the declarations and the timetables alone. -/
def State.overload (s : State) (t : Nat) (good : List Decl) (d : Decl) : Option AdmFail :=
  let gate := s.gateOf t good d
  let demand := sumRat ((good.filter fun x => x.outPort == d.outPort && decide (d.qoff ≤ x.qoff)).map Decl.rate)
  if gate.1 ≤ demand then some (d.fail 6 (floorNat (demand * 1000) * 2 ^ 32 + floorNat (gate.1 * 1000))) else none

/-- The admission check of tag `t`'s forme (R246 to R254). `verdict` is the verifier's. With `recheck` it is the check
of R408: fenced resources are left out. -/
def State.admission (s : State) (t : Nat) (verdict : Verdict) (recheck : Bool) : AdmResult :=
  let info := verdict.info
  let passed := verdict.record == 0
  let recs := (s.decls t).filter fun d => !(recheck && (s.laneFenced d.inPort || s.laneFenced d.outPort))
  let adm := s.fld (F.FRM_PARAM_CLS_ADM_CLASSES t)
  let resident := if s.tagState (1 - t) = 3 ∨ s.tagState (1 - t) = 4 then [t, 1 - t] else [t]
  let power := s.guaranteedMw resident
  let tables := (List.range 128).filterMap fun p => (s.ttError p t).map fun e => AdmFail.wide 0xB p (t + 2 * e)
  let early := (if passed then [] else [AdmFail.wide 2 0 verdict.record.toNat]) ++ s.portFails t recs ++
    (if topSet adm then [] else [AdmFail.wide 4 0 adm])
  let late := tables ++
    (if s.flag F.PWR_CAP_CAP_EN && decide (100 * s.capTenths < power) then [AdmFail.wide 0xC 0 power] else [])
  let fields := recs.filterMap fun d => s.fieldFail t d
  let good := recs.filter fun d => (s.badWord t d).isNone
  let fit := good.filter fun d => (s.fieldFail t d).isNone
  let sortedBy := fun (l : List AdmFail) => recs.filterMap fun d => l.find? fun f => f.record == d.idx
  if !passed then
    ⟨early ++ late ++ sortedBy (fields ++ fit.filterMap fun d => s.overload t good d), [], 0, 0, recs.map Decl.idx⟩
  else
    let carried := if recheck then [] else s.carriedOver t recs
    let pathOf := fun r => good.filter fun d =>
      d.region == r && !(extraPasses info (s.profile t d.inPort)).isEmpty
    let overPath := fun r =>
      let l := pathOf r
      decide (100 ≤ sumRat (l.map Decl.rate)) || decide (64 ≤ sumNat (l.map Decl.burst)) ||
        decide (49152 < sumNat (l.map fun d => d.burst * d.len))
    let eval := fun (d : Decl) =>
      let path := pathOf d.region
      if (path.any fun x => x.idx == d.idx) && overPath d.region then (some (d.fail 8 d.region), none)
      else if let some x := s.overload t good d then (some x, none)
      else
        let tags := if carried.contains d.idx then [t, 1 - t] else [t]
        let terms := s.boundTerms t info good path (s.gateOf t good d) tags d
        let total := sumRat terms
        let bound := ceilNat total
        let wake : Rat := if s.regionSleep tags d.region then 250 else 0
        let b : DeclBound := ⟨d.idx, bound, terms.map fun x => ceilNat (10 * x), decide (ceilNat (total - wake) ≤ d.deadline)⟩
        (if d.deadline < bound then some (d.fail 1 (bound * 2 ^ 32 + (bound - d.deadline))) else none, some (d, b))
    let results : List (Option AdmFail × Option (Decl × DeclBound)) := fit.map eval
    let bounded := results.filterMap Prod.snd
    let comps := (List.range 8).filterMap fun r =>
      let own := good.filter fun d => d.region == r
      let need := s.compDemand t info own
      let have_ := s.regionReserve t r
      if !own.isEmpty && decide (have_ < need) then
        some (r, AdmFail.wide 7 0 (r * 2 ^ 16 + min need 255 * 2 ^ 8 + min have_ 255))
      else none
    let engines := sumNat ((good.filter fun d => (entryOf info (s.profile t d.inPort)).watch).map fun d =>
      d.burst + ceilNat (scanTerm d.scan (s.declRate t d.inPort) / (d.interval : Nat)))
    let scan := if s.fld (F.FRM_PARAM_RC_WATCH_ADM t) < engines then [AdmFail.wide 9 0 (min engines 255)] else []
    let resv := s.resvCells t info bounded
    let room := if recheck then
        (393216 - 12288 * ((List.range 32).filter fun b => s.bankFenced b).length) / 2
      else 196608
    let buffer := if room < resv then [AdmFail.wide 0xA 0 resv] else []
    let ofRecords := (fields ++ results.filterMap Prod.fst)
    let sorted := sortedBy ofRecords
    let fails := early ++ comps.map Prod.snd ++ scan ++ buffer ++ late ++ sorted
    let dead := fun (f : AdmFail) =>
      f.code == 1 && bounded.any fun x => x.2.idx == f.record && x.2.awakeOk && s.regionSleep [t] x.1.region
    let lost := fun (d : Decl) =>
      (sorted.any fun f => f.record == d.idx) || (comps.any fun c => c.1 == d.region) || !buffer.isEmpty
    ⟨fails, bounded.map Prod.snd, resv, if !fails.isEmpty && fails.all dead then 0xE else 0,
      (recs.filter lost).map Decl.idx⟩

/-- Word 0 of a refusal record (R255). -/
def AdmFail.word0 (f : AdmFail) : W64 :=
  w64 (f.code * 2 ^ 56 + f.record * 2 ^ 44 + f.stream * 2 ^ 29 + f.port * 2 ^ 22 + b2n f.forme * 2 ^ 21)

/-- Write what a check found: BOUND of every evaluated record, the terms, the refusal records and ADM_SUMMARY (R247,
R255, R258). -/
def State.recordCheck (s : State) (t : Nat) (r : AdmResult) : State :=
  let u := r.bounds.foldl (fun (u : State) b =>
    u.setReg (R.FRM_DECL t b.idx 2) (setBits (u.decl t b.idx 2) 31 0 b.bound)) s
  let kept := u.forme.terms.filter fun x => x.1 / 4096 != t
  let terms := r.bounds.foldl (fun (m : Tbl (List Nat)) b => tput (fun _ => []) m (4096 * t + b.idx) b.terms) kept
  let u := { u with forme := { u.forme with terms := terms } }
  let shown := r.fails.take 256
  let u := (shown.zip (List.range 256)).foldl (fun (u : State) x =>
    (u.setReg (R.ADM_REFUSE x.2 0) x.1.word0).setReg (R.ADM_REFUSE x.2 1) (w64 x.1.detail)) u
  u.setReg R.ADM_SUMMARY (w64 ((if r.fails.isEmpty then 1 else 2) * 2 ^ 28 + r.hint * 2 ^ 24 +
    b2n (256 < r.fails.length) * 2 ^ 23 + shown.length))

end Sys2Proof.Machine
end

