-- ==== Sys2Proof/Machine/Ingress.lean ====
section
/-! DEFINITION. The path of a frame from its last byte to its queues: the MAC's checks, link-down, lane-mode writes,
dispatch, cell requests, the Galley commit, the residue and the recirculation paths (R11 to R35, R46 to R66, R125 to R127,
R383). -/

namespace Sys2Proof.Machine

/-! ### Frames that no program sees (R23, R32, R33, R267, R293) -/

/-- A command frame of port `p` (R293). -/
def State.isCommandFrame (s : State) (p : Nat) (bs : List Byte) : Bool :=
  beAt bs 0 6 == s.ownAddr p && beAt bs 12 2 == s.fld F.CMD_NET_CFG_ETHERTYPE

/-- A frame that is consumed before any program: PAUSE and PFC, an answered peer-delay request, a command frame. -/
def State.consumed (s : State) (p : Nat) (bs : List Byte) : Bool :=
  beAt bs 12 2 == 0x8808 || s.isPdelayReq p bs || s.isCommandFrame p bs

/-- The punt policer of a port: 200,000 frames/s, one token in 3,125 cycles, a burst of 256 (R33). Answers whether the
frame passes. -/
def State.policer (s : State) (p : Nat) : Bool × State :=
  let ps := s.port p
  let gained := (s.time.cycles - ps.puntAt) / 3125
  let tokens := min 256 (ps.puntTokens + gained)
  let at_ := if tokens = 256 then s.time.cycles else ps.puntAt + 3125 * gained
  if tokens = 0 then (false, (s.setPort p { ps with puntAt := at_ }).count (R.PRT_C_PUNT_POLICE_DROP p))
  else (true, s.setPort p { ps with puntTokens := tokens - 1, puntAt := at_ })

/-! ### Dropping a received frame -/

/-- A received frame is dropped by its MAC or cut short, wherever it stands (R58, R91, R119). -/
def State.macDrop (s : State) (i : Nat) : State :=
  match s.frame i with
  | none => s
  | some f => match f.stage with
    | .running c => s.abandon c (R.CMP_C_ABANDONED (c / 8) (c % 8))
    | .committed => (s.modFrame i fun g => { g with complete := true }).goBad i fun t => t
    | .dropped => match s.runner i with
      | some c => s.abandon c (R.CMP_C_ABANDONED (c / 8) (c % 8))
      | none => (s.dropFrame i).checkSettled
    | _ => s.loseFrame i

/-- Release the staging place and the cells of a frame that is consumed. -/
def State.consume (s : State) (i : Nat) : State := s.loseFrame i

/-! ### FRAME_END (R23, R24, R32, R33, R35, R293) -/

/-- The FCS of a received frame: good, bad, or exactly inverted. -/
inductive FcsCheck where
  | good
  | bad
  | stomped
  deriving DecidableEq, Repr

def fcsCheck (bs : List Byte) : FcsCheck :=
  let want := fcsOf (bs.take (bs.length - 4))
  let got := bs.drop (bs.length - 4)
  if got = want then .good else if got = want.map fun b => ~~~ b then .stomped else .bad

/-- A command frame reaches the command unit, through the policer and the port's role (R35, R293). Role NONE permits no
command. -/
def State.takeCommand (s : State) (p i : Nat) (f : Frame) : State :=
  let (ok, t) := s.policer p
  if ok = false then t.consume i
  else if f.role = 0 then (((t.count (R.PRT_C_CMD_ROLE_DROP p)).raisePort p 5).raiseG 41 3).consume i
  else (t.consume i).commandFrame p f.role f.bytes

/-- A frame that arrived before the first lock-up: one for the port's own address is punted with reason 0, every other
one is dropped (R32; the reason is a DESIGN CHOICE, log entry 36). -/
def State.preLockup (s : State) (p i : Nat) (f : Frame) : State :=
  if beAt f.bytes 0 6 = s.ownAddr p then
    let (ok, t) := s.policer p
    if ok then
      let t := t.reown f.cells 0x12
      let ps := t.port p
      let t := t.setPort p { ps with staging := ps.staging.filter (· != i) }
      let t := (t.modFrame i fun g => { g with stage := .committed }).acquire i
      (t.puntFrame i 0).release i 0x11
    else t.consume i
  else (s.count (R.PRT_C_RX_PRE_LOCKUP_DROP p)).consume i

/-- A complete frame that passed R23. -/
def State.received (s : State) (p i : Nat) (f : Frame) : State :=
  if beAt f.bytes 12 2 = 0x8808 then (s.count (R.PRT_C_RX_PAUSE_DROP p)).consume i
  else if s.isPdelayReq p f.bytes then (s.pdelayRequest p f).consume i
  else if s.isCommandFrame p f.bytes then s.takeCommand p i f
  else if f.tag = 2 then s.preLockup p i f
  else s

/-- A far-end PCS loopback sends what the lane receives (R37; log entry 95). -/
def State.farEnd (s : State) (p : Nat) (bytes : List Byte) : State :=
  if s.loop p = 2 then s.emit (.frame p bytes false false) else s

/-- The frame that port `p` receives ends (R23). A frame too short or too long is counted for its length alone,
whatever its FCS (DESIGN CHOICE, log entry 101). -/
def State.endFrame (s : State) (p : Nat) (assemblyErr : Bool) : State :=
  match (s.port p).rx with
  | none => s
  | some i =>
    let t := s.setPort p { s.port p with rx := none }
    match t.frame i with
    | none => t
    | some f =>
      let len := f.bytes.length
      let t := t.farEnd p f.bytes
      if assemblyErr then t.macDrop i
      else if len < 64 then (t.count (R.PRT_C_RX_RUNT p)).macDrop i
      else if t.maxFrame p < len then (t.count (R.PRT_C_RX_OVERSIZE p)).macDrop i
      else match fcsCheck f.bytes with
        | .bad => (t.count (R.PRT_C_RX_FCS_ERR p)).macDrop i
        | .stomped => (t.count (R.PRT_C_RX_STOMPED p)).macDrop i
        | .good =>
          let t := (t.count (R.PRT_C_RX_FRAMES_OK p)).countN (R.PRT_C_RX_BYTES_OK p) len
          if f.stage = .dropped then
            match t.runner i with
            | some _ => (t.setFrame i { f with complete := true }).endStall i
            | none => (t.dropFrame i).checkSettled
          else
            let t := (t.setFrame i { f with complete := true }).endStall i
            match f.stage with
            | .staged => t.received p i { f with complete := true }
            | _ => t

/-- FRAME_END. -/
def execFrameEnd (p : Port) (fragments smdErrs : Nat) (assemblyErr : Bool) (s : State) : Out State :=
  .next (
    let t := (s.countN (R.PRT_C_MERGE_RX_FRAGMENTS p) fragments).countN (R.PRT_C_MERGE_RX_SMD_ERR p) smdErrs
    let t := if assemblyErr then t.count (R.PRT_C_MERGE_RX_ASSEMBLY_ERR p) else t
    t.endFrame p assemblyErr)

/-- A frame that port `p` sends in near-end loopback is what it receives (R37; log entry 95): unless the port is
receiving one already or receives none, it passes the ingress boundary whole. -/
def State.nearEnd (s : State) (p : Nat) (bytes : List Byte) : State :=
  if (s.port p).rx.isSome then s
  else
    let t := s.startFrame p
    if (t.port p).rx.isSome then (t.takeBytes p bytes).endFrame p false else t

/-- What port `p` sends: onto the lane, or back into its own receiver in near-end loopback; in far-end loopback the lane
carries what it receives, and the port's own frames do not leave (R37; log entry 95). -/
def State.sendFrame (s : State) (p : Nat) (bytes : List Byte) (stomped aborted : Bool) : State :=
  if s.loop p = 0 ∨ s.loop p = 3 then s.emit (.frame p bytes stomped aborted)
  else if s.loop p = 1 ∧ aborted = false then s.nearEnd p bytes
  else s

/-! ### Link-down (R28 to R30) -/

/-- Count a frame that link-down takes out of queue `q`. -/
def State.ldCount (s : State) (p q : Nat) (admitted : Bool) : State :=
  (s.count (if admitted then R.PRT_C_LD_ADMITTED_DISCARD p else R.PRT_C_LD_BE_FLUSH p)).count (R.EGR_Q_C_LD_DROP q)

/-- Flush every queue of a port whose hold time has ended (R29). -/
def State.flushHeld (s : State) (p : Nat) : State :=
  (s.busyQueues p).foldl (fun t q => t.removeRefs q (fun _ _ => true) fun u _ => u.ldCount p q false) s

/-- The edits of a frame on the wire that changed nothing are counted (R227, R266). -/
def State.countSkips (s : State) (skips range : Nat) : State :=
  let t := if skips = 0 then s else (s.countN R.EGR_C_EDIT_SKIP skips).raiseG 40 6
  if range = 0 then t else (t.countN R.TIM_C_CF_RANGE range).raiseG 42 5

/-- A one-step peer-delay response, whose twoStepFlag is 0, gets its turnaround when it leaves (R267): correctionField
is at byte 22. After a step backwards the turnaround is negative. -/
def Frame.pdelayBody (f : Frame) (tx : Stamp) : Frame :=
  match f.src with
  | .pdelay _ false cf rx =>
    if bitOf (f.bytes.getD 20 0) 1 then f
    else { f with bytes := overwrite f.bytes 22 (toBE 8 (wrap 64 ((cf : Int) + (tx : Int) - (rx : Int)))) }
  | _ => f

/-- The frame on the wire as the edit unit makes it, with what it read at the start (R227). -/
def State.wireEdited (s : State) (p : Nat) (w : TxFrame) (f : Frame) : List Byte × Nat × Nat :=
  s.edited w.env (f.pdelayBody w.tx) p w.ref.mirror w.tx

/-- A frame partly transmitted is abandoned (R28); the edits that its start refused are counted (R266). -/
def State.abortTx (s : State) (p : Nat) (w : TxFrame) : State :=
  let t := match s.frame w.ref.frame with
    | some f => s.countSkips (s.wireEdited p w f).2.1 (s.wireEdited p w f).2.2
    | none => s
  ((t.count (R.PRT_C_TX_ABORTED p)).sendFrame p w.bytes w.stomp true).removeRef w.queue w.ref

/-- A frame that is partly received is cut short: RX_FRAGMENT, and the drop of R28. -/
def State.cutRx (s : State) (p : Nat) : State :=
  match (s.port p).rx with
  | none => s
  | some i =>
    let t := s.setPort p { s.port p with rx := none }
    (t.count (R.PRT_C_RX_FRAGMENT p)).macDrop i

/-- The link is declared down now (R28). -/
def State.linkDownNow (s : State) (p : Nat) : State :=
  let t := (s.setFlag (F.PRT_STATUS_LINK_UP p) false).setFlag (F.PRT_STATUS_AN_DONE p) false
  let t := (t.setPort p { t.port p with downDeb := false, upDeb := false }).raisePort p 0
  let hold := decide (t.fld (F.PRT_LINK_TIMING_HOLD p) ≠ 0)
  let t := t.setFlag (F.PRT_STATUS_HOLDING p) hold
  let eg := t.egrPort p
  let cut := [eg.wire, eg.preempted].filterMap id
  let t := cut.foldl (fun u w => u.bringCredit w.queue) t
  let t := t.setEgr p { eg with wire := none, picked := none, preempted := none }
  let t := cut.foldl (fun u w => u.abortTx p w) t
  let t := (t.busyQueues p).foldl (fun u q => u.removeRefs q (fun _ f => f.admitted) fun v _ => v.ldCount p q true) t
  let t := t.cutRx p
  let t : State :=
    if hold then
      (t.busyQueues p).foldl (fun u q =>
        let eq := u.queue q
        u.setQueue q { eq with refs := eq.refs.map fun r => { r with held := true } }) t
    else t.flushHeld p
  (t.restartMerge p).linkDownFlush p

/-- LINK_DOWN: the down debounce expires (R27, R28). -/
def execLinkDown (p : Port) (s : State) : Out State :=
  .next (if (s.port p).downDeb && s.flag (F.PRT_STATUS_LINK_UP p) then s.linkDownNow p else s)

/-- HOLD_TIME_EXPIRY (R29). -/
def execHoldTimeExpiry (p : Port) (s : State) : Out State :=
  .next (
    if s.flag (F.PRT_STATUS_HOLDING p) then (s.setFlag (F.PRT_STATUS_HOLDING p) false).flushHeld p else s)

/-- The link is brought down by the device itself: only an up link has a link-down. -/
def State.forceDown (s : State) (p : Nat) : State := if s.flag (F.PRT_STATUS_LINK_UP p) then s.linkDownNow p else s

/-- An accepted or refused PRT_MODE write (R19 to R21). A change of mode takes the receive signal away until the lane
has trained again (DEDUCED, log entry 93), and a port made DISABLED is one whose hold time has ended (R29). -/
def State.modeWrite (s : State) (p : Nat) (v : W32) : State :=
  let code := s.modeRefusal p v
  if code ≠ 0 then (s.setFld (F.PRT_STATUS_REFUSE_CODE p) code).raisePort p 2
  else
    let m := bitsOf v 2 0
    let change := m != s.fld (F.PRT_MODE_MODE p) || bitsOf v 5 4 != s.fld (F.PRT_MODE_FEC p)
    let t := (s.plainWrite (R.PRT_MODE p) (v.setWidth 64)).setFld (F.PRT_STATUS_REFUSE_CODE p) 0
    if change then
      let t := t.forceDown p
      let t := if p % 4 = 0 then
          [1, 2, 3].foldl (fun u k => u.setFlag (F.PRT_STATUS_FUSED_SUB (p + k)) (m == 6)) t
        else t
      let t := ((t.setFlag (F.PRT_STATUS_PCS_LOCK p) false).setFlag (F.PRT_STATUS_TRAINING p) false).setSignal p false
      let t := t.setPort p { t.port p with modePending := true, downDeb := false, upDeb := false }
      if m = 0 then (t.setFlag (F.PRT_STATUS_HOLDING p) false).flushHeld p else t
    else t

/-- PRT_MODE_WRITE. -/
def execPrtModeWrite (p : Port) (v : W32) (s : State) : Out State :=
  .next (s.byHost (R.PRT_MODE p) fun s => s.modeWrite p v)

/-! ### The dispatcher's choice (R13 to R16, R383) -/

/-- The six eligible cases of region `r`, its own first. -/
def eligible (r : Nat) : List Nat :=
  [2 * r, 2 * r + 1, 2 * ((r + 1) % 8), 2 * ((r + 1) % 8) + 1, 2 * ((r + 7) % 8), 2 * ((r + 7) % 8) + 1]

/-- The compositors of case `c` that are reserved: its lowest unfenced ones (DESIGN CHOICE, log entry 37). -/
def State.reservedComps (s : State) (c : Nat) : List Nat :=
  (((List.range 8).map fun i => 8 * c + i).filter fun k => !s.compFenced k).take (s.effReserve c)

def State.unreservedComps (s : State) (c : Nat) : List Nat :=
  (((List.range 8).map fun i => 8 * c + i).filter fun k => !s.compFenced k).drop (s.effReserve c)

/-- The first of some compositors that holds no frame. -/
def State.freeComp (s : State) (ks : List Nat) : Option Nat := ks.find? fun k => (s.comp k).frame.isNone

/-- A case that accepts frames: awake, unfenced, not under repair. -/
def State.caseOpen (s : State) (c : Nat) : Bool :=
  s.fld (F.PWR_CASE_STATE c) == 0 && !s.caseFenced c && (s.caseOf c).repair.isEmpty

/-- Where a frame goes. -/
inductive Choice where
  | comp (k : Nat)
  | drop
  | wait
  deriving DecidableEq, Repr

/-- The case with the greatest thermal headroom: the first of the list on a tie (R383). -/
def State.coolest (s : State) (cs : List Nat) : Option Nat :=
  cs.foldl (fun m c => match m with
    | none => some c
    | some d => if s.sensor c < s.sensor d then some c else some d) none

/-- The tie order of R383: the own region, then the lower case number. -/
def tieOrder (r : Nat) : List Nat :=
  [2 * r, 2 * r + 1] ++ (List.range 16).filter fun c => (eligible r).contains c && c / 2 != r

/-- The choice for a frame of region `r`: of an admitted port, or best-effort with its port's DEF_CLASS (R383). Of
several cases in one step of R383 the one with the greatest headroom is taken (R13; for the two cases of an admitted
frame's own region DEDUCED, log entry 102). -/
def State.choose (s : State) (r : Nat) (adm : Bool) (cls : Nat) : Choice :=
  if adm then
    let own := [2 * r, 2 * r + 1].filter fun c => s.caseOpen c && (s.freeComp (s.reservedComps c)).isSome
    match (s.coolest own).bind fun c => s.freeComp (s.reservedComps c) with
    | some k => .comp k
    | none =>
      let f := min (s.effFloor (2 * r)) (s.effFloor (2 * r + 1))
      let cs := (tieOrder r).filter fun c => c / 2 != r && s.caseOpen c && !s.caseSheds c &&
        decide (f ≤ s.casePoint c) && (s.freeComp (s.unreservedComps c)).isSome
      match (s.coolest cs).bind fun c => s.freeComp (s.unreservedComps c) with
      | some k => .comp k
      | none => .wait
  else
    let withheld := decide (6 ≤ s.pwr.step) && decide (cls + 6 ≤ s.pwr.step)
    let cs := (tieOrder r).filter fun c => !withheld && s.caseOpen c && !s.caseSheds c &&
      (s.freeComp (s.unreservedComps c)).isSome
    match (s.coolest cs).bind fun c => s.freeComp (s.unreservedComps c) with
    | some k => .comp k
    | none => if 6 ≤ s.pwr.step then .drop else .wait

/-- A frame's header window is present (R14). -/
def Frame.windowOk (f : Frame) : Bool := f.complete || decide (192 ≤ f.bytes.length)

/-- The frame that port `p` may offer: its oldest staged one, tagged with a forme, its header window present and not
one that is consumed, while the reorder buffer has room (R16, R125). -/
def State.offered (s : State) (p : Nat) : Option (Nat × Frame) :=
  if 64 ≤ (s.port p).reorder.length then none
  else match (s.port p).staging.head? with
    | none => none
    | some i => match s.frame i with
      | some f => if f.tag < 2 && f.windowOk && !s.consumed p f.bytes then some (i, f) else none
      | none => none

/-- DEF_CLASS of a frame's ingress port in its tagged forme. -/
def State.defClass (s : State) (f : Frame) : Nat := s.fld (F.FRM_PORT_DECL_DEF_CLASS f.tag f.inPort)

/-- The frames that a region's dispatchers offer to case `c` now: whether each is of an admitted class. -/
def State.offersTo (s : State) (r c : Nat) : List Bool :=
  let one := fun (f : Frame) => match s.choose r f.admPort (s.defClass f) with
    | .comp k => if k / 8 = c then [f.admPort] else []
    | _ => []
  ((List.range 16).flatMap fun k => match s.offered (16 * r + k) with
    | some x => one x.2
    | none => []) ++
  (match (s.path r).head?.bind s.frame with
    | some f => one f
    | none => [])

/-- Case `c` accepts an offer of region `r`, in the order of R14: admitted classes first, then its own region, then the
two neighbours in rotating priority. -/
def State.accepts (s : State) (c r : Nat) (adm : Bool) : Bool :=
  let own := c / 2
  let up := (own + 1) % 8
  let down := (own + 7) % 8
  let offers := [own, up, down].map fun x => (x, s.offersTo x c)
  let has := fun (x : Nat) (b : Bool) => offers.any fun o => o.1 == x && o.2.contains b
  let rank := fun (x : Nat) => if x = own then 0 else if (x = up) = ((s.caseOf c).upperFirst = true) then 1 else 2
  let better := fun (b : Bool) => [own, up, down].any fun x => decide (rank x < rank r) && has x b
  if adm then !better true else !([own, up, down].any fun x => has x true) && !better false

/-- After an offer of a neighbour is accepted, the other neighbour comes first (R14). -/
def State.rotate (s : State) (c r : Nat) : State :=
  if r = c / 2 then s else s.setCase c { s.caseOf c with upperFirst := decide (r ≠ (c / 2 + 1) % 8) }

/-- Entry `e` of tag `t`'s image: its first address. -/
def State.entryAddr (s : State) (t e : Nat) : Nat :=
  (((s.image t).entries.find? fun x => x.1 == e).map Prod.snd).getD 0

/-- Compositor `k` begins a pass of frame `i` at an entry (R71 to R73, R102, R127). The frame memory of a further pass
fills from the Galley from now on. -/
def State.startPass (s : State) (i k entry : Nat) (f : Frame) : State :=
  let scratch := (s.comp k).scratch
  let carried := decide (0 < f.pass)
  let t := s.setFrame i { f with stage := .running k, act := .none }
  t.setComp k { CompState.init with
    frame := some i
    scratch := if carried then Memory.writeN 0 scratch 0 f.passScratch else scratch
    pc := s.entryAddr f.tag entry, entry := entry, qoff := f.qoff
    user := if carried then f.user else 0
    wbl := f.wbl, tsreq := f.tsreq, edits := f.edits
    fill := if carried then some s.time.cycles else none }

/-- A waiting best-effort frame that no awake eligible case can accept wakes a sleeping case of its own region (R379).
-/
def State.wakeForWaiting (s : State) (r : Nat) : State :=
  let own := [2 * r, 2 * r + 1]
  if own.any fun c => s.fld (F.PWR_CASE_STATE c) == 3 then s
  else match own.find? fun c => decide (s.fld (F.PWR_CASE_STATE c) ∈ [1, 2]) && !s.caseFenced c && !s.caseSheds c with
    | some c => s.wakeCase c
    | none => s

/-- A frame is dropped at dispatch under shedding (R383). -/
def State.shedDrop (s : State) (r : Nat) (f : Frame) : State :=
  (s.count (R.PWR_C_SHED_DROP (s.defClass f))).raiseRegion r 2

/-- DISPATCH. -/
def execDispatch (p : Port) (s : State) : Out State :=
  .next (
    let r := p.val / 16
    match s.offered p with
    | none => s
    | some (i, f) =>
      let s := s.wakesEnd (eligible r)
      match s.choose r f.admPort (s.defClass f) with
      | .drop => (s.shedDrop r f).loseFrame i
      | .wait => if f.admPort then s.wakeForAdmitted p else s.wakeForWaiting r
      | .comp k =>
        if s.accepts (k / 8) r f.admPort = false then s.offerCase (k / 8)
        else
          let ps := s.port p
          let t := s.setPort p { ps with
            staging := ps.staging.filter (· != i)
            reorder := ps.reorder ++ [i] }
          let t := if ps.reorder.length = 63 then t.raiseRegion r 0 else t
          let t := (t.offerCase (k / 8)).rotate (k / 8) r
          t.startPass i k (s.fld (F.FRM_PORT_DECL_PROFILE f.tag p)) f)

/-- The frame at the head of a recirculation path is dropped: its pass-record cell is freed and its reference released
(R47, R127). -/
def State.pathDrop (s : State) (r i : Nat) : State :=
  match s.frame i with
  | none => s
  | some f =>
    let (g, t) := s.freePassCell f
    (t.setFrame i { g with stage := .committed }).release i (0x08 + r)

/-- RECIRC_DROP of region `r` (R47, R68). -/
def State.recircDropped (s : State) (r : Nat) : State := (s.count (R.GAL_C_RECIRC_DROP r)).raiseG 36 (23 + r)

/-- RECIRC_OFFER: the path reads its head frame and offers its fresh pass (R126, R127). -/
def execRecircOffer (r : Region) (ecc : EccRead) (s : State) : Out State :=
  .next (
    match s.path r with
    | [] => s
    | i :: rest => match s.frame i with
      | none => s.setPath r rest
      | some f =>
        let (fails, s) := s.readFrame f.cells ecc
        if fails then ((s.setPath r rest).recircDropped r).pathDrop r i
        else
          let s := s.wakesEnd (eligible r)
          match s.choose r f.admPort (s.defClass f) with
          | .drop => ((s.setPath r rest).shedDrop r f).pathDrop r i
          | .wait => if f.admPort then s.wakeForAdmitted f.inPort else s.wakeForWaiting r
          | .comp k =>
            if s.accepts (k / 8) r f.admPort = false then s.offerCase (k / 8)
            else
              let entry := match f.act.dlv with
                | some (.second e) => e
                | _ => 0
              let (g, t) := s.freePassCell f
              let t := ((t.setPath r rest).offerCase (k / 8)).rotate (k / 8) r
              let t := t.setPort f.inPort { t.port f.inPort with again := (t.port f.inPort).again ++ [i] }
              (t.startPass i k entry { g with pass := f.pass + 1, refcnt := f.refcnt - 1 }).serveAll)

/-- CASE_BACKLOG (R99). -/
def execCaseBacklog (c : Case) (s : State) : Out State :=
  .next (
    let ks := ((List.range 8).map fun i => 8 * c.val + i).filter fun k => !s.compFenced k
    if !ks.isEmpty && ks.all fun k => (s.comp k).frame.isSome then s.raiseCase c 3 else s)

/-! ### Cell requests (R46, R47, R53, R60, R126) -/

/-- What a frame still lacks: a data cell, or its edit cell. -/
def State.lacks (s : State) (i : Nat) (f : Frame) : Bool × Bool :=
  let edits := match f.stage with
    | .running c => if (s.comp c).frame = some i then (s.comp c).edits else f.edits
    | _ => f.edits
  (decide (f.cells.length < dataCells f.bytes.length), !edits.isEmpty && f.editCell.isNone && !f.noCell)

/-- The oldest frame of port `p` that lacks a cell. -/
def State.wantsCell (s : State) (p : Nat) : Option (Nat × Frame) :=
  (s.frames.find? fun x => match x.2 with
    | some f => (match f.src with
        | .port q => q == p
        | _ => false) && f.stage != .dropped && ((s.lacks x.1 f).1 || (s.lacks x.1 f).2)
    | none => false).bind fun x => x.2.map fun f => (x.1, f)

/-- Its ingress port carries an admitted stream in the active forme (R60). -/
def State.mayUseReserve (s : State) (p : Nat) : Bool :=
  match s.activeTag with
  | some t => s.admittedPort t p
  | none => false

/-- A cell granted to an ingress frame: chained, and owned by the queue manager once the frame has committed (R42). A
later cell of an ADMITTED frame is charged to the reserved pool while it has room (R61). -/
def State.takeCell (s : State) (i : Nat) (f : Frame) (data charged : Bool) (c : Nat) : State :=
  let late := f.stage == .committed || decide (0 < f.pass)
  let t := if late then s.setCellRam c (cellByte 1 0x12) else s
  let more := f.stage == .committed && f.admitted && !charged && decide (t.gal.resvUsed < t.resvSize)
  let t : State := if more then { t with gal := { t.gal with resvUsed := t.gal.resvUsed + 1 } } else t
  let resv := f.resv + b2n (charged || more)
  if data then (t.linkCell f.cells.getLast? c).setFrame i { f with cells := f.cells ++ [c], resv := resv }
  else t.setFrame i { f with editCell := some c, resv := resv }

/-- NONE for an ingress frame (R47, R124). -/
def State.ingressNone (s : State) (p i : Nat) (f : Frame) (data : Bool) : State :=
  let t := s.count R.GAL_C_NONE_INGRESS
  if data = false then t.setFrame i { f with noCell := true }
  else if f.stage = .committed then t.goBad i fun u => (u.count (R.PRT_C_POOL_DROP p f.cls)).raisePort p 4
  else ((t.count (R.PRT_C_POOL_DROP p f.cls)).raisePort p 4).loseFrame i

/-- Bytes of the frames of a path, of one kind. -/
def State.pathBytes (s : State) (r : Nat) (adm : Bool) : List Nat :=
  (s.path r).filterMap fun i => match s.frame i with
    | some f => if f.admitted = adm then some f.len else none
    | none => none

/-- A frame may join its recirculation path (R127). -/
def State.mayJoin (s : State) (r : Nat) (f : Frame) : Bool :=
  let held := s.pathBytes r f.admitted
  let bytes := held.foldl (· + ·) f.len
  if f.admitted then decide (held.length + 1 ≤ 63) && decide (bytes ≤ 49152) else decide (bytes ≤ s.rcBeBytes)

/-- The pass-record cell of the frame that waits first is granted: it joins the path or is dropped (R126, R127). -/
def State.joinPath (s : State) (r i c : Nat) (charged : Bool) (f : Frame) : State :=
  let g := { f with passCell := some c, passResv := charged, resv := f.resv + b2n charged }
  let t := s.setFrame i g
  if t.mayJoin r g then (t.setFrame i { g with stage := .recirc }).setPath r (t.path r ++ [i])
  else (t.raiseRegion r 1).pathDrop r i

/-- One request, in its place in the order: the banks used so far, whether a grant was made, and the state. -/
def State.oneRequest (s : State) (used : List Nat) (req : CellReq) (bad : Bool) : Bool × List Nat × State :=
  match req with
  | .ingress p => match s.wantsCell p with
    | none => (false, used, s)
    | some (i, f) =>
      let data := (s.lacks i f).1
      let (g, used, charged, t) := s.request (p.val / 16) (s.mayUseReserve p) bad used
      match g with
      | .cell c => (true, used, t.takeCell i f data charged c)
      | .none => (false, used, t.ingressNone p i f data)
      | .wait => (false, used, t)
  | .recirc r => match s.waitPass r with
    | [] => (false, used, s)
    | i :: rest => match s.frame i with
      | none => (false, used, s.setWaitPass r rest)
      | some f =>
        let (g, used, charged, t) := s.request (0x08 + r.val) f.admitted bad used
        match g with
        | .cell c => (true, used, (t.setWaitPass r rest).joinPath r i c charged f)
        | .none => (false, used, (((t.setWaitPass r rest).count R.GAL_C_NONE_RECIRC).recircDropped r).pathDrop r i)
        | .wait => (false, used, t)
  | .capture =>
    if s.arc.queue.isEmpty || s.arc.recCell.isSome then (false, used, s)
    else
      let (g, used, _, t) := s.request 0x10 false bad used
      match g with
      | .cell c => (true, used, t.modArc fun a => { a with recCell := some c })
      | .none => (false, used, t.capNone)
      | .wait => (false, used, t)
  | .hostDma k =>
    if (s.injectNeeds k).1 || (s.injectNeeds k).2 then
      let (g, used, _, t) := s.request 0x11 false bad used
      (match g with
        | .cell _ => true
        | _ => false, used, t.injectGrant k g)
    else (false, used, s)

/-- The kind of a requester (R46), and its region within the kind. -/
def reqKind : CellReq → Nat × Nat
  | .ingress p => (0, p.val / 16)
  | .capture => (1, 0)
  | .hostDma _ => (2, 0)
  | .recirc r => (3, r.val)

/-- The requests of a cycle in the arbiter's order (R46). -/
def State.arbOrder (s : State) (reqs : List (CellReq × Bool)) : List (CellReq × Bool) :=
  s.gal.kinds.flatMap fun k =>
    let mine := reqs.filter fun x => (reqKind x.1).1 == k
    let regions := if k = 0 then s.gal.ingressOrder else if k = 3 then s.gal.recircOrder else [0]
    regions.flatMap fun r => mine.filter fun x => (reqKind x.1).2 == r

/-- An element moved to the end of a rotating order. -/
def toLast (l : List Nat) (x : Nat) : List Nat := l.filter (· != x) ++ [x]

/-- CELL_REQUEST: the requests of one cycle (R46, R47). -/
def execCellRequest (reqs : List (CellReq × Bool)) (s : State) : Out State :=
  .next (
    let order := s.arbOrder reqs
    let r := order.foldl (fun (x : List CellReq × List Nat × State) q =>
      let (got, used, t) := x.2.2.oneRequest x.2.1 q.1 q.2
      (if got then x.1 ++ [q.1] else x.1, used, t)) ([], [], s)
    let granted := r.1.map reqKind
    let t := r.2.2
    let first := fun k => (granted.find? fun x => x.1 == k).map Prod.snd
    let g := t.gal
    let g := match granted.head? with
      | some x => { g with kinds := toLast g.kinds x.1 }
      | none => g
    let g := match first 0 with
      | some a => { g with ingressOrder := toLast g.ingressOrder a }
      | none => g
    let g := match first 3 with
      | some a => { g with recircOrder := toLast g.recircOrder a }
      | none => g
    { t with gal := g })

/-- SWEEP_DONE (R45). -/
def execSweepDone (b : Fin 32) (s : State) : Out State :=
  .next (if bitOf s.gal.sweeping b then s.sweepEnd b else s)

/-- CELL_FREE: one free request, by index or by internal address (R48, R49). -/
def execCellFree (requester : BitVec 6) (byAddress : Bool) (x : BitVec 40) (s : State) : Out State :=
  .next (if byAddress then s.freeAddr requester.toNat x.toNat else s.freeCell requester.toNat x.toNat).serveAll

/-! ### The Galley commit (R56, R60 to R66, R117 to R127) -/

/-- The admitted stream's declaration requests cut-through: a record of the tag names the ports and the offset with
CUT = 1 (R56; which record is DEDUCED, log entry 35). -/
def State.cutDeclared (s : State) (t inp outp qoff : Nat) : Bool :=
  (List.range (s.ndecl t)).any fun i =>
    let w := s.decl t i 0
    bitOf w 63 && bitOf w 62 && bitsOf w 46 40 == inp && bitsOf w 39 33 == outp && bitsOf w 32 26 == qoff

/-- R56 for a unicast frame to a queue offset of a port. -/
def State.cutOk (s : State) (f : Frame) (outp qoff : Nat) : Bool :=
  let p := f.inPort
  bitOf (s.reg (R.GAL_CUT_PORT (p / 32))) (p % 32) &&
  (if s.admClass f.tag (qoff / 16) then s.cutDeclared f.tag p outp qoff
    else bitOf (s.reg R.GAL_CUT_CLASS) (qoff / 16)) &&
  decide (s.portRate outp ≤ s.portRate p) && (s.queue (128 * outp + qoff)).refs.isEmpty && !f.stored

/-- The delivery that a frame's action set comes to: a FORK reads its entry now, and an entry that is invalid, fenced or
bad makes it DROP (R120, R151, R153). The queue offset is the frame's unless the entry replaces it. -/
def State.resolveDelivery (s : State) (f : Frame) (forkBad : Bool) : Delivery × Nat × State :=
  match f.act.dlv with
  | some (.fork table index) =>
    let a := forkAddr f.tag table index
    if s.bankOut 5 a then (.drop, f.qoff, s)
    else if forkBad then (.drop, f.qoff, s.paritySeen 5 a)
    else
      let w := entryWord (s.entry 5 a) 0
      if bitOf w 63 then (.fwd (bitsOf w 54 48), if bitOf w 62 then bitsOf w 61 55 else f.qoff, s)
      else (.drop, f.qoff, s)
  | some d => (d, f.qoff, s)
  | none => (.drop, f.qoff, s)

/-- Charge a committing frame's cells (R61): none when the frame is dropped. -/
def State.chargeCells (s : State) (f : Frame) : Option (Frame × State) :=
  let put := fun (t : State) (n : Nat) => ({ t with gal := { t.gal with resvUsed := n } } : State)
  if f.admitted then
    let n := f.cells.length + f.editCell.toList.length
    let more := n - f.resv
    let room := s.resvSize - s.gal.resvUsed
    let surplus := more - min more room
    let t := put s (s.gal.resvUsed + min more room)
    some ({ f with resv := f.resv + min more room },
      if surplus = 0 then t else (t.countN R.GAL_C_RESV_OVERFLOW surplus).raiseG 36 5)
  else if f.resv = 0 then some (f, s)
  else if s.freeUnres < f.resv then none
  else some ({ f with resv := 0 }, (put s (s.gal.resvUsed - f.resv)).poolEvents s)

/-- The ports of a multicast that wait become a residue entry, or lose the frame at once (R64 to R66). A fenced port is
never kept in a mask. -/
def State.makeResidue (s : State) (i qoff : Nat) (waiting : List Nat) : State :=
  let fenced := waiting.filter fun p => s.laneFenced p
  let rest := waiting.filter fun p => !s.laneFenced p
  let t := s.countN R.GAL_C_RESIDUE_TIMEOUT_DROP fenced.length
  let timeout := t.fld F.GAL_RESIDUE_CFG_TIMEOUT
  if rest.isEmpty then t
  else if timeout = 0 then (t.countN R.GAL_C_RESIDUE_TIMEOUT_DROP rest.length).raiseG 36 6
  else match (List.range 16384).find? fun k => (tget (fun _ => none) t.gal.residue k).isNone with
    | none => (t.countN R.GAL_C_RESIDUE_FULL_DROP rest.length).raiseG 36 7
    | some k =>
      let mask := rest.foldl (fun m p => m ||| BitVec.ofNat 128 (2 ^ p)) 0
      let e : Residue := ⟨i, mask, qoff, t.time.cycles, timeout, t.gal.residueSeq⟩
      let t : State := { t with gal := { t.gal with
        residue := tput (fun _ => none) t.gal.residue k (some e)
        residueSeq := t.gal.residueSeq + 1 } }
      (t.modFrame i fun f => { f with residue := some k }).acquire i

/-- What the delivery of a committed frame does (R120). -/
def State.deliver (s : State) (i : Nat) (f : Frame) (d : Delivery) : State :=
  match d with
  | .fwd port =>
    let q := 128 * port + f.qoff
    if s.threshOk q f then s.enqueue q i false else s.threshDrop q
  | .mcast mask =>
    let qs := maskPorts mask
    let ok := qs.filter fun p => s.threshOk (128 * p + f.qoff) f
    let t := ok.foldl (fun u p => u.enqueue (128 * p + f.qoff) i false) s
    t.makeResidue i f.qoff (qs.filter fun p => !ok.contains p)
  | .punt reason =>
    let (pass, t) := s.policer f.inPort
    if pass then t.puntFrame i reason else t
  | _ => s

/-- Mirrors, capture mark and capture trigger of a retiring pass (R118, R119, R122). -/
def State.sideActions (s : State) (i : Nat) (f : Frame) : State :=
  let t := f.act.mirrors.foldl (fun u m =>
    u.enqueue (128 * u.fld (F.FRM_MIRROR_PORT f.tag m) + u.fld (F.FRM_MIRROR_QOFF f.tag m)) i true) s
  let t := match f.act.capmark with
    | some sel => t.capMark i sel
    | none => t
  match f.act.captrig with
  | some cause => t.trigger 1 cause (s.passStamp f)
  | none => t

/-- A frame that has all cells it needs, or will get no edit cell. -/
def State.cellsReady (s : State) (i : Nat) (f : Frame) : Bool :=
  let l := s.lacks i f
  !l.2 && (if f.complete then !l.1 else !f.cells.isEmpty)

/-- The frame may commit now: past END, with its cells, and complete unless it is forwarded cut-through (R56, R125). -/
def State.commitReady (s : State) (i : Nat) (f : Frame) (d : Delivery) (qoff : Nat) : Bool :=
  f.stage == .ended && s.cellsReady i f && (f.complete || (match d with
    | .fwd port => f.windowOk && s.cutOk f port qoff
    | _ => false))

/-- The frame leaves its port's reorder buffer (R125), or the order of its port's further passes (R16). -/
def State.leaveReorder (s : State) (p i : Nat) : State :=
  (s.setPort p { s.port p with reorder := (s.port p).reorder.filter (· != i) }).leaveAgain p i

/-- A committing frame that the pool refuses is dropped: POOL_DROP for its class (R61, R124). -/
def State.poolDrop (s : State) (p i : Nat) (f : Frame) : State :=
  let t := (s.count (R.PRT_C_POOL_DROP p f.cls)).raisePort p 4
  if 0 < f.pass ∧ 0 < f.refcnt then t.setFrame i { f with stage := .committed } else t.loseFrame i

/-- The commit of frame `i` of port `p` with its resolved delivery. While it runs the frame holds one reference of the
queue manager's. The references of mirrors and captures are taken before the delivery's test of R62, an order that the
spec leaves open (DESIGN CHOICE, log entry 53). -/
def State.commitFrame (s : State) (p i : Nat) (f : Frame) (d : Delivery) (qoff : Nat) : State :=
  let f := { f with qoff := qoff, admitted := s.admClass f.tag (qoff / 16), cut := !f.complete }
  let s := s.leaveReorder p i
  if f.noCell then s.poolDrop p i f
  else match s.chargeCells f with
    | none => s.poolDrop p i f
    | some (f, s) =>
      let f := { f with stage := .committed, refcnt := f.refcnt + 1 }
      let t := (s.setFrame i f).reown (f.cells ++ f.editCell.toList) 0x12
      let t := t.sideActions i f
      match d with
      | .second _ =>
        if f.pass < 2 then (t.setWaitPass (p / 16) (t.waitPass (p / 16) ++ [i])).serveAll
        else (t.release i (0x18 + p / 16)).checkSettled
      | _ => ((t.deliver i f d).release i (0x18 + p / 16)).checkSettled

/-- The frames of port `p` whose commit may come next: the head of its reorder buffer, and the first of its frames in a
further pass, which keep their order among themselves (R16, R125). -/
def State.nextCommit (s : State) (p : Nat) : List (Nat × Frame) :=
  ((s.port p).reorder.head?.toList ++ (s.port p).again.head?.toList).filterMap fun i => (s.frame i).map fun f => (i, f)

/-- A frame whose commit is due while its bytes still arrive: R56 judges it once, and where a condition fails it is held
until its last byte. -/
def State.judgeCut (s : State) (p : Nat) : State :=
  match (s.nextCommit p).head? with
  | some (i, f) =>
    if f.stage == .ended && s.cellsReady i f && !f.complete && f.windowOk then s.setFrame i { f with stored := true } else s
  | none => s

/-- GALLEY_COMMIT (R56, R125). -/
def execGalleyCommit (p : Port) (forkParityBad : Bool) (s : State) : Out State :=
  .next (
    match (s.nextCommit p).find? fun x =>
        let r := s.resolveDelivery x.2 forkParityBad
        s.commitReady x.1 x.2 r.1 r.2.1 with
    | none => s.judgeCut p
    | some (i, f) =>
      let (d, qoff, t) := s.resolveDelivery f forkParityBad
      t.commitFrame p i f d qoff)

/-- RESIDUE_TIMEOUT (R65). -/
def execResidueTimeout (k : Fin 16384) (s : State) : Out State :=
  .next (
    match tget (fun _ => none) s.gal.residue k.val with
    | none => s
    | some e =>
      let t : State := { s with gal := { s.gal with residue := tput (fun _ => none) s.gal.residue k.val none } }
      let t := (t.countN R.GAL_C_RESIDUE_TIMEOUT_DROP (maskPorts e.mask).length).raiseG 36 6
      let slice := match t.frame e.frame with
        | some f => 0x18 + f.inPort / 16
        | none => 0x18
      (t.modFrame e.frame fun f => { f with residue := none }).release e.frame slice)

end Sys2Proof.Machine
end

