-- ==== Sys2Proof/Machine/Egress.lean ====
section
/-! DEFINITION. Egress: eligibility and the pick, age and size limits, the start and the end of a frame on the wire,
preemption, timetables and queue control (R211 to R235, R262 to R267). -/

namespace Sys2Proof.Machine

/-! ### Head frames (R213, R223, R226, R228) -/

/-- The age and size tests on the head of a queue, repeated while they remove one; `n` bounds them. -/
def State.testHead : Nat → Nat → State → State
  | 0, _, s => s
  | n + 1, q, s =>
    let p := q / 128
    match s.headRef q with
    | none => s
    | some r => match s.frame r.frame with
      | none => s
      | some f =>
        if s.tooOld p (q % 128 / 16) f then
          State.testHead n q ((s.ageDrop q r.held).dropRef q r)
        else if s.maxFrame p < s.editedLen f p r.mirror then
          State.testHead n q (((s.count (R.EGR_Q_C_SIZE_DROP q)).raiseG 40 5).dropRef q r)
        else s

/-- The age and size tests on every head of a port. A port whose link is not up decides on no pick, so its held frames
are tested once it is up again (R29 and the example after R30; log entry 8). -/
def State.testHeads (s : State) (p : Nat) : State :=
  if s.portCond p != .up then s
  else (s.busyQueues p).foldl (fun t q => State.testHead (t.queue q).refs.length q t) s

/-- The guard of R223. -/
def State.guardOk (s : State) (p c : Nat) (r : QRef) (f : Frame) : Bool :=
  if s.ttOn p f.tag && ((s.egrPort p).tt f.tag).running && !s.preemptable p f.tag c then
    match s.gateCloses p f.tag c with
    | none => true
    | some ns => decide (8000 * (s.editedLen f p r.mirror + 20) ≤ ns * s.portRate p)
  else true

/-- The head of queue `q` when it is eligible (R213), and whether the preemptable MAC carries it. -/
def State.eligibleHead (s : State) (q : Nat) : Option (QRef × Bool) :=
  let p := q / 128
  let c := q % 128 / 16
  match s.headRef q with
  | none => none
  | some r => match s.frame r.frame with
    | none => none
    | some f =>
      let pre := s.preemptable p f.tag c
      let ok := s.portCond p == .up && !s.flag (F.EGR_Q_CTRL_PAUSE q) && !s.qgFenced p c &&
        s.gateOpen p f.tag c && s.guardOk p c r f &&
        (!s.cbsOn q f.tag || decide (0 ≤ (s.queue q).credit)) &&
        (!pre || (!s.holdOn p && (s.egrPort p).preempted.isNone))
      if ok then some (r, pre) else none

/-- The eligible head of the highest class group and then the highest queue of it (R214). -/
def State.bestHead (s : State) (p : Nat) (expressOnly : Bool) : Option TxFrame :=
  (s.busyQueues p).reverse.findSome? fun q => match s.eligibleHead q with
    | some (r, pre) => if pre && expressOnly then none else some (TxFrame.mk q r pre 0 [] false false false 0 0 ⟨0, 0, 0⟩)
    | none => none

/-- Bytes that a frame occupies in a port's egress staging: its edited bytes (R215, R227). -/
def State.stagedFrame (s : State) (p : Nat) (w : TxFrame) : Nat :=
  match s.frame w.ref.frame with
  | some f => s.editedLen f p w.ref.mirror
  | none => 0

/-- Bytes in a port's egress staging: its picked frame, the one on its wire and the preempted one (R215). -/
def State.stagedOut (s : State) (p : Nat) : Nat :=
  let e := s.egrPort p
  ((e.wire.toList ++ e.picked.toList ++ e.preempted.toList).map (s.stagedFrame p)).foldl (· + ·) 0

/-- Egress staging takes another picked frame: it holds at most two, and 20 KiB (R55, R215). -/
def State.pickRoom (s : State) (p : Nat) (w : TxFrame) : Bool :=
  let e := s.egrPort p
  !(e.wire.isSome && e.preempted.isSome) && decide (s.stagedOut p + s.stagedFrame p w ≤ stagingSize)

/-- A frame is picked, and the head that it leaves behind is tested (R215, R226). -/
def State.pick (s : State) (p : Nat) (w : TxFrame) : State :=
  (s.setEgr p { s.egrPort p with picked := some w }).headChanged w.queue (s.headRef w.queue)

/-- A frame that was chosen as preemptable is so while the merge state is ACTIVE; else it is express (R225, R26). -/
def State.isPre (s : State) (p : Nat) (w : TxFrame) : Bool := w.preemptable && s.mergeActive p

/-- EGRESS_PICK: the pick decision (R214 to R216, R226). It waits while staging has no room. An express frame displaces
a picked preemptable one. -/
def execEgressPick (p : Port) (s : State) : Out State :=
  .next (
    let t := (s.busyQueues p).foldl State.bringCredit (s.testHeads p)
    match (t.egrPort p).picked with
    | none => match t.bestHead p false with
      | some w => if t.pickRoom p w then t.pick p w else t
      | none => t
    | some old =>
      if t.isPre p old then
        let u := t.setEgr p { t.egrPort p with picked := none }
        match u.bestHead p true with
        | some w => u.pick p w
        | none => t
      else t)

/-- AGE_DECISION_TICK (R226). -/
def execAgeDecisionTick (p : Port) (s : State) : Out State := .next (s.testHeads p)

/-! ### On the wire (R215, R225, R227, R262 to R267) -/

/-- The egress timestamp now, with the port's TX_LAT (R262). -/
def State.txStamp (s : State) (p : Nat) : Stamp :=
  ((s.stamp : Int) + signed 16 (s.fld (F.TIM_PORT_LAT_TX_LAT p)) * 256).toNat

/-- A timestamp report joins the FIFO (R264). -/
def State.reportTx (s : State) (p ident : Nat) (tx : Stamp) : State :=
  if 1024 ≤ s.time.reports.length then (s.count R.TIM_C_TXTS_DROP).raiseG 42 4
  else ({ s with time := { s.time with reports := s.time.reports ++ [TxReport.mk p ident tx] } } : State).raiseG 42 3

/-- Bytes of the frame on the wire that its present fragment has: those that the elapsed time gives at the port's rate,
and no fewer than a non-final fragment must have, 64 × (1 + TX_ADD_FRAG_SIZE) (R25). -/
def State.fragment (s : State) (p : Nat) (w : TxFrame) : Nat :=
  max (64 * (1 + s.fld (F.PRT_MERGE_CFG_TX_ADD_FRAG_SIZE p))) ((s.time.cycles - w.since) * s.portRate p / 5000)

/-- Whether the frame on the wire can still be cut: bytes of it are left after the shortest fragment that may end now,
so that this is no final one (R25; log entry 103). -/
def State.canCut (s : State) (p : Nat) (w : TxFrame) : Bool := decide (w.sent + s.fragment p w < s.stagedFrame p w)

/-- Take the preemptable frame on the wire off it, at the first point that R25 permits (R225). A frame with too little
left is sent to its end. -/
def State.preemptWire (s : State) (p : Nat) : State :=
  match (s.egrPort p).wire with
  | none => s
  | some w =>
    if s.canCut p w then
      let t := s.chargeGap w.queue
      let t := t.setEgr p { t.egrPort p with
        wire := none, preempted := some { w with cut := true, sent := w.sent + s.fragment p w } }
      (t.count (R.PRT_C_MERGE_TX_HOLDS p)).count (R.PRT_C_MERGE_TX_FRAGMENTS p)
    else s

/-- The start of frame of the picked frame leaves: its first Galley read, its timestamp, its report. A read that fails
before the head has left discards it; one that fails later stomps it (R67). -/
def State.beginTx (s : State) (p : Nat) (w : TxFrame) (ecc : EccRead) : State :=
  match s.frame w.ref.frame with
  | none => s.setEgr p { s.egrPort p with picked := none }
  | some f =>
    let headBad := ecc == .uncorrectable || (match f.cells.head? with
      | some i => s.cellState i == 2 || s.bankFenced (i % 32)
      | none => false)
    let (fails, t) := s.readCells f.cells 0 ecc
    let t := t.setEgr p { t.egrPort p with picked := none }
    if headBad then t.removeRef w.queue w.ref
    else
      let tx := t.txStamp p
      let t := t.bringCredit w.queue
      let w := { w with tx := tx, stomp := fails, since := t.time.cycles, env := t.editEnv f }
      let t := t.setEgr p { t.egrPort p with wire := some { w with bytes := (t.wireEdited p w f).1 } }
      let t := t.modFrame w.ref.frame fun g => { g with headOut := true }
      match f.tsreq with
      | some ident => if w.ref.mirror then t else t.reportTx p ident tx
      | none => t

/-- A preempted frame may go on (R225): no hold, its own gate open; a port whose merge state is not ACTIVE has no such
condition (R26). -/
def State.mayResume (s : State) (p : Nat) (w : TxFrame) : Bool :=
  match s.frame w.ref.frame with
  | some f => !s.mergeActive p || (!s.holdOn p && s.gateOpen p f.tag (w.queue % 128 / 16))
  | none => true

/-- The preempted frame goes on, with a new fragment, when it may. -/
def State.resume (s : State) (p : Nat) (w : TxFrame) : State :=
  if s.mayResume p w then
    let t := s.bringCredit w.queue
    t.setEgr p { t.egrPort p with wire := some { w with since := s.time.cycles }, preempted := none }
  else s

/-- FRAME_TX_START: the MAC takes the next frame: the picked one, preempting a preemptable frame where it is express, or
the preempted one again. -/
def execFrameTxStart (p : Port) (ecc : EccRead) (s : State) : Out State :=
  .next (
    let eg := s.egrPort p
    match eg.wire, eg.picked, eg.preempted with
    | some w, some k, _ =>
      if s.isPre p w && !s.isPre p k && s.canCut p w then (s.preemptWire p).beginTx p k ecc else s
    | some _, none, _ => s
    | none, some k, none => if s.isPre p k && s.holdOn p then s else s.beginTx p k ecc
    | none, some k, some w =>
      if !s.isPre p k && s.mergeActive p then s.beginTx p k ecc else s.resume p w
    | none, none, some w => s.resume p w
    | none, none, none => s)

/-- The answer of the peer-delay responder has left: a two-step response is followed by its follow-up, built from the
response's own header with the request's source identity put back (R267). -/
def State.pdelaySent (s : State) (p i : Nat) (f : Frame) (tx : Stamp) : State :=
  if (s.port p).pdelay ≠ some i then s
  else
    let t := s.setPort p { s.port p with pdelay := none }
    match f.src with
    | .pdelay _ false cf _ =>
      if bitOf (byteAt f.bytes 20) 1 then
        let like := overwrite f.bytes 34 (bytesAt f.bytes 58 10)
        let body := t.ptpReply p like 10 false cf (some tx)
        let g := { Frame.start (.pdelay p true cf tx) t.builtTag 0 false t.stamp 0 with bytes := body ++ fcsOf body }
        let (k, u) := t.sendBuilt p (t.fld F.TIM_PDELAY_CFG_QOFF) g
          (fun v => (v.count R.TIM_C_PDELAY_DROP).raiseG 42 6)
        u.setPort p { u.port p with pdelay := k }
      else t
    | _ => t

/-- Bytes with their last four inverted (R58). -/
def stompFcs (bs : List Byte) : List Byte := bs.take (bs.length - 4) ++ (bs.drop (bs.length - 4)).map fun b => ~~~ b

/-- The counters of a frame stomped under R58. -/
def State.stompCount (s : State) (p : Nat) (f : Frame) : State :=
  let t := ((s.count (R.PRT_C_TX_STOMPED p)).count R.GAL_C_CUT_STOMPED).raiseG 36 8
  match f.src with
  | .port inp => t.count (R.PRT_C_RX_CUT_BAD inp)
  | _ => t

/-- The read of cell `k` of a frame on the wire failed (R58, R67): whether there is such a cell, and the state. -/
def State.wireUe (s : State) (f : Frame) (k : Option Nat) : Bool × State :=
  match k.bind fun k => f.cells[k]? with
  | some c => (true, if s.cellState c = 2 then s else s.galleyUe c)
  | none => (false, s)

/-- FRAME_TX_END: the frame on the wire ends (R54, R58, R67, R217, R227, R266). A frame that still arrives goes on;
`badCell` is the place among the frame's cells of one whose read failed after the head had left. -/
def execFrameTxEnd (p : Port) (badCell : Option Nat) (s : State) : Out State :=
  .next (
    match (s.egrPort p).wire with
    | none => s
    | some w => match s.frame w.ref.frame with
      | none => s.setEgr p { s.egrPort p with wire := none }
      | some f =>
        if f.complete = false then s
        else
          let (bytes, skips, range) := s.wireEdited p w f
          let (ue, t) := s.wireUe f badCell
          let stomp := w.stomp || f.bad || ue
          let t := t.countSkips skips range
          let t := if stomp then t.stompCount p f
            else (t.count (R.PRT_C_TX_FRAMES_OK p)).countN (R.PRT_C_TX_BYTES_OK p) bytes.length
          let t := if w.cut then t.count (R.PRT_C_MERGE_TX_FRAGMENTS p) else t
          let t := (t.count (R.EGR_Q_C_TX_FRAMES w.queue)).countN (R.EGR_Q_C_TX_BYTES w.queue) bytes.length
          let t := t.chargeGap w.queue
          let t := t.setEgr p { t.egrPort p with wire := none }
          let t := (t.removeRef w.queue w.ref).pdelaySent p w.ref.frame f w.tx
          t.sendFrame p (if stomp then stompFcs bytes else bytes) stomp false)

/-! ### Timetables (R220 to R225) -/

/-- The entries that a timetable runs through after `old` to reach `new`, in order. -/
def State.ttPassed (s : State) (p t old new : Nat) : List Nat :=
  let last := (ttSeek (s.ttIntervals p t) 0 (s.fld (F.EGR_TT_CYCLE_CYCLE_NS p t) - 1)
    (s.fld (F.EGR_TT_CYCLE_CYCLE_NS p t))).1
  if old ≤ new then (List.range (new - old)).map (· + old + 1)
  else (List.range (last - old)).map (· + old + 1) ++ List.range (new + 1)

/-- The hold after the entries of a list have run (R219, R220). -/
def State.holdAfter (s : State) (p t : Nat) (hold : Bool) (es : List Nat) : Bool :=
  es.foldl (fun h e => match bitsOf (s.ttWord p t e) 63 62 with
    | 1 => true
    | 2 => false
    | _ => h) hold

/-- A gate or a hold has changed: the frame on the wire is preempted or overruns (R223, R225). -/
def State.gateEffects (s : State) (p : Nat) : State :=
  match (s.egrPort p).wire with
  | none => s
  | some w => match s.frame w.ref.frame with
    | none => s
    | some f =>
      let c := w.queue % 128 / 16
      let shut := !s.gateOpen p f.tag c
      if s.isPre p w && (shut || s.holdOn p) then s.preemptWire p
      else if shut && !w.overrun then
        let t := s.setEgr p { s.egrPort p with wire := some { w with overrun := true } }
        ((t.count R.EGR_C_TX_OVERRUN).logFirst R.EGR_OVERRUN_LOG 31 (c * 256 + p)).raiseG 40 0
      else s

/-- Credits of a port's queues are brought up to now before its gates change (R217). -/
def State.bringPort (s : State) (p : Nat) : State := (s.busyQueues p).foldl State.bringCredit s

/-- TT_ENTRY_CHANGE: a running timetable moves to the entry that the time base selects. -/
def execTtEntryChange (p : Port) (t : Tag) (s : State) : Out State :=
  .next (
    let tt := (s.egrPort p).tt t
    if s.ttOn p t && tt.running then
      let new := (s.ttNow p t).1
      if new = tt.entry then s
      else
        let u := s.bringPort p
        let hold := s.holdAfter p t tt.hold (s.ttPassed p t tt.entry new)
        (u.setEgr p ((u.egrPort p).setTt t { tt with entry := new, hold := hold })).gateEffects p
    else s)

/-- TT_OPERATIONAL_BASE: the timetable begins its first cycle. -/
def execTtOperationalBase (p : Port) (t : Tag) (s : State) : Out State :=
  .next (
    let tt := (s.egrPort p).tt t
    if s.ttOn p t && !tt.running && decide (tt.base ≤ s.nowNs) then
      let new := (s.ttNow p t).1
      let u := s.bringPort p
      let hold := s.holdAfter p t false (List.range (new + 1))
      ((u.setEgr p ((u.egrPort p).setTt t { tt with running := true, entry := new, hold := hold })).raiseG 40
        2).gateEffects p
    else s)

/-- A step of the time base moves a running timetable to the entry of the new time (R224). Its hold is that of the last
SET_HOLD or SET_RELEASE among the entries that run up to there: those of its first cycle alone while that lasts, else
those of the cycle before too. A time before the operational base, which is kept, finds INIT_GATES and no hold (R220).
-/
def State.ttStep (s : State) (p t : Nat) : State :=
  let tt := (s.egrPort p).tt t
  if s.ttOn p t && tt.running then
    let new := (s.ttNow p t).1
    let first := decide (s.nowNs - tt.base < s.fld (F.EGR_TT_CYCLE_CYCLE_NS p t))
    let ran := if first then List.range (new + 1) else s.ttOrder p t (new + 1)
    let tt := if s.nowNs < tt.base then { tt with running := false, entry := 0, hold := false }
      else { tt with entry := new, hold := s.holdAfter p t false ran }
    let u := s.bringPort p
    (u.setEgr p ((u.egrPort p).setTt t tt)).gateEffects p
  else s

/-- A step of the time base at every port (R224): TT_STEP when a timetable runs. -/
def State.ttStepAll (s : State) : State :=
  let runs := (List.range 128).any fun p => [0, 1].any fun t => s.ttOn p t && ((s.egrPort p).tt t).running
  let t := (List.range 128).foldl (fun u p => (u.ttStep p 0).ttStep p 1) s
  if runs then t.raiseG 40 1 else t

/-! ### Control (R222, R229) -/

/-- Remove every frame of a queue that is not picked, counted in FLUSH_DROP (R229). -/
def State.flushQueue (s : State) (q : Nat) : State :=
  s.removeRefs q (fun _ _ => true) fun t _ => t.count (R.EGR_Q_C_FLUSH_DROP q)

/-- QUEUE_FLUSH. -/
def execQueueFlush (q : QNum) (s : State) : Out State :=
  .next (s.byHost (R.EGR_Q_CTRL q) fun s => s.flushQueue q)

/-- QUEUE_PAUSE. -/
def execQueuePause (q : QNum) (on : Bool) (s : State) : Out State :=
  .next (s.byHost (R.EGR_Q_CTRL q) fun s => s.setFlag (F.EGR_Q_CTRL_PAUSE q) on)

/-- A write that R222 ignores. -/
def State.ttRefused (s : State) (p : Nat) : State := (s.setFlag (F.EGR_PORT_STATUS_WR_ACTIVE p) true).raiseG 40 3

/-- A write of one register that R222 governs. In EGR_PORT_PREEMPT the staged tag's mask is written, and a change of the
other one is what is ignored (log entry 38). -/
def State.putTimetable (s : State) (off : Nat) (v : W64) : State :=
  let p := (off - 0x1000000) / 0x8000
  let x := off % 256
  let guard := fun (t : Nat) (g : State → State) => if s.tagState t = 1 then g s else s.ttRefused p
  if off < 0x1000000 ∨ 0x1400000 ≤ off then s
  else if x = 0x0C then guard 0 fun s => s.plainWrite off v
  else if x = 0x10 then guard 1 fun s => s.plainWrite off v
  else if off % 0x8000 ≠ x then s
  else if x = 0x84 then
    let ok0 := s.tagState 0 = 1
    let ok1 := s.tagState 1 = 1
    let old := s.reg off
    let m0 := if ok0 then bitsOf v 7 0 else bitsOf old 7 0
    let m1 := if ok1 then bitsOf v 15 8 else bitsOf old 15 8
    let t := s.setReg off (w64 (m1 * 256 + m0))
    if m0 = bitsOf v 7 0 ∧ m1 = bitsOf v 15 8 ∧ (ok0 ∨ ok1) then t else t.ttRefused p
  else if 0xA0 ≤ x ∧ x < 0xC0 then guard (if x < 0xB0 then 0 else 1) fun s => s.plainWrite off v
  else if x = 0xC0 ∨ x = 0xC4 then
    let n := max 1 (min 1024 (bitsOf v 26 16))
    guard (if x = 0xC0 then 0 else 1) fun s => s.plainWrite off (setBits v 26 16 n)
  else if x = 0xD8 then
    let i := s.reg (R.EGR_TT_INDEX p)
    let t := bitsOf i 10 10
    guard t fun s => s.setTtWord p t (bitsOf i 9 0) v
  else s

/-- TT_DATA_WRITE: a BAR0 write to a timetable entry or header, a shaper or a preemptable mask. -/
def execTtDataWrite (off : BitVec 26) (wide : Bool) (data : W64) (s : State) : Out State :=
  .next (s.byHost off.toNat fun s => s.barWrite off.toNat wide data State.putTimetable)

end Sys2Proof.Machine
end

