-- ==== Sys2Proof/Machine/Formes.lean ====
section
/-! DEFINITION. Formes: staging, discarding, verifying, loading and committing, the flip, the drain and the release, and
writes to the forme registers (R236 to R246, R258, R287, R290). -/

namespace Sys2Proof.Machine

/-! ### Results of control instructions (R290) -/

/-- The result record of an instruction and its result words. -/
def ctrlRecord (index : Nat) (r : KRes) : List W64 :=
  w64 (r.1 * 2 ^ 56 + min 255 index * 2 ^ 48 + r.2.2.length * 2 ^ 40 + r.2.1 % 2 ^ 40) :: r.2.2

/-- The result of an instruction executed by itself (log entry 29). -/
def State.ctrlDone (x : KRes × State) : State :=
  { x.2 with cmd := { x.2.cmd with last := ctrlRecord 0 x.1 } }

/-- In safe hold every instruction but NOP and SNAPSHOT answers UNAVAILABLE (R431). -/
def State.ctrlGate (s : State) (f : State → KRes × State) : KRes × State :=
  if s.boot.mode == .safeHold then ((0x16, 0, []), s) else f s

/-- An instruction that comes by itself: none runs while the command unit is not open (R422, R431). -/
def State.ctrlAlone (s : State) (f : State → KRes × State) : State := 
  if s.cmdOpen then (State.ctrlDone (f s)).count R.CMD_C_INSTRS else s

/-! ### Per-tag registers (R236) -/

/-- The register ranges held once for each tag: first offset of tag 0, and the step to tag 1. -/
def twinRanges : List (Nat × Nat) :=
  [(0x600100, 0x40), (0x600200, 0x40), (0x600400, 0x40), (0x600800, 0x200), (0x600C00, 0x100), (0x600E00, 0x100),
   (0x620000, 0x20000), (0x1402000, 0x100), (0x1410000, 0x4000), (0x1420000, 0x10000)]

/-- The tag whose register stands at `off`, and the other tag's register. -/
def tagTwin (off : Nat) : Option (Nat × Nat) :=
  let pick := fun (lo step : Nat) =>
    if lo ≤ off ∧ off < lo + step then some (0, off + step)
    else if lo + step ≤ off ∧ off < lo + 2 * step then some (1, off - step)
    else none
  match twinRanges.findSome? fun x => pick x.1 x.2 with
  | some r => some r
  | none =>
    if off < 0x1000000 ∨ 0x1400000 ≤ off then none
    else
      let x := off % 256
      if x = 0x0C then some (0, off + 4)
      else if x = 0x10 then some (1, off - 4)
      else if off % 0x8000 ≠ x then none
      else if 0xA0 ≤ x ∧ x < 0xB0 then some (0, off + 16)
      else if 0xB0 ≤ x ∧ x < 0xC0 then some (1, off - 16)
      else if x = 0xC0 then some (0, off + 4)
      else if x = 0xC4 then some (1, off - 4)
      else none

/-- Whether the register belongs to tag `t`. -/
def ofTag (t off : Nat) : Bool := match tagTwin off with
  | some (u, _) => u == t
  | none => false

/-- The value a staged copy takes: a declaration's BOUND reads 0 until it is checked (R247). -/
def stagedValue (off : Nat) (v : W64) : W64 :=
  if 0x620000 ≤ off ∧ off < 0x660000 ∧ off % 32 = 16 then setBits v 31 0 0 else v

/-- The registers of tag `t` take their reset values, or those of the tag `src` (R238). -/
def State.stageRegs (s : State) (t : Nat) (src : Option Nat) : State :=
  let kept := s.regs.filter fun x => !ofTag t x.1
  let new : Tbl W64 := match src with
    | none => []
    | some a => s.regs.filter fun x => ofTag a x.1
  { s with regs := new.foldl (fun m x => match tagTwin x.1 with
      | some (_, o) => tput regReset m o (stagedValue o x.2)
      | none => m) kept }

/-- Timetable entries and preemptable masks of tag `t`, reset or copied from `src` (R221). -/
def State.stageEgress (s : State) (t : Nat) (src : Option Nat) : State :=
  let kept := s.ttWords.filter fun x => x.1 / 1024 % 2 != t
  let new : Tbl W64 := match src with
    | none => []
    | some a => s.ttWords.filter fun x => x.1 / 1024 % 2 == a
  let words := new.foldl (fun m x => tput (fun _ => 0) m (x.1 / 2048 * 2048 + 1024 * t + x.1 % 1024) x.2) kept
  (List.range 128).foldl (fun (u : State) p =>
    let mask := match src with
      | none => 0
      | some a => if a = 0 then u.fld (F.EGR_PORT_PREEMPT_MASK0 p) else u.fld (F.EGR_PORT_PREEMPT_MASK1 p)
    let u := u.setFld (if t = 0 then F.EGR_PORT_PREEMPT_MASK0 p else F.EGR_PORT_PREEMPT_MASK1 p) mask
    u.setEgr p ((u.egrPort p).setTt t .init)) { s with ttWords := words }

/-- The terms of tag `t`'s records are forgotten. -/
def State.dropTerms (s : State) (t : Nat) : State :=
  { s with forme := { s.forme with terms := s.forme.terms.filter fun x => x.1 / 4096 != t } }

/-! ### Staging and discarding (R238, R287) -/

/-- FSTAGE: BUSY while the tag's release sweep runs (R135), STATE where R238 does not allow it. -/
def State.formeStage (s : State) (inherit : Bool) (seed : Nat) (bad : ParityBad) : KRes × State :=
  let t := match s.activeTag with
    | some a => 1 - a
    | none => 0
  if s.keeperHalted then ((0x16, 0, []), s)
  else if s.ledger.sweep = some t then ((4, 0, []), s)
  else if s.tagState t ≠ 0 ∨ (s.tagState (1 - t) ≠ 0 ∧ s.tagState (1 - t) ≠ 3) then ((0x10, 0, []), s)
  else
    let src := if inherit then s.activeTag else none
    let u := (((s.drainLearn bad).ledgerStage t src seed bad).watchStage t src).stageRegs t src
    let u := ((u.stageEgress t src).dropTerms t).setImage t (match src with
      | some a => s.image a
      | none => Image.init)
    ((0, t, []), u.setTagState t 1)

/-- A tag begins its release sweeps (R238). -/
def State.beginRelease (s : State) (t : Nat) : State :=
  ({ s with ledger := { s.ledger with sweep := some t } }).setTagState t 5

/-- FDISCARD. -/
def State.formeDiscard (s : State) : KRes × State :=
  if s.keeperHalted then ((0x16, 0, []), s)
  else match s.stagedTag with
    | none => ((0x10, 0, []), s)
    | some t => ((0, 0, []), s.beginRelease t)

/-! ### Verifying and loading (R287, R439) -/

/-- FVERIFY. -/
def State.formeVerify (s : State) : KRes × State :=
  if s.keeperHalted then ((0x16, 0, []), s)
  else match s.stagedTag with
    | none => ((0x10, 0, []), s)
    | some t =>
      let r := (s.verifyTag t).record
      ((if r = 0 then 0 else 0x12, 0, [r]), s)

/-- The program of a PROGRAM section: its words and its valid entries; none when it breaks the layout of R439. -/
def parseProgram (sec : List Byte) : Option (List W64 × List (Nat × Nat)) :=
  let n := beAt sec 0 4
  let entries := (List.range 64).map fun e => w64 (beAt sec (8 + 8 * e) 8)
  let badEntry := fun (w : W64) => bitsOf w 62 14 != 0
  if n = 0 ∨ beAt sec 4 4 ≠ 0 ∨ sec.length ≠ 520 + 8 * n ∨ entries.any badEntry then none
  else some ((List.range n).map fun i => w64 (beAt sec (520 + 8 * i) 8),
    ((List.range 64).zip entries).filterMap fun x => if bitOf x.2 63 then some (x.1, bitsOf x.2 13 0) else none)

/-- CRC-32C of an image's words (R287, R100). -/
def imageCrc (words : List W64) : Nat := crc32c 0xFFFFFFFF (words.flatMap fun w => toBE 8 w.toNat)

/-- FLOAD. Its image has no slot; it is bounded as one of the primary slot. The image is read in order, its first burst
at place 0 of the outcomes. -/
def State.formeLoad (s : State) (addr : Nat) (finds : EccFinds) : KRes × State :=
  if s.keeperHalted || s.fencedSrc 0x605 then ((0x16, 0, []), s)
  else match s.stagedTag with
    | none => ((0x10, 0, []), s)
    | some t =>
      if addr % 4096 ≠ 0 ∨ s.ddrMapped addr 64 = false then ((0x15, 0, []), s)
      else
        let (head, s) := s.ddrRead 5 addr 64 finds
        match head with
        | none => ((0x15, 0, []), s)
        | some h =>
          let total := beAt h 8 4
          if slotRoom 0 < total then ((0x13, 0, []), s)
          else if s.ddrMapped addr (max 64 total) = false then ((0x15, 0, []), s)
          else
            let (body, s) := s.ddrRead 5 (addr + 64) (total - 64) (finds.after 1)
            match body with
            | none => ((0x15, 0, []), s)
            | some rest =>
              match imageCheck s.boot.otp 3 (slotRoom 0) 0 (h ++ rest) with
              | .error _ => ((0x13, 0, []), s)
              | .ok image =>
                match (imageSection image 4).bind parseProgram with
                | none => ((0x13, 0, []), s)
                | some (words, entries) =>
                  let v := verifyImage words entries (s.budgetOf t) []
                  let out := [v.record, w64 (imageCrc words)]
                  if v.record = 0 then ((0, words.length, out), s.setImage t ⟨words, entries, true, v.info⟩)
                  else ((0x12, words.length, out), s)

/-! ### Committing and flipping (R240 to R243) -/

/-- RESV, the engines reserved for admitted scans and the floors in force (R242); F_u moves with RESV (R60, R65). -/
def State.chipValues (s : State) : State :=
  let resv := fun t => if t = 0 then s.forme.resv0 else s.forme.resv1
  let t := s.setFld F.GAL_RESV_SIZE (maxNat (s.inForce.map resv))
  let t := t.poolEvents s
  (t.setFld F.WCH_ENGINES_ADM (maxNat (s.inForce.map fun t => s.fld (F.FRM_PARAM_RC_WATCH_ADM t)))).refitAll.serveAll

def State.setResv (s : State) (t n : Nat) : State :=
  if t = 0 then { s with forme := { s.forme with resv0 := n } } else { s with forme := { s.forme with resv1 := n } }

/-- The first instant base + N × CYCLE_NS not earlier than now, in ns (R220). -/
def State.opBase (s : State) (p t : Nat) : Nat :=
  let base := (s.fld (F.EGR_TT_BASE_SEC_HI_BASE_SEC_HI p t) * 2 ^ 32 + s.fld (F.EGR_TT_BASE_SEC_LO_BASE_SEC_LO p t)) *
    1000000000 + s.fld (F.EGR_TT_BASE_NS_BASE_NS p t)
  let cycle := s.fld (F.EGR_TT_CYCLE_CYCLE_NS p t)
  let now := ceilDiv s.time.now tbNs
  if now ≤ base then base else base + ceilDiv (now - base) cycle * cycle

/-- A lock-up enables the timetables of tag `t` (R220, R221). -/
def State.enableTimetables (s : State) (t : Nat) : State :=
  (List.range 128).foldl (fun (u : State) p =>
    if u.flag (F.EGR_TT_CTRL_EN p t) then
      u.setEgr p ((u.egrPort p).setTt t ⟨true, u.opBase p t, false, 0, false⟩)
    else u) s

/-- Queued frames of the old tag that are not admitted, of a class that the new forme admits, are discarded (R243). -/
def State.reclass (s : State) (old new : Nat) : State :=
  (s.queues.map Prod.fst).foldl (fun (u : State) q =>
    u.removeRefs q (fun _ f => f.tag == old && !f.admitted && s.admClass new f.cls) fun v _ =>
      v.count R.ADM_C_RECLASS_DROP) s

/-- Steps 4 and 5 of R240 for tag `t`, taken at once: every port flips together. -/
def State.flip (s : State) (t : Nat) : State :=
  let old := s.activeTag
  let u : State := { s with
    forme := { s.forme with overlap := old.isSome }
    boot := { s.boot with formeHash := none, formeHashBusy := true } }
  let u := (u.setTagState t 3).setFld F.FRM_STATUS_ACTIVE_TAG t
  let u := (u.setFlag F.FRM_STATUS_VALID true).setFlag F.FRM_STATUS_SETTLED false
  let u := match old with
    | some o => u.setTagState o 4
    | none => u
  let u := u.setReg R.FRM_FLIP_TIME (w64 (stampSec u.stamp % 2 ^ 32 * 2 ^ 32 + stampNs u.stamp))
  let u := (u.chipValues).enableTimetables t
  let u := (List.range 128).foldl (fun (v : State) p => v.setPort p { v.port p with tag := some t }) u
  let u := (u.count R.ADM_C_LOCKUPS).raiseG 41 17
  match old with
  | some o => (u.reclass o t).checkSettled
  | none => (u.setFlag F.FRM_STATUS_SETTLED true).raiseG 41 18

/-- FCOMMIT (R240): the verifier, the admission checker and, if both pass, the lock-up. -/
def State.formeCommit (s : State) : KRes × State :=
  if s.keeperHalted then ((0x16, 0, []), s)
  else match s.stagedTag with
    | none => ((0x10, 0, []), s)
    | some t =>
      let v := s.verifyTag t
      let r := s.admission t v false
      let u := s.recordCheck t r
      if r.fails.isEmpty then
        let u := u.setImage t { u.image t with verified := true, info := v.info }
        ((0, t, []), (u.setResv t r.resv).flip t)
      else
        ((0x11, min 256 r.fails.length, []), (u.count R.ADM_C_REFUSALS).raiseG 41 16)

/-! ### Draining and releasing (R238, R242, R245) -/

/-- The tag that drains, and the one that is released. -/
def State.drainingTag (s : State) : Option Nat := [0, 1].find? fun t => s.tagState t == 4
def State.releasingTag (s : State) : Option Nat := [0, 1].find? fun t => s.tagState t == 5

/-- Alive frames of tag `t` (R245). -/
def State.aliveFrames (s : State) (t : Nat) : List (Nat × Frame) :=
  s.frames.filterMap fun x => match x.2 with
    | some f => if f.tag == t && f.stage != .dropped then some (x.1, f) else none
    | none => none

/-- FSTAGE. -/
def execFstage (inherit : Bool) (seed : BitVec 32) (bad : ParityBad) (s : State) : Out State :=
  .next (s.ctrlAlone fun s => s.ctrlGate fun s => s.formeStage inherit seed.toNat bad)

/-- FDISCARD. -/
def execFdiscard (s : State) : Out State := .next (s.ctrlAlone fun s => s.ctrlGate fun s => s.formeDiscard)

/-- FCOMMIT. -/
def execFcommit (s : State) : Out State := .next (s.ctrlAlone fun s => s.ctrlGate fun s => s.formeCommit)

/-- FVERIFY. -/
def execFverify (s : State) : Out State := .next (s.ctrlAlone fun s => s.ctrlGate fun s => s.formeVerify)

/-- FLOAD. -/
def execFload (addr : BitVec 40) (finds : EccFinds) (s : State) : Out State := .next (s.ctrlAlone fun s => s.ctrlGate fun s => s.formeLoad addr.toNat finds)

/-- DRAIN_COMPLETE: no frame of the old tag is alive, and its release begins (R245). -/
def execDrainComplete (s : State) : Out State :=
  .next (
    match s.drainingTag with
    | none => s
    | some t => if (s.aliveFrames t).isEmpty then s.checkSettled.beginRelease t else s)

/-- Every reference to a frame that is not picked or on the wire is given up: queues, residue, punt queues, capture, the
recirculation path. -/
def State.dropRefs (s : State) (i : Nat) : State :=
  let u := (s.queues.map Prod.fst).foldl (fun (t : State) q =>
    t.removeRefs q (fun r _ => r.frame == i) fun v _ => v) s
  let u := match (u.frame i).bind (·.residue) with
    | some k =>
      let t : State := { u with gal := { u.gal with residue := tput (fun _ => none) u.gal.residue k none } }
      let slice := match t.frame i with
        | some f => 0x18 + f.inPort / 16
        | none => 0x18
      (t.modFrame i fun f => { f with residue := none }).release i slice
    | none => u
  let u := u.host.punt.foldl (fun (t : State) x =>
    let mine := x.2.filter fun r => r.frame == i
    mine.foldl (fun (v : State) r => v.release r.frame 0x11)
      (t.setPuntQueue x.1 ((t.puntQueue x.1).filter fun r => r.frame != i))) u
  let u := match u.arc.queue with
    | q :: _ => if q.frame = i then u.capPop else u
    | [] => u
  let mine := u.arc.queue.filter fun q => q.frame == i
  let u := mine.foldl (fun (v : State) q => v.release q.frame 0x10)
    (u.modArc fun a => { a with queue := a.queue.filter fun q => q.frame != i })
  (List.range 8).foldl (fun (t : State) r =>
    if (t.path r).contains i then (t.setPath r ((t.path r).filter (· != i))).pathDrop r i
    else if (t.waitPass r).contains i then (t.setWaitPass r ((t.waitPass r).filter (· != i))).pathDrop r i
    else t) u

/-- A frame of the draining tag is discarded (R245). -/
def State.drainFrame (s : State) (i : Nat) : State :=
  let u := s.dropRefs i
  match u.frame i with
  | none => u
  | some f => match f.stage with
    | .running c => u.abandon c (R.CMP_C_ABANDONED (c / 8) (c % 8))
    | .staged => u.loseFrame i
    | .ended => u.loseFrame i
    | _ => u

/-- The frame is picked, on the wire or preempted at some port. -/
def State.leaving (s : State) (i : Nat) : Bool :=
  s.egr.any fun x => [x.2.wire, x.2.picked, x.2.preempted].any fun w => match w with
    | some w => w.ref.frame == i
    | none => false

/-- DRAIN_TIMEOUT (R245). -/
def execDrainTimeout (s : State) : Out State :=
  .next (
    match s.drainingTag with
    | none => s
    | some t =>
      let u := (s.aliveFrames t).foldl (fun (v : State) x =>
        (if s.leaving x.1 then v else v.count R.ADM_C_DRAIN_DROP).drainFrame x.1) s
      let u := u.raiseG 41 20
      let u := if u.flag F.FRM_STATUS_SETTLED then u else (u.setFlag F.FRM_STATUS_SETTLED true).raiseG 41 18
      u.beginRelease t)

/-- The pair, gate and meter tables of a tag are cleared (R187, R206). -/
def State.clearTagTables (s : State) (t : Nat) : State :=
  { s with regs := s.regs.filter fun x => !(decide (0x1400000 ≤ x.1) && ofTag t x.1) }

/-- TAG_RELEASE_DONE: the release sweeps end and the tag is EMPTY (R238, R242). A halted Keeper ends no sweep (R402). -/
def execTagReleaseDone (bad : ParityBad) (s : State) : Out State :=
  .next (
    match s.releasingTag with
    | none => s
    | some t =>
      if s.keeperHalted then s
      else
        let u := ((s.ledgerRelease t bad).watchRelease t).clearTagTables t
        let u := (List.range 128).foldl (fun (v : State) p => v.setEgr p ((v.egrPort p).setTt t .init)) u
        let u := ((u.setImage t .init).setResv t 0).setTagState t 0
        let u : State := { u with forme := { u.forme with overlap := false } }
        (if u.activeTag.isSome then u.chipValues else u).raiseG 41 19)

/-! ### Writes to the forme registers (R239, R258) -/

/-- A forme register write that is ignored (R239). -/
def State.formeIgnored (s : State) : State := (s.setFlag F.FRM_STATUS_WR_IGNORED true).raiseG 41 21

/-- Whether the value is an out-of-range code for the forme register at `off` (R239). -/
def formeCodeBad (off : Nat) (v : W64) : Bool :=
  if off = 0x600100 ∨ off = 0x600140 then decide (4096 < bitsOf v 20 8)
  else if off = 0x600104 ∨ off = 0x600144 then (List.range 8).any fun c => decide (9 < bitsOf v (4 * c + 3) (4 * c))
  else if off = 0x600108 ∨ off = 0x600148 then decide (32768 < bitsOf v 31 16) || decide (42 < bitsOf v 5 0)
  else if 0x600400 ≤ off ∧ off < 0x600480 then bitsOf v 1 0 == 3 || decide (8 < bitsOf v 11 8)
  else false

/-- A write of one FRM_ register. -/
def State.putForme (s : State) (off : Nat) (v : W64) : State :=
  match tagTwin off with
  | some (t, _) =>
    if s.tagState t ≠ 1 ∨ formeCodeBad off v = true then s.formeIgnored
    else if 0x600C00 ≤ off ∧ off < 0x600E00 then s.plainWrite off (if bitsOf v 13 0 = 0 then 16383 else v)
    else if 0x620000 ≤ off ∧ off % 32 = 16 then s.setReg off (setBits v 31 0 (bitsOf (s.reg off) 31 0))
    else s.plainWrite off v
  | none =>
    if off = R.FRM_DRAIN_CFG then s.plainWrite off (w64 (max 1 (min 1000 (bitsOf v 9 0)))) else s.plainWrite off v

end Sys2Proof.Machine
end

