-- ==== Sys2Proof/Machine/Commands.lean ====
section
/-! DEFINITION. The control instructions of the command unit, and the execution of a block (R280, R284 to R290, R296,
R353, R370). -/

namespace Sys2Proof.Machine

/-! ### Table instructions (R286) -/

/-- What every table instruction meets first: a halted Keeper, and what arrived at its input before it (R143, R289). -/
def State.keeperDo (s : State) (bad : ParityBad) (f : State → KRes × State) : KRes × State :=
  if s.keeperHalted then ((0x16, 0, []), s) else f (s.drainLearn bad)

/-- TBL 0 and TBL 1 both name the L2 table (R104). -/
def tblOf (tbl : Nat) : Nat := if tbl = 1 then 0 else tbl

/-- Data words that TWRITE carries; none for a TBL that does not exist. -/
def writeWords (tbl : Nat) (dir : Bool) : Option Nat :=
  match tbl with
  | 0 => some 2 | 2 => some 3 | 3 => some 5 | 4 => some 18 | 5 => some 1
  | 6 => some (if dir then 2 else 8)
  | _ => none

/-- Data words that TDELETE carries. -/
def deleteWords (tbl : Nat) : Option Nat :=
  match tbl with
  | 0 => some 1 | 2 => some 1 | 3 => some 3 | 4 => some 0 | 5 => some 0 | 6 => some 0
  | _ => none

/-- Data words that TSEARCH carries. -/
def searchWords (tbl : Nat) : Option Nat :=
  match tbl with
  | 0 => some 1 | 2 => some 1 | 3 => some 3 | 4 => some 8
  | _ => none

/-- An operand outside its field: the instruction does nothing (R156, R286). -/
def rangeRes (s : State) : KRes × State := ((5, 0, []), s)

/-- TWRITE. -/
def State.tWrite (s : State) (tbl tag : Nat) (dir : Bool) (idx : Nat) (data : List W64) (bad : ParityBad) :
    KRes × State :=
  s.keeperDo bad fun s =>
    let tbl := tblOf tbl
    if writeWords tbl dir ≠ some data.length then rangeRes s
    else if tbl = 6 then (if dir then s.watchDirWrite tag (idx % 256) data else s.watchLineWrite idx data)
    else s.keeperWrite tbl tag idx data bad

/-- TDELETE. -/
def State.tDelete (s : State) (tbl tag : Nat) (dir : Bool) (idx : Nat) (data : List W64) (bad : ParityBad) :
    KRes × State :=
  s.keeperDo bad fun s =>
    let tbl := tblOf tbl
    if deleteWords tbl ≠ some data.length then rangeRes s
    else if tbl = 6 then s.watchDelete dir tag (if dir then idx % 256 else idx)
    else s.keeperDelete tbl tag idx data bad

/-- TREAD. -/
def State.tRead (s : State) (tbl : Nat) (dir : Bool) (a : Nat) (bad : ParityBad) : KRes × State :=
  s.keeperDo bad fun s =>
    let tbl := tblOf tbl
    if tbl = 6 then s.watchRead dir a
    else if writeWords tbl false = none then rangeRes s
    else s.keeperRead tbl a bad

/-- TSEARCH. -/
def State.tSearch (s : State) (tbl tag : Nat) (key : List W64) (bad : ParityBad) : KRes × State :=
  s.keeperDo bad fun s =>
    let tbl := tblOf tbl
    if searchWords tbl ≠ some key.length then rangeRes s else s.keeperSearch tbl tag key bad

/-- TNEXT. -/
def State.tNext (s : State) (tbl tag start : Nat) (data : List W64) (bad : ParityBad) : KRes × State :=
  s.keeperDo bad fun s =>
    let tbl := tblOf tbl
    if data.length ≠ 1 ∨ tbl = 6 ∨ writeWords tbl false = none then rangeRes s
    else s.keeperNext tbl tag start (data.getD 0 0) bad

/-- TFLUSH. -/
def State.tFlush (s : State) (fid : Option Nat) (port : Nat) (bad : ParityBad) : KRes × State :=
  s.keeperDo bad fun s =>
    let (n, t) := s.flushPort port fid bad
    ((0, n, []), t)

/-! ### Counter snapshots (R296) -/

/-- Whether the register at `off` is a 64-bit counter of a unit that `units` selects. -/
def snapTarget (units : BitVec 26) (off : Nat) : Bool :=
  decide (off < 26 * 2 ^ 20) && bitOf units (off / 2 ^ 20) && (match regAt off with
    | some d => d.counter
    | none => false)

/-- SNAPSHOT. Counters written in part of a burst are a read-modify-write (R345): `finds` is what those reads find, by
the burst's number in the area. An uncorrectable one is not written, and the instruction answers ADDRESS (R289, R347).
The stalls that run are counted up to now (R101). -/
def State.snapshot (s : State) (units : BitVec 26) (addr : Nat) (finds : EccFinds) : KRes × State :=
  let chosen := (List.range 26).filter fun u => bitOf units u
  if addr % 2 ^ 20 ≠ 0 ∨ s.ddrMapped addr 1 = false ∨
      (chosen.all fun u => s.ddrMapped (addr + u * 2 ^ 20) (2 ^ 20)) = false then
    ((0x15, 0, []), s)
  else
    let base := addr - ddrBase
    let s := s.ddrWake base
    let target := fun o => decide (base ≤ o) && snapTarget units ((o - base) / 8 * 8)
    let words := fun b => ((List.range 8).filter fun j => target (64 * b + 8 * j)).length
    let part := fun b => decide (0 < words b) && decide (words b < 8)
    let found := fun e => (finds.filter fun x => x.2 == e && part (base / 64 + x.1)).map fun x => base / 64 + x.1
    let lost := (s.ddr.bad.filter part ++ found .uncorrectable).eraseDups
    let put := fun o => target o && !lost.contains (o / 64)
    let kept := s.ddr.mem.filter fun x => !put x.1
    let now := (List.range 128).foldl State.countStall s
    let mem := now.regs.foldl (fun (m : Memory) x =>
      if put (base + x.1) then Memory.writeN 0 m (base + x.1) (toLE 8 x.2.toNat) else m) kept
    let t : State := { s with ddr := { s.ddr with
      mem := mem, bad := s.ddr.bad.filter fun b => decide (words b < 8) } }
    let t := (found .corrected).foldl (fun (u : State) b => if lost.contains b then u else u.ddrCorrected (64 * b)) t
    let t := lost.foldl (fun (u : State) b => (u.ddrUncorrectable 5 (64 * b)).count R.DDR_C_RMW_DROP) t
    ((if lost.isEmpty then 0 else 0x15, 0, if lost.isEmpty then
      [w64 (stampSec s.stamp), w64 (stampNs s.stamp)] else []), t)

/-! ### Capture, roles and the Archive (R288, R353, R359, R370) -/

/-- CAPARM. -/
def State.capArmCmd (s : State) (sel : Nat) (arm : Bool) (data : List W64) : KRes × State :=
  let (c, t) := s.capArm sel arm data
  ((c, 0, []), t)

/-- CAPTRIG: a trigger from the command source, at this instant (R359). -/
def State.capTrig (s : State) (cause : Nat) : KRes × State := ((0, 0, []), s.trigger 4 cause s.stamp)

/-- ROLE. -/
def State.roleWrite (s : State) (src r : Nat) : KRes × State :=
  if r = 3 ∨ 129 < src then rangeRes s
  else ((0, 0, []),
    if src = 0 then s.setFld F.CMD_ROLE_HOST_ROLE r
    else if src = 1 then s.setFld F.CMD_ROLE_I2C_ROLE r
    else s.setFld (F.PRT_ROLE_ROLE (src - 2)) r)

/-- ARCREAD. -/
def State.arcRead (s : State) (w0 w1 : W64) (reads : List NandRead) : KRes × State :=
  let dest := bitsOf w1 39 0
  let n := bitsOf w0 55 40
  if s.arcState ≠ 3 ∧ s.arcState ≠ 4 then ((0x16, 0, []), s)
  else match s.arcPages (bitOf w0 63) n (bitsOf w0 31 0) (bitsOf w1 63 40) reads with
    | none => rangeRes s
    | some (bs, bad, firstBad, soft, t) =>
      let res : KRes := (0, 0, [w64 n, w64 bad, w64 firstBad, w64 soft])
      if dest = 0xFFFFFFFFFF then
        let k := t.fld F.ARC_READ_RING_RING
        (res, t.setStreams k (t.streams k ++ [bs]))
      else if dest % 4096 ≠ 0 ∨ s.ddrMapped dest bs.length = false then ((0x15, 0, []), s)
      else (res, t.ddrWrite 1 dest bs [])

/-! ### One instruction (R285) -/

/-- A control instruction with its data words and what the memories answer it. A data count other than its row's is
RANGE. -/
def State.ctrlDo (s : State) (w : W64) (data : List W64) (found : Found) : KRes × State :=
  let bad := found.parity
  let tbl := bitsOf w 44 41
  let tag := bitsOf w 40 40
  let dir := bitOf w 39
  let idx := bitsOf w 17 0
  let d0 := data.getD 0 0
  match ctrlOp w, ctrlFunc w, data.length with
  | 0x3C, 0, _ => s.tWrite tbl tag dir idx data bad
  | 0x3C, 1, _ => s.tDelete tbl tag dir idx data bad
  | 0x3C, 2, 0 => s.tRead tbl dir idx bad
  | 0x3C, 3, _ => s.tSearch tbl tag data bad
  | 0x3C, 4, _ => s.tNext tbl tag idx data bad
  | 0x3C, 5, 0 => s.tFlush (if bitOf w 12 then some (bitsOf w 11 0) else none) (bitsOf w 39 33) bad
  | 0x3D, 0, 1 => s.formeStage (bitOf w 44) (bitsOf d0 31 0) bad
  | 0x3D, 1, 0 => s.formeDiscard
  | 0x3D, 2, 0 => s.formeCommit
  | 0x3D, 3, 0 => s.formeVerify
  | 0x3D, 4, 1 => s.formeLoad (bitsOf d0 39 0) found.ddr
  | 0x3E, 0, 0 => ((0, 0, []), s)
  | 0x3E, 1, 1 => s.snapshot (BitVec.ofNat 26 (bitsOf w 44 19)) (bitsOf d0 39 0) found.ddr
  | 0x3E, 2, _ => s.capArmCmd (bitsOf w 44 37) (bitOf w 36) data
  | 0x3E, 3, 0 => s.capTrig (bitsOf w 44 37)
  | 0x3E, 4, 0 => s.roleWrite (bitsOf w 44 37) (bitsOf w 36 35)
  | 0x3E, 5, 2 => s.arcRead d0 (data.getD 1 0) found.nand
  | _, _, _ => rangeRes s

/-- A control instruction of a block. -/
def State.ctrlRun (s : State) (w : W64) (data : List W64) (found : Found) : KRes × State :=
  if ctrlOp w = 0x3E ∧ ctrlFunc w ≤ 1 then s.ctrlDo w data found else s.ctrlGate fun s => s.ctrlDo w data found

/-! ### Blocks (R280, R284, R290, R294) -/

/-- What executing a block has given so far. -/
structure BlockRun where
  st : State
  words : List W64
  done : Nat
  code : Nat

/-- Execute one instruction of a block, or skip it. The memories answer the n-th instruction with the n-th entry of
`found`. -/
def BlockRun.next (stop : Bool) (found : List Found) (b : BlockRun) (index : Nat) (i : W64 × List W64) : BlockRun :=
  if stop && b.code != 0 then { b with words := b.words ++ ctrlRecord index (0x14, 0, []) }
  else
    let (r, t) := b.st.ctrlRun i.1 i.2 (found.getD index .clean)
    ⟨t.count R.CMD_C_INSTRS, b.words ++ ctrlRecord index r, b.done + 1, if b.code = 0 then r.1 else b.code⟩

/-- Execute a block and report its result. -/
def State.blockRun (s : State) (b : CmdBlock) (found : List Found) : State :=
  let is := (blockInstrs b.words).getD []
  let stop := bitOf (b.words.headD 0) 29
  let r := ((List.range is.length).zip is).foldl (fun (a : BlockRun) x => a.next stop found x.1 x.2) ⟨s, [], 0, 0⟩
  (r.st.count R.CMD_C_BLOCKS).blockDone b (resultHeader (blockSeq b.words) r.code r.done (r.words.length + 1) :: r.words)

/-- BLOCK_EXECUTE: the block at the front of the queue (R280). -/
def execBlockExecute (found : List Found) (s : State) : Out State :=
  .next (
    match (if s.cmdOpen then s.cmd.queue else []) with
    | [] => s
    | b :: rest =>
      let t : State := { s with cmd := { s.cmd with queue := rest } }
      if b.forbidden then t.roleRefuse b else t.blockRun b found)

/-! ### The instructions by themselves -/

def execTwrite (table : BitVec 4) (tag : Tag) (dir : Bool) (index : BitVec 18) (data : List W64) (bad : ParityBad)
    (s : State) : Out State :=
  .next (s.ctrlAlone fun s => s.ctrlGate fun s => s.tWrite table.toNat tag.val dir index.toNat data bad)

def execTdelete (table : BitVec 4) (tag : Tag) (dir : Bool) (index : BitVec 18) (data : List W64) (bad : ParityBad)
    (s : State) : Out State :=
  .next (s.ctrlAlone fun s => s.ctrlGate fun s => s.tDelete table.toNat tag.val dir index.toNat data bad)

def execTread (table : BitVec 4) (dir : Bool) (addr : BitVec 18) (bad : ParityBad) (s : State) : Out State :=
  .next (s.ctrlAlone fun s => s.ctrlGate fun s => s.tRead table.toNat dir addr.toNat bad)

def execTsearch (table : BitVec 4) (tag : Tag) (key : List W64) (bad : ParityBad) (s : State) : Out State :=
  .next (s.ctrlAlone fun s => s.ctrlGate fun s => s.tSearch table.toNat tag.val key bad)

def execTnext (table : BitVec 4) (tag : Tag) (start : BitVec 18) (filter : W64) (bad : ParityBad) (s : State) :
    Out State :=
  .next (s.ctrlAlone fun s => s.ctrlGate fun s => s.tNext table.toNat tag.val start.toNat [filter] bad)

def execTflush (fidV : Bool) (fid : BitVec 12) (port : Port) (bad : ParityBad) (s : State) : Out State :=
  .next (s.ctrlAlone fun s => s.ctrlGate fun s => s.tFlush (if fidV then some fid.toNat else none) port.val bad)

def execNop (s : State) : Out State := .next (s.ctrlAlone fun s => ((0, 0, []), s))

def execSnapshot (units : BitVec 26) (addr : BitVec 40) (finds : EccFinds) (s : State) : Out State :=
  .next (s.ctrlAlone fun s => s.snapshot units addr.toNat finds)

def execCaparm (selector : BitVec 8) (arm : Bool) (data : List W64) (s : State) : Out State :=
  .next (s.ctrlAlone fun s => s.ctrlGate fun s => s.capArmCmd selector.toNat arm data)

def execCaptrig (cause : BitVec 8) (s : State) : Out State :=
  .next (s.ctrlAlone fun s => s.ctrlGate fun s => s.capTrig cause.toNat)

def execRole (source : BitVec 8) (r : BitVec 2) (s : State) : Out State :=
  .next (s.ctrlAlone fun s => s.ctrlGate fun s => s.roleWrite source.toNat r.toNat)

def execArcread (word0 word1 : W64) (reads : List NandRead) (s : State) : Out State :=
  .next (s.ctrlAlone fun s => s.ctrlGate fun s => s.arcRead word0 word1 reads)

end Sys2Proof.Machine
end

