-- ==== Sys2Proof/Machine/Faults.lean ====
section
/-! DEFINITION. Fault reports, fences and their lifting, the recheck and the fault log (R92, R395 to R415). -/

namespace Sys2Proof.Machine

/-! ### Reports (R395 to R400) -/

/-- The unit reports this class over its dual-rail pairs (R395, R400). -/
def pairReports (src kind : Nat) : Bool :=
  match kind with
  | 0x10 => decide (src < 0x80)
  | 0x11 => decide (src < 0x80)
  | 0x12 => decide (0x540 ≤ src) && decide (src < 0x550)
  | 0x13 => decide (0x540 ≤ src) && decide (src < 0x550)
  | 0x14 => decide (0x80 ≤ src) && decide (src < 0x100)
  | 0x15 => decide (0x100 ≤ src) && decide (src < 0x500)
  | 0x16 => decide (0x540 ≤ src) && decide (src < 0x578)
  | 0x17 => decide (0x580 ≤ src) && decide (src < 0x588)
  | 0x38 => src == 0x60E
  | 0x39 => src == 0x60F
  | 0x58 => decide (0x606 ≤ src) && decide (src ≤ 0x609)
  | 0x60 => src == 0x611
  | 0x61 => src == 0x611 || (decide (0x580 ≤ src) && decide (src < 0x588))
  | 0x62 => src == 0x600 || (decide (0x60A ≤ src) && decide (src ≤ 0x60D))
  | 0x68 => decide (0x580 ≤ src) && decide (src < 0x588)
  | 0x69 => (decide (0x540 ≤ src) && decide (src < 0x550)) || (decide (0x580 ≤ src) && decide (src < 0x588))
  | 0x6A => src == 0x611
  | _ => false

/-- The class is reported by coded message for this unit (R397, R400). -/
def codedReports (src kind : Nat) : Bool :=
  match kind with
  | 0x20 => decide (0x500 ≤ src) && decide (src < 0x520)
  | 0x21 => decide (0x500 ≤ src) && decide (src < 0x520)
  | 0x22 => decide (0x500 ≤ src) && decide (src < 0x520)
  | 0x30 => decide (0x520 ≤ src) && decide (src < 0x53a)
  | 0x31 => src == 0x601
  | 0x40 => src == 0x602 || src == 0x603
  | 0x41 => src == 0x602 || src == 0x603
  | 0x42 => src == 0x602 || src == 0x603
  | 0x48 => src == 0x604
  | 0x49 => src == 0x604
  | 0x50 => src == 0x605
  | _ => false

/-- DUAL_RAIL_ERROR. A PLL that serves no single region counts at level 5 (R376); a late wake is also its region's event
(R392). -/
def execDualRailError (source : BitVec 12) (kind : BitVec 8) (s : State) : Out State :=
  .next (
    let src := source.toNat
    let k := kind.toNat
    if pairReports src k = false then s
    else
      let base := if k = 0x61 then (if src = 0x611 then 5 else 4) else baseLevel k
      let t := s.faultAt src k base 0 false
      if k = 0x13 then t.raiseRegion ((src - 0x540) / 2) 3 else t)

/-- WIRE_FAULT: any unit but those that report by coded message alone owns a pair. -/
def execWireFault (source : BitVec 12) (s : State) : Out State :=
  .next (
    let src := source.toNat
    if sourceValid src && !(decide (0x601 ≤ src) && decide (src ≤ 0x605)) then s.fault src 0x01 0 false else s)

/-- CODED_MESSAGE. -/
def execCodedMessage (source : BitVec 12) (kind : BitVec 8) (addr : BitVec 40) (s : State) : Out State :=
  .next (if codedReports source.toNat kind.toNat then s.fault source.toNat kind.toNat addr.toNat true else s)

/-- FAULT_INJECT (R414). -/
def State.inject (s : State) (level src : Nat) : State :=
  if level ≤ 4 ∧ sourceValid src = true then s.faultAt src 0x02 level 0 false else s

def execFaultInject (level : BitVec 3) (source : BitVec 12) (s : State) : Out State :=
  .next (s.byHost R.FLT_INJECT fun s => s.inject level.toNat source.toNat)

/-! ### What a fence does (R402, R403, R405) -/

/-- A port leaves every residue mask (R66). -/
def State.leaveResidues (s : State) (p : Nat) : State :=
  s.gal.residue.foldl (fun (t : State) x => match x.2 with
    | none => t
    | some e =>
      if bitOf e.mask p = false then t
      else
        let t := t.count R.GAL_C_RESIDUE_TIMEOUT_DROP
        let mask := e.mask &&& ~~~ BitVec.ofNat 128 (2 ^ p)
        let v : Option Residue := if mask = 0 then none else some { e with mask := mask }
        let t : State := { t with gal := { t.gal with residue := tput (fun _ => none) t.gal.residue x.1 v } }
        if mask = 0 then
          let slice := match t.frame e.frame with
            | some f => 0x18 + f.inPort / 16
            | none => 0x18
          (t.modFrame e.frame fun f => { f with residue := none }).release e.frame slice
        else t) s

/-- A compositor is fenced (R92). -/
def State.fenceComp (s : State) (c : Nat) : State :=
  (s.abandon c (R.CMP_C_FENCE_DROP (c / 8) (c % 8))).raiseComp c 1

/-- A case is fenced: its compositors too, and the other case of its region wakes (R407). -/
def State.fenceCase (s : State) (k : Nat) : State :=
  let t := ((List.range 8).foldl (fun (u : State) i => u.fenceComp (8 * k + i)) s).raiseCase k 1
  t.wakeCase (if k % 2 = 0 then k + 1 else k - 1)

/-- A lane is fenced. -/
def State.fenceLane (s : State) (p : Nat) : State :=
  ((s.forceDown p).setFlag (F.PRT_STATUS_TRAINING p) false).leaveResidues p

/-- A queue group is fenced: `g` is 8 × port + class group. -/
def State.fenceGroup (s : State) (g : Nat) : State :=
  (List.range 16).foldl (fun (t : State) i => t.flushQueue (16 * g + i)) s

/-- A Galley bank is fenced (R67). -/
def State.fenceBank (s : State) (b : Nat) : State :=
  let rows := ((List.range 12288).map fun r => 32 * r + b).filter fun i => s.cellState i == 0
  let t := rows.foldl (fun (t : State) i => t.setCellRam i (cellByte 2 0x3F)) s
  let t : State := { t with gal := { t.gal with
    fenced := t.gal.fenced ||| BitVec.ofNat 32 (2 ^ b)
    sweeping := t.gal.sweeping &&& ~~~ BitVec.ofNat 32 (2 ^ b)
    recent := t.gal.recent.filter fun x => x.1 % 32 != b
    free := t.gal.free - rows.length
    fencedCells := t.gal.fencedCells + rows.length } }
  let t := (t.setBankList b []).raiseG 37 b
  (if rows.isEmpty then t else t.cellFencedEvent).poolEvents s

/-- A region is fenced (R405). -/
def State.fenceRegion (s : State) (r : Nat) : State :=
  let t := (List.range 16).foldl (fun (u : State) i =>
    let p := 16 * r + i
    (((u.forceDown p).setFlag (F.PRT_STATUS_HOLDING p) false).flushHeld p).leaveResidues p) s
  let t := (t.fenceCase (2 * r)).fenceCase (2 * r + 1)
  let lost := t.path r ++ t.waitPass r
  let t := (t.setPath r []).setWaitPass r []
  (lost.foldl (fun (u : State) i => (u.recircDropped r).pathDrop r i) t).raiseRegion r 5

/-- Withdrawal of a chip-level unit (R402). -/
def State.withdraw (s : State) (src : Nat) : State :=
  if src = 0x602 ∨ src = 0x603 then s.arcUnavailable
  else if src = 0x604 then s.freeze
  else s

/-- The action of the fence of a unit. -/
def State.fenceAct (s : State) (src : Nat) : State :=
  let member := fun (t : State) => match regionOf src with
    | some r => t.raiseRegion r 6
    | none => t
  if src < 0x80 then member (s.fenceComp src)
  else if src < 0x100 then member (s.fenceLane (src - 0x80))
  else if src < 0x500 then member (s.fenceGroup (src - 0x100))
  else if src < 0x520 then s.fenceBank (src - 0x500)
  else if src < 0x53a then s.tblBankFenced (src - 0x520)
  else if src < 0x550 then member (s.fenceCase (src - 0x540))
  else if src < 0x570 then
    member ((List.range 4).foldl (fun (t : State) i => t.fenceLane (4 * (src - 0x550) + i)) s)
  else if src < 0x578 then (List.range 4).foldl (fun (t : State) i => t.fenceBank (4 * (src - 0x570) + i)) s
  else if src < 0x588 then (member s).fenceRegion (src - 0x580)
  else s.withdraw src

/-- A recheck of the active forme is due (R408). -/
def State.wantRecheck (s : State) : State :=
  if s.activeTag.isSome then
    ({ s with flt := { s.flt with recheck := true } } : State).setFlag F.FLT_RECHECK_BUSY true
  else s

/-- Insert a SOURCE into a rising list. -/
def insertSrc (src : Nat) : List Nat → List Nat
  | [] => [src]
  | x :: l => if src < x then src :: x :: l else if src = x then x :: l else x :: insertSrc src l

/-- A decided fence completes. -/
def State.fenceDone (s : State) (src level : Nat) : State :=
  let t : State := { s with flt := { s.flt with
    fencing := s.flt.fencing.filter fun x => x.1 != src
    fenced := insertSrc src s.flt.fenced
    fenceLevel := tput (fun _ => 0) s.flt.fenceLevel src level } }
  ((((t.fenceAct src).refitAll).count R.FLT_C_FENCES).raiseG 47 2).wantRecheck

/-- FENCE_COMPLETE. -/
def execFenceComplete (source : BitVec 12) (s : State) : Out State :=
  .next (
    match s.flt.fencing.find? fun x => x.1 == source.toNat with
    | some (src, level) => s.fenceDone src level
    | none => s)

/-! ### The recheck (R408) -/

/-- RECHECK_DONE. -/
def execRecheckDone (s : State) : Out State :=
  .next (
    if s.flt.recheck = false then s
    else
      let t := ({ s with flt := { s.flt with recheck := false } } : State).setFlag F.FLT_RECHECK_BUSY false
      match s.activeTag with
      | none => t
      | some a =>
        let bad := (s.admission a ⟨0, (s.image a).info⟩ true).failing
        (t.setReg R.FLT_RECHECK (w64 (2 ^ 31 + a * 2 ^ 28 + bad.headD 0 * 2 ^ 16 + bad.length))).raiseG 47 5)

/-! ### Acknowledging and clearing (R411) -/

/-- Set a bit of word 0 of a slot that holds a record. -/
def State.markRecord (s : State) (k bit : Nat) : State :=
  if bitOf (s.logWord0 k) 63 then s.setReg (R.FLT_LOG k 0) (s.logWord0 k ||| w64 (2 ^ bit)) else s

def State.ackRecord (s : State) (k : Nat) : State := s.markRecord k 62

/-- CLEARED is set only where ACK = 1. -/
def State.clearRecord (s : State) (k : Nat) : State := if bitOf (s.logWord0 k) 62 then s.markRecord k 61 else s

/-- FAULT_ACK. -/
def execFaultAck (slot : Fin 256) (s : State) : Out State :=
  .next (s.byHost R.FLT_ACK fun s => s.ackRecord slot.val)

/-- FAULT_ACK_ALL. -/
def execFaultAckAll (s : State) : Out State :=
  .next (s.byHost R.FLT_ACK fun s => (List.range 256).foldl State.ackRecord s)

/-- FAULT_CLEAR. -/
def execFaultClear (slot : Fin 256) (s : State) : Out State :=
  .next (s.byHost R.FLT_CLEAR fun s => s.clearRecord slot.val)

/-- FAULT_CLEAR_ALL. -/
def execFaultClearAll (s : State) : Out State :=
  .next (s.byHost R.FLT_CLEAR fun s => (List.range 256).foldl State.clearRecord s)

/-! ### Lifting a fence (R412) -/

/-- Units whose fence can be lifted. -/
def liftable (src : Nat) : Bool := decide (src < 0x500) || (decide (0x540 ≤ src) && decide (src < 0x570))

/-- The SOURCEs of a unit's members (compositors of a case, lanes of a quad). -/
def membersOf (src : Nat) : List Nat :=
  if 0x540 ≤ src ∧ src < 0x550 then (List.range 8).map fun i => 8 * (src - 0x540) + i
  else if 0x550 ≤ src ∧ src < 0x570 then (List.range 4).map fun i => 0x80 + 4 * (src - 0x550) + i
  else []

/-- A record of one of these SOURCEs is not CLEARED. -/
def State.unclearedOf (s : State) (srcs : List Nat) : Bool :=
  (List.range 256).any fun k =>
    let w := s.logWord0 k
    bitOf w 63 && !bitOf w 61 && srcs.contains (bitsOf w 51 40)

/-- UNFENCE (R412). -/
def State.unfenceGo (s : State) (src : Nat) : State :=
  let inRegion := match regionOf src with
    | some r => s.regionFenced r
    | none => false
  if !liftable src || !s.fencedSrc src || s.unclearedOf (src :: membersOf src) || inRegion || s.flt.unfencing.isSome then
    s.setFld F.FLT_UNFENCE_STATUS_RESULT 2
  else
    (({ s with flt := { s.flt with unfencing := some src } } : State).setFlag F.FLT_UNFENCE_STATUS_BUSY true).setFld
      F.FLT_UNFENCE_STATUS_RESULT 0

def execUnfence (source : BitVec 12) (s : State) : Out State :=
  .next (s.byHost R.FLT_UNFENCE fun s => s.unfenceGo source.toNat)

/-- A lane that is in service again trains under its PRT_MODE (R412). -/
def State.laneReturns (s : State) (p : Nat) : State :=
  let m := s.fld (F.PRT_MODE_MODE p)
  if s.laneFenced p || m == 0 then s
  else ((s.setFld (F.PRT_STATUS_ACTIVE_MODE p) m).setFlag (F.PRT_STATUS_TRAINING p) true).setPort p
    { s.port p with modePending := false }

/-- BIST_DONE: the self-test of the unit ends. -/
def execBistDone (pass : Bool) (s : State) : Out State :=
  .next (
    match s.flt.unfencing with
    | none => s
    | some src =>
      let level := tget (fun _ => 0) s.flt.fenceLevel src
      let t : State := { s with flt := { s.flt with unfencing := none } }
      let t := t.setFlag F.FLT_UNFENCE_STATUS_BUSY false
      if pass then
        let t : State := { t with flt := { t.flt with
          fenced := t.flt.fenced.filter (· != src)
          fenceLevel := tput (fun _ => 0) t.flt.fenceLevel src 0 } }
        let t := if 0x80 ≤ src ∧ src < 0x100 then t.laneReturns (src - 0x80)
          else if 0x550 ≤ src ∧ src < 0x570 then
            (List.range 4).foldl (fun (u : State) i => u.laneReturns (4 * (src - 0x550) + i)) t
          else t
        ((((t.setFld F.FLT_UNFENCE_STATUS_RESULT 1).refitAll).count R.FLT_C_UNFENCES).raiseG 47 6).wantRecheck
      else
        let t := (t.setFld F.FLT_UNFENCE_STATUS_RESULT 3).count R.FLT_C_FAULTS
        (t.writeRecord src 0x70 level level 0 false false).raiseG 47 6)

end Sys2Proof.Machine
end

