-- ==== Sys2Proof/Machine/Time.lean ====
section
/-! DEFINITION. The time base: its cycle, frequency, slews and steps, PPS, and egress timestamp reports (R260 to R273).
-/

namespace Sys2Proof.Machine

/-! ### Running (R260, R261) -/

/-- What one cycle of 1.6 ns adds, in time-base units: 8 * (2^40 + FREQ). -/
def State.tbRate (s : State) : Int := 8 * (2 ^ 40 + signed 32 (s.fld F.TIM_FREQ_FREQ))

/-- What a slew adds in one cycle: 1/1,024 of nominal. -/
def slewRate : Int := 8 * 2 ^ 30

/-- The time base moved by `d` units; it wraps. -/
def State.tbAdd (s : State) (d : Int) : State :=
  { s with time := { s.time with now := (((s.time.now : Int) + d) % (tbWrap : Int)).toNat } }

/-- SLEWING clears and SLEW latches; what the slew has not applied is dropped. -/
def State.slewStop (s : State) : State :=
  (({ s with time := { s.time with slew := none } } : State).setFlag F.TIM_STATUS_SLEWING false).raiseG 42 1

/-- A whole second in time-base units. -/
def tbSecond : Nat := 1000000000 * tbNs

/-- PPS_OUT rises, at the cycle `at_`. -/
def State.ppsRise (s : State) (at_ : Nat) : State := { s with time := { s.time with ppsOut := true, ppsAt := at_ } }

/-- PPS_OUT has stood high for WIDTH µs (R269). -/
def State.ppsOver (s : State) : Bool :=
  s.time.ppsOut && decide (s.time.ppsAt + 625 * s.fld F.TIM_PPS_OUT_CFG_WIDTH ≤ s.time.cycles)

/-- PPS_OUT after the time base has run on from `old`: it rises at a whole second, and falls WIDTH µs later (R269). -/
def State.ppsRun (s : State) (old : Nat) : State :=
  let past := s.time.now % tbSecond / s.tbRate.toNat
  let t := if s.flag F.TIM_PPS_OUT_CFG_PPS_OUT_EN ∧ old / tbSecond ≠ s.time.now / tbSecond then
      s.ppsRise (s.time.cycles - past)
    else s
  if t.ppsOver then { t with time := { t.time with ppsOut := false } } else t

/-- One cycle of the time base, with its slew. -/
def State.tbRun (s : State) : State :=
  let t := s.tbAdd s.tbRate
  let t : State := { t with time := { t.time with cycles := t.time.cycles + 1 } }
  match s.time.slew with
  | none => t
  | some rest =>
    if rest.natAbs ≤ slewRate.natAbs then (t.tbAdd rest).slewStop
    else
      let d := if rest < 0 then -slewRate else slewRate
      (({ t with time := { t.time with slew := some (rest - d) } } : State)).tbAdd d

/-- One cycle of the time base. -/
def State.tbCycle (s : State) : State := s.tbRun.ppsRun s.time.now

/-- FREQ_TRIM: a write of TIM_FREQ. -/
def execFreqTrim (v : W32) (s : State) : Out State :=
  .next (s.byHost R.TIM_FREQ fun s => s.setFld F.TIM_FREQ_FREQ v.toNat)

/-- A command ends the running slew at the point that it has reached. -/
def State.endSlew (s : State) : State := if s.time.slew.isSome then s.slewStop else s

/-- Start a slew by OFFSET, clamped to ±1,000,000 ns. -/
def State.slewGo (s : State) : State :=
  let t := s.endSlew
  let off := max (-1000000) (min 1000000 (signed 32 (s.fld F.TIM_ADJ_OFFSET)))
  ({ t with time := { t.time with slew := some (off * tbNs) } } : State).setFlag F.TIM_STATUS_SLEWING true

/-- SLEW: TIM_ADJ_CMD with MODE = SLEW and GO. -/
def execSlew (s : State) : Out State :=
  .next (s.byHost R.TIM_ADJ_CMD fun s => (s.setFld F.TIM_ADJ_CMD_MODE 0).slewGo)

/-- SLEW_END: the time base has run on until the slew had applied its whole OFFSET. -/
def execSlewEnd (s : State) : Out State :=
  .next (
    match s.time.slew with
    | none => s
    | some rest =>
      let n := ceilDiv rest.natAbs slewRate.natAbs
      let t := s.tbAdd (n * s.tbRate + rest)
      ({ t with time := { t.time with cycles := t.time.cycles + n } } : State).slewStop.ppsRun s.time.now)

/-! ### Steps (R261, R200, R224) -/

/-- A difference of stamps in ns, halves away from zero, saturated to 32 bits, as two's complement. -/
def stepNs (d : Int) : Nat :=
  let r : Int := if d < 0 then -((d.natAbs + 32768) / 65536 : Nat) else ((d.natAbs + 32768) / 65536 : Nat)
  wrap 32 (max (-2147483648) (min 2147483647 r))

/-- A step of the time base to `new`, in time-base units. -/
def State.stepTo (s : State) (new : Nat) : State :=
  let old := s.stamp
  let t : State := { s with time := { s.time with now := new % tbWrap } }
  let t := t.setFld F.TIM_LAST_STEP_OFFSET (stepNs ((t.stamp : Int) - old))
  let t := (t.setFld F.TIM_STATUS_STEPS ((t.fld F.TIM_STATUS_STEPS + 1) % 65536)).raiseG 42 0
  t.ttStepAll.wblTimeStep

/-- A step by OFFSET. -/
def State.stepGo (s : State) : State :=
  let d := signed 32 (s.fld F.TIM_ADJ_OFFSET) * tbNs
  s.endSlew.stepTo (((s.time.now : Int) + d) % (tbWrap : Int)).toNat

/-- TIME_STEP: TIM_ADJ_CMD with MODE = STEP and GO. -/
def execTimeStep (s : State) : Out State :=
  .next (s.byHost R.TIM_ADJ_CMD fun s => (s.setFld F.TIM_ADJ_CMD_MODE 1).stepGo)

/-- Load TIM_SET. -/
def State.setGo (s : State) : State :=
  let sec := s.fld F.TIM_SET_SEC_HI_SEC_HI * 2 ^ 32 + s.fld F.TIM_SET_SEC_LO_SEC_LO
  s.endSlew.stepTo ((sec * 1000000000 + min 999999999 (s.fld F.TIM_SET_NS_NS)) * tbNs)

/-- TIME_SET: TIM_SET_CMD.GO. -/
def execTimeSet (s : State) : Out State := .next (s.byHost R.TIM_SET_CMD State.setGo)

/-! ### PPS (R269, R270) -/

/-- The time base stands within 2 ns of a whole second (R269; log entry 119). -/
def State.atSecond (s : State) : Bool :=
  decide (s.time.now % tbSecond ≤ 2 * tbNs) || decide (tbSecond ≤ s.time.now % tbSecond + 2 * tbNs)

/-- PPS_OUT_RISE: the time base reaches a whole second. -/
def execPpsOutRise (s : State) : Out State :=
  .next (
    if s.flag F.TIM_PPS_OUT_CFG_PPS_OUT_EN ∧ s.atSecond = true ∧ s.time.ppsOut = false then s.ppsRise s.time.cycles else s)

/-- PPS_OUT_FALL: WIDTH µs after the rise. -/
def execPpsOutFall (s : State) : Out State :=
  .next (if s.ppsOver then { s with time := { s.time with ppsOut := false } } else s)

/-- PPS_IN_EDGE. -/
def execPpsInEdge (s : State) : Out State :=
  .next (
    if s.flag F.TIM_PPS_IN_CFG_PPS_IN_EN = false then s
    else
      let ovf := s.flag F.TIM_PPS_IN_TS_VALID || s.flag F.TIM_PPS_IN_TS_OVF
      let t := s.setReg R.TIM_PPS_IN_TS (w64 (2 ^ 31 + b2n ovf * 2 ^ 30 + stampNs s.stamp))
      let t := t.setFld F.TIM_PPS_IN_SEC_SEC_LO (stampSec s.stamp)
      let t := (t.count R.TIM_C_PPS_IN_EDGES).raiseG 42 2
      if t.flag F.TIM_PPS_IN_CFG_LOAD then
        (t.setFlag F.TIM_PPS_IN_CFG_LOAD false).stepTo (t.fld F.TIM_PPS_LOAD_SEC_LOAD_SEC * 1000000000 * tbNs)
      else t)

/-! ### Reads with an effect (R272, R273) -/

/-- A read of TIM_NOW_FRAC copies the time base. -/
def State.latchNow (s : State) : State :=
  let t := s.setFld F.TIM_NOW_NS_NS (stampNs s.stamp)
  (t.setFld F.TIM_NOW_SEC_LO_SEC_LO (stampSec s.stamp)).setFld F.TIM_NOW_SEC_HI_SEC_HI (stampSec s.stamp / 2 ^ 32)

/-- TIME_NOW_LATCH. -/
def execTimeNowLatch (s : State) : Out State :=
  .next (s.hostRead fun s => s.latchNow.emit (.readData (toLE 4 (stampFrac s.stamp)) false))

/-- The two words of a report (R273). -/
def TxReport.word0 (r : TxReport) : W64 := w64 (2 ^ 63 + r.port * 2 ^ 56 + r.ident * 2 ^ 48 + stampSec r.stamp)
def TxReport.word1 (r : TxReport) : W64 := w64 (stampNs r.stamp * 2 ^ 34 + stampFrac r.stamp)

/-- The first word of TIM_TXTS_POP as it stands. -/
def State.txtsWord0 (s : State) : W64 := match s.time.reports with
  | r :: _ => r.word0
  | [] => 0

/-- Remove the oldest report. -/
def State.txtsPop (s : State) : State := match s.time.reports with
  | r :: rest => ({ s with time := { s.time with reports := rest } } : State).setReg R.TIM_TXTS_POP1 r.word1
  | [] => s

/-- TXTS_POP: an 8-byte read of word 0. -/
def execTxtsPop (s : State) : Out State :=
  .next (s.hostRead fun s => s.txtsPop.emit (.readData (toLE 8 s.txtsWord0.toNat) false))

end Sys2Proof.Machine
end

