-- ==== Sys2Proof/Machine/RegRead.lean ====
section
/-! DEFINITION. What a read of a BAR0 register returns: the stored value, or a view of the unit that the register shows
(R6, R7, R452, R456 and the register table of every chapter), and the LIVE bits of the event sources (R459). -/

namespace Sys2Proof.Machine

/-! ### Helpers -/

/-- Word `i` of four bytes of a byte string, in a byte window (R453). -/
def windowWord (bs : List Byte) (i : Nat) : Nat := leNat (bytesAt bs (4 * i) 4)

/-- Byte string of a key hash, or of another big-endian number of `n` bytes. -/
def bytesOfNum (n v : Nat) : List Byte := toBE n v

/-! ### Boot and security, faults, power (R4, R417, R393, R449) -/

def State.keySlot (s : State) (k : Nat) : KeySlot := s.boot.otp.keys.getD k ⟨false, false, 0⟩

/-- The views of the BOOT_ and SEC_ block. -/
def State.bootView (s : State) (off : Nat) : Option Nat :=
  let o := s.boot.otp
  if off = R.BOOT_CHIP_ID then some o.chipId.toNat
  else if off = R.BOOT_QSPI_CTRL then
    some (bitsOf (s.reg off) 29 28 * 2 ^ 28 + b2n s.boot.qspiOp.isSome * 2 ^ 30)
  else if 0x8000 ≤ off ∧ off < 0x8100 then
    let k := s.keySlot ((off - 0x8000) / 64)
    let x := off % 64
    if x = 0 then some (b2n k.programmed * 2 ^ 31 + b2n k.revoked * 2 ^ 30 +
      b2n ((s.boot.run.map fun r => r.keySlot == (off - 0x8000) / 64).getD false) * 2 ^ 29)
    else if 0x20 ≤ x ∧ x < 0x40 then some (windowWord (bytesOfNum 32 k.hash) ((x - 0x20) / 4))
    else none
  else if off = R.SEC_KEY_CTRL then
    some (bitsOf (s.reg off) 29 28 * 2 ^ 28 + b2n s.boot.keyOp.isSome * 2 ^ 30)
  else if off = R.SEC_ATTEST_CTRL then
    some (bitsOf (s.reg off) 29 29 * 2 ^ 29 + b2n s.boot.attest.isSome * 2 ^ 30)
  else if off = R.SEC_ID_CERT_LEN then some (o.cert.length % 4096)
  else if 0x9800 ≤ off ∧ off < 0x9980 then some (windowWord (bytesOfNum 384 o.idModulus) ((off - 0x9800) / 4))
  else if 0xA000 ≤ off ∧ off < 0xA800 then some (windowWord o.cert ((off - 0xA000) / 4))
  else none

/-- Uncleared records: how many, and the highest LEVEL among them. -/
def State.unclearedRecords (s : State) : Nat × Nat :=
  (List.range 256).foldl (fun a k =>
    let w := s.logWord0 k
    if bitOf w 63 && !bitOf w 61 then (a.1 + 1, max a.2 (bitsOf w 58 56)) else a) (0, 0)

/-- The views of the FLT_ block. -/
def State.faultView (s : State) (off : Nat) : Option Nat :=
  let x := off - 0x100000
  if off = R.FLT_STATUS then
    let (n, lvl) := s.unclearedRecords
    some (bitsOf (s.reg off) 31 31 * 2 ^ 31 + b2n (s.boot.mode == .safeHold) * 2 ^ 30 + b2n s.faultNLow * 2 ^ 29 +
      lvl * 2 ^ 26 + n * 2 ^ 16 + bitsOf (s.reg off) 7 0)
  else if 0x100 ≤ x ∧ x < 0x110 then some (maskOf 32 fun i => s.compFenced (32 * ((x - 0x100) / 4) + i))
  else if off = R.FLT_FENCED_BLK then
    some (maskOf 8 (fun g => s.fencedSrc (0x570 + g)) * 2 ^ 24 + maskOf 8 s.regionFenced * 2 ^ 16 + maskOf 16 s.caseFenced)
  else if off = R.FLT_FENCED_CHIP then
    some (b2n (s.fencedSrc 0x601) + 2 * b2n (s.fencedSrc 0x602 || s.fencedSrc 0x603) + 4 * b2n (s.fencedSrc 0x604) +
      8 * b2n (s.fencedSrc 0x605) + 16 * maskOf 4 fun i => s.fencedSrc (0x606 + i))
  else if 0x120 ≤ x ∧ x < 0x130 then some (maskOf 32 fun i => s.laneFenced (32 * ((x - 0x120) / 4) + i))
  else if off = R.FLT_FENCED_QUAD then
    some (maskOf 32 fun k => s.fencedSrc (0x550 + k) || s.regionFenced (k / 4))
  else if 0x140 ≤ x ∧ x < 0x1C0 then
    some (maskOf 32 fun i =>
      let g := 32 * ((x - 0x140) / 4) + i
      s.qgFenced (g / 8) (g % 8))
  else none

/-- Whether clock domain `n` of R375 runs. The debug domain needs TCK, which nothing here drives (log entry 61). -/
def State.clockRuns (s : State) (n : Nat) : Bool :=
  let quad := fun (k : Nat) => (List.range 4).any fun i =>
    s.fld (F.PRT_MODE_MODE (4 * k + i)) != 0 || s.flag (F.PRT_STATUS_FUSED_SUB (4 * k + i))
  let chan := fun (c : Nat) => s.flag F.DDR_CFG_PRESENT &&
    (s.ddrRanks.any fun r => r / 2 == c && tget (fun _ => 0) s.ddr.rankMode r != 2)
  let archive := s.arcState != 0 && s.arcState != 5
  if n = 0 then true
  else if 104 ≤ n ∨ n = 101 ∨ s.pwr.tstop = true then false
  else if 2 ≤ n ∧ n < 34 then quad (n - 2)
  else if 34 ≤ n ∧ n < 66 then quad (n - 34)
  else if 74 ≤ n ∧ n < 90 then s.fld (F.PWR_CASE_STATE (n - 74)) != 2 && !s.caseFenced (n - 74)
  else if 92 ≤ n ∧ n < 96 then chan ((n - 92) / 2)
  else if n = 96 ∨ n = 97 then !s.boot.perstLow
  else if n = 98 ∨ n = 103 then archive
  else true

/-- The views of the PWR_ and CLK_ block. -/
def State.powerView (s : State) (off : Nat) : Option Nat :=
  if 0x200100 ≤ off ∧ off < 0x200140 then
    let c := (off - 0x200100) / 4
    let v := s.reg off
    some (bitsOf v 31 28 * 2 ^ 28 + s.lowerLimit c * 2 ^ 26 + b2n (s.caseSheds c) * 2 ^ 25 +
      b2n (s.throttledCase c) * 2 ^ 24 + bitsOf v 7 0)
  else if off = R.PWR_EST then
    some (ceilDiv (s.guaranteedMw s.inForce) 100 % 2 ^ 16 * 2 ^ 16 + bitsOf (s.reg off) 15 0)
  else if 0x208000 ≤ off ∧ off < 0x208010 then some (maskOf 32 fun i => s.clockRuns (8 * (off - 0x208000) + i))
  else none

/-! ### Host, commands, formes, time (R335, R298, R258, R272) -/

def State.hostView (s : State) (off : Nat) : Option Nat :=
  if off = R.HST_STATUS then
    let v := s.reg off
    some (bitsOf v 31 31 * 2 ^ 31 + b2n s.host.bme * 2 ^ 30 + b2n s.host.linkUp * 2 ^ 29 + bitsOf v 28 22 * 2 ^ 22 +
      b2n s.host.cfg.tag10 * 2 ^ 21)
  else if 0x420000 ≤ off ∧ off < 0x428000 ∧ off % 64 = 0x18 then
    some (bitsOf (s.reg off) 31 29 * 2 ^ 29 + (s.puntQueue ((off - 0x420000) / 64)).length % 1024)
  else none

def State.commandView (s : State) (off : Nat) : Option Nat :=
  if off = R.CMD_STATUS then some (s.cmd.queue.length % 128 * 2 ^ 24)
  else if 0x510000 ≤ off ∧ off < 0x510000 + 130 * 4096 ∧ off % 4096 = 0 then
    some (s.resultView ((off - 0x510000) / 4096)).toNat
  else none

def State.formeView (s : State) (off : Nat) : Option Nat :=
  if off = 0x600008 ∨ off = 0x60000C then some ((s.aliveFrames ((off - 0x600008) / 4)).length % 2 ^ 20)
  else if 0x601010 ≤ off ∧ off < 0x601034 then
    some ((tget (fun _ => []) s.forme.terms (bitsOf (s.reg R.ADM_TERM_SEL) 12 0)).getD ((off - 0x601010) / 4) 0)
  else none

def State.timeView (s : State) (off : Nat) : Option Nat :=
  if off = R.TIM_NOW_FRAC then some (stampFrac s.stamp)
  else if off = R.TIM_TXTS_STATUS then some s.time.reports.length
  else if off = R.TIM_TXTS_POP then some s.txtsWord0.toNat
  else none

/-! ### Ports, the Galley, the cases (R37, R69, R100) -/

/-- The cycle whose equaliser values a receiver holds (R22): now while it has a signal and is not frozen, else the one
at which it stopped adapting, else that of its coarse calibration, which a warm start uses again. None before a cold
start has calibrated the lanes, when the reset values stand (log entry 13). -/
def State.eqMoment (s : State) (p : Nat) : Option Nat :=
  s.boot.calib.map fun c =>
    if s.flag (F.PRT_STATUS_SIGNAL p) && !s.flag (F.PRT_RX_EQ_FREEZE p) then s.time.cycles
    else ((s.port p).eqAt).getD c

def State.portView (s : State) (off : Nat) : Option Nat :=
  let p := (off - 0x800000) / 0x8000
  if off % 0x8000 = 0x34 then
    (s.eqMoment p).map fun n =>
      let v := Config.rxEq p n
      bitsOf v 20 16 * 2 ^ 16 + bitsOf v 11 8 * 2 ^ 8 + bitsOf (s.reg off) 0 0
  else none

/-- Residue entries in use. -/
def State.residues (s : State) : Nat := (s.gal.residue.filter fun x => x.2.isSome).length

def State.galleyView (s : State) (off : Nat) : Option Nat :=
  let q := s.fld F.GAL_CELL_QUERY_CELL
  if off = R.GAL_POOL_FREE then some s.gal.free
  else if off = R.GAL_POOL_FENCED then some s.gal.fencedCells
  else if off = R.GAL_RESV_USED then some s.gal.resvUsed
  else if off = R.GAL_FREE_UNRESV then some s.freeUnres
  else if off = R.GAL_ALPHA then some ((s.activeTag.map fun t => (s.reg (R.FRM_PARAM_ALPHA t)).toNat).getD 0)
  else if off = R.GAL_RESIDUE_STATUS then some s.residues
  else if off = R.GAL_CELL_INFO then
    some (if cellCount ≤ q then 0
      else s.cellState q * 2 ^ 30 + s.cellOwner q * 2 ^ 24 + (s.linkRam q).toNat)
  else if 0xC00200 ≤ off ∧ off < 0xC00280 then
    let b := (off - 0xC00200) / 4
    some (b2n (bitOf s.gal.sweeping b) * 2 ^ 31 + b2n (bitOf s.gal.fenced b) * 2 ^ 30 + runCount (s.bankList b))
  else none

/-- The lock-up has written tag `t`'s image, entry table and profiles into the cases (R76, R240). -/
def State.lockedIn (s : State) (t : Nat) : Bool := decide (3 ≤ s.tagState t)

/-- CMP_ENTRY of entry `e` of tag `t`. -/
def State.entryView (s : State) (t e : Nat) : Nat :=
  if s.lockedIn t = false then 0
  else match (s.image t).entries.find? fun x => x.1 == e with
  | some x => 2 ^ 31 + s.worstPath t e % 2 ^ 14 * 2 ^ 16 + x.2 % 2 ^ 14
  | none => 0

/-- Compositor `c` stands in a stall whose byte has not arrived (R86). -/
def State.stallLive (s : State) (c : Nat) : Bool := match (s.comp c).stall with
  | some (_, a) => s.stallEnd c a == s.time.cycles
  | none => false

/-- CMP_COMP_STATUS of compositor `c`, sampled together. FORME, PORT, ENTRY and PC of one without a frame read 0 (DESIGN
CHOICE, log entry 109). -/
def State.compView (s : State) (c : Nat) : Nat :=
  let cs := s.comp c
  let fenced := b2n (s.compFenced c) * 2 ^ 27
  match cs.frame.bind s.frame with
  | some f => 2 ^ 31 + b2n (s.stallLive c) * 2 ^ 30 + b2n cs.lwait.isSome * 2 ^ 29 + f.tag % 2 * 2 ^ 28 + fenced +
      f.inPort * 2 ^ 20 + cs.entry % 64 * 2 ^ 14 + cs.pc % 2 ^ 14
  | none => fenced

def State.caseView (s : State) (off : Nat) : Option Nat :=
  let c := (off - 0xD00000) / 0x10000
  let x := off % 0x10000
  if x = 0 then
    some (maskOf 8 (fun i => s.compFenced (8 * c + i)) * 2 ^ 16 +
      maskOf 8 (fun i => (s.comp (8 * c + i)).frame.isSome) * 2 ^ 8 + b2n (!(s.caseOf c).repair.isEmpty) * 2 +
      b2n (s.caseFenced c))
  else if x = 0x10 ∨ x = 0x14 then
    let t := (x - 0x10) / 4
    let m := s.image t
    some (if s.lockedIn t then b2n m.verified * 2 ^ 31 + m.words.length else 0)
  else if x = 0x18 ∨ x = 0x1C then
    let m := s.image ((x - 0x18) / 4)
    some (if m.verified then imageCrc m.words else 0)
  else if 0x100 ≤ x ∧ x < 0x300 then some (s.entryView ((x - 0x100) / 256) ((x - 0x100) / 4 % 64))
  else if 0x400 ≤ x ∧ x < 0x600 then
    let p := (x - 0x400) / 4
    let prof := fun (t : Nat) => if s.lockedIn t then s.fld (F.FRM_PORT_DECL_PROFILE t p) else 0
    some (prof 1 * 256 + prof 0)
  else if 0x800 ≤ x ∧ x < 0x820 then some (s.compView (8 * c + (x - 0x800) / 4))
  else if 0x1000 ≤ x ∧ x < 0x1200 ∧ x % 0x40 = 0x10 then
    some ((s.reg off).toNat + s.stallRun (8 * c + (x - 0x1000) / 0x40))
  else none

/-! ### The Ledger and the Watchlist (R159, R177, R450) -/

/-- Valid slots of a table that satisfy a test. -/
def State.occupied (s : State) (t : Nat) (sel : TblEntry → Bool) : Nat :=
  ((s.listed t).filter fun x => entryValid t x.2 && sel x.2).length

def State.tblFenced (s : State) (k : Nat) : Bool := s.fencedSrc (0x520 + k)

def State.ledgerView (s : State) (off : Nat) : Option Nat :=
  if off = R.LDG_STATUS then
    some (b2n (s.flag F.KPR_STATUS_RUN && !s.keeperHalted && s.flag F.LDG_AGE_CFG_AGE_EN) * 32 +
      b2n s.ledger.sweep.isSome * 8 + b2n s.rehashing * 4 + b2n (decide (4096 ≤ s.ledger.fifo.length)) * 2)
  else if off = R.LDG_OCC_L2_HOST then some (s.occupied 0 fun e => !isLearned e)
  else if off = R.LDG_OCC_L2_LEARNED then some (s.occupied 0 isLearned)
  else if off = R.LDG_OCC_IPV4 then some (s.occupied 2 fun _ => true)
  else if off = R.LDG_OCC_IPV6 then some (s.occupied 3 fun _ => true)
  else if off = R.LDG_OCC_RULE then some (s.occupied 4 fun _ => true)
  else if off = R.LDG_BANK_FENCED then some (maskOf 26 s.tblFenced)
  else if off = R.KPR_STATUS then
    some (b2n (s.flag F.KPR_STATUS_RUN && !s.keeperHalted) * 2 ^ 31 + b2n s.keeperHalted * 2 ^ 30 +
      min 4096 s.ledger.fifo.length * 2 ^ 12 + s.ledger.upc % 4096)
  else if 0xE08020 ≤ off ∧ off < 0xE08030 then
    let w := tget (fun _ => 0) s.ledger.controlStore (s.fld F.KPR_CS_ADDR_ADDR)
    some (w.toNat / 2 ^ (8 * (off - 0xE08020)) % 2 ^ 32)
  else none

def State.someBroken (s : State) : Bool := (List.range 512).any fun i => bitOf (s.wchDir i).1 62

def State.patrolRuns (s : State) : Bool := s.shadowOn && s.flag F.WCH_SHADOW_CFG_PATROL_EN

def State.watchView (s : State) (off : Nat) : Option Nat :=
  if off = R.WCH_STATUS then
    some (min 255 s.waitingBe * 256 + b2n (!s.shadowOn) * 4 + b2n s.patrolRuns * 2 + b2n s.someBroken)
  else if off = R.WCH_ENGINES then
    some (((List.range 42).filter fun e => (s.engine e).isSome).length * 256 + bitsOf (s.reg off) 5 0)
  else none

/-! ### Egress, waybills, DDR (R232, R233, R205, R351) -/

/-- EGR_Q_STATUS of queue `q`. -/
def State.queueView (s : State) (q : Nat) : Nat :=
  b2n (s.flag (F.EGR_Q_CTRL_PAUSE q)) * 2 ^ 31 + s.queueCells q +
  match (s.headRef q).bind fun r => s.frame r.frame with
  | some f => 2 ^ 30 + f.tag % 2 * 2 ^ 29 + b2n f.admitted * 2 ^ 28
  | none => 0

def State.egressView (s : State) (off : Nat) : Option Nat :=
  let q := (off - 0x1000000) / 256
  let p := q / 128
  let x := off % 256
  let e := s.egrPort p
  if x = 0 then some (s.queueView q)
  else if x = 4 then some ((s.queue q).refs.length - s.outCount q)
  else if x = 8 then some (wrap 32 (((s.bringCredit q).queue q).credit / creditBit))
  else if q % 128 ≠ 0 then none
  else if x = 0x80 then
    some (bitsOf (s.reg off) 31 31 * 2 ^ 31 + b2n (s.holdOn p) * 2 ^ 30 +
      b2n (s.ttOn p 1 && (e.tt 1).running) * 2 ^ 25 + b2n (s.ttOn p 0 && (e.tt 0).running) * 2 ^ 24 +
      s.gates p 1 % 256 * 2 ^ 16 + s.gates p 0 % 256 * 2 ^ 8 + b2n e.picked.isSome * 2 + b2n e.wire.isSome)
  else if x = 0xD8 then
    let i := s.reg (R.EGR_TT_INDEX p)
    some (s.ttWord p (bitsOf i 10 10) (bitsOf i 9 0)).toNat
  else if x = 0xE0 then some ((e.tt 1).entry % 1024 * 2 ^ 16 + (e.tt 0).entry % 1024)
  else if x = 0xE4 then some (min 20480 (s.stagedOut p))
  else none

/-- Waybills whose VALID is 1. -/
def State.armedCount (s : State) : Nat := (s.wbl.words.filter fun x => x.1 % 8 == 0 && bitOf x.2 63).length

def State.waybillView (s : State) (off : Nat) : Option Nat :=
  if off = R.WBL_STATUS then
    some (bitsOf (s.reg off) 19 19 * 2 ^ 19 + b2n (!s.wbl.poisoned.isEmpty) * 2 ^ 17 +
      b2n (s.wbl.hold != 0) * 2 ^ 16 + s.armedCount)
  else if off = R.WBL_EVLOG_STATUS then some (bitsOf (s.reg off) 31 31 * 2 ^ 31 + s.wbl.log.length)
  else if off = R.WBL_EVLOG_POP then some (s.wbl.log.headD 0).toNat
  else none

def State.ddrView (s : State) (off : Nat) : Option Nat :=
  if off = R.DDR_STATUS then some (b2n s.ddrReady * 2 ^ 31 + bitsOf (s.reg off) 30 0) else none

/-! ### LIVE (R459) -/

/-- LIVE of source `k` of port `p` (R36). -/
def State.livePort (s : State) (p k : Nat) : Bool :=
  match k with
  | 0 => s.flag (F.PRT_STATUS_LINK_UP p)
  | 1 => s.flag (F.PRT_STATUS_HI_BER p) || (match (s.port p).fecBadAt with
      | some at_ => decide (s.time.cycles ≤ at_ + 625000)
      | none => false)
  | 3 => s.fld (F.PRT_MERGE_STATUS_VERIFY_STATE p) == 3 || s.flag (F.PRT_MERGE_STATUS_LAPSE p)
  | _ => false

/-- LIVE of source `k` of case `c` (R99). -/
def State.liveCase (s : State) (c k : Nat) : Bool :=
  match k with
  | 0 => !(s.caseOf c).repair.isEmpty
  | 1 => s.caseFenced c
  | 3 => ((List.range 8).any fun i => !s.compFenced (8 * c + i)) &&
      (List.range 8).all fun i => s.compFenced (8 * c + i) || (s.comp (8 * c + i)).frame.isSome
  | _ => false

/-- A best-effort frame of region `r` is being dropped at dispatch (R383, R392). -/
def State.regionDrops (s : State) (r : Nat) : Bool :=
  (List.range 16).any fun i => match s.offered (16 * r + i) with
    | some (_, f) => !f.admPort && s.choose r false (s.defClass f) == .drop
    | none => false

/-- LIVE of source `k` of region `r` (R130, R392, R416). -/
def State.liveRegion (s : State) (r k : Nat) : Bool :=
  match k with
  | 0 => (List.range 16).any fun i => decide (64 ≤ (s.port (16 * r + i)).reorder.length)
  | 1 => decide (s.rcBeBytes ≤ (s.pathBytes r false).foldl (· + ·) 0)
  | 2 => s.regionDrops r
  | 4 => s.throttledCase (2 * r) || s.throttledCase (2 * r + 1)
  | 5 => s.regionFenced r
  | 6 => s.flt.fenced.any fun x => x != 0x580 + r && regionOf x == some r
  | _ => false

/-- LIVE of bit `b` of the groups from 36 on. -/
def State.liveChip (s : State) (g b : Nat) : Bool :=
  match g, b with
  | 36, 3 => s.freeUnres == 0
  | 36, 4 => decide (s.freeUnres < s.fld F.GAL_LOW_MARK_MARK)
  | 36, 5 => decide (s.resvSize ≤ s.gal.resvUsed)
  | 36, 7 => decide (16384 ≤ s.residues)
  | 36, 10 => s.gal.sweeping != 0
  | 36, 13 => s.gal.fencedCells != 0
  | 37, _ => bitOf s.gal.fenced b
  | 38, 2 => decide (4096 ≤ s.ledger.fifo.length)
  | 38, 5 => s.ledger.sweep.isSome
  | 38, 7 => (List.range 26).any s.tblFenced
  | 38, 18 => s.someBroken
  | 38, 19 => s.patrolRuns
  | 38, 20 => decide (256 ≤ s.waitingBe)
  | 38, 21 => !s.flag F.WCH_SHADOW_CFG_SHADOW_EN
  | 38, 22 => s.maintWaiting != 0
  | 39, 0 => !s.wbl.poisoned.isEmpty
  | 39, 17 => !s.wbl.log.isEmpty
  | 39, 18 => decide (1024 ≤ s.wbl.log.length)
  | 40, 3 => (List.range 128).any fun p => s.flag (F.EGR_PORT_STATUS_WR_ACTIVE p)
  | 40, 7 => s.regs.any fun x => decide (0x1000000 ≤ x.1) && decide (x.1 < 0x1400000) && x.1 % 256 == 0x14 &&
      bitOf x.2 29 && decide (bitsOf x.2 18 0 ≤ s.queueCells ((x.1 - 0x1000000) / 256))
  | 41, 5 => decide (64 ≤ s.cmd.queue.length)
  | 41, 6 => s.flag F.CMD_RING_CI_ERR
  | 41, 17 => s.flag F.FRM_STATUS_FLIPPING
  | 41, 18 => s.flag F.FRM_STATUS_SETTLED
  | 41, 19 => s.releasingTag.isSome
  | 41, 21 => s.flag F.FRM_STATUS_WR_IGNORED
  | 42, 1 => s.time.slew.isSome
  | 42, 2 => s.flag F.TIM_PPS_IN_TS_VALID
  | 42, 3 => !s.time.reports.isEmpty
  | 42, 4 => decide (1024 ≤ s.time.reports.length)
  | 43, 0 => s.flag F.HST_STATUS_FROZEN
  | 43, 1 => !s.host.bme
  | 43, 3 => !s.host.linkUp
  | 43, 6 => (List.range 32).any fun c =>
      s.fld (F.DMA_CH_STATUS_STATE c) == 0 && decide (2 ≤ s.fld (F.DMA_CH_STATUS_STOP_CODE c))
  | 43, 10 => s.host.linkUp && (decide (s.fld F.HST_STATUS_SPEED < 4) || decide (s.fld F.HST_STATUS_WIDTH < 8))
  | 44, 0 => s.fld F.DDR_STATUS_TRAIN_FAIL != 0
  | 44, 4 => s.ddr.change.isSome
  | 44, 6 => s.flag F.DDR_SCRUB_CFG_SCRUB_EN
  | 44, 7 => s.fld F.DDR_STATUS_THERM_2X != 0
  | 45, 1 => s.arcState == 4
  | 45, 7 => s.arcState == 2
  | 45, 10 => (List.range 8).any fun c => decide ((s.usableDies.filter fun d => d % 8 == c).length < 8)
  | 45, 11 => s.arcState == 5
  | 46, 0 => (List.range 24).any fun i => decide (s.throttleAt ≤ s.sensor i)
  | 46, 1 => s.shedding
  | 46, 2 => s.flag F.PWR_STATUS_CAP_ACTIVE
  | 46, 3 => s.flag F.PWR_STATUS_CAP_UNMET
  | 46, 5 => s.pwr.avsShort != 0
  | 46, 7 => s.pwr.failed != 0
  | 46, 8 => (List.range 16).any fun c => s.casePoint c == 3
  | 46, 9 => s.flag F.PWR_STATUS_TSTOP_LAST
  | 47, 0 => s.unclearedFault
  | 47, 2 => !s.flt.fenced.isEmpty
  | 47, 4 => s.flag F.FLT_STATUS_LOST
  | 47, 5 => s.fld F.FLT_RECHECK_COUNT != 0
  | 47, 6 => s.flag F.FLT_UNFENCE_STATUS_BUSY
  | 47, 16 => s.flag F.BOOT_STATUS_READY
  | 47, 18 => s.flag F.BOOT_STATUS_FORCE_COLD
  | 47, 19 => s.boot.mode == .safeHold
  | 47, 21 => s.boot.qspiOp.isSome
  | 47, 22 => s.boot.keyOp.isSome
  | 47, 23 => s.boot.attest.isSome
  | 47, 24 => s.boot.formeHash.isSome
  | _, _ => false

/-- LIVE of bit `b` of group `g`. -/
def State.live (s : State) (g b : Nat) : Bool :=
  if g < 24 then s.livePort ((32 * g + b) / 6) ((32 * g + b) % 6)
  else if g < 32 then b % 2 == 1 && s.compFenced (16 * (g - 24) + b / 2)
  else if g < 34 then s.liveCase (8 * (g - 32) + b / 4) (b % 4)
  else if g < 36 then s.liveRegion (4 * (g - 34) + b / 8) (b % 8)
  else s.liveChip g b

/-- The views of the EVT_ block (R464). -/
def State.eventView (s : State) (off : Nat) : Option Nat :=
  if off < 0x3000C0 then some (maskOf 32 (s.live ((off - 0x300000) / 4)))
  else if off = R.EVT_SUMMARY_LO then some (maskOf 32 fun g => s.asserting g != 0)
  else if off = R.EVT_SUMMARY_HI then some (maskOf 16 fun g => s.asserting (32 + g) != 0)
  else if off = R.EVT_VEC_LEVEL_LO then some (maskOf 32 s.vecLevel)
  else if off = R.EVT_VEC_LEVEL_HI then some (maskOf 32 fun v => s.vecLevel (32 + v))
  else if off = R.EVT_IRQ_STATUS then some (b2n s.irqLow)
  else none

/-! ### Reads -/

/-- The view that a register shows, if it shows one. -/
def State.view (s : State) (off : Nat) : Option Nat :=
  match off / 0x100000 with
  | 0x0 => s.bootView off
  | 0x1 => s.faultView off
  | 0x2 => s.powerView off
  | 0x3 => s.eventView off
  | 0x4 => s.hostView off
  | 0x5 => s.commandView off
  | 0x6 => s.formeView off
  | 0x7 => s.timeView off
  | 0x8 | 0x9 | 0xa | 0xb => s.portView off
  | 0xc => s.galleyView off
  | 0xd => s.caseView off
  | 0xe => s.ledgerView off
  | 0xf => s.watchView off
  | 0x10 | 0x11 | 0x12 | 0x13 => s.egressView off
  | 0x14 => s.waybillView off
  | 0x18 => s.ddrView off
  | _ => none

/-- What a read of the register at `off` returns. An offset with no register reads zero (R7). -/
def State.readReg (s : State) (off : Nat) : W64 :=
  match regAt off with
  | none => 0
  | some _ => match s.view off with
    | some v => w64 v
    | none => s.reg off

/-- Whether the register at `off` is 64 bits wide (R452). -/
def isWide (off : Nat) : Bool := match regAt off with
  | some d => d.wide
  | none => false

/-- Four bytes read at an offset: a 32-bit register, or one half of a 64-bit one. -/
def State.readHalf (s : State) (off : Nat) : List Byte :=
  if isWide off then toLE 4 (s.readReg off).toNat
  else if off % 8 = 4 ∧ isWide (off - 4) = true then toLE 4 ((s.readReg (off - 4)).toNat / 2 ^ 32)
  else toLE 4 (s.readReg off).toNat

/-- The effect of a read (R456). -/
def State.readEffect (s : State) (off : Nat) (wide : Bool) : State :=
  if off = R.TIM_NOW_FRAC then s.latchNow
  else if wide = false then s
  else if off = R.TIM_TXTS_POP then s.txtsPop
  else if off = R.WBL_EVLOG_POP then s.modWbl fun w => { w with log := w.log.drop 1 }
  else if 0x510000 ≤ off ∧ off < 0x510000 + 130 * 4096 ∧ off % 4096 = 0 then
    let k := (off - 0x510000) / 4096
    if bitOf (s.resultView k) 63 then s.setReg off (s.reg off ||| w64 (2 ^ 62)) else s
  else s

/-- A BAR0 read of 4 or 8 aligned bytes, and the state after it. An access over two 32-bit registers acts as two, the
lower first (R452). -/
def State.readBar (s : State) (off : Nat) (wide : Bool) : List Byte × State :=
  if wide then
    if isWide off then (toLE 8 (s.readReg off).toNat, s.readEffect off true)
    else
      let t := s.readEffect off false
      (s.readHalf off ++ t.readHalf (off + 4), t.readEffect (off + 4) false)
  else (s.readHalf off, s.readEffect off false)

end Sys2Proof.Machine
end

