-- ==== Sys2Proof/Machine/RegWrite.lean ====
section
/-! DEFINITION. What a write to a BAR0 register does beyond storing its value: clamps, ignored values and the actions that
a write starts (R6, R7, R452, R455, R458 and the register table of every chapter), and the event block (R459 to R464). -/

namespace Sys2Proof.Machine

/-! ### The event block (R455, R459 to R464) -/

/-- The bits in use of an event group (R459). -/
def evtBits (g : Nat) : W64 :=
  match g with
  | 36 => 0x7FFFFFFF | 38 => 0x7F00FF | 39 => 0xFFFFF | 40 => 0xFF | 41 => 0x3F007F | 42 => 0x7F | 43 => 0x7FF
  | 44 => 0xFF | 45 => 0x3FFF | 46 => 0x3FF | 47 => 0x1FF007F
  | _ => 0xFFFFFFFF

/-- Set the LATCH of every source of a group in a mask. -/
def State.raiseMask (s : State) (g : Nat) (m : W64) : State :=
  (List.range 32).foldl (fun (t : State) b => if bitOf (m &&& evtBits g) b then t.raiseG g b else t) s

/-- Clear LATCH bits. -/
def State.clearLatch (s : State) (g : Nat) (m : W64) : State :=
  s.setReg (R.EVT_LATCH g) (s.reg (R.EVT_LATCH g) &&& ~~~ m)

/-- A write of ENABLE asserts the latched sources that it enables (R462). -/
def State.putEnable (s : State) (g : Nat) (v : W64) : State :=
  (s.setReg (R.EVT_ENABLE g) (v &&& evtBits g)).signalRises s

/-- A write of a target moves its source at once (R462). -/
def State.putTarget (s : State) (n : Nat) (v : W64) : State :=
  (s.plainWrite (R.EVT_TARGET n) v).signalRises s

/-- A write of EVT_VEC_ACK (R460). -/
def State.vecAck (s : State) (v : Nat) : State := if s.vecLevel v then s.signalVec v else s

/-- EVT_LATCH_CLEAR. Sources in `setNow` are set by the hardware in the same cycle: the set wins (R455). -/
def execEvtLatchClear (g : Fin 48) (mask setNow : W32) (s : State) : Out State :=
  let t := s.byHost (R.EVT_LATCH g) fun s => s.clearLatch g ((mask &&& ~~~ setNow).setWidth 64)
  .next (t.raiseMask g (setNow.setWidth 64))

/-- EVT_SET. -/
def execEvtSet (g : Fin 48) (mask : W32) (s : State) : Out State :=
  .next (s.byHost (R.EVT_SET g) fun s => s.raiseMask g (mask.setWidth 64))

/-- EVT_ENABLE_WRITE. -/
def execEvtEnableWrite (g : Fin 48) (v : W32) (s : State) : Out State :=
  .next (s.byHost (R.EVT_ENABLE g) fun s => s.putEnable g (v.setWidth 64))

/-- EVT_TARGET_WRITE. -/
def execEvtTargetWrite (n : Fin 1536) (v : W32) (s : State) : Out State :=
  .next (s.byHost (R.EVT_TARGET n) fun s => s.putTarget n (v.setWidth 64))

/-- EVT_VEC_ACK. -/
def execEvtVecAck (v : Fin 64) (s : State) : Out State :=
  .next (s.byHost R.EVT_VEC_ACK fun s => s.vecAck v)

/-- A write of one EVT_ register. -/
def State.putEvent (s : State) (off : Nat) (v : W64) : State :=
  let x := off - 0x300000
  if 0x100 ≤ x ∧ x < 0x1C0 then s.clearLatch ((x - 0x100) / 4) v
  else if 0x200 ≤ x ∧ x < 0x2C0 then s.putEnable ((x - 0x200) / 4) v
  else if 0x300 ≤ x ∧ x < 0x3C0 then s.raiseMask ((x - 0x300) / 4) v
  else if off = R.EVT_VEC_ACK then s.vecAck (bitsOf v 5 0)
  else if 0x1000 ≤ x ∧ x < 0x2800 then s.putTarget ((x - 0x1000) / 4) v
  else s

/-! ### Faults, power (R411 to R414, R417, R386, R393) -/

def State.putFault (s : State) (off : Nat) (v : W64) : State :=
  if off = R.FLT_ACK then
    if bitOf v 31 then (List.range 256).foldl State.ackRecord s else s.ackRecord (bitsOf v 7 0)
  else if off = R.FLT_CLEAR then
    if bitOf v 31 then (List.range 256).foldl State.clearRecord s else s.clearRecord (bitsOf v 7 0)
  else if off = R.FLT_UNFENCE then (if bitOf v 31 then s.unfenceGo (bitsOf v 11 0) else s)
  else if off = R.FLT_INJECT then (if bitOf v 31 then s.inject (bitsOf v 30 28) (bitsOf v 11 0) else s)
  else s.plainWrite off v

/-- A field that may not be 0 takes 1 (the register tables). -/
def atLeast1 (v : W64) (hi lo : Nat) : W64 := if bitsOf v hi lo = 0 then setBits v hi lo 1 else v

def State.putPower (s : State) (off : Nat) (v : W64) : State :=
  if off = R.PWR_THERM_CFG then
    (s.plainWrite off (setBits v 7 0 (max 85 (min 110 (bitsOf v 7 0))))).refitAll
  else if off = R.PWR_CAP then s.putCap (v.setWidth 32)
  else if off = R.PWR_CAP_CFG then
    s.plainWrite off (atLeast1 v 6 0)
  else if off = R.PWR_SLEEP_CFG then s.plainWrite off (atLeast1 v 9 0)
  else s.plainWrite off v

/-! ### The host interface (R305, R307, R321, R323, R332, R333, R335) -/

/-- A write of DMA_RING_CFG: KIND is kept while EN = 1 and for the codes that R335 ignores, then the change of EN. -/
def State.putRingCfg (s : State) (k : Nat) (v : W64) : State :=
  let was := s.flag (F.DMA_RING_CFG_EN k)
  let kind := if was ∨ 3 < bitsOf v 30 28 then s.fld (F.DMA_RING_CFG_KIND k) else bitsOf v 30 28
  let v' := setBits (setBits (atLeast1 v 9 0) 30 28 kind) 31 31 (b2n was)
  let t := s.plainWrite (R.DMA_RING_CFG k) v'
  if bitOf v 31 then t.ringOn k else if was then t.ringOff k else t

/-- A write of DMA_CH_CTRL: the weight, then START, then STOP. -/
def State.putChan (s : State) (c : Nat) (v : W64) : State :=
  let t := s.plainWrite (R.DMA_CH_CTRL c) (atLeast1 v 3 0)
  let t := if bitOf v 31 then t.chanStart c else t
  if bitOf v 30 then t.chanStop c else t

def State.putHost (s : State) (off : Nat) (v : W64) : State :=
  if off = R.HST_FREEZE then
    let t := s.plainWrite off v
    if bitOf v 31 then t.unfreeze else t
  else if 0x400100 ≤ off ∧ off < 0x400180 then s.setReg off (v &&& 0xE00000FFFFFFF000)
  else if 0x408000 ≤ off ∧ off < 0x408400 ∧ off % 16 = 12 then (s.plainWrite off v).flushPba
  else if 0x410000 ≤ off ∧ off < 0x410800 ∧ off % 64 = 0 then s.putChan ((off - 0x410000) / 64) v
  else if 0x420000 ≤ off ∧ off < 0x428000 then
    let k := (off - 0x420000) / 64
    if off % 64 = 0 then s.putRingCfg k v
    else if off % 64 = 8 then (if s.flag (F.DMA_RING_CFG_EN k) then s else s.plainWrite off v)
    else if off % 64 = 0x1C then (if bitOf v 0 then s.ringBell k else s)
    else s.plainWrite off v
  else s.plainWrite off v

/-! ### Commands and time (R291, R292, R278, R298, R261, R272) -/

def State.putCommand (s : State) (off : Nat) (v : W64) : State :=
  if off = R.CMD_ROLE_HOST ∨ off = R.CMD_ROLE_I2C then (if bitsOf v 1 0 = 3 then s else s.plainWrite off v)
  else if off = R.CMD_RING_PI then s.ringPi (bitsOf v 15 0)
  else if off = R.CMD_RING_CFG then s.plainWrite off (setBits v 3 0 (max 1 (min 8 (bitsOf v 3 0))))
  else if off = R.CMD_I2C_CTRL then
    let t := s.plainWrite off v
    if bitOf v 31 then t.i2cGo else t
  else s.plainWrite off v

def State.putTime (s : State) (off : Nat) (v : W64) : State :=
  if off = R.TIM_SET_CMD then (if bitOf v 0 then s.setGo else s)
  else if off = R.TIM_SET_NS then s.plainWrite off (w64 (min 999999999 (bitsOf v 29 0)))
  else if off = R.TIM_ADJ_CMD then
    let t := s.plainWrite off v
    if bitOf v 0 = false then t else if bitOf v 1 then t.stepGo else t.slewGo
  else if off = R.TIM_PPS_OUT_CFG then
    s.plainWrite off (atLeast1 v 9 0)
  else s.plainWrite off v

/-! ### Ports (R19, R25, R26, R29, R34, R37) -/

/-- A write of PRT_RX_EQ: FREEZE = 1 stops the receiver's adaptation at the values it stands at (R22). -/
def State.freezeEq (s : State) (p : Nat) (v : W64) : State :=
  let stops := bitOf v 0 && !s.flag (F.PRT_RX_EQ_FREEZE p) && s.flag (F.PRT_STATUS_SIGNAL p)
  let t := s.plainWrite (R.PRT_RX_EQ p) v
  if stops then t.setPort p { t.port p with eqAt := some s.time.cycles } else t

/-- A write of one register of a port. TX_EN written 0 makes the port one whose hold time has ended: its queued frames
are flushed into LD_BE_FLUSH, those of admitted classes too, as R29 says of the hold's end (DEDUCED, log entry 97). -/
def State.putPort (s : State) (off : Nat) (v : W64) : State :=
  let p := (off - 0x800000) / 0x8000
  let x := off % 0x8000
  if x = 0 then s.modeWrite p (v.setWidth 32)
  else if x = 0x08 then
    let t := s.plainWrite off (setBits v 15 2 (max 1518 (min 9728 (bitsOf v 15 2))))
    if s.flag (F.PRT_MAC_CFG_TX_EN p) && !bitOf v 1 then t.flushHeld p else t
  else if x = 0x0C then
    let on := s.flag (F.PRT_MERGE_CFG_MERGE_EN p)
    let dis := s.flag (F.PRT_MERGE_CFG_VERIFY_DIS p)
    let t := s.plainWrite off (setBits v 9 2 (max 1 (min 128 (bitsOf v 9 2))))
    if on != bitOf v 0 || (on && dis != bitOf v 1) then t.restartMerge p else t
  else if x = 0x10 then (if s.mergeActive p then s.plainWrite off v else s)
  else if x = 0x14 then s.plainWrite off (setBits v 15 0 (min 1000 (bitsOf v 15 0)))
  else if x = 0x34 then s.freezeEq p v
  else if x = 0x18 then (if bitsOf v 1 0 = 3 then s else s.plainWrite off v)
  else s.plainWrite off v

/-! ### Tables of the compositors, the Ledger and the Watchlist (R100, R159, R172, R174, R177) -/

def State.putCase (s : State) (off : Nat) (v : W64) : State :=
  if off % 0x10000 = 4 then s.plainWrite off (atLeast1 v 9 0) else s.plainWrite off v

def State.putLedger (s : State) (off : Nat) (v : W64) : State :=
  if off = R.LDG_AGE_CFG then s.plainWrite off (atLeast1 (atLeast1 v 23 16) 15 0) else s.plainWrite off v

/-- A write of the Galley's block: a 19-bit field holds at most 393,216 (R69; a larger MARK is taken as that, DESIGN
CHOICE, log entry 98). -/
def State.putGalley (s : State) (off : Nat) (v : W64) : State :=
  if off = R.GAL_LOW_MARK then s.plainWrite off (setBits v 18 0 (min 393216 (bitsOf v 18 0))) else s.plainWrite off v

/-- A write of WCH_SHADOW_CFG: SHADOW_EN = 1 needs DDR (R172); UNGUARDED latches when it changes to 0 (R176). -/
def State.putWatch (s : State) (off : Nat) (v : W64) : State :=
  let was := s.flag F.WCH_SHADOW_CFG_SHADOW_EN
  if off = R.WCH_SHADOW_CFG then
    let on := bitOf v 0 && (was || s.ddrReady)
    let v' := setBits (setBits v 31 12 (max 64 (bitsOf v 31 12))) 0 0 (b2n on)
    let t := s.plainWrite off v'
    if was && !on then t.raiseG 38 21 else t
  else if off = R.WCH_SHADOW_BASE then (if was then s else s.plainWrite off v)
  else s.plainWrite off v

/-! ### Egress and waybills (R222, R229, R230, R202, R205) -/

def State.putEgress (s : State) (off : Nat) (v : W64) : State :=
  let q := (off - 0x1000000) / 256
  let x := off % 256
  let port := decide (off % 0x8000 = x)
  if x = 0x14 then
    let t := s.plainWrite off v
    (if bitOf v 30 then t.flushQueue q else t).watermark q
  else if x = 0x0C ∨ x = 0x10 ∨ (port = true ∧ (x = 0x84 ∨ (0xA0 ≤ x ∧ x < 0xC8) ∨ x = 0xD8)) then s.putTimetable off v
  else s.plainWrite off v

def State.putWaybill (s : State) (off : Nat) (v : W64) : State :=
  if off = R.WBL_SNAP_CTRL then s.wblSnap (bitsOf v 14 0) none
  else if off = R.WBL_STICKY_CLR then s.stickyOp (bitsOf v 14 0) (bitsOf v 31 24) (bitOf v 23) (bitOf v 22) none
  else if off = R.WBL_METER_CLR then s.clrMeter (bitsOf v 11 0)
  else if 0x1402000 ≤ off ∧ off < 0x1440000 then s.putTagTable off v
  else s.plainWrite off v

/-! ### DDR and the Archive (R349, R351, R361, R366, R373) -/

def State.putDdr (s : State) (off : Nat) (v : W64) : State :=
  if off = R.DDR_CFG then
    let v := if bitsOf v 29 28 = 3 then setBits v 29 28 (s.fld F.DDR_CFG_DEVICE) else v
    let t := s.plainWrite off (setBits v 3 0 (min 8 (bitsOf v 3 0)))
    if s.ddrReady then t.arcDdrCheck else t
  else if off = R.DDR_FREQ_CTRL then
    let t := s.plainWrite off v
    if bitOf v 31 then t.ddrFreqGo (bitsOf v 0 0) else t
  else if 0x1800100 ≤ off ∧ off < 0x1800300 then
    let set := (off - 0x1800100) / 256
    if s.flag F.DDR_STATUS_READY ∧ s.fld F.DDR_STATUS_SET_ACTIVE = set then s
    else if off % 256 = 0 ∧ bitsOf v 13 12 = 3 then s.plainWrite off (setBits v 13 12 (s.fld (F.DDR_TSET_RATE set)))
    else s.plainWrite off v
  else s.plainWrite off v

/-- A write of ARC_CTRL (R361): FORMAT in DISABLED first, then EN; what the NAND shows at an enable is free. During a
start the enable waits for the DDR's training (R423). -/
def State.putArcCtrl (s : State) (v : W64) : State :=
  let was := s.arcState
  let t := if bitOf v 30 then s.arcErase else s
  if bitOf v 31 then
    if t.boot.starting then t.setFlag F.ARC_CTRL_EN true
    else
      let (dies, u) := t.takeFree 128
      u.arcOn u.arc.formatted dies
  else if was = 0 then t.setFlag F.ARC_CTRL_EN false
  else t.arcStop

def State.putArchive (s : State) (off : Nat) (v : W64) : State :=
  if off = R.ARC_CTRL then s.putArcCtrl v
  else if off = R.ARC_RING_BASE then (if s.flag F.ARC_CTRL_EN then s else s.plainWrite off v)
  else if off = R.ARC_RING_SIZE then s.plainWrite off (w64 (max 64 (min 32768 (bitsOf v 15 0))))
  else if off = R.ARC_TRIG_CFG then
    s.plainWrite off (setBits (setBits v 31 18 (min 10000 (bitsOf v 31 18))) 17 4 (min 10000 (bitsOf v 17 4)))
  else if off = R.ARC_KEEP_CTRL then (if bitOf v 31 then s.putKeep (bitOf v 30) else s)
  else s.plainWrite off v

/-! ### Every block but BOOT_ and SEC_ -/

/-- A write of one whole register outside the BOOT_ and SEC_ block. -/
def State.putReg (s : State) (off : Nat) (v : W64) : State :=
  match off / 0x100000 with
  | 0x1 => s.putFault off v
  | 0x2 => s.putPower off v
  | 0x3 => s.putEvent off v
  | 0x4 => s.putHost off v
  | 0x5 => s.putCommand off v
  | 0x6 => s.putForme off v
  | 0x7 => s.putTime off v
  | 0x8 | 0x9 | 0xa | 0xb => s.putPort off v
  | 0xc => s.putGalley off v
  | 0xd => s.putCase off v
  | 0xe => s.putLedger off v
  | 0xf => s.putWatch off v
  | 0x10 | 0x11 | 0x12 | 0x13 => s.putEgress off v
  | 0x14 => s.putWaybill off v
  | 0x18 => s.putDdr off v
  | 0x19 => s.putArchive off v
  | _ => s.plainWrite off v

end Sys2Proof.Machine
end

