-- ==== Sys2Proof/Machine/Boot.lean ====
section
/-! DEFINITION. Starts: what each clears and keeps, the sequences, their failures and the state machine (R31, R341, R419 to
R432, R436 to R443, R471). A start is one step; the facts say what the parts contribute (log entry 60). -/

namespace Sys2Proof.Machine

/-- Why a start fails: CAUSE, DETAIL and the step that ran (R429). -/
structure StartFail where
  cause : Nat
  detail : Nat
  step : Nat
  deriving DecidableEq, Repr

/-- What one stage of a start answers. -/
abbrev Stage1 := Option StartFail × State

/-- Go on with the next stage unless the start has failed. -/
def andThen (x : Stage1) (f : State → Stage1) : Stage1 := match x.1 with
  | some _ => x
  | none => f x.2

/-! ### What a start clears (R420, R457) -/

/-- What power-on alone resets: BOOT_ counts, fault log and counters, TSTOP_LAST (R409, R430, R457). -/
def watchRegs (regs : Tbl W64) : Tbl W64 :=
  (regs.map fun x => (x.1, match regAt x.1 with
    | some d => (x.2 &&& d.powerOn) ||| (regReset x.1 &&& ~~~ d.powerOn)
    | none => regReset x.1)).filter fun x => decide (x.2 ≠ regReset x.1)

/-- What the NAND holds, with nothing running (R368). -/
def ArcUnit.offline (a : ArcUnit) : ArcUnit :=
  { ArcUnit.init with
    formatted := a.formatted, pages := a.pages, pseq := a.pseq, blocks := a.blocks, formats := a.formats
    programs := a.programs, openBlock := a.openBlock, fails := a.fails, deadDies := a.deadDies, dies := a.dies
    failed := a.failed, rootA := a.rootA, rootB := a.rootB, nextB := a.nextB
    events := a.events.map fun e => { e with buf := [], marks := [] }
    nextEvent := a.nextEvent }

/-- The security core's own state with nothing running. -/
def BootUnit.quiet (b : BootUnit) : BootUnit :=
  { b with
    starting := false, facts := none, qspiOp := none, keyOp := none, attest := none, formeHash := none
    formeHashBusy := false }

/-- PWR_CAP resets to the variant's maximum power (R393). -/
def State.variantRegs (s : State) : State := s.setFld F.PWR_CAP_CAP s.maxPower

/-- Everything but the Watch domain, OTP, the QSPI device and the NAND store is cleared (R420). -/
def State.cleared (s : State) : State :=
  State.variantRegs { State.reset with
    regs := watchRegs s.regs
    time := { TimeUnit.init with cycles := s.time.cycles }
    nextFrame := s.nextFrame
    arc := s.arc.offline
    host := { HostUnit.init with quarantine := s.host.quarantine }
    flt := { FaultUnit.init with seq := s.flt.seq }
    boot := { s.boot.quiet with mode := .cold, run := none, calib := none }
    out := s.out
    free := s.free
    pending := s.pending }

/-- The Watch domain is cleared (R419, R471). -/
def State.clearWatch (s : State) : State :=
  let keep : Tbl W64 := (s.regs.map fun x => (x.1, match regAt x.1 with
    | some d => (x.2 &&& ~~~ d.powerOn) ||| (regReset x.1 &&& d.powerOn)
    | none => x.2)).filter fun x => decide (x.2 ≠ regReset x.1)
  { s with regs := keep, flt := { s.flt with seq := 0 }, boot := { s.boot with starts := 0, lastFailed := false } }

/-- Every record present is given PRIOR, ACK and CLEARED (R409). -/
def State.priorRecords (s : State) : State :=
  (List.range 256).foldl (fun (t : State) k => ((t.markRecord k 62).markRecord k 61).markRecord k 60) s

/-! ### The QSPI device and the images (R424, R433 to R443) -/

/-- STEPPING: only the two shipping values start (R5, R429). -/
def chipShips (c : W32) : Bool := c == 0x51281110 || c == 0x51281120

/-- An errata sheet as decrypted (R443). -/
structure Sheet where
  slot : Nat
  id : Nat
  step : Nat
  baseCrc : Nat
  patches : List (Nat × Nat)
  /-- SHA-256 of the image's signed bytes. -/
  hash : Nat
  deriving DecidableEq, Repr

/-- The SHA-256 of an image's bytes 0 to TOTAL_LEN - 385. -/
def signedHash (img : List Byte) : Nat := beNat (sha256 (img.take (img.length - 384)))

/-- Decrypt the sheet of an accepted ERRATA image; none when its GCM tag or its identifier fails. -/
def openSheet (otp : Otp) (slot : Nat) (img : List Byte) : Option Sheet :=
  let sec := (imageSection img 5).getD []
  match gcmOpen (toBE 32 otp.errataKey) (sec.take 12) (img.take 64) (sec.drop 32) (bytesAt sec 12 16) with
  | none => none
  | some p =>
    if beAt p 0 4 = 0 then none
    else some ⟨slot, beAt p 0 4, beAt p 4 1, beAt p 8 4,
      (List.range (beAt p 6 2)).map fun n => (beAt p (16 + 32 * n) 2 % 4096, beAt p (32 + 32 * n) 16), signedHash img⟩

/-- The words of the control store, in address order, as bytes. -/
def csBytes (cs : Tbl (BitVec 128)) : List Byte :=
  (List.range 4096).flatMap fun n => toBE 16 (tget (fun _ => 0) cs n).toNat

def csCrc (cs : Tbl (BitVec 128)) : Nat := crc32c 0xFFFFFFFF (csBytes cs)

/-- The control store that a KEEPER section spells (R442). -/
def csLoad (sec : List Byte) : Tbl (BitVec 128) :=
  ((List.range 4096).map fun n => (n, BitVec.ofNat 128 (beAt sec (16 * n) 16))).filter fun x => decide (x.2 ≠ 0)

/-- Insert a sheet by its SHEET_ID. -/
def insertSheet (x : Sheet) : List Sheet → List Sheet
  | [] => [x]
  | y :: l => if x.id < y.id then x :: y :: l else y :: insertSheet x l

/-- Show what became of errata slot `n`. -/
def State.showSheet (s : State) (n state npatch id : Nat) : State :=
  ((s.setFld (F.KPR_ERRATA_STATE n) state).setFld (F.KPR_ERRATA_NPATCH n) npatch).setFld (F.KPR_ERRATA_ID_SHEET_ID n) id

def State.setStore (s : State) (cs : Tbl (BitVec 128)) : State := { s with ledger := { s.ledger with controlStore := cs } }

/-- Apply the sheets in increasing SHEET_ID (R443). -/
def State.applySheets : List Sheet → State → Stage1
  | [], s => (none, s)
  | x :: l, s =>
    if x.step ≠ 0xFF ∧ x.step ≠ bitsOf s.boot.otp.chipId 15 8 then
      State.applySheets l ((s.showSheet x.slot 2 0 x.id).raiseG 47 20)
    else if csCrc s.ledger.controlStore ≠ x.baseCrc then (some ⟨7, x.slot, 5⟩, s)
    else
      let cs := x.patches.foldl (fun m p => tput (fun _ => 0) m p.1 (BitVec.ofNat 128 p.2)) s.ledger.controlStore
      let t := (s.setStore cs).showSheet x.slot 1 x.patches.length x.id
      State.applySheets l { t with boot := { t.boot with run := t.boot.run.map fun r =>
        { r with sheets := r.sheets ++ [x.hash] } } }

/-- The errata slots that hold an image (R433). -/
def State.errataImages (s : State) : List (Nat × List Byte) :=
  ((List.range 8).map fun n => (n, s.qspiSlot (2 + n))).filter fun x => beAt x.2 0 4 == 0x52484C4F

/-- The first image among the errata slots that fails its checks, or the accepted images (R436). -/
def State.checkErrata (s : State) : List (Nat × List Byte) → Except ImageFail (List (Nat × List Byte))
  | [] => .ok []
  | (n, bs) :: l =>
    match imageCheck s.boot.otp 4 (slotRoom (2 + n)) (n + 1) bs with
    | .error e => .error e
    | .ok img => match State.checkErrata s l with
      | .error e => .error e
      | .ok rest => .ok ((n, img) :: rest)

/-- Decrypt the sheets, in slot order: the sheets sorted, or the slot of the first that fails its tag or identifier. -/
def openSheets (otp : Otp) : List (Nat × List Byte) → List Sheet → Except Nat (List Sheet)
  | [], acc => .ok acc
  | (n, img) :: l, acc => match openSheet otp n img with
    | none => .error n
    | some x => if acc.any (fun y => y.id == x.id) then .error n else openSheets otp l (insertSheet x acc)

/-! ### The board description (R31, R438) -/

/-- The entries of a BOARD section. -/
def boardEntries (sec : List Byte) : List (Nat × Nat) :=
  (List.range (sec.length / 8)).map fun i => (beAt sec (8 * i) 4, beAt sec (8 * i + 4) 4)

/-- An entry that names a forbidden block or a reserved offset. -/
def boardRefused (off : Nat) : Bool :=
  off % 4 != 0 || decide (0x1A00000 ≤ off) || [0, 1, 3, 4, 5].contains (off / 0x100000) ||
  ((regAt off).isNone && !(off % 8 == 4 && isWide (off - 4)))

/-- The register holds an RWS field. -/
def holdsRws (off : Nat) : Bool := match regAt off with
  | some d => d.rws != 0
  | none => false

/-- Write the entries from index `i` on, as 4-byte writes. A warm start skips those with an RWS field. -/
def State.applyBoard (warm : Bool) : Nat → List (Nat × Nat) → State → Stage1
  | _, [], s => (none, s)
  | i, (off, v) :: l, s =>
    if boardRefused off then (some ⟨8, i, if warm then 6 else 5⟩, s)
    else if warm && holdsRws off then State.applyBoard warm (i + 1) l s
    else State.applyBoard warm (i + 1) l (s.barWrite off false (w64 v) State.putReg)

/-- Each port's own address from OTP, then the description, then the release of the ports (R31). -/
def State.preparePorts (s : State) : State :=
  (List.range 128).foldl (fun (t : State) p =>
    let a := s.boot.otp.macBase + p
    (t.setFld (F.PRT_OWN_ADDR_LO_ADDR_LO p) (a % 2 ^ 32)).setFld (F.PRT_OWN_ADDR_HI_ADDR_HI p) (a / 2 ^ 32)) s

def State.releasePorts (s : State) (board : List (Nat × Nat)) : State :=
  (List.range 128).foldl (fun (t : State) p =>
    if t.fld (F.PRT_MODE_MODE p) = 0 ∨ board.any (fun x => x.1 == R.PRT_MAC_CFG p) = true then t
    else (t.setFlag (F.PRT_MAC_CFG_TX_EN p) true).setFlag (F.PRT_MAC_CFG_RX_EN p) true) s

/-! ### The stages of a cold start (R423 to R425, R340) -/

def State.atStep (s : State) (n : Nat) : State := s.setFld F.BOOT_STATUS_STEP n

/-- Self-test: failing cells, blocks and regions are fenced, and a control core withdrawn while another passes. -/
def State.bistStage (fails : List Nat) (s : State) : Stage1 :=
  let cores := [0x606, 0x607, 0x608, 0x609]
  let chip := fails.filter fun x => decide (0x600 ≤ x) && sourceValid x && !cores.contains x
  match chip.head? with
  | some x => (some ⟨2, x, 2⟩, s)
  | none =>
    if cores.all fun x => fails.contains x then (some ⟨2, 0x606, 2⟩, s)
    else
      let t := (fails.filter sourceValid).foldl (fun (u : State) x =>
        u.faultAt x 0x70 (if 0x600 ≤ x then 2 else unitLevel x) 0 false) s
      (none, t.flt.fencing.foldl (fun (u : State) x => u.fenceDone x.1 x.2) t)

/-- The image and the errata slots, read and checked. -/
def State.imageStage (qspiError : Bool) (s : State) : Stage1 :=
  if qspiError then (some ⟨3, 0, 3⟩, s)
  else match imageCheck s.boot.otp 1 (slotRoom 0) 0 (s.qspiSlot 0) with
    | .error e => (some ⟨e.cause, e.detail, 4⟩, s)
    | .ok img => match s.checkErrata s.errataImages with
      | .error e => (some ⟨e.cause, e.detail, 4⟩, s)
      | .ok sheets => match openSheets s.boot.otp sheets [] with
        | .error n => (some ⟨7, n, 5⟩, s)
        | .ok l =>
          let board := boardEntries ((imageSection img 2).getD [])
          let t : State := { s with boot := { s.boot with
            run := some ⟨false, beAt img 6 1, beAt img 12 4, signedHash img, board, []⟩ } }
          State.applySheets l (t.setStore (csLoad ((imageSection img 3).getD [])))

/-- The Keeper starts and the board description is applied. -/
def State.boardStage (s : State) : Stage1 :=
  let t := (s.setFld F.KPR_CS_CRC_CRC (csCrc s.ledger.controlStore)).setFlag F.KPR_STATUS_RUN true
  State.applyBoard false 0 ((s.boot.run.map RunImage.board).getD []) t.preparePorts

/-- DDR training. -/
def State.ddrTrain (fails : BitVec 4) (s : State) : State :=
  if s.flag F.DDR_CFG_PRESENT = false then s
  else
    let subs := if s.flag F.DDR_CFG_CHANNELS then [0, 1, 2, 3] else [0, 1]
    let bad := subs.filter fun i => bitOf fails i
    let t := bad.foldl (fun (u : State) i =>
      ((u.setFld F.DDR_STATUS_TRAIN_FAIL (u.fld F.DDR_STATUS_TRAIN_FAIL ||| 2 ^ i)).raiseG 44 0).fault
        (0x602 + i / 2) 0x41 0 true) s
    let sets := [0, 1].filter fun k => s.flag (F.DDR_TSET_VALID k)
    if bad.isEmpty = false ∨ sets.isEmpty = true then t
    else
      let t : State := { t with ddr := { t.ddr with trained := BitVec.ofNat 2 (maskOf 2 sets.contains) } }
      (t.setFld F.DDR_STATUS_SET_ACTIVE (sets.headD 0)).setFlag F.DDR_STATUS_READY true

/-- READY: the start has ended (R423, R426, R430). -/
def State.startDone (s : State) (warm : Bool) (step us : Nat) : State :=
  let t : State := { s with boot := { s.boot with mode := .running, starting := false, facts := none } }
  let t := ((t.setFlag F.BOOT_STATUS_READY true).atStep step).setFld F.BOOT_START_TIME_US (min us 0xFFFFF)
  let t := if warm then t.setFld F.BOOT_STATUS_WARM_FAILS 0
    else (t.setFld F.BOOT_STATUS_COLD_FAILS 0).setFlag F.BOOT_STATUS_FORCE_COLD false
  let t := t.raiseG 47 16
  if t.flag F.PWR_STATUS_TSTOP_LAST then t.raiseG 46 9 else t

/-! ### Cold starts (R419, R423, R429, R430) -/

/-- A failure is recorded (R429). -/
def State.startFailed (s : State) (warm : Bool) (f : StartFail) : State :=
  ({ s with boot := { s.boot with lastFailed := true } } : State).setReg R.BOOT_LAST (w64 (f.cause * 2 ^ 24 + f.step * 2 ^ 20 + b2n warm * 2 ^ 16 + f.detail % 2 ^ 16))

/-- The state in which a cold start begins: cleared, the straps latched (R423, R278, R34, R468), the log marked.
START_FAIL latches when the start before it failed (R448). -/
def State.coldBegin (s : State) (facts : StartFacts) : State :=
  let c := s.cleared
  let t : State := { c with boot := { c.boot with
    starting := true, straps := facts.straps, starts := s.boot.starts + 1, lastFailed := false } }
  let t := if s.boot.lastFailed then t.raiseG 47 17 else t
  let mgmt := bitOf facts.straps 3
  let host := bitOf facts.straps 2
  let t := (t.setFlag F.BOOT_STATUS_MGMT_EN mgmt).setFlag F.BOOT_STATUS_HOST_EN host
  let t := t.setFld F.CMD_ROLE_HOST_ROLE (if host then 2 else 1)
  ((if mgmt then t.setFld (F.PRT_ROLE_ROLE 0) 2 else t).priorRecords).atStep 1

/-- The stages of a cold start. -/
def State.coldStages (s : State) (facts : StartFacts) : Stage1 :=
  let x : Stage1 := if chipShips s.boot.otp.chipId then (none, s) else (some ⟨1, bitsOf s.boot.otp.chipId 15 0, 1⟩, s)
  let x := andThen x fun t => (t.atStep 2).bistStage (facts.bistFails.map BitVec.toNat)
  let x := andThen x fun t => (t.atStep 4).imageStage facts.qspiError
  let x := andThen x fun t => (t.atStep 5).boardStage
  andThen x fun t =>
    let t := (State.ddrTrain facts.trainFails t).arcStartUp
    let t : State := { t with boot := { t.boot with calib := some t.time.cycles } }
    (none, (t.releasePorts ((t.boot.run.map RunImage.board).getD [])).startDone false 8 facts.startUs)

/-- A start that does not reach READY in time: it runs until its watchdog; the step reached is open (R429, log entry
60). -/
def State.startHangs (s : State) (facts : StartFacts) : State :=
  let (v, t) := s.takeFree 4
  { t.atStep v.toNat with boot := { t.boot with starting := true, facts := some facts } }

/-- A failed cold start counts, and whether the device tries again: none when it holds safe (R430). -/
def State.coldCount (s : State) (f : StartFail) : Bool × State :=
  let n := s.fld F.BOOT_STATUS_COLD_FAILS
  let t := s.startFailed false f
  if f.cause = 1 then (false, t.enterSafeHold)
  else if n ≤ 1 then (true, t.setFld F.BOOT_STATUS_COLD_FAILS (n + 1))
  else (false, (t.setFld F.BOOT_STATUS_COLD_FAILS 3).enterSafeHold)

/-- Cold starts until one reaches READY, hangs, or leaves the device in safe hold. At most three fail in a row. -/
def State.coldRuns (facts : StartFacts) : Nat → State → State
  | 0, s => s
  | n + 1, s =>
    let t := s.coldBegin facts
    if 1000000 < facts.startUs then t.startHangs facts
    else match t.coldStages facts with
      | (none, u) => u
      | (some f, u) =>
        let (again, v) := u.coldCount f
        if again then State.coldRuns facts n v else v

/-- A cold start. -/
def State.coldStart (s : State) (facts : StartFacts) : State := State.coldRuns facts 4 s

/-- RESET_N, or the device itself, releases the reset: a cold start, and the I2C address is latched (R419, R468, R471).
-/
def State.releaseStart (s : State) (facts : StartFacts) : State :=
  let t := s.coldStart facts
  { t with boot := { t.boot with i2cAddr := 0x28 + bitsOf facts.straps 1 0 } }

/-! ### Warm starts (R421, R426 to R430) -/

/-- Every LATCH cleared, as a start does before its first step (R462). -/
def State.clearLatches (s : State) : State :=
  { s with regs := s.regs.filter fun x => !(decide (0x300100 ≤ x.1) && decide (x.1 < 0x3001C0)) }

/-- The bits of a register that a warm start keeps (R420, R421, R450, R457), and the LATCH bits, which its first step
finds cleared (R462). -/
def State.warmMask (s : State) (off : Nat) : W64 :=
  let blk := off / 0x100000
  let active := s.activeTag
  let mine : Bool := match active with
    | some a => ofTag a off || off == R.LDG_SEED a ||
        (decide (0xF01000 + 4096 * a ≤ off) && decide (off < 0xF01000 + 4096 * a + 4096))
    | none => false
  if mine then ~~~ 0
  else if decide (0x1000000 ≤ off) && decide (off < 0x1400000) && off % 0x8000 == 0x84 then
    (match active with
      | some 0 => 0xFF
      | some _ => 0xFF00
      | none => 0)
  else if blk = 0x19 ∨ (0x300100 ≤ off ∧ off < 0x3001C0) ∨ (0xE08000 ≤ off ∧ off < 0xE08100) ∨ (0x1440000 ≤ off ∧ off < 0x1460000) ∨ off = R.DDR_STATUS ∨
      off = R.TIM_STATUS then ~~~ 0
  else if off = R.HST_STATUS then 0x1FE00000
  else if 0x410000 ≤ off ∧ off < 0x410800 ∧ off % 64 = 4 then ~~~ 0
  else match regAt off with
    | some d => d.rws ||| d.powerOn
    | none => 0

/-- The registers after the reset of step 3 (R426). -/
def State.warmRegs (s : State) : Tbl W64 :=
  (s.regs.map fun x => (x.1, (x.2 &&& s.warmMask x.1) ||| (regReset x.1 &&& ~~~ s.warmMask x.1))).filter fun x =>
    decide (x.2 ≠ regReset x.1)

/-- The rows of a bank that are not FENCED, as runs. -/
def State.openRows (s : State) (b : Nat) : List (Nat × Nat) :=
  (List.range 12288).foldl (fun l r => if s.cellState (32 * r + b) = 2 then l else runAppend l r) []

/-- The Galley cleared; cells and banks that are FENCED stay so until the next cold start (R41, R420). -/
def State.warmGalley (s : State) : Galley :=
  let inBank := fun (i : Nat) => s.bankFenced (i % 32)
  let cells := (s.gal.cell.map fun x => (x.1, if inBank x.1 || bitsOf x.2 7 6 == 2 then cellByte 2 (bitsOf x.2 5 0)
    else cellByte 0 0x3F)).filter fun x => decide (x.2 ≠ cellByte 0 0x3F)
  let banks := (List.range 32).filter fun b => s.bankFenced b || cells.any fun x => x.1 % 32 == b
  let t : State := { s with gal := { Galley.init with cell := cells, fenced := s.gal.fenced } }
  let t := banks.foldl (fun (u : State) b => u.setBankList b (if s.bankFenced b then [] else t.openRows b)) t
  { t.gal with free := Galley.init.free - cells.length, fencedCells := cells.length }

/-- The Archive stops capture, programs its open pages and writes a checkpoint; the requests not served yet are lost in
a run of their own with reason RESTART (R361, R426). What the DDR's reads find then is open (log entry 115). -/
def State.arcPause (s : State) : State :=
  if s.arcOff then s
  else
    let (fs, t) := s.takeFinds 512
    let t := (t.drainPage true true fs).writeCheckpoint
    let t := t.modArc fun a => { a with
      queue := [], recCell := none, resume := true
      gap := match a.queue with
        | [] => a.gap
        | q :: _ =>
          let time := match s.frame q.frame with
            | some f => s.rebuiltStamp f.stamp
            | none => s.stamp
          a.gap ++ [⟨a.queue.length, 6, q.sel, time⟩] }
    t.countN R.ARC_C_LOST s.arc.queue.length

/-- Steps 1 to 3 of a warm start: what R420 and R421 do not keep is reset (R428 for the host interface). -/
def State.warmBegin (s : State) : State :=
  let h := (s.clearLatches.hostReset 4).arcPause
  let a := h.activeTag
  let other : State := match a with
    | some t => h.ledgerRelease (1 - t) []
    | none => (h.ledgerRelease 0 []).ledgerRelease 1 []
  let keepTag := fun (t : Nat) => a == some t
  let resumed : PortState := { PortState.init with tag := a }
  let t : State := { State.reset with
    regs := h.warmRegs
    time := { h.time with reports := [], ppsOut := false }
    ports := match a with
      | some _ => (List.range 128).map fun p => (p, resumed)
      | none => []
    nextFrame := h.nextFrame
    gal := h.warmGalley
    images := h.images.filter fun x => keepTag x.1
    egr := (h.egr.map fun x => (x.1, { EgrPort.init with
      tt0 := if keepTag 0 then x.2.tt0 else .init
      tt1 := if keepTag 1 then x.2.tt1 else .init })).filter fun x => decide (x.2 ≠ EgrPort.init)
    ttWords := h.ttWords.filter fun x => keepTag (x.1 / 1024 % 2)
    ledger := { LedgerUnit.init with
      entries := other.ledger.entries.filter fun x => !(decide (x.1 < 2 ^ 18) && isLearned x.2)
      controlStore := h.ledger.controlStore }
    watch := { WatchUnit.init with lines := h.watch.lines, failed := h.watch.failed, repairs := h.watch.repairs }
    ddr := { h.ddr with rankMode := [], lag := [], scrubAt := 0, change := none, hot := 0 }
    arc := h.arc
    wbl := { h.wbl with log := [], patrolAt := 0, hold := 0 }
    forme := { FormeUnit.init with
      resv0 := if keepTag 0 then h.forme.resv0 else 0
      resv1 := if keepTag 1 then h.forme.resv1 else 0
      terms := h.forme.terms.filter fun x => keepTag (x.1 / 4096) }
    host := { h.host with bme := s.host.bme, d3hot := s.host.d3hot, bar2Log := s.host.bar2Log, stream := [] }
    flt := { h.flt with unfencing := none, recheck := false }
    pwr := { PowerUnit.init with rail := h.pwr.rail }
    boot := { h.boot.quiet with mode := .warm, starting := true, starts := h.boot.starts + 1 }
    out := h.out
    free := h.free
    pending := h.pending }
  let t := match a with
    | some x => ((t.setFlag F.FRM_STATUS_VALID true).setFld F.FRM_STATUS_ACTIVE_TAG x).setTagState x 3
    | none => t
  let t := t.setFlag F.FRM_STATUS_SETTLED a.isSome
  let t := (t.setFlag F.BOOT_STATUS_MGMT_EN (bitOf s.boot.straps 3)).setFlag F.BOOT_STATUS_HOST_EN (bitOf s.boot.straps 2)
  ((t.variantRegs.setFlag F.BOOT_STATUS_WARM true).priorRecords).atStep 3

/-- The retention checks (R427, R341). -/
def State.warmChecks (facts : StartFacts) (s : State) : Stage1 :=
  match facts.retainedFail with
  | some i =>
    if i.val = 0 then (none, s)
    else
      let t := if i.val = 1 then
          ((List.range 16).filter fun c => bitOf facts.imageFails c).foldl (fun (u : State) c => u.raiseCase c 2) s
        else s
      (some ⟨9, i.val, 4⟩, t)
  | none => match facts.ddrCheckFail with
    | some k => if s.flag F.DDR_STATUS_READY then (some ⟨10, k.val, 5⟩, s) else (none, s)
    | none => (none, s)

/-- The stages of a warm start after its reset. -/
def State.warmStages (s : State) (facts : StartFacts) : Stage1 :=
  let board := (s.boot.run.map RunImage.board).getD []
  let x := State.warmChecks facts (s.atStep 4)
  let x := andThen x fun t => State.applyBoard true 0 board (t.atStep 6).preparePorts
  andThen x fun t =>
    let t := if t.activeTag.isSome then t.chipValues else t
    let t : State := { t with boot := { t.boot with formeHashBusy := t.activeTag.isSome } }
    let t := (if t.arcOff then t else t.setArcState 2).arcStartUp
    (none, (t.releasePorts board).startDone true 7 facts.startUs)

/-- A failed warm start: the next one is cold, at once (R430). -/
def State.warmFailed (s : State) (facts : StartFacts) (f : StartFail) : State :=
  let t := s.startFailed true f
  let t := (t.setFld F.BOOT_STATUS_WARM_FAILS (min 2 (t.fld F.BOOT_STATUS_WARM_FAILS + 1))).setFlag
    F.BOOT_STATUS_FORCE_COLD true
  t.coldStart facts

/-- A warm start. -/
def State.warmStart (s : State) (facts : StartFacts) : State :=
  let t := s.warmBegin
  if 200000 < facts.startUs then t.startHangs facts
  else match t.warmStages facts with
    | (none, u) => u
    | (some f, u) => u.warmFailed facts f

/-! ### Requests (R419, R430, R471) -/

/-- POWER_ON: power is applied with RESET_N low; the Watch domain is cleared (R419, R470). -/
def execPowerOn (s : State) : Out State :=
  let t := s.clearWatch.cleared
  .next { t with boot := { t.boot with resetLow := true, railFault := false } }

/-- RESET_N_ASSERT: a running start is abandoned and does not count as failed (R419). -/
def execResetNAssert (s : State) : Out State :=
  let t := s.cleared
  .next { t with boot := { t.boot with resetLow := true } }

/-- RESET_N_RELEASE. -/
def execResetNRelease (facts : StartFacts) (s : State) : Out State :=
  .next (
    if s.boot.resetLow = false then s
    else
      let t : State := { s with boot := { s.boot with resetLow := false } }
      if t.boot.railFault then t else t.releaseStart facts)

/-- A BOOT_RESTART write that asks for a cold start (R419, R430). -/
def State.restartCold (s : State) (key : Nat) (facts : StartFacts) : State :=
  if key ≠ 0x5245 ∨ s.boot.starting = true then s
  else match s.boot.mode with
    | .running => s.coldStart facts
    | .safeHold => s.coldStart facts
    | _ => s

/-- A BOOT_RESTART write that asks for a warm start: it runs as cold after FORCE_COLD or two failures (R419, R448). -/
def State.restartWarm (s : State) (key : Nat) (facts : StartFacts) : State :=
  if key ≠ 0x5245 ∨ s.boot.starting = true ∨ s.boot.mode ≠ .running then s
  else if s.flag F.BOOT_STATUS_FORCE_COLD = true ∨ s.fld F.BOOT_STATUS_WARM_FAILS = 2 then
    (s.coldStart facts).raiseG 47 18
  else s.warmStart facts

/-- A BOOT_RESTART write with MODE = 0 and CLR_FAILS = 1 (R430). -/
def State.clrFails (s : State) (key : Nat) : State :=
  if key ≠ 0x5245 ∨ s.boot.starting = true ∨ s.boot.mode ≠ .running then s
  else s.setFld F.BOOT_STATUS_WARM_FAILS 0

/-- RESTART_COLD. -/
def execRestartCold (key : BitVec 16) (facts : StartFacts) (s : State) : Out State :=
  .next (s.byHost R.BOOT_RESTART fun s => s.restartCold key.toNat facts)

/-- RESTART_WARM. -/
def execRestartWarm (key : BitVec 16) (facts : StartFacts) (s : State) : Out State :=
  .next (s.byHost R.BOOT_RESTART fun s => s.restartWarm key.toNat facts)

/-- CLR_FAILS. -/
def execClrFails (key : BitVec 16) (s : State) : Out State :=
  .next (s.byHost R.BOOT_RESTART fun s => s.clrFails key.toNat)

/-- START_WATCHDOG: READY has not been reached in time (R429). -/
def execStartWatchdog (s : State) : Out State :=
  .next (
    match s.boot.facts with
    | none => s
    | some facts =>
      if s.boot.starting = false then s else
      let f : StartFail := ⟨0x0B, 0, s.fld F.BOOT_STATUS_STEP⟩
      if s.boot.mode = .warm then s.warmFailed facts f
      else
        let (again, v) := s.coldCount f
        if again then v.coldStart facts
        else { v with boot := { v.boot with facts := none } })

/-- WATCH_RAIL_LOSS: VDD_WATCH below 0.60 V clears the Watch domain (R471). -/
def execWatchRailLoss (s : State) : Out State := .next s.clearWatch

/-- RAIL_UNDERVOLT: another rail below its tolerance for more than 10 µs acts as RESET_N asserted (R471). -/
def execRailUndervolt (s : State) : Out State :=
  let t := s.cleared
  .next { t with boot := { t.boot with railFault := true } }

/-- RAIL_RESTORE_RELEASE: 10 ms after every rail is within tolerance the device releases itself (R471). -/
def execRailRestoreRelease (facts : StartFacts) (s : State) : Out State :=
  .next (
    if s.boot.railFault = false then s
    else
      let t : State := { s with boot := { s.boot with railFault := false } }
      if t.boot.resetLow then t else t.releaseStart facts)

end Sys2Proof.Machine
end

