-- ==== Sys2Proof/Machine/Security.lean ====
section
/-! DEFINITION. Software and the security core: the QSPI device, key slots, attestation, the forme hash, and every register
write in one place (R5 to R7, R431, R437, R443 to R449). -/

namespace Sys2Proof.Machine

def State.modBoot (s : State) (g : BootUnit → BootUnit) : State := { s with boot := g s.boot }

/-- The bytes of a window of RW registers from `off` (R449: byte n lies at window offset n). -/
def State.windowBytes (s : State) (off n : Nat) : List Byte :=
  (List.range n).flatMap fun i => toLE 4 (s.reg (off + 4 * i)).toNat

/-- Store bytes in a window of registers from `off`, four by four. -/
def State.putWindow (s : State) (off : Nat) (bs : List Byte) : State :=
  (List.range (ceilDiv bs.length 4)).foldl (fun (t : State) i => t.setReg (off + 4 * i) (w64 (windowWord bs i))) s

/-! ### The QSPI device (R433, R449) -/

/-- The device's size in bytes. -/
def qspiSize : Nat := 2 ^ 24 + Config.qspiExtra

/-- The first address and the length of what an operation touches. -/
def qspiSpan (op len addr : Nat) : Nat × Nat := if op = 2 then (addr, 65536) else (addr, len)

/-- REFUSED (R449): a length that is none, an operation across its page or off its sector's start, or beyond the
device. -/
def qspiRefused (op len addr : Nat) : Bool :=
  match op with
  | 2 => addr % 65536 != 0 || decide (qspiSize < addr + 65536)
  | 3 => true
  | _ => decide (len = 0) || decide (256 < len) || decide (qspiSize < addr + len) ||
    (op == 1 && decide (256 < addr % 256 + len))

/-- A write of BOOT_QSPI_CTRL with GO = 1. -/
def State.qspiGo (s : State) (op len : Nat) : State :=
  if s.boot.qspiOp.isSome || s.boot.starting then s
  else
    let addr := s.fld F.BOOT_QSPI_ADDR_ADDR
    if qspiRefused op len addr then (s.setFld F.BOOT_QSPI_CTRL_RESULT 3).raiseG 47 21
    else (s.setFld F.BOOT_QSPI_CTRL_RESULT 0).modBoot fun b => { b with qspiOp := some (op, len, addr) }

/-- QSPI_READ. -/
def execQspiRead (len : BitVec 9) (s : State) : Out State :=
  .next (s.byHost R.BOOT_QSPI_CTRL fun s => s.qspiGo 0 len.toNat)

/-- QSPI_PROGRAM. -/
def execQspiProgram (len : BitVec 9) (s : State) : Out State :=
  .next (s.byHost R.BOOT_QSPI_CTRL fun s => s.qspiGo 1 len.toNat)

/-- QSPI_ERASE. -/
def execQspiErase (s : State) : Out State := .next (s.byHost R.BOOT_QSPI_CTRL fun s => s.qspiGo 2 0)

def State.setFlash (s : State) (addr : Nat) (bs : List Byte) : State :=
  s.modBoot fun b => { b with qspi := Memory.writeN 0xFF b.qspi addr bs }

/-- The bytes that a program leaves: flash cells only fall from 1 to 0 (PRESUMED, log entry 62). -/
def State.programmed (s : State) (addr len : Nat) : List Byte :=
  List.zipWith (· &&& ·) (Memory.readN 0xFF s.boot.qspi addr len) (s.windowBytes (R.BOOT_QSPI_BUF 0) 64)

/-- Bytes of the buffer with the first ones replaced. -/
def State.bufferHead (s : State) (bs : List Byte) : State :=
  s.putWindow (R.BOOT_QSPI_BUF 0) (overwrite (s.windowBytes (R.BOOT_QSPI_BUF 0) 64) 0 bs)

/-- What an operation does to flash or buffer; after an error the bytes it touched are open (log entry 62). -/
def State.qspiEffect (s : State) (op len addr : Nat) (error : Bool) : State :=
  let (_, n) := qspiSpan op len addr
  if error then
    let (bs, t) := s.freeBytes n
    if op = 0 then t.bufferHead bs else t.setFlash addr bs
  else match op with
    | 0 => s.bufferHead (Memory.readN 0xFF s.boot.qspi addr len)
    | 1 => s.setFlash addr (s.programmed addr len)
    | _ => s.setFlash addr (List.replicate n 0xFF)

/-- QSPI_DONE. -/
def execQspiDone (error : Bool) (s : State) : Out State :=
  .next (
    match s.boot.qspiOp with
    | none => s
    | some (op, len, addr) =>
      let t := (s.qspiEffect op len addr error).modBoot fun b => { b with qspiOp := none }
      (t.setFld F.BOOT_QSPI_CTRL_RESULT (if error then 2 else 1)).raiseG 47 21)

/-! ### Key slots (R437) -/

def State.setKeySlot (s : State) (k : Nat) (v : KeySlot) : State :=
  s.modBoot fun b => { b with otp := { b.otp with keys := b.otp.keys.set k v } }

/-- Whether a key operation is refused. -/
def State.keyRefused (s : State) (op slot confirm : Nat) : Bool :=
  let k := s.keySlot slot
  let usable := fun (j : Nat) => j != slot && (s.keySlot j).programmed && !(s.keySlot j).revoked
  confirm != 0xA5C3 ||
  (match op with
    | 1 => k.programmed
    | 2 => !k.programmed || ((s.boot.run.map fun r => r.keySlot == slot).getD false) ||
        !((List.range 4).any usable)
    | _ => true)

/-- A write of SEC_KEY_CTRL with GO = 1. -/
def State.keyGo (s : State) (op slot confirm : Nat) : State :=
  if s.boot.keyOp.isSome then s
  else if s.keyRefused op slot confirm then (s.setFld F.SEC_KEY_CTRL_RESULT 2).raiseG 47 22
  else (s.setFld F.SEC_KEY_CTRL_RESULT 0).modBoot fun b => { b with keyOp := some (op, slot) }

/-- KEY_PROGRAM. -/
def execKeyProgram (slot : Fin 4) (confirm : BitVec 16) (s : State) : Out State :=
  .next (s.byHost R.SEC_KEY_CTRL fun s => s.keyGo 1 slot confirm.toNat)

/-- KEY_REVOKE. -/
def execKeyRevoke (slot : Fin 4) (confirm : BitVec 16) (s : State) : Out State :=
  .next (s.byHost R.SEC_KEY_CTRL fun s => s.keyGo 2 slot confirm.toNat)

/-- KEY_OP_DONE. -/
def execKeyOpDone (ok : Bool) (s : State) : Out State :=
  .next (
    match s.boot.keyOp with
    | none => s
    | some (op, slot) =>
      let t := s.modBoot fun b => { b with keyOp := none }
      let t :=
        if ok = false then t
        else if op = 1 then t.setKeySlot slot
          { t.keySlot slot with programmed := true, hash := beNat (s.windowBytes (R.SEC_KEY_DATA 0) 8) }
        else t.setKeySlot slot { t.keySlot slot with revoked := true }
      (t.setFld F.SEC_KEY_CTRL_RESULT (if ok then 1 else 3)).raiseG 47 22)

/-! ### Attestation (R444 to R446) -/

/-- SHA-256 of an image's words; zeros for an EMPTY tag. -/
def State.programHash (s : State) (t : Nat) : List Byte :=
  if s.tagState t = 0 then List.replicate 32 0
  else sha256 ((s.image t).words.flatMap fun w => toBE 8 w.toNat)

/-- FLAGS of the report. -/
def State.attestFlags (s : State) : Nat :=
  b2n (s.boot.mode == .safeHold) + 2 * b2n s.activeTag.isSome + 4 * s.activeTag.getD 0 + 8 * b2n s.boot.formeHash.isSome +
  16 * maskOf 4 (fun k => (s.keySlot k).revoked) + 256 * maskOf 4 (fun k => (s.keySlot k).programmed) +
  4096 * (((s.boot.run.map fun r => r.sheets.length).getD 0) % 16)

/-- Bytes 0 to 639 of the report. What runs under the boot ROM alone has no key slot and no image: both are open
(log entry 62). -/
def State.measure (s : State) : List Byte × State :=
  let (open_, t) := s.freeBytes 33
  let (slot, fw) := match s.boot.run with
    | some r => (toBE 1 r.keySlot, toBE 32 r.hash)
    | none => (open_.take 1, open_.drop 1)
  let sheets := (s.boot.run.map RunImage.sheets).getD []
  (padTo 640 (toBE 4 0x50484154 ++ toBE 2 1 ++ toBE 2 1024 ++ toBE 4 s.boot.otp.chipId.toNat ++ toBE 8 s.boot.otp.serial ++
    toBE 6 (stampSec s.stamp) ++ toBE 4 (stampNs s.stamp) ++ toBE 1 (s.fld F.BOOT_STATUS_WARM) ++ slot ++
    toBE 4 s.boot.starts ++ toBE 4 s.attestFlags ++ s.windowBytes (R.SEC_ATTEST_NONCE 0) 8 ++ sha256 s.boot.otp.rom ++ fw ++
    sha256 (csBytes s.ledger.controlStore) ++
    (if sheets.isEmpty then List.replicate 32 0 else sha256 (sheets.flatMap (toBE 32))) ++
    s.programHash 0 ++ s.programHash 1 ++ toBE 32 (s.boot.formeHash.getD 0)), t)

/-- A write of SEC_ATTEST_CTRL with GO = 1; a fenced security core refuses reports (R404). -/
def State.attest (s : State) : State :=
  if s.boot.attest.isSome || s.fencedSrc 0x605 then s
  else
    let (bs, t) := s.measure
    (t.modBoot fun b => { b with attest := some bs }).setFlag F.SEC_ATTEST_CTRL_VALID false

/-- ATTEST_GO. -/
def execAttestGo (s : State) : Out State := .next (s.byHost R.SEC_ATTEST_CTRL State.attest)

/-- ATTEST_DONE: the report stands, with a random salt in its signature (R436, R446). -/
def execAttestDone (s : State) : Out State :=
  .next (
    match s.boot.attest with
    | none => s
    | some bs =>
      if s.fencedSrc 0x605 then s
      else
        let (salt, t) := s.freeBytes 32
        let signature := pssSign s.boot.otp.idModulus s.boot.otp.idExponent bs salt
        let t := (t.modBoot fun b => { b with attest := none }).putWindow (R.SEC_ATTEST_REPORT 0) (bs ++ signature)
        (t.setFlag F.SEC_ATTEST_CTRL_VALID true).raiseG 47 23)

/-! ### The forme hash (R447) -/

/-- Insert a byte string by its value. -/
def insertBytes (x : List Byte) : List (List Byte) → List (List Byte)
  | [] => [x]
  | y :: l => if beNat x ≤ beNat y then x :: y :: l else y :: insertBytes x l

/-- Registers as bytes, in the order given. -/
def State.regBytes (s : State) (n : Nat) (offs : List Nat) : List Byte := offs.flatMap fun o => toBE n (s.reg o).toNat

/-- Registers from `off`, `n` of them, `step` apart. -/
def offsets (off n step : Nat) : List Nat := (List.range n).map fun i => off + step * i

/-- Image words and entry table, laid out as in a PROGRAM section (R439). -/
def State.hashImage (s : State) (t : Nat) : List Byte :=
  let m := s.image t
  (m.words.flatMap fun w => toBE 8 w.toNat) ++ (List.range 64).flatMap fun e =>
    toBE 8 ((((m.entries.find? fun x => x.1 == e).map fun x => 2 ^ 63 + x.2)).getD 0)

/-- FRM_ registers of a tag in offset order: FRM_PARAM, FRM_MIRROR, FRM_CASE_CFG, FRM_PORT_DECL, FRM_BUDGET and
FRM_TOEPLITZ. -/
def State.hashForme (s : State) (t : Nat) : List Byte :=
  s.regBytes 4 (offsets (R.FRM_PARAM_CLS t) 3 4 ++ offsets (R.FRM_MIRROR t 0) 16 4 ++ offsets (R.FRM_CASE_CFG t 0) 16 4 ++
    offsets (R.FRM_PORT_DECL t 0) 128 4 ++ offsets (R.FRM_BUDGET t 0) 64 4 ++
    (List.range 4).flatMap fun k => offsets (R.FRM_TOEPLITZ t k 0) 10 4)

/-- Declaration records with BOUND, bits [31:0] of word 2 (R247), taken as zero. -/
def State.hashDecls (s : State) (t : Nat) : List Byte :=
  (List.range (s.ndecl t)).flatMap fun i =>
    toBE 8 (s.decl t i 0).toNat ++ toBE 8 (s.decl t i 1).toNat ++ toBE 8 (setBits (s.decl t i 2) 31 0 0).toNat ++
    toBE 8 (s.decl t i 3).toNat

/-- Per port: timetable header, entries, shapers and preemptable mask. -/
def State.hashPorts (s : State) (t : Nat) : List Byte :=
  (List.range 128).flatMap fun p =>
    s.regBytes 4 (offsets (R.EGR_TT_BASE_SEC_LO p t) 4 4 ++ [R.EGR_TT_CTRL p t]) ++
    ((List.range (s.fld (F.EGR_TT_CTRL_NENT p t))).flatMap fun e => toBE 8 (s.ttWord p t e).toNat) ++
    s.regBytes 4 ((List.range 128).map fun q => R.EGR_Q_SHAPE (128 * p + q) t) ++
    toBE 1 (bitsOf (s.reg (R.EGR_PORT_PREEMPT p)) (8 * t + 7) (8 * t))

/-- The pair, stream-gate and meter-parameter tables. -/
def State.hashTables (s : State) (t : Nat) : List Byte :=
  s.regBytes 4 (offsets (R.WBL_PAIR t 0) 64 4) ++
  ((List.range 64).flatMap fun g => s.regBytes 8 ([R.WBL_SGATE_W0 t g, R.WBL_SGATE_W1 t g] ++ offsets (R.WBL_SGATE_ENT t g 0) 16 8)) ++
  (List.range 4096).flatMap fun m => s.regBytes 8 [R.WBL_METER_W0 t m, R.WBL_METER_W1 t m]

/-- The fork tables of a tag. -/
def State.hashForks (s : State) (t : Nat) : List Byte :=
  (List.range 16384).flatMap fun i => toBE 8 (entryWord (s.entry 5 (16384 * t + i)) 0).toNat

/-- The Watchlist directory of a tag and the lines it names. -/
def State.hashWatch (s : State) (t : Nat) : List Byte :=
  ((List.range 256).flatMap fun i =>
    let d := s.wchDir (256 * t + i)
    toBE 8 d.1.toNat ++ toBE 8 d.2.toNat) ++
  ((List.range 65536).filter fun l => (List.range 256).any fun i => dirNames s.wchLine (s.wchDir (256 * t + i)) l).flatMap
    s.wchLine

/-- The host-written entries of a table visible to a tag, with VALID and VIS taken as zero; keyed tables sorted. -/
def State.hashTable (s : State) (k t : Nat) : List Byte :=
  let es := ((s.listed k).filter fun x => seenBy k t x.2 && !(k == 0 && isLearned x.2)).map fun x =>
    (setVis k (setValid k x.2 false) 0).flatMap fun w => toBE 8 w.toNat
  (if k = 4 then es else es.foldl (fun l x => insertBytes x l) []).flatten

/-- The forme hash of tag `t`'s forme. Each register enters as its bytes, most significant first (log entry 63). -/
def State.formeDigest (s : State) (t : Nat) : Nat :=
  beNat (sha256 (s.hashImage t ++ s.hashForme t ++ s.hashDecls t ++ s.hashPorts t ++ s.hashTables t ++ s.hashForks t ++
    s.hashWatch t ++ s.hashTable 0 t ++ s.hashTable 2 t ++ s.hashTable 3 t ++ s.hashTable 4 t))

/-- FORME_HASH_DONE. -/
def execFormeHashDone (s : State) : Out State :=
  .next (
    match s.activeTag with
    | none => s
    | some t =>
      if s.boot.formeHashBusy = false then s
      else (s.modBoot fun b => { b with formeHash := some (s.formeDigest t), formeHashBusy := false }).raiseG 47 24)

/-! ### Register writes -/

/-- What a plain BOOT_RESTART write brings: a start in which nothing fails, under the straps last driven (log entry
60). -/
def State.cleanFacts (s : State) : StartFacts := ⟨[], false, 0, none, none, 0, 0, s.boot.straps⟩

/-- A write of one BOOT_ or SEC_ register. -/
def State.putBoot (s : State) (off : Nat) (v : W64) : State :=
  if off = R.BOOT_RESTART then
    let key := bitsOf v 31 16
    match bitsOf v 1 0 with
    | 0 => if bitOf v 2 then s.clrFails key else s
    | 1 => s.restartWarm key s.cleanFacts
    | 2 => s.restartCold key s.cleanFacts
    | _ => s
  else if off = R.BOOT_QSPI_CTRL then (if bitOf v 31 then s.qspiGo (bitsOf v 25 24) (bitsOf v 8 0) else s)
  else if off = R.SEC_KEY_CTRL then
    (if bitOf v 31 then s.keyGo (bitsOf v 25 24) (bitsOf v 17 16) (bitsOf v 15 0) else s)
  else if off = R.SEC_ATTEST_CTRL then (if bitOf v 31 then s.attest else s)
  else if 0x8220 ≤ off ∧ off < 0x8240 ∧ s.boot.attest.isSome = true then s
  else s.plainWrite off v

/-- A write of one whole register. -/
def State.writeReg (s : State) (off : Nat) (v : W64) : State :=
  if off < 0x100000 then s.putBoot off v else s.putReg off v

/-- REGISTER_WRITE: a BAR0 write to any register, with its access codes and whatever the register does. -/
def execRegisterWrite (off : BitVec 26) (wide : Bool) (data : W64) (s : State) : Out State :=
  .next (s.byHost off.toNat fun s => s.barWrite off.toNat wide data State.writeReg)

end Sys2Proof.Machine
end

