-- ==== Sys2Proof/Machine/Bar2.lean ====
section
/-! DEFINITION. BAR2: the translation windows and what each internal range serves (R50, R51, R67, R124, R126, R306 to R310).
A byte whose value the spec leaves open is `none` here and a free value in the completion. -/

namespace Sys2Proof.Machine

/-! ### The Galley and the slug store as bytes (R38, R43, R51, R124, R126) -/

/-- The row after `row` on a bank's free sublist. -/
def rowAfter : List (Nat × Nat) → Nat → Option Nat
  | [], _ => none
  | (a, n) :: l, row =>
    if a ≤ row ∧ row < a + n then (if row + 1 < a + n then some (row + 1) else l.head?.map Prod.fst)
    else rowAfter l row

/-- The sublist that the link words of a bank's FREE cells spell: while the bank is swept, the one that they had when
the break was found (R45). -/
def State.linkedList (s : State) (b : Nat) : List (Nat × Nat) :=
  if bitOf s.gal.sweeping b then tget (fun _ => []) s.gal.stale b else s.bankList b

/-- The link word of a FREE cell (R43). NEXT of the last cell is open, so only END stands in it. -/
def State.freeLink (s : State) (i : Nat) : Option Nat :=
  (rowAfter (s.linkedList (i % 32)) (i / 32)).map fun row => i % 32 + 32 * row

/-- A FREE cell that belongs to no sublist and has no link word of one: it was freed while its bank is swept, and holds
what it held (R45). -/
def State.unlinked (s : State) (i : Nat) : Bool :=
  bitOf s.gal.sweeping (i % 32) &&
    !(s.linkedList (i % 32)).any fun x => decide (x.1 ≤ i / 32) && decide (i / 32 < x.1 + x.2)

/-- Byte `k` of a FREE cell. -/
def State.freeByte (s : State) (i k : Nat) : Option Byte :=
  if s.unlinked i then some (Config.freeCellByte i k)
  else match s.freeLink i with
  | some n => if k < 4 then some (byteAt (toBE 4 n) k) else some (Config.freeCellByte i k)
  | none =>
    if k = 0 then some 0x80
    else if k = 1 then some (Config.freeCellByte i k &&& 0x07)
    else some (Config.freeCellByte i k)

/-- An edit cell (R124). -/
def editBytes (es : List Edit) : List Byte :=
  es.flatMap fun e => padTo 32 (toBE 1 e.eop ++ toBE 1 e.pass ++ toBE 2 e.off ++ toBE 8 e.value.toNat)

/-- A pass-record cell (R126). -/
def passBytes (f : Frame) : List Byte :=
  let entry := match f.act.dlv with
    | some (.second e) => e
    | _ => 0
  padTo 256 (padTo 192 f.passScratch ++ toBE 8 f.user.toNat ++ toBE 1 (f.qoff % 128) ++ toBE 1 (entry % 64) ++
    toBE 2 (match f.wbl with
      | some w => 32768 + w % 32768
      | none => 0) ++ toBE 1 f.edits.length ++ toBE 1 (b2n f.tsreq.isSome) ++ toBE 1 (f.tsreq.getD 0))

/-- Byte `k` of a HELD cell of a frame. -/
def Frame.cellByte (f : Frame) (i k : Nat) : Option Byte :=
  if f.editCell = some i then (editBytes f.edits)[k]?
  else if f.passCell = some i then (passBytes f)[k]?
  else match f.cells.findIdx? (· == i) with
    | some n => f.bytes[256 * n + k]?
    | none => none

def Frame.holdsCell (f : Frame) (i : Nat) : Bool :=
  f.cells.contains i || f.editCell == some i || f.passCell == some i

/-- The byte of the Galley at an offset from 0x00_8000_0000. -/
def State.galleyByte (s : State) (o : Nat) : Option Byte :=
  let i := o / 256
  if s.cellState i = 0 then s.freeByte i (o % 256)
  else match s.frames.findSome? fun x => x.2.bind fun f => if f.holdsCell i then some f else none with
    | some f => f.cellByte i (o % 256)
    | none => none

/-- The four words of a slug (R51). -/
def slugWords (f : Frame) : List Nat :=
  [2 ^ 63 + f.tag % 2 * 2 ^ 62 + b2n f.admitted * 2 ^ 61 + b2n f.cut * 2 ^ 60 + f.pass % 4 * 2 ^ 58 + f.inPort % 128 * 2 ^ 51 +
     f.cls % 8 * 2 ^ 48 + f.refcnt % 256 * 2 ^ 40 + f.len % 2 ^ 14 * 2 ^ 26 + f.cells.length % 64 * 2 ^ 20 +
     f.editCell.getD 0 % 2 ^ 19 * 2 + b2n f.editCell.isSome,
   stampSec f.stamp % 256 * 2 ^ 56 + stampNs f.stamp * 2 ^ 26 + stampFrac f.stamp * 2 ^ 10 + f.edits.length % 16 * 2 ^ 6,
   (match f.wbl with
     | some w => 2 ^ 63 + w % 32768 * 2 ^ 48
     | none => 0) +
   (match f.residue with
     | some r => 2 ^ 47 + r % 16384 * 2 ^ 33
     | none => 0) + (f.cells.getLast?.getD 0) % 2 ^ 19,
   f.user.toNat]

/-- The byte of the slug store at an offset. Of an unused slug only VALID is stated. -/
def State.slugByte (s : State) (free : Byte) (o : Nat) : Option Byte :=
  match s.frames.findSome? fun x => x.2.bind fun f => if f.cells.head? == some (o / 32) then some f else none with
  | some f => some (byteAt ((slugWords f).flatMap (toBE 8)) (o % 32))
  | none => if o % 32 = 0 then some (free &&& 0x7F) else none

/-! ### The Ledger's direct window (R308) -/

/-- The byte of the Ledger window at an offset: the words of an entry, most significant byte first (log entry 64). -/
def State.ledgerByte (s : State) (o : Nat) : Option Byte :=
  let tbl := o / 2 ^ 28
  let t := if tbl = 1 then 0 else tbl
  let stride := match t with
    | 0 => 16 | 2 => 32 | 3 => 64 | 4 => 256
    | _ => 8
  let a := o % 2 ^ 28 / stride
  if tblSize t ≤ a then none
  else
    let bs := (s.entry t a).flatMap fun w => toBE 8 w.toNat
    if t = 4 ∧ 144 ≤ o % stride then some 0 else bs[o % stride]?

/-! ### Requests -/

/-- What serves an internal address (R308). -/
inductive Target where
  | regs
  | galley
  | slugs
  | ledger
  | waybills
  | ddr
  | unmapped
  deriving DecidableEq, Repr

def State.target (s : State) (a size : Nat) : Target :=
  if a < 0x4000000 then .regs
  else if 0x80000000 ≤ a ∧ a < 0x86000000 then .galley
  else if 0x100000000 ≤ a ∧ a < 0x100C00000 then .slugs
  else if 0x200000000 ≤ a ∧ a < 0x260000000 then .ledger
  else if 0x300000000 ≤ a ∧ a < 0x300400000 then .waybills
  else if ddrBase ≤ a ∧ a < 2 ^ 40 ∧ s.ddrMapped a size = true then .ddr
  else .unmapped

/-- A completion of bytes; open bytes take a free value. -/
def State.complete (s : State) (bs : List (Option Byte)) (poisoned : Bool) : State :=
  let (free, t) := s.freeBytes bs.length
  t.emit (.readData (List.zipWith (fun (x : Option Byte) (y : Byte) => x.getD y) bs free) poisoned)

/-- A read of register space: as BAR0 (R305). -/
def State.regRead (s : State) (off size : Nat) : State :=
  if (size = 4 ∨ size = 8) ∧ off % size = 0 then
    let (bs, t) := s.readBar off (size == 8)
    t.emit (.readData bs false)
  else (s.barErr true off).emit (.readData (List.replicate size 0) false)

/-- A write of register space: as BAR0 (R305, R278). -/
def State.regWrite (s : State) (off size : Nat) (data : List Byte) : State :=
  if (size = 4 ∨ size = 8) ∧ off % size = 0 then
    s.byHost off fun s => s.barWrite off (size == 8) (w64 (leNat data)) State.writeReg
  else s.barErr false off

/-- Read Galley cells in order for the host: whether one is uncorrectable or fenced, and the state (R67, R308). `k` is
the place of the first. -/
def State.hostCells (fs : EccFinds) : Nat → List Nat → State → Bool × State
  | _, [], s => (false, s)
  | k, c :: cs, s =>
    let (bad, t) := s.readCells [c] 0 (fs.at_ k)
    let (rest, u) := State.hostCells fs (k + 1) cs t
    (bad || rest, u)

/-- Read waybill words in order for the host: their bytes and the state. -/
def State.hostWords (fs : EccFinds) : Nat → List Nat → State → List Byte × State
  | _, [], s => ([], s)
  | k, a :: as, s =>
    let (bs, t) := s.wblRead a (fs.at_ k == .uncorrectable)
    let (rest, u) := State.hostWords fs (k + 1) as t
    (bs ++ rest, u)

/-- The units of `unit` bytes that `size` bytes from offset `o` lie in, by number. -/
def unitsOf (unit o size : Nat) : List Nat := (List.range ((o + size - 1) / unit + 1 - o / unit)).map fun i => o / unit + i

/-- A read that its window let through. -/
def State.bar2Read (s : State) (w x a size : Nat) (finds : EccFinds) : State :=
  let span := fun (base : Nat) (f : Nat → Option Byte) => (List.range size).map fun k => f (a - base + k)
  match s.target a size with
  | .regs => s.regRead a size
  | .galley =>
    let (bad, t) := State.hostCells finds 0 (unitsOf 256 (a - 0x80000000) size) s
    t.complete (if bad then List.replicate size none else span 0x80000000 s.galleyByte) bad
  | .slugs =>
    let (free, t) := s.freeBytes 1
    t.complete (span 0x100000000 (s.slugByte (byteAt free 0))) false
  | .ledger => s.complete (span 0x200000000 s.ledgerByte) false
  | .waybills =>
    let (bs, t) := State.hostWords finds 0 ((unitsOf 8 (a - 0x300000000) size).map (8 * ·)) s
    t.emit (.readData ((bs.drop (a % 8)).take size) false)
  | .ddr => match s.ddrRead 3 a size finds with
    | (some bs, t) => t.emit (.readData bs false)
    | (none, t) => t.complete (List.replicate size none) true
  | .unmapped => (s.winRefused 3 w x true).emit .unsupported

/-- A write that its window let through. -/
def State.bar2Write (s : State) (w x a size : Nat) (data : List Byte) (finds : EccFinds) : State :=
  match s.target a size with
  | .regs => s.regWrite a size data
  | .waybills => s.wblWrite (a - 0x300000000) size (w64 (beNat (padTo 8 (data.take 8))))
      (finds.at_ 0 == .uncorrectable)
  | .ddr => s.ddrWrite 3 a data finds
  | .unmapped => (s.winRefused 3 w x false).emit .unsupported
  | _ => (s.winRefused 2 w x false).emit .unsupported

/-- BAR2_REQUEST: one request at a BAR2 offset, translated by the entry that stands now (R306 to R310, R333). A write
carries its bytes, lowest address first; `finds` is what the reads of the cells, waybill words or bursts concerned
find. -/
def execBar2Request (write : Bool) (off : BitVec 36) (size : Fin 4097) (data : List Byte) (finds : EccFinds) (s : State) :
    Out State :=
  .next (
    if s.host.linkUp = false ∨ 2 ^ s.host.bar2Log ≤ off.toNat then s
    else if s.host.d3hot then s.emit .unsupported
    else if write && s.flag F.HST_STATUS_FROZEN then s.count R.HST_C_FROZEN_DROP
    else
      let room := 2 ^ s.host.bar2Log / 16
      let w := off.toNat / room
      let x := off.toNat % room
      let entry := s.reg (R.HST_WIN w)
      let a := bitsOf entry 39 12 * 4096 + x
      if bitOf entry 63 = false ∨ bitOf entry (if write then 62 else 61) = false then
        (s.winRefused 1 w x (!write)).emit .unsupported
      else if write then s.bar2Write w x a size.val (padTo size.val data) finds
      else s.bar2Read w x a size.val finds)

end Sys2Proof.Machine
end

