-- ==== Sys2Proof/Machine/Idle.lean ====
section
/-! DEFINITION. What a cycle of 1.6 ns does when no command waits: the time base runs, sleep entries and wakes and a
DDR frequency change end, and the Keeper's sequencer goes on (R260, R349, R377 to R379, R440, R441; log entries 1, 33, 114). -/

namespace Sys2Proof.Machine

/-! ### The Keeper's microcode (R440, R441) -/

def State.modLedger (s : State) (g : LedgerUnit → LedgerUnit) : State := { s with ledger := g s.ledger }

/-- The microword at an address. -/
def State.microword (s : State) (a : Nat) : BitVec 128 := tget (fun _ => 0) s.ledger.controlStore a

/-- Byte `i` of the entry buffer. -/
def State.bufByte (s : State) (i : Nat) : Byte := tget (fun _ => 0) s.ledger.buffer i

def State.rawMicro (s : State) (n : Nat) : W64 := tget (fun _ => 0) s.ledger.micro n

/-- The 64-bit word of the entry buffer that m14 selects, most significant byte first (log entry 65). -/
def State.bufWord (s : State) : W64 :=
  let w := (s.rawMicro 14).toNat % 18
  w64 (beNat ((List.range 8).map fun i => s.bufByte (8 * w + i)))

/-- A micro-register: m15 is the selected word of the entry buffer. -/
def State.micro (s : State) (n : Nat) : W64 := if n = 15 then s.bufWord else s.rawMicro n

def State.putBuffer (s : State) (at_ : Nat) (bs : List Byte) : State :=
  s.modLedger fun l => { l with buffer := ((List.range bs.length).foldl (fun (t : Tbl Byte) i =>
    tput (fun _ => 0) t (at_ + i) (byteAt bs i)) l.buffer) }

def State.setMicro (s : State) (n : Nat) (v : W64) : State :=
  if n = 15 then s.putBuffer (8 * ((s.rawMicro 14).toNat % 18)) (toBE 8 v.toNat)
  else s.modLedger fun l => { l with micro := tput (fun _ => 0) l.micro n v }

/-- The result and the carry of an ALU operation; none for NOP. A reserved code and a shift by 64 or more leave an open
result: `free` (log entry 65). -/
def microAlu (op : Nat) (a b free : W64) : Option (W64 × Bool) :=
  match op with
  | 0 => none
  | 1 => some (a + b, decide (2 ^ 64 ≤ a.toNat + b.toNat))
  | 2 => some (a - b, decide (a.toNat < b.toNat))
  | 3 => some (a &&& b, false)
  | 4 => some (a ||| b, false)
  | 5 => some (a ^^^ b, false)
  | 6 => some (if b.toNat < 64 then a <<< b.toNat else free, false)
  | 7 => some (if b.toNat < 64 then a >>> b.toNat else free, false)
  | 8 => some (b, false)
  | 9 => some (w64 (crc32cState (a.toNat % 2 ^ 32) (toBE 8 b.toNat)), false)
  | _ => some (free, false)

/-- The table, by its number in R104, that a table bank belongs to (R131). -/
def bankTable (bank : Nat) : Nat :=
  if bank < 8 then 0 else if bank < 12 then 2 else if bank < 16 then 3 else if bank < 24 then 4 else 5

/-- The memory operation of a microword. Its writes to the tables, the input and the result port are what the Keeper's
own commands do, so they have no second effect here (log entry 65). -/
def State.microMem (s : State) (op bank : Nat) (addr : W64) : State :=
  match op with
  | 1 => s.putBuffer 0 ((s.entry (bankTable bank) (addr.toNat % 2 ^ 18)).flatMap fun w => toBE 8 w.toNat)
  | _ => s

/-- Whether a branch condition holds; what HIT and MISS ask, and the reserved codes, are open (log entry 65). -/
def State.microCond (s : State) (cond : Nat) (result : W64) (carry free : Bool) : Bool :=
  match cond with
  | 0 => true
  | 1 => result == 0
  | 2 => result != 0
  | 3 => carry
  | 4 => free
  | 5 => !free
  | 6 => s.ledger.fifo.isEmpty
  | 7 => false
  | _ => free

/-- The word at UPC runs, and UPC moves on. -/
def State.microStep (s : State) : State :=
  let w := s.microword s.ledger.upc
  let (free, t) := s.takeFree 64
  let a := t.micro (bitsOf w 99 96)
  let b := if bitOf w 91 then w64 (bitsOf w 63 0) else t.micro (bitsOf w 95 92)
  let alu := microAlu (bitsOf w 107 104) a b free
  let t := match alu with
    | some r => t.setMicro (bitsOf w 103 100) r.1
    | none => t
  let t := t.microMem (bitsOf w 90 87) (bitsOf w 86 82) a
  let taken := bitOf w 124 && s.microCond (bitsOf w 123 120) ((alu.map Prod.fst).getD 0) ((alu.map Prod.snd).getD false) (bitOf free 0)
  t.modLedger fun l => { l with upc := if taken then bitsOf w 119 108 else (l.upc + 1) % 4096 }

/-- Run the sequencer for a number of 1/25 Ledger cycles. `n` bounds the words that can end in it. -/
def State.keeperRun : Nat → Nat → State → State
  | 0, _, s => s
  | n + 1, budget, s =>
    let need := if s.ledger.left = 0 then 25 * (bitsOf (s.microword s.ledger.upc) 127 125 + 1) else s.ledger.left
    if budget < need then s.modLedger fun l => { l with left := need - budget }
    else State.keeperRun n (budget - need) (s.microStep.modLedger fun l => { l with left := 0 })

/-- The Keeper in one cycle of the time base: 1.92 Ledger cycles. -/
def State.keeperTickRun (s : State) : State :=
  if s.flag F.KPR_STATUS_RUN && !s.keeperHalted then State.keeperRun 3 48 s else s

/-! ### The tick -/

/-- Sleep entries and wakes of the cases end. -/
def State.sleepsEnd (s : State) : State :=
  (List.range 16).foldl (fun (t : State) c =>
    match t.fld (F.PWR_CASE_STATE c) with
    | 1 => t.setFld (F.PWR_CASE_STATE c) 2
    | 3 => t.setFld (F.PWR_CASE_STATE c) 0
    | _ => t) s

/-- The block's clocks run: it is neither held in reset nor stopped for heat (R390, R419). -/
def State.clocked (s : State) : Bool := !s.held && s.boot.mode != .stopped

/-- One cycle with no command. -/
def State.idle (s : State) : State := if s.clocked then s.tbCycle.sleepsEnd.changeTick.keeperTickRun else s

end Sys2Proof.Machine
end

