-- ==== Sys2Proof/Machine/Dispatch.lean ====
section
/-! DEFINITION. One arm per command: the meaning of each row of spec/opcode_table.json. -/

namespace Sys2Proof.Machine

def exec (i : Instr) (s : State) : Host.Outcome State Fault Refusal :=
  match i with
  | .frameStart p => Sys2Proof.Machine.execFrameStart p s
  | .frameEnd p fragments smdErrs assemblyErr => Sys2Proof.Machine.execFrameEnd p fragments smdErrs assemblyErr s
  | .pdelayResponse p => Sys2Proof.Machine.execPdelayResponse p s
  | .pcsLockLoss p lock localFault remoteFault => Sys2Proof.Machine.execPcsLockLoss p lock localFault remoteFault s
  | .pcsLockGain p => Sys2Proof.Machine.execPcsLockGain p s
  | .linkDown p => Sys2Proof.Machine.execLinkDown p s
  | .linkUp p => Sys2Proof.Machine.execLinkUp p s
  | .holdTimeExpiry p => Sys2Proof.Machine.execHoldTimeExpiry p s
  | .prtModeWrite p v => Sys2Proof.Machine.execPrtModeWrite p v s
  | .laneModeInForce p => Sys2Proof.Machine.execLaneModeInForce p s
  | .mergeVerifyTimer p => Sys2Proof.Machine.execMergeVerifyTimer p s
  | .mergeRespond p => Sys2Proof.Machine.execMergeRespond p s
  | .regionTrainingStart r => Sys2Proof.Machine.execRegionTrainingStart r s
  | .dispatch p => Sys2Proof.Machine.execDispatch p s
  | .cellRequest reqs => Sys2Proof.Machine.execCellRequest reqs s
  | .sweepDone b => Sys2Proof.Machine.execSweepDone b s
  | .dmaPoolRetry k => Sys2Proof.Machine.execDmaPoolRetry k s
  | .cellFree requester byAddress x => Sys2Proof.Machine.execCellFree requester byAddress x s
  | .galleyCommit p forkParityBad => Sys2Proof.Machine.execGalleyCommit p forkParityBad s
  | .residueTimeout k => Sys2Proof.Machine.execResidueTimeout k s
  | .recircOffer r ecc => Sys2Proof.Machine.execRecircOffer r ecc s
  | .alu f func rd rs1 rs2 => Sys2Proof.Machine.execAlu f func rd rs1 rs2 s
  | .alui f func rd rs1 imm => Sys2Proof.Machine.execAlui f func rd rs1 imm s
  | .movhi f rd rs1 imm => Sys2Proof.Machine.execMovhi f rd rs1 imm s
  | .mfs f rd spec => Sys2Proof.Machine.execMfs f rd spec s
  | .mts f spec rs1 => Sys2Proof.Machine.execMts f spec rs1 s
  | .mul f rd rs1 rs2 => Sys2Proof.Machine.execMul f rd rs1 rs2 s
  | .ext f rd rs1 scratch off bit wm1 sx => Sys2Proof.Machine.execExt f rd rs1 scratch off bit wm1 sx s
  | .ins f rs1 rs2 off bit wm1 => Sys2Proof.Machine.execIns f rs1 rs2 off bit wm1 s
  | .setc f rs1 imm => Sys2Proof.Machine.execSetc f rs1 imm s
  | .advc f rs1 imm => Sys2Proof.Machine.execAdvc f rs1 imm s
  | .br f cond rs1 rs2 disp => Sys2Proof.Machine.execBr f cond rs1 rs2 disp s
  | .bri f cond rs1 imm disp => Sys2Proof.Machine.execBri f cond rs1 imm disp s
  | .jmp f disp => Sys2Proof.Machine.execJmp f disp s
  | .jtab f rs1 nmax disp => Sys2Proof.Machine.execJtab f rs1 nmax disp s
  | .loop f count len => Sys2Proof.Machine.execLoop f count len s
  | .loopr f rs1 count len => Sys2Proof.Machine.execLoopr f rs1 count len s
  | .end_ f => Sys2Proof.Machine.execEnd f s
  | .pmRepairDone k => Sys2Proof.Machine.execPmRepairDone k s
  | .watchdog c => Sys2Proof.Machine.execWatchdog c s
  | .lkiL2dst f tag rs1 => Sys2Proof.Machine.execLkiL2dst f tag rs1 s
  | .lkiL2src f tag rs1 => Sys2Proof.Machine.execLkiL2src f tag rs1 s
  | .lkiIpv4 f tag rs1 => Sys2Proof.Machine.execLkiIpv4 f tag rs1 s
  | .lkiIpv6 f tag rs1 rs2 => Sys2Proof.Machine.execLkiIpv6 f tag rs1 rs2 s
  | .lkiRule f tag rs1 arg => Sys2Proof.Machine.execLkiRule f tag rs1 arg s
  | .lkiFork f tag rs1 table => Sys2Proof.Machine.execLkiFork f tag rs1 table s
  | .lkiWatch f tag rs2 set => Sys2Proof.Machine.execLkiWatch f tag rs2 set s
  | .lookupComplete c tag parityBad => Sys2Proof.Machine.execLookupComplete c tag parityBad s
  | .lkw f rd tag bm disp => Sys2Proof.Machine.execLkw f rd tag bm disp s
  | .hini f alg key seed => Sys2Proof.Machine.execHini f alg key seed s
  | .hacc f rs1 nm1 => Sys2Proof.Machine.execHacc f rs1 nm1 s
  | .hacf f rs1 off nm1 => Sys2Proof.Machine.execHacf f rs1 off nm1 s
  | .hfin f rd => Sys2Proof.Machine.execHfin f rd s
  | .berx f rd any btag disp skip => Sys2Proof.Machine.execBerx f rd any btag disp skip s
  | .asdu f rd fld rs2 disp => Sys2Proof.Machine.execAsdu f rd fld rs2 disp s
  | .wbopRead f tag rs1 word bad => Sys2Proof.Machine.execWbopRead f tag rs1 word bad s
  | .wbopAdd f tag rs1 rs2 word bad => Sys2Proof.Machine.execWbopAdd f tag rs1 rs2 word bad s
  | .dupchk f tag rs1 rs2 bad => Sys2Proof.Machine.execDupchk f tag rs1 rs2 bad s
  | .svchk f tag rs1 rs2 bad => Sys2Proof.Machine.execSvchk f tag rs1 rs2 bad s
  | .gschk f tag rs1 rs2 bad => Sys2Proof.Machine.execGschk f tag rs1 rs2 bad s
  | .meter f tag rs1 rs2 bad => Sys2Proof.Machine.execMeter f tag rs1 rs2 bad s
  | .wbind f rs1 => Sys2Proof.Machine.execWbind f rs1 s
  | .dlvDrop f => Sys2Proof.Machine.execDlvDrop f s
  | .dlvFwd f imm port rs1 => Sys2Proof.Machine.execDlvFwd f imm port rs1 s
  | .dlvMcast f rs1 rs2 excl => Sys2Proof.Machine.execDlvMcast f rs1 rs2 excl s
  | .dlvFork f table rs1 => Sys2Proof.Machine.execDlvFork f table rs1 s
  | .dlvPunt f reason => Sys2Proof.Machine.execDlvPunt f reason s
  | .dlvSecond f entry => Sys2Proof.Machine.execDlvSecond f entry s
  | .qsel f imm qoff rs1 => Sys2Proof.Machine.execQsel f imm qoff rs1 s
  | .sideMirror f session => Sys2Proof.Machine.execSideMirror f session s
  | .sideCapmark f selector => Sys2Proof.Machine.execSideCapmark f selector s
  | .sideCaptrig f cause => Sys2Proof.Machine.execSideCaptrig f cause s
  | .sideTstamp f ident => Sys2Proof.Machine.execSideTstamp f ident s
  | .editVpush f rs1 => Sys2Proof.Machine.execEditVpush f rs1 s
  | .editVpop f => Sys2Proof.Machine.execEditVpop f s
  | .editVswap f rs1 => Sys2Proof.Machine.execEditVswap f rs1 s
  | .editHsrIns f rs1 path => Sys2Proof.Machine.execEditHsrIns f rs1 path s
  | .editHsrRem f => Sys2Proof.Machine.execEditHsrRem f s
  | .editPrpAdd f rs1 lan => Sys2Proof.Machine.execEditPrpAdd f rs1 lan s
  | .editPrpStrip f => Sys2Proof.Machine.execEditPrpStrip f s
  | .editMacDa f rs1 => Sys2Proof.Machine.execEditMacDa f rs1 s
  | .editMacSa f rs1 => Sys2Proof.Machine.execEditMacSa f rs1 s
  | .editTtlDec f off => Sys2Proof.Machine.execEditTtlDec f off s
  | .editPtpCf f off => Sys2Proof.Machine.execEditPtpCf f off s
  | .learnRequest bad => Sys2Proof.Machine.execLearnRequest bad s
  | .ageingStep bad => Sys2Proof.Machine.execAgeingStep bad s
  | .parityInvalidate table addr => Sys2Proof.Machine.execParityInvalidate table addr s
  | .scanStart => Sys2Proof.Machine.execScanStart s
  | .scanDone engine badLine => Sys2Proof.Machine.execScanDone engine badLine s
  | .maintWrite shadow => Sys2Proof.Machine.execMaintWrite shadow s
  | .wchPatrolStep differs shadow => Sys2Proof.Machine.execWchPatrolStep differs shadow s
  | .wchRepair line shadow => Sys2Proof.Machine.execWchRepair line shadow s
  | .wblHostWrite addr size data bad => Sys2Proof.Machine.execWblHostWrite addr size data bad s
  | .wblHostRead addr wide bad => Sys2Proof.Machine.execWblHostRead addr wide bad s
  | .wblPatrolVisit bad => Sys2Proof.Machine.execWblPatrolVisit bad s
  | .wblStateRepair w => Sys2Proof.Machine.execWblStateRepair w s
  | .wblSnapshot v bad => Sys2Proof.Machine.execWblSnapshot v bad s
  | .stickyClear w mask bad => Sys2Proof.Machine.execStickyClear w mask bad s
  | .clrBlocked w bad => Sys2Proof.Machine.execClrBlocked w bad s
  | .clrQual w bad => Sys2Proof.Machine.execClrQual w bad s
  | .meterClr m => Sys2Proof.Machine.execMeterClr m s
  | .evlogPop => Sys2Proof.Machine.execEvlogPop s
  | .perTagTableWrite off wide data => Sys2Proof.Machine.execPerTagTableWrite off wide data s
  | .egressPick p => Sys2Proof.Machine.execEgressPick p s
  | .ageDecisionTick p => Sys2Proof.Machine.execAgeDecisionTick p s
  | .frameTxStart p ecc => Sys2Proof.Machine.execFrameTxStart p ecc s
  | .frameTxEnd p badCell => Sys2Proof.Machine.execFrameTxEnd p badCell s
  | .ttEntryChange p t => Sys2Proof.Machine.execTtEntryChange p t s
  | .ttOperationalBase p t => Sys2Proof.Machine.execTtOperationalBase p t s
  | .queueFlush q => Sys2Proof.Machine.execQueueFlush q s
  | .queuePause q on => Sys2Proof.Machine.execQueuePause q on s
  | .ttDataWrite off wide data => Sys2Proof.Machine.execTtDataWrite off wide data s
  | .fstage inherit seed bad => Sys2Proof.Machine.execFstage inherit seed bad s
  | .fdiscard => Sys2Proof.Machine.execFdiscard s
  | .fcommit => Sys2Proof.Machine.execFcommit s
  | .fverify => Sys2Proof.Machine.execFverify s
  | .fload addr finds => Sys2Proof.Machine.execFload addr finds s
  | .drainComplete => Sys2Proof.Machine.execDrainComplete s
  | .drainTimeout => Sys2Proof.Machine.execDrainTimeout s
  | .tagReleaseDone bad => Sys2Proof.Machine.execTagReleaseDone bad s
  | .freqTrim v => Sys2Proof.Machine.execFreqTrim v s
  | .slew => Sys2Proof.Machine.execSlew s
  | .timeStep => Sys2Proof.Machine.execTimeStep s
  | .timeSet => Sys2Proof.Machine.execTimeSet s
  | .slewEnd => Sys2Proof.Machine.execSlewEnd s
  | .ppsOutRise => Sys2Proof.Machine.execPpsOutRise s
  | .ppsOutFall => Sys2Proof.Machine.execPpsOutFall s
  | .ppsInEdge => Sys2Proof.Machine.execPpsInEdge s
  | .timeNowLatch => Sys2Proof.Machine.execTimeNowLatch s
  | .txtsPop => Sys2Proof.Machine.execTxtsPop s
  | .ringDoorbell pi => Sys2Proof.Machine.execRingDoorbell pi s
  | .ringBlockFetched words => Sys2Proof.Machine.execRingBlockFetched words s
  | .i2cGo words => Sys2Proof.Machine.execI2cGo words s
  | .blockExecute found => Sys2Proof.Machine.execBlockExecute found s
  | .twrite table tag dir index data bad => Sys2Proof.Machine.execTwrite table tag dir index data bad s
  | .tdelete table tag dir index data bad => Sys2Proof.Machine.execTdelete table tag dir index data bad s
  | .tread table dir addr bad => Sys2Proof.Machine.execTread table dir addr bad s
  | .tsearch table tag key bad => Sys2Proof.Machine.execTsearch table tag key bad s
  | .tnext table tag start filter bad => Sys2Proof.Machine.execTnext table tag start filter bad s
  | .tflush fidV fid port bad => Sys2Proof.Machine.execTflush fidV fid port bad s
  | .nop => Sys2Proof.Machine.execNop s
  | .snapshot units addr finds => Sys2Proof.Machine.execSnapshot units addr finds s
  | .caparm selector arm data => Sys2Proof.Machine.execCaparm selector arm data s
  | .captrig cause => Sys2Proof.Machine.execCaptrig cause s
  | .role source r => Sys2Proof.Machine.execRole source r s
  | .arcread word0 word1 reads => Sys2Proof.Machine.execArcread word0 word1 reads s
  | .resultHeaderRead source => Sys2Proof.Machine.execResultHeaderRead source s
  | .bar0BadAccess read off => Sys2Proof.Machine.execBar0BadAccess read off s
  | .bar2Request write off size data finds => Sys2Proof.Machine.execBar2Request write off size data finds s
  | .winEntryWrite w wide data => Sys2Proof.Machine.execWinEntryWrite w wide data s
  | .winEntryRead w => Sys2Proof.Machine.execWinEntryRead w s
  | .barResize log2 => Sys2Proof.Machine.execBarResize log2 s
  | .dmaChStart c => Sys2Proof.Machine.execDmaChStart c s
  | .dmaChStop c => Sys2Proof.Machine.execDmaChStop c s
  | .ringEnable k => Sys2Proof.Machine.execRingEnable k s
  | .ringDisable k => Sys2Proof.Machine.execRingDisable k s
  | .dmaRingDb k => Sys2Proof.Machine.execDmaRingDb k s
  | .descWord1Read k w => Sys2Proof.Machine.execDescWord1Read k w s
  | .txFrameInject k d data => Sys2Proof.Machine.execTxFrameInject k d data s
  | .rxFrameDeliver k d => Sys2Proof.Machine.execRxFrameDeliver k d s
  | .dmaCopy k d data finds => Sys2Proof.Machine.execDmaCopy k d data finds s
  | .rxStreamDeliver k d withdraw => Sys2Proof.Machine.execRxStreamDeliver k d withdraw s
  | .perstNFall => Sys2Proof.Machine.execPerstNFall s
  | .perstNRise => Sys2Proof.Machine.execPerstNRise s
  | .hotReset => Sys2Proof.Machine.execHotReset s
  | .pcieLinkDown => Sys2Proof.Machine.execPcieLinkDown s
  | .flr => Sys2Proof.Machine.execFlr s
  | .d3hotEntry => Sys2Proof.Machine.execD3hotEntry s
  | .d0Return => Sys2Proof.Machine.execD0Return s
  | .bmeClear => Sys2Proof.Machine.execBmeClear s
  | .bmeSet cfg => Sys2Proof.Machine.execBmeSet cfg s
  | .freezingError bit header => Sys2Proof.Machine.execFreezingError bit header s
  | .freezeRelease cleared => Sys2Proof.Machine.execFreezeRelease cleared s
  | .irqHoldExpiry k => Sys2Proof.Machine.execIrqHoldExpiry k s
  | .msixUnmask v => Sys2Proof.Machine.execMsixUnmask v s
  | .lateCompletion tag => Sys2Proof.Machine.execLateCompletion tag s
  | .tagQuarantineEnd tag => Sys2Proof.Machine.execTagQuarantineEnd tag s
  | .ddrRequest requester write addr len data finds => Sys2Proof.Machine.execDdrRequest requester write addr len data finds s
  | .ddrFreqChange set => Sys2Proof.Machine.execDdrFreqChange set s
  | .refreshInterval rank blocked => Sys2Proof.Machine.execRefreshInterval rank blocked s
  | .scrubStep ecc overtaken => Sys2Proof.Machine.execScrubStep ecc overtaken s
  | .ddrTempReport sub rank hot => Sys2Proof.Machine.execDdrTempReport sub rank hot s
  | .rankPowerDown rank => Sys2Proof.Machine.execRankPowerDown rank s
  | .rankSelfRefresh rank => Sys2Proof.Machine.execRankSelfRefresh rank s
  | .captureServe ecc finds => Sys2Proof.Machine.execCaptureServe ecc finds s
  | .trigInEdge => Sys2Proof.Machine.execTrigInEdge s
  | .eventEndPass => Sys2Proof.Machine.execEventEndPass s
  | .eventClose => Sys2Proof.Machine.execEventClose s
  | .arcEnable formatted dies => Sys2Proof.Machine.execArcEnable formatted dies s
  | .arcDisable => Sys2Proof.Machine.execArcDisable s
  | .arcFormat => Sys2Proof.Machine.execArcFormat s
  | .formatDone badBlocks dies => Sys2Proof.Machine.execFormatDone badBlocks dies s
  | .arcRecoveryDone rootBad reads rereads => Sys2Proof.Machine.execArcRecoveryDone rootBad reads rereads s
  | .checkpointTimer finds => Sys2Proof.Machine.execCheckpointTimer finds s
  | .pageProgramDone ok finds => Sys2Proof.Machine.execPageProgramDone ok finds s
  | .blockEraseDone block ok => Sys2Proof.Machine.execBlockEraseDone block ok s
  | .nandPatrolRead r => Sys2Proof.Machine.execNandPatrolRead r s
  | .keepSet keep => Sys2Proof.Machine.execKeepSet keep s
  | .caseSleep k => Sys2Proof.Machine.execCaseSleep k s
  | .casePointIdle k => Sys2Proof.Machine.execCasePointIdle k s
  | .railConfirm k ok => Sys2Proof.Machine.execRailConfirm k ok s
  | .avsTick r marginMv => Sys2Proof.Machine.execAvsTick r marginMv s
  | .powerEstimate tenths => Sys2Proof.Machine.execPowerEstimate tenths s
  | .powerRecalibrate vouts tenths => Sys2Proof.Machine.execPowerRecalibrate vouts tenths s
  | .ddrLowSwitch lower => Sys2Proof.Machine.execDdrLowSwitch lower s
  | .shedStep => Sys2Proof.Machine.execShedStep s
  | .shedWithdraw => Sys2Proof.Machine.execShedWithdraw s
  | .sensorSample k temp frozen => Sys2Proof.Machine.execSensorSample k temp frozen s
  | .capWrite v => Sys2Proof.Machine.execCapWrite v s
  | .crystalLoss => Sys2Proof.Machine.execCrystalLoss s
  | .pllLockLoss serves => Sys2Proof.Machine.execPllLockLoss serves s
  | .dualRailError source kind => Sys2Proof.Machine.execDualRailError source kind s
  | .wireFault source => Sys2Proof.Machine.execWireFault source s
  | .codedMessage source kind addr => Sys2Proof.Machine.execCodedMessage source kind addr s
  | .fenceComplete source => Sys2Proof.Machine.execFenceComplete source s
  | .recheckDone => Sys2Proof.Machine.execRecheckDone s
  | .faultAck slot => Sys2Proof.Machine.execFaultAck slot s
  | .faultAckAll => Sys2Proof.Machine.execFaultAckAll s
  | .faultClear slot => Sys2Proof.Machine.execFaultClear slot s
  | .faultClearAll => Sys2Proof.Machine.execFaultClearAll s
  | .unfence source => Sys2Proof.Machine.execUnfence source s
  | .bistDone pass => Sys2Proof.Machine.execBistDone pass s
  | .faultInject level source => Sys2Proof.Machine.execFaultInject level source s
  | .powerOn => Sys2Proof.Machine.execPowerOn s
  | .resetNAssert => Sys2Proof.Machine.execResetNAssert s
  | .resetNRelease facts => Sys2Proof.Machine.execResetNRelease facts s
  | .restartCold key facts => Sys2Proof.Machine.execRestartCold key facts s
  | .restartWarm key facts => Sys2Proof.Machine.execRestartWarm key facts s
  | .clrFails key => Sys2Proof.Machine.execClrFails key s
  | .startWatchdog => Sys2Proof.Machine.execStartWatchdog s
  | .watchRailLoss => Sys2Proof.Machine.execWatchRailLoss s
  | .railUndervolt => Sys2Proof.Machine.execRailUndervolt s
  | .railRestoreRelease facts => Sys2Proof.Machine.execRailRestoreRelease facts s
  | .qspiRead len => Sys2Proof.Machine.execQspiRead len s
  | .qspiProgram len => Sys2Proof.Machine.execQspiProgram len s
  | .qspiErase => Sys2Proof.Machine.execQspiErase s
  | .qspiDone error => Sys2Proof.Machine.execQspiDone error s
  | .keyProgram slot confirm => Sys2Proof.Machine.execKeyProgram slot confirm s
  | .keyRevoke slot confirm => Sys2Proof.Machine.execKeyRevoke slot confirm s
  | .keyOpDone ok => Sys2Proof.Machine.execKeyOpDone ok s
  | .attestGo => Sys2Proof.Machine.execAttestGo s
  | .attestDone => Sys2Proof.Machine.execAttestDone s
  | .formeHashDone => Sys2Proof.Machine.execFormeHashDone s
  | .evtLatchClear g mask setNow => Sys2Proof.Machine.execEvtLatchClear g mask setNow s
  | .evtSet g mask => Sys2Proof.Machine.execEvtSet g mask s
  | .evtEnableWrite g v => Sys2Proof.Machine.execEvtEnableWrite g v s
  | .evtTargetWrite n v => Sys2Proof.Machine.execEvtTargetWrite n v s
  | .evtVecAck v => Sys2Proof.Machine.execEvtVecAck v s
  | .registerWrite off wide data => Sys2Proof.Machine.execRegisterWrite off wide data s
  | .frameBytesArrive p bytes => Sys2Proof.Machine.execFrameBytesArrive p bytes s
  | .hiBerChange p on => Sys2Proof.Machine.execHiBerChange p on s
  | .fecCodeword p corrected => Sys2Proof.Machine.execFecCodeword p corrected s
  | .pcieLinkUp speed width => Sys2Proof.Machine.execPcieLinkUp speed width s
  | .correctableError bit => Sys2Proof.Machine.execCorrectableError bit s
  | .caseBacklog k => Sys2Proof.Machine.execCaseBacklog k s
  | .watchlistEngineSleep engine => Sys2Proof.Machine.execWatchlistEngineSleep engine s
  | .throttleStep k => Sys2Proof.Machine.execThrottleStep k s

end Sys2Proof.Machine
end

