-- ==== Sys2Proof/Safety.lean ====
section
/-! DEFINITION. What the claims speak of: the invariant that every step keeps, the permanence of the OTP key slots, and
the parts of the state that a command leaves alone. -/

namespace Sys2Proof.Machine

/-! ### The invariant -/

/-- A key PROGRAM that runs names a slot that is not programmed (R437). -/
def State.keyOpOk (s : State) : Bool := match s.boot.keyOp with
  | some (1, k) => !(s.keySlot k).programmed
  | _ => true

/-- What every step keeps: the time base lies below 2^48 seconds (R260); the register file, the Galley's state RAM, DDR
and the QSPI flash are in canonical form, so that equal contents are equal data; a key PROGRAM that runs names an
unprogrammed slot and the OTP holds its four key slots (R437). -/
structure Inv (s : State) : Prop where
  time : s.time.now < tbWrap
  regs : twf regReset s.regs = true
  cells : twf (fun _ => cellByte 0 0x3F) s.gal.cell = true
  mem : Memory.wf 0 s.ddr.mem = true
  flash : Memory.wf 0xFF s.boot.qspi = true
  keys : s.keyOpOk = true
  slots : s.boot.otp.keys.length = 4

/-- Key slots only move forward from `s` to `t`: a programmed slot stays programmed with its hash, a revoked slot stays
revoked (R437). -/
def KeysForward (s t : State) : Prop :=
  ∀ k, ((s.keySlot k).programmed = true → (t.keySlot k).programmed = true ∧ (t.keySlot k).hash = (s.keySlot k).hash) ∧
    ((s.keySlot k).revoked = true → (t.keySlot k).revoked = true)

/-! ### What an instruction that issues leaves -/

/-- The compositor of a fetch can issue: it holds a frame, of which it sees `fr` (in a further pass frame memory fills
from the Galley, R127), the word is sound and its case does not repair it (R71, R98). -/
structure Issues (s : State) (f : Fetch) (cs : CompState) (fr : Frame) : Prop where
  comp : s.comp f.comp.val = cs
  frame : (cs.frame.bind s.frame).map (s.frameView cs) = some fr
  parity : f.parityBad = false
  repair : (s.caseOf (f.comp.val / 8)).repair.contains (fr.tag, cs.pc) = false

/-- The block, otherwise as `t`, after an instruction of `n` cycles that leaves its compositor as `cs`: the compositor,
its cycle count (R93), ISSUE_CYCLES and, where a stall has ended, STALL_CYCLES (R101) change, nothing else. -/
def State.issuedOn (s t : State) (f : Fetch) (n : Nat) (cs : CompState) : State :=
  let c := f.comp.val
  ((t.countStall c).countN (R.CMP_C_ISSUE_CYCLES (c / 8) (c % 8)) n).setComp c
    { cs with cyc := (s.comp c).cyc + n, stall := none, lwait := none }

/-- The same for an instruction that changes nothing else. -/
def State.issued (s : State) (f : Fetch) (n : Nat) (cs : CompState) : State := s.issuedOn s f n cs

/-- The compositor waits for frame byte `a`: the instruction has not issued (R86). -/
def State.stalled (s : State) (f : Fetch) (a : Nat) : State :=
  s.setComp f.comp.val { s.comp f.comp.val with
    stall := some ((s.comp f.comp.val).stall.getD (s.time.cycles, a)) }

/-- A control instruction has answered: its result record, with code `code` and ADDR `a`, and its result words stand as
the last results, and INSTRS counts (R290, log entry 29). -/
def State.answered (s : State) (code a : Nat) (words : List W64) : State :=
  let record := w64 (code * 2 ^ 56 + words.length * 2 ^ 40 + a % 2 ^ 40)
  ({ s with cmd := { s.cmd with last := record :: words } } : State).count R.CMD_C_INSTRS

/-! ### When a command completes, and what it leaves -/

/-- A write of the register at `off` by the host is carried out: BAR0 is open there (R304, R420) and the host's role
allows it (R294). -/
def State.hostMay (s : State) (off : Nat) : Prop :=
  s.barOpen off = true ∧ (roleExempt off = true ∨ s.fld F.CMD_ROLE_HOST_ROLE = 2)

/-- The compositor of a fetch issues, with state and frame that `p` admits. -/
def State.issuing (s : State) (f : Fetch) (p : CompState → Frame → Prop) : Prop := ∃ cs fr, Issues s f cs fr ∧ p cs fr

/-- A control instruction is carried out and answers OK (R287, R288). -/
def State.ctrlOk (s : State) (r : KRes × State) : Prop := s.cmdOpen = true ∧ s.boot.mode ≠ .safeHold ∧ r.1.1 = 0

/-- The block after a control instruction with the result `r`. -/
def State.did (r : KRes × State) : State := r.2.answered r.1.1 r.1.2.1 r.1.2.2

/-- What an instruction of `n` cycles leaves, where `g` gives from the compositor and its frame what follows. -/
def State.ranOn (s : State) (f : Fetch) (n : Nat) (g : CompState → Frame → Flow × CompState × State) : State :=
  let cs := s.comp f.comp.val
  match (cs.frame.bind s.frame).map (s.frameView cs) with
  | some fr => let r := g cs fr; s.issuedOn r.2.2 f n (r.2.1.advance r.1)
  | none => s

/-- The same for an instruction that changes nothing but its compositor. -/
def State.ran (s : State) (f : Fetch) (n : Nat) (g : CompState → Frame → Flow × CompState) : State :=
  s.ranOn f n fun cs fr => ((g cs fr).1, (g cs fr).2, s)

/-- The same for an instruction that goes on to the next one. -/
def State.ranSeq (s : State) (f : Fetch) (n : Nat) (g : CompState → Frame → CompState) : State :=
  s.ran f n fun cs fr => (.seq, g cs fr)

/-- What a field read answers, or the value for none. -/
def readOr {α : Type} (r : Except Nat α) (d : α) : α := match r with
  | .ok v => v
  | .error _ => d

/-- What a waybill operation leaves: its outcome waits under its tag (R114). -/
def State.ranWbop (s : State) (f : Fetch) (tag : BitVec 3) (rs1 : GReg)
    (op : Nat → OpCtx → CompState → Nat × W64 × State) : State :=
  s.ranOn f 1 fun cs fr =>
    let r := op (cs.greg rs1).toNat ⟨fr.inPort, fr.tag, s.passStamp fr⟩ cs
    (.seq, cs.setSlot tag.toNat (.waiting (.waybill r.1 r.2.1)), r.2.2)

/-- What a lookup leaves: its request waits under its tag (R104). -/
def State.ranLki (s : State) (f : Fetch) (tag : BitVec 3) (req : CompState → LookupReq) : State :=
  s.ranSeq f 1 fun cs _ => cs.setSlot tag.toNat (.waiting (req cs))

/-- What an edit leaves: it joins the edit list, which holds eight (R123). -/
def State.ranEdit (s : State) (f : Fetch) (code off : Nat) (value : CompState → W64) : State :=
  s.ranSeq f 1 fun cs fr => { cs with edits := cs.edits ++ [⟨code, fr.pass, off, value cs⟩] }

/-- The edit list has room for one more (R123). -/
def State.mayEdit (s : State) (f : Fetch) : Prop := s.issuing f fun cs _ => cs.edits.length < 8

/-- A waybill operation runs on a waybill that exists, whose words are sound (R114, R203). -/
def State.mayWbop (s : State) (f : Fetch) (rs1 : GReg) (bad : Option (Fin 16)) : Prop :=
  s.issuing f (fun cs _ => (cs.greg rs1).toNat < 32768) ∧ bad = none

/-- The conditions of the spec, on state and operands alone, under which a command has its own effect: it is not
refused, ignored, dropped or made to wait, and no word it reads is bad. In the order of the command table. -/
def Runs : Instr → State → Prop
  | .frameStart p, s =>
    s.loop p ≠ 1 ∧ s.flag (F.PRT_STATUS_LINK_UP p) = true ∧ s.flag (F.PRT_MAC_CFG_RX_EN p) = true ∧
    (s.port p).rx = none ∧ s.stagingBytes p < stagingSize
  | .frameEnd p _ _ bad, s =>
    bad = false ∧ ∃ i f, (s.port p).rx = some i ∧ s.frame i = some f ∧ 64 ≤ f.bytes.length ∧
    f.bytes.length ≤ s.maxFrame p ∧ fcsCheck f.bytes = .good ∧ f.stage ≠ .dropped
  | .pdelayResponse p, s => ∃ req rx k, (s.port p).pdelayReq = some (req, rx) ∧ (s.pdelayBuild p req rx).1 = some k
  | .pcsLockLoss _ lock lf rf, _ => lock = false ∨ lf = true ∨ rf = true
  | .pcsLockGain p, s => s.fld (F.PRT_STATUS_ACTIVE_MODE p) ≠ 0
  | .linkDown p, s => (s.port p).downDeb = true ∧ s.flag (F.PRT_STATUS_LINK_UP p) = true
  | .linkUp p, s => (s.port p).upDeb = true ∧ s.laneFenced p = false ∧ s.flag (F.PRT_STATUS_PCS_LOCK p) = true
  | .holdTimeExpiry p, s => s.flag (F.PRT_STATUS_HOLDING p) = true
  | .prtModeWrite p v, s => s.hostMay (R.PRT_MODE p) ∧ s.modeRefusal p v = 0
  | .laneModeInForce p, s => (s.port p).modePending = true
  | .mergeVerifyTimer p, s => s.fld (F.PRT_MERGE_STATUS_VERIFY_STATE p) = 1 ∧ s.flag (F.PRT_STATUS_LINK_UP p) = true
  | .mergeRespond p, s => s.fld (F.PRT_MERGE_STATUS_VERIFY_STATE p) = 1
  | .regionTrainingStart _, _ => True
  | .dispatch p, s =>
    ∃ i f k, s.offered p = some (i, f) ∧
    (let r := p.val / 16
     let u := s.wakesEnd (eligible r)
     u.choose r f.admPort (u.defClass f) = .comp k ∧ u.accepts (k / 8) r f.admPort = true)
  | .cellRequest reqs, s =>
    ∃ q b, reqs = [(q, b)] ∧ (s.oneRequest [] q b).1 = true ∧ s.gal.kinds.count (reqKind q).1 = 1 ∧
    ((reqKind q).1 = 0 → s.gal.ingressOrder.count (reqKind q).2 = 1) ∧
    ((reqKind q).1 = 3 → s.gal.recircOrder.count (reqKind q).2 = 1)
  | .sweepDone b, s => bitOf s.gal.sweeping b = true
  | .dmaPoolRetry k, s => (s.injectNeeds k).1 = true ∨ (s.injectNeeds k).2 = true
  | .cellFree _ byAddr x, _ =>
    byAddr = false ∧ x.toNat < cellCount ∨
    byAddr = true ∧ 0x80000000 ≤ x.toNat ∧ (x.toNat - 0x80000000) % 256 = 0 ∧ (x.toNat - 0x80000000) / 256 < cellCount
  | .galleyCommit p bad, s =>
    ∃ x, (s.nextCommit p).find? (fun x =>
      let r := s.resolveDelivery x.2 bad
      s.commitReady x.1 x.2 r.1 r.2.1) = some x ∧ x.2.noCell = false
  | .residueTimeout k, s => ∃ e, tget (fun _ => none) s.gal.residue k.val = some e
  | .recircOffer r ecc, s =>
    ∃ i rest f k, s.path r = i :: rest ∧ s.frame i = some f ∧ (s.readFrame f.cells ecc).1 = false ∧
    (let u := (s.readFrame f.cells ecc).2.wakesEnd (eligible r)
     u.choose r f.admPort (u.defClass f) = .comp k ∧ u.accepts (k / 8) r f.admPort = true)
  | .alu f _ _ _ _, s => s.issuing f fun _ _ => True
  | .alui f _ _ _ _, s => s.issuing f fun _ _ => True
  | .movhi f _ _ _, s => s.issuing f fun _ _ => True
  | .mfs f _ spec, s => s.issuing f fun _ fr => spec.toNat ≠ 0 ∨ fr.complete = true
  | .mts f _ _, s => s.issuing f fun _ _ => True
  | .mul f _ _ _, s => s.issuing f fun _ _ => True
  | .ext f _ rs1 scratch off bit wm1 _, s =>
    s.issuing f fun cs fr =>
    scratch = true ∨ ∃ v, fr.readBytes (cs.frameEa rs1 off) (fieldBytes bit.toNat (wm1.toNat + 1)) = .ok v
  | .ins f _ _ _ _ _, s => s.issuing f fun _ _ => True
  | .setc f _ _, s => s.issuing f fun _ _ => True
  | .advc f _ _, s => s.issuing f fun _ _ => True
  | .br f _ _ _ _, s => s.issuing f fun _ _ => True
  | .bri f _ _ _ _, s => s.issuing f fun _ _ => True
  | .jmp f _, s => s.issuing f fun _ _ => True
  | .jtab f _ _ _, s => s.issuing f fun _ _ => True
  | .loop f _ _, s => s.issuing f fun _ _ => True
  | .loopr f _ _ _, s => s.issuing f fun _ _ => True
  | .end_ f, s => s.issuing f fun _ fr => fr.stage ≠ .dropped
  | .pmRepairDone k, s => (s.caseOf k).repair ≠ []
  | .watchdog c, s =>
    ∃ fr, (s.comp c).frame.bind s.frame = some fr ∧ s.worstPath fr.tag (s.comp c).entry < (s.comp c).cyc
  | .lkiL2dst f _ _, s => s.issuing f fun _ _ => True
  | .lkiL2src f _ _, s => s.issuing f fun _ _ => True
  | .lkiIpv4 f _ _, s => s.issuing f fun _ _ => True
  | .lkiIpv6 f _ _ _, s => s.issuing f fun _ _ => True
  | .lkiRule f _ _ _, s => s.issuing f fun _ _ => True
  | .lkiFork f _ _ _, s => s.issuing f fun _ _ => True
  | .lkiWatch f _ _ set, s =>
    s.issuing f fun cs fr =>
    let d := s.wchDir (256 * fr.tag + set.toNat)
    dirValid d = true ∧ bitOf d.1 62 = false ∧ (s.admClass fr.tag (cs.qoff / 16) = true ∨ s.waitingBe < 256)
  | .lookupComplete c tag _, s =>
    ∃ fr req, (s.comp c).frame.bind s.frame = some fr ∧
    (s.comp c).slot tag.toNat = .waiting req
  | .lkw f _ tag _ _, s => s.issuing f fun cs _ => ∃ st w0 w1, cs.slot tag.toNat = .ready st w0 w1
  | .hini f _ _ _, s => s.issuing f fun _ _ => True
  | .hacc f _ _, s => s.issuing f fun _ _ => True
  | .hacf f rs1 off nm1, s => s.issuing f fun cs fr => ∃ v, fr.readBytes (cs.frameEa rs1 off) (nm1.toNat + 1) = .ok v
  | .hfin f _, s => s.issuing f fun _ _ => True
  | .berx f _ any btag _ _, s =>
    s.issuing f fun cs fr => ∃ hd ext, fr.readBytes cs.cur 2 = .ok hd ∧ (byteAt hd.1 0).toNat % 32 ≠ 31 ∧
    (any = true ∨ (byteAt hd.1 0).toNat = btag.toNat) ∧ ∃ n < 3, berForm (byteAt hd.1 1).toNat = some n ∧
      fr.readBytes ((cs.cur : Int) + 2) n = .ok ext
  | .asdu f _ fld rs2 _, s =>
    s.issuing f fun cs fr => ∃ c len v, fr.asduFind cs.cur fld.toNat = .ok (c, len) ∧
    fr.asduValue cs.cur fld.toNat (cs.greg rs2).toNat c len = .ok (some v)
  | .wbopRead f _ rs1 _ bad, s => s.mayWbop f rs1 bad
  | .wbopAdd f _ rs1 _ _ bad, s => s.mayWbop f rs1 bad
  | .dupchk f _ rs1 _ bad, s => s.mayWbop f rs1 bad
  | .svchk f _ rs1 _ bad, s => s.mayWbop f rs1 bad
  | .gschk f _ rs1 _ bad, s => s.mayWbop f rs1 bad
  | .meter f _ rs1 _ bad, s => s.mayWbop f rs1 bad
  | .wbind f rs1, s => s.issuing f fun cs _ => (cs.greg rs1).toNat < 32768
  | .dlvDrop f, s => s.issuing f fun _ _ => True
  | .dlvFwd f imm _ rs1, s => s.issuing f fun cs _ => imm = true ∨ (cs.greg rs1).toNat < 128
  | .dlvMcast f _ _ _, s => s.issuing f fun _ _ => True
  | .dlvFork f _ _, s => s.issuing f fun _ _ => True
  | .dlvPunt f _, s => s.issuing f fun _ _ => True
  | .dlvSecond f _, s => s.issuing f fun _ _ => True
  | .qsel f _ _ _, s => s.issuing f fun _ _ => True
  | .sideMirror f session, s =>
    s.issuing f fun cs fr => s.flag (F.FRM_MIRROR_VALID fr.tag session.toNat) = true ∧
    cs.act.mirrors.contains session.toNat = false ∧ cs.act.mirrors.length < 2
  | .sideCapmark f _, s => s.issuing f fun _ _ => True
  | .sideCaptrig f _, s => s.issuing f fun _ _ => True
  | .sideTstamp f _, s => s.issuing f fun _ _ => True
  | .editVpush f _, s => s.mayEdit f
  | .editVpop f, s => s.mayEdit f
  | .editVswap f _, s => s.mayEdit f
  | .editHsrIns f _ _, s => s.mayEdit f
  | .editHsrRem f, s => s.mayEdit f
  | .editPrpAdd f _ _, s => s.mayEdit f
  | .editPrpStrip f, s => s.mayEdit f
  | .editMacDa f _, s => s.mayEdit f
  | .editMacSa f _, s => s.mayEdit f
  | .editTtlDec f _, s => s.mayEdit f
  | .editPtpCf f _, s => s.mayEdit f
  | .learnRequest _, s => s.keeperHalted = false
  | .ageingStep bad, s =>
    s.keeperHalted = false ∧ s.flag F.LDG_AGE_CFG_AGE_EN = true ∧
    (let a := (s.drainLearn bad).ledger.ageAt
     let t := s.agedPast bad
     let first := t.l2Match (t.l2Seeds.headD 0) (l2Key (t.entry 0 a)) isLearned
     entryValid 0 (t.entry 0 a) = true ∧ isLearned (t.entry 0 a) = true ∧ bad.has 0 a = false ∧
       (first = [] ∨ first.contains a = true))
  | .parityInvalidate table addr, s =>
    s.ledger.input.contains (KprInput.invalidate (if table.val = 1 then 0 else table.val) addr.toNat) = true
  | .scanStart, s =>
    ∃ sc e adm, s.watch.waiting.find? (fun x => x.admitted == adm) = some sc ∧ s.freeEngine adm = some e ∧
    (adm = false → s.watch.waiting.find? (fun x => x.admitted == true) = none)
  | .scanDone engine bad, s => bad = none ∧ ∃ sc bs, s.engine engine = some sc ∧ s.scanBytes sc = some bs
  | .maintWrite _, s => s.watch.writes ≠ []
  | .wchPatrolStep _ _, s =>
    s.shadowOn = true ∧ s.flag F.WCH_SHADOW_CFG_PATROL_EN = true ∧
    (let item := s.watch.patrolAt
     let mine := if item < 65536 then s.wchLine item
       else dirBytes (s.wchDir (item - 65536)).1 (s.wchDir (item - 65536)).2
     s.watch.failed.contains item = false ∧ s.ddrMapped (s.shadowAddr item) mine.length = true)
  | .wchRepair line shadow, s =>
    s.shadowOn = true ∧ ∃ x bs t, s.watch.repairs.find? (fun x => x.1 == line.toNat) = some x ∧
    (s.modWatch fun w => { w with repairs := w.repairs.filter fun y => y.1 != x.1 }).ddrRead 2 (s.shadowAddr x.1)
      (if x.1 < 65536 then 64 else 16) [(0, shadow)] = (some bs, t)
  | .wblHostWrite addr size data bad, s =>
    s.host.d3hot = false ∧ bad = false ∧ size.val = 8 ∧ addr.toNat % 8 = 0 ∧ addr.toNat < 2 ^ 21 ∧
    (let t := (s.wrepair (addr.toNat / 64)).count R.WBL_C_OPS
     let w0 := t.wword (addr.toNat / 64) 0
     if addr.toNat / 8 % 8 = 0 then word0Refused w0 data = false
     else addr.toNat / 8 % 8 < 3 ∨ wVALID w0 = false)
  | .wblHostRead _ _ _, s => s.host.d3hot = false
  | .wblPatrolVisit bad, _ => bad = none
  | .wblStateRepair w, s => s.wbl.repairs.contains w.val = true
  | .wblSnapshot _ _, s => s.hostMay R.WBL_SNAP_CTRL
  | .stickyClear w _ bad, s => s.hostMay R.WBL_STICKY_CLR ∧ s.wbl.poisoned.contains w.val = false ∧ bad = none
  | .clrBlocked w bad, s => s.hostMay R.WBL_STICKY_CLR ∧ s.wbl.poisoned.contains w.val = false ∧ bad = none
  | .clrQual w bad, s => s.hostMay R.WBL_STICKY_CLR ∧ s.wbl.poisoned.contains w.val = false ∧ bad = none
  | .meterClr _, s => s.hostMay R.WBL_METER_CLR
  | .evlogPop, s => s.host.d3hot = false
  | .perTagTableWrite off wide data, s => s.hostMay off.toNat ∧ (regParts off.toNat wide data).isSome = true
  | .egressPick p, s =>
    let t := (s.busyQueues p).foldl State.bringCredit (s.testHeads p)
    (t.egrPort p).picked = none ∧ ∃ w, t.bestHead p false = some w ∧ t.pickRoom p w = true
  | .ageDecisionTick _, _ => True
  | .frameTxStart p _, s =>
    ∃ k, (s.egrPort p).wire = none ∧ (s.egrPort p).picked = some k ∧ (s.egrPort p).preempted = none ∧
    (s.isPre p k = false ∨ s.holdOn p = false)
  | .frameTxEnd p bad, s =>
    ∃ w f, (s.egrPort p).wire = some w ∧ s.frame w.ref.frame = some f ∧ f.complete = true ∧
    (w.stomp || f.bad || (s.wireUe f bad).1) = false
  | .ttEntryChange p t, s =>
    s.ttOn p t = true ∧ ((s.egrPort p).tt t).running = true ∧ (s.ttNow p t).1 ≠ ((s.egrPort p).tt t).entry
  | .ttOperationalBase p t, s =>
    s.ttOn p t = true ∧ ((s.egrPort p).tt t).running = false ∧ ((s.egrPort p).tt t).base ≤ s.nowNs
  | .queueFlush q, s => s.hostMay (R.EGR_Q_CTRL q)
  | .queuePause q _, s => s.hostMay (R.EGR_Q_CTRL q)
  | .ttDataWrite off wide data, s => s.hostMay off.toNat ∧ (regParts off.toNat wide data).isSome = true
  | .fstage inh seed bad, s => s.ctrlOk (s.formeStage inh seed.toNat bad)
  | .fdiscard, s => s.ctrlOk (s.formeDiscard)
  | .fcommit, s => s.ctrlOk (s.formeCommit)
  | .fverify, s => s.ctrlOk (s.formeVerify)
  | .fload addr finds, s => s.ctrlOk (s.formeLoad addr.toNat finds)
  | .drainComplete, s => ∃ t, s.drainingTag = some t ∧ s.aliveFrames t = []
  | .drainTimeout, s => ∃ t, s.drainingTag = some t
  | .tagReleaseDone _, s => ∃ t, s.releasingTag = some t ∧ s.keeperHalted = false
  | .freqTrim _, s => s.hostMay R.TIM_FREQ
  | .slew, s => s.hostMay R.TIM_ADJ_CMD
  | .timeStep, s => s.hostMay R.TIM_ADJ_CMD
  | .timeSet, s => s.hostMay R.TIM_SET_CMD
  | .slewEnd, s => ∃ rest, s.time.slew = some rest
  | .ppsOutRise, s => s.flag F.TIM_PPS_OUT_CFG_PPS_OUT_EN = true ∧ s.atSecond = true ∧ s.time.ppsOut = false
  | .ppsOutFall, s => s.ppsOver = true
  | .ppsInEdge, s => s.flag F.TIM_PPS_IN_CFG_PPS_IN_EN = true
  | .timeNowLatch, s => s.host.d3hot = false
  | .txtsPop, s => s.host.d3hot = false
  | .ringDoorbell pi, s => s.hostMay R.CMD_RING_PI ∧ (pi.toNat + 65536 - s.fld F.CMD_RING_CI_CI) % 65536 ≤ s.ringSlots
  | .ringBlockFetched words, s =>
    s.dmaBlocked = false ∧ s.flag F.CMD_RING_CFG_EN = true ∧ s.fld F.CMD_RING_PI_PI ≠ s.fld F.CMD_RING_CI_CI ∧
    s.cmdFull = false ∧ blockBad 0 words = false ∧ (s.fetchedBlock words).1.forbidden = false
  | .i2cGo words, s =>
    s.held = false ∧ (s.mailboxWrite words).cmdFull = false ∧ blockBad 1 (s.mailboxWrite words).mailbox = false ∧
    (s.mailboxWrite words).mailBlock.forbidden = false
  | .blockExecute _, s => ∃ b rest, s.cmd.queue = b :: rest ∧ s.cmdOpen = true ∧ b.forbidden = false
  | .twrite table tag dir idx data bad, s => s.ctrlOk (s.tWrite table.toNat tag dir idx.toNat data bad)
  | .tdelete table tag dir idx data bad, s => s.ctrlOk (s.tDelete table.toNat tag dir idx.toNat data bad)
  | .tread table dir x bad, s => s.ctrlOk (s.tRead table.toNat dir x.toNat bad)
  | .tsearch table tag key bad, s => s.ctrlOk (s.tSearch table.toNat tag key bad)
  | .tnext table tag start filter bad, s => s.ctrlOk (s.tNext table.toNat tag start.toNat [filter] bad)
  | .tflush v fid port bad, s => s.ctrlOk (s.tFlush (if v then some fid.toNat else none) port bad)
  | .nop, s => s.ctrlOk (((0, 0, []), s))
  | .snapshot units x finds, s => s.ctrlOk (s.snapshot units x.toNat finds)
  | .caparm sel arm data, s => s.ctrlOk (s.capArmCmd sel.toNat arm data)
  | .captrig cause, s => s.ctrlOk (s.capTrig cause.toNat)
  | .role src r, s => s.ctrlOk (s.roleWrite src.toNat r.toNat)
  | .arcread w0 w1 reads, s => s.ctrlOk (s.arcRead w0 w1 reads)
  | .resultHeaderRead _, s => s.host.d3hot = false
  | .bar0BadAccess _ _, s => s.host.d3hot = false
  | .bar2Request write off size _ _, s =>
    s.host.linkUp = true ∧ off.toNat < 2 ^ s.host.bar2Log ∧ s.host.d3hot = false ∧
    (write = true → s.flag F.HST_STATUS_FROZEN = false) ∧
    (let entry := s.reg (R.HST_WIN (off.toNat / (2 ^ s.host.bar2Log / 16)))
     bitOf entry 63 = true ∧ bitOf entry (if write then 62 else 61) = true ∧
       s.target (bitsOf entry 39 12 * 4096 + off.toNat % (2 ^ s.host.bar2Log / 16)) size ≠ .unmapped)
  | .winEntryWrite w wide _, s => s.hostMay (R.HST_WIN w) ∧ wide = true
  | .winEntryRead _, s => s.host.d3hot = false
  | .barResize n, _ => 24 ≤ n.val
  | .dmaChStart c, s => s.hostMay (R.DMA_CH_CTRL c) ∧ s.dmaBlocked = false ∧ s.fld (F.DMA_CH_STATUS_STATE c) = 0
  | .dmaChStop c, s => s.hostMay (R.DMA_CH_CTRL c) ∧ s.fld (F.DMA_CH_STATUS_STATE c) = 1
  | .ringEnable k, s => s.hostMay (R.DMA_RING_CFG k)
  | .ringDisable k, s => s.hostMay (R.DMA_RING_CFG k)
  | .dmaRingDb k, s => s.hostMay (R.DMA_RING_DB k)
  | .descWord1Read k _, s => s.dmaBlocked = false ∧ s.injecting k = none ∧ s.host.reread.contains k.val = true
  | .txFrameInject k d data, s =>
    s.ringReady k 1 d.word1 = true ∧ descBad 1 d.request = false ∧
    (∀ t, s.activeTag = some t → s.admClass t (bitsOf d.request 29 23 / 16) = false) ∧
    s.fld (F.PRT_MODE_MODE (bitsOf d.request 22 16)) ≠ 0 ∧
    s.flag (F.PRT_STATUS_FUSED_SUB (bitsOf d.request 22 16)) = false ∧
    60 ≤ bitsOf d.request 15 0 ∧ bitsOf d.request 15 0 ≤ 9724 ∧ bitsOf d.request 15 0 ≤ data.length
  | .rxFrameDeliver k d, s =>
    ∃ r rest f, s.puntQueue k = r :: rest ∧ s.ringReady k 0 d.word1 = true ∧ descBad 0 d.request = false ∧
    s.frame r.frame = some f
  | .dmaCopy k d data finds, s =>
    s.ringReady k 3 d.word1 = true ∧ descBad 3 d.request = false ∧
    (let len := if bitsOf d.request 15 0 = 0 then 65536 else bitsOf d.request 15 0
     s.ddrMapped (bitsOf d.request 55 16) len = true ∧ (bitOf d.request 56 = false → len ≤ data.length) ∧
     (bitOf d.request 56 = true → (s.ddrReadTo 4 (bitsOf d.request 55 16) len finds).2.1 = true))
  | .rxStreamDeliver k d withdraw, s =>
    withdraw = none ∧ s.streams k ≠ [] ∧ s.ringReady k 2 d.word1 = true ∧ descBad 2 d.request = false
  | .perstNFall, _ => True
  | .perstNRise, _ => True
  | .hotReset, _ => True
  | .pcieLinkDown, _ => True
  | .flr, _ => True
  | .d3hotEntry, _ => True
  | .d0Return, _ => True
  | .bmeClear, s => s.host.bme = true
  | .bmeSet _, _ => True
  | .freezingError bit _, s => freezing bit.toNat = true ∧ s.flag F.HST_STATUS_FROZEN = false
  | .freezeRelease cleared, s =>
    s.hostMay R.HST_FREEZE ∧ s.flag F.HST_STATUS_FROZEN = true ∧ s.freezeHeld = false ∧
    ∀ b < 32, freezing b = true → bitOf (s.host.aer.uncorrectable &&& ~~~ cleared) b = false
  | .irqHoldExpiry k, s => s.host.holdRun.contains k.val = true
  | .msixUnmask v, s => s.hostMay (R.MSIX_CTRL v)
  | .lateCompletion tag, s => bitOf s.host.quarantine tag.toNat = true
  | .tagQuarantineEnd _, _ => True
  | .ddrRequest _ _ x len _ _, s => s.ddrMapped x.toNat len = true
  | .ddrFreqChange set, s =>
    s.hostMay R.DDR_FREQ_CTRL ∧ (let u := s.setFld F.DDR_FREQ_CTRL_SET set.val
     u.ddrReady = true ∧ u.ddr.change = none ∧ u.flag (F.DDR_TSET_VALID set.val) = true ∧
       bitOf u.ddr.trained set.val = true ∧ u.fld F.DDR_STATUS_SET_ACTIVE ≠ set.val)
  | .refreshInterval _ _, s => s.ddrReady = true
  | .scrubStep _ _, s =>
    s.ddrReady = true ∧ s.flag F.DDR_SCRUB_CFG_SCRUB_EN = true ∧ s.ddr.bad.contains s.ddr.scrubAt = false
  | .ddrTempReport _ _ _, _ => True
  | .rankPowerDown rank, s => s.ddrReady = true ∧ tget (fun _ => 0) s.ddr.rankMode rank.val = 0
  | .rankSelfRefresh _, s => s.ddrReady = true
  | .captureServe _ _, s =>
    ∃ q rest f, s.arc.queue = q :: rest ∧ s.frame q.frame = some f ∧ (f.complete = true ∨ f.bad = true) ∧
    (s.capCharge q.sel (48 + ceilDiv (s.capLen q.sel f.len) 8 * 8)).1 = true ∧ ∃ c, s.arc.recCell = some c
  | .trigInEdge, s =>
    s.flag F.ARC_TRIG_CFG2_PIN_EN = true ∧ (∀ c, s.arc.pinAt = some c → c + 625000 ≤ s.time.cycles) ∧ s.arcOff = false
  | .eventEndPass, _ => True
  | .eventClose, s =>
    ∃ e, s.arc.openEvent = some e ∧ s.arcState = 4 ∧ (e.skipTo s.arc).atEnd = true ∧ (e.skipTo s.arc).buf = []
  | .arcEnable _ _, s => s.hostMay R.ARC_CTRL ∧ s.arcState = 0
  | .arcDisable, s => s.hostMay R.ARC_CTRL
  | .arcFormat, s => s.hostMay R.ARC_CTRL ∧ s.arcState = 0
  | .formatDone _ _, s => s.arcState = 1
  | .arcRecoveryDone _ _ _, s => s.arcState = 2
  | .checkpointTimer _, s => s.arc.sinceCheckpoint ≠ 0
  | .pageProgramDone _ _, _ => True
  | .blockEraseDone b ok, s => ok = true ∧ (s.nandBlock b).dirty = true
  | .nandPatrolRead r, s =>
    s.arcOff = false ∧ ∃ p n, s.arc.pages.find? (fun p => decide (s.arc.patrolAt ≤ p.pseq)) = some p ∧
    r.outcome (s.fld F.ARC_GEOM1_RETRY) = .hard n ∧ n ≤ s.fld F.ARC_PATROL_CFG_REFRESH_BITS
  | .keepSet keep, s =>
    s.hostMay R.ARC_KEEP_CTRL ∧ keep = false ∧
    ∃ e ∈ s.arc.events, e.num = bitsOf (s.reg R.ARC_KEEP) 31 0
  | .caseSleep k, s =>
    s.effSleep k = true ∧ s.caseFenced k = false ∧ s.caseBusy k = false ∧ s.fld (F.PWR_CASE_STATE k) < 2
  | .casePointIdle k, s => s.caseFenced k = false
  | .railConfirm k ok, s => ok = true ∧ ∃ x, (s.caseOf k).raise = some x
  | .avsTick r m, s => s.flag F.PWR_AVS_CFG_AVS_EN = true ∧ 0 ≤ m ∧ m < 5 ∧ bitOf s.pwr.avsShort r.val = false
  | .powerEstimate _, _ => True
  | .powerRecalibrate _ _, _ => True
  | .ddrLowSwitch lower, s =>
    (let now := s.fld F.DDR_STATUS_SET_ACTIVE
     s.flag (F.DDR_TSET_VALID (1 - now)) = true ∧ bitOf s.ddr.trained (1 - now) = true ∧
       s.flag F.PWR_CAP_CFG_DDR_LOW_EN = true ∧
       (lower = true → s.fld (F.DDR_TSET_RATE (1 - now)) < s.fld (F.DDR_TSET_RATE now) ∧
         s.flag F.PWR_STATUS_CAP_ACTIVE = true) ∧
       (lower = false → s.fld (F.DDR_TSET_RATE now) < s.fld (F.DDR_TSET_RATE (1 - now)) ∧
         s.fld F.PWR_EST_ESTIMATE + 50 ≤ s.capTenths))
  | .shedStep, s => s.shedCause = true ∧ s.pwr.step < 13
  | .shedWithdraw, s => s.shedCause = false ∧ 0 < s.pwr.step
  | .sensorSample _ temp frozen, _ => temp.toInt < 125 ∧ -50 ≤ temp.toInt ∧ frozen = false
  | .capWrite _, s => s.hostMay R.PWR_CAP ∧ s.inForce = []
  | .crystalLoss, _ => True
  | .pllLockLoss _, _ => True
  | .dualRailError src k, _ => pairReports src.toNat k.toNat = true ∧ k.toNat ≠ 0x61 ∧ k.toNat ≠ 0x13
  | .wireFault src, _ => sourceValid src.toNat = true ∧ (src.toNat < 0x601 ∨ 0x605 < src.toNat)
  | .codedMessage src k _, _ => codedReports src.toNat k.toNat = true
  | .fenceComplete src, s => ∃ x, s.flt.fencing.find? (fun x => x.1 == src.toNat) = some x
  | .recheckDone, s => s.flt.recheck = true
  | .faultAck _, s => s.hostMay R.FLT_ACK
  | .faultAckAll, s => s.hostMay R.FLT_ACK
  | .faultClear k, s => s.hostMay R.FLT_CLEAR ∧ bitOf (s.logWord0 k) 62 = true
  | .faultClearAll, s => s.hostMay R.FLT_CLEAR
  | .unfence src, s =>
    s.hostMay R.FLT_UNFENCE ∧ liftable src.toNat = true ∧ s.fencedSrc src.toNat = true ∧
    s.unclearedOf (src.toNat :: membersOf src.toNat) = false ∧
    (∀ r, regionOf src.toNat = some r → s.regionFenced r = false) ∧ s.flt.unfencing = none
  | .bistDone pass, s => pass = true ∧ ∃ src, s.flt.unfencing = some src
  | .faultInject level src, s => s.hostMay R.FLT_INJECT ∧ level.toNat ≤ 4 ∧ sourceValid src.toNat = true
  | .powerOn, _ => True
  | .resetNAssert, _ => True
  | .resetNRelease _, s => s.boot.resetLow = true ∧ s.boot.railFault = false
  | .restartCold key _, s =>
    s.hostMay R.BOOT_RESTART ∧ key.toNat = 0x5245 ∧ s.boot.starting = false ∧
    (s.boot.mode = .running ∨ s.boot.mode = .safeHold)
  | .restartWarm key _, s =>
    s.hostMay R.BOOT_RESTART ∧ key.toNat = 0x5245 ∧ s.boot.starting = false ∧ s.boot.mode = .running ∧
    s.flag F.BOOT_STATUS_FORCE_COLD = false ∧ s.fld F.BOOT_STATUS_WARM_FAILS ≠ 2
  | .clrFails key, s => s.hostMay R.BOOT_RESTART ∧ key.toNat = 0x5245 ∧ s.boot.starting = false ∧ s.boot.mode = .running
  | .startWatchdog, s => s.boot.facts.isSome = true ∧ s.boot.starting = true
  | .watchRailLoss, _ => True
  | .railUndervolt, _ => True
  | .railRestoreRelease _, s => s.boot.railFault = true ∧ s.boot.resetLow = false
  | .qspiRead len, s =>
    s.hostMay R.BOOT_QSPI_CTRL ∧ s.boot.qspiOp = none ∧ s.boot.starting = false ∧
    qspiRefused 0 len.toNat (s.fld F.BOOT_QSPI_ADDR_ADDR) = false
  | .qspiProgram len, s =>
    s.hostMay R.BOOT_QSPI_CTRL ∧ s.boot.qspiOp = none ∧ s.boot.starting = false ∧
    qspiRefused 1 len.toNat (s.fld F.BOOT_QSPI_ADDR_ADDR) = false
  | .qspiErase, s =>
    s.hostMay R.BOOT_QSPI_CTRL ∧ s.boot.qspiOp = none ∧ s.boot.starting = false ∧
    qspiRefused 2 0 (s.fld F.BOOT_QSPI_ADDR_ADDR) = false
  | .qspiDone error, s => error = false ∧ ∃ x, s.boot.qspiOp = some x
  | .keyProgram k c, s => s.hostMay R.SEC_KEY_CTRL ∧ s.boot.keyOp = none ∧ s.keyRefused 1 k c.toNat = false
  | .keyRevoke k c, s => s.hostMay R.SEC_KEY_CTRL ∧ s.boot.keyOp = none ∧ s.keyRefused 2 k c.toNat = false
  | .keyOpDone ok, s => ok = true ∧ ∃ x, s.boot.keyOp = some x
  | .attestGo, s => s.hostMay R.SEC_ATTEST_CTRL ∧ s.boot.attest = none ∧ s.fencedSrc 0x605 = false
  | .attestDone, s => s.boot.attest.isSome = true ∧ s.fencedSrc 0x605 = false
  | .formeHashDone, s => s.activeTag.isSome = true ∧ s.boot.formeHashBusy = true
  | .evtLatchClear g _ _, s => s.hostMay (R.EVT_LATCH g)
  | .evtSet g _, s => s.hostMay (R.EVT_SET g)
  | .evtEnableWrite g _, s => s.hostMay (R.EVT_ENABLE g)
  | .evtTargetWrite n _, s => s.hostMay (R.EVT_TARGET n)
  | .evtVecAck _, s => s.hostMay R.EVT_VEC_ACK
  | .registerWrite off wide data, s => s.hostMay off.toNat ∧ (regParts off.toNat wide data).isSome = true
  | .frameBytesArrive p _, s => (s.port p).rx.isSome = true
  | .hiBerChange _ _, _ => True
  | .fecCodeword _ _, _ => True
  | .pcieLinkUp _ _, s => s.boot.perstLow = false ∧ s.held = false
  | .correctableError _, _ => True
  | .caseBacklog k, s =>
    (∀ i < 8, s.compFenced (8 * k.val + i) = false → (s.comp (8 * k.val + i)).frame.isSome = true) ∧
    ∃ i < 8, s.compFenced (8 * k.val + i) = false
  | .watchlistEngineSleep e, s => (s.engine e).isNone = true ∧ s.fld F.WCH_ENGINES_ADM ≤ e.val
  | .throttleStep k, s => s.caseHot k = true ∧ s.lowerLimit k < s.casePoint k

/-- What a command leaves where it has its own effect (`Runs`). Its value where it has not is of no account. -/
def effect : Instr → State → State
  | .frameStart p, s => s.startFrame p
  | .frameEnd p n m bad, s =>
    ((s.countN (R.PRT_C_MERGE_RX_FRAGMENTS p) n).countN (R.PRT_C_MERGE_RX_SMD_ERR p) m).endFrame p bad
  | .pdelayResponse p, s =>
    match (s.port p).pdelayReq with
    | some (req, rx) => match s.pdelayBuild p req rx with
      | (some k, t) => (t.setPort p { t.port p with pdelay := some k }).count R.TIM_C_PDELAY_ANSWERED
      | (none, t) => t
    | none => s
  | .pcsLockLoss p lock lf rf, s =>
    let t := ((s.setFlag (F.PRT_STATUS_PCS_LOCK p) lock).setFlag (F.PRT_STATUS_LOCAL_FAULT p) lf).setFlag
      (F.PRT_STATUS_REMOTE_FAULT p) rf
    let t := if lock then t else t.lostSignal p
    t.setPort p { t.port p with downDeb := t.flag (F.PRT_STATUS_LINK_UP p), upDeb := false }
  | .pcsLockGain p, s =>
    let t := ((s.setFlag (F.PRT_STATUS_PCS_LOCK p) true).setFlag (F.PRT_STATUS_LOCAL_FAULT p) false).setFlag
      (F.PRT_STATUS_REMOTE_FAULT p) false
    let t := (t.setSignal p true).setFlag (F.PRT_STATUS_TRAINING p) false
    t.setPort p { t.port p with downDeb := false, upDeb := !t.flag (F.PRT_STATUS_LINK_UP p) }
  | .linkDown p, s => s.linkDownNow p
  | .linkUp p, s =>
    let t := (s.setFlag (F.PRT_STATUS_LINK_UP p) true).setFlag (F.PRT_STATUS_HOLDING p) false
    let t := t.setPort p { t.port p with upDeb := false }
    (t.setFlag (F.PRT_STATUS_AN_DONE p) (s.flag (F.PRT_MODE_AN_EN p) &&
      decide (s.fld (F.PRT_STATUS_ACTIVE_MODE p) ∈ [1, 2]))).raisePort p 0
  | .holdTimeExpiry p, s => (s.setFlag (F.PRT_STATUS_HOLDING p) false).flushHeld p
  | .prtModeWrite p v, s => s.modeWrite p v
  | .laneModeInForce p, s =>
    let m := s.fld (F.PRT_MODE_MODE p)
    let t := (s.setFld (F.PRT_STATUS_ACTIVE_MODE p) m).setFlag (F.PRT_STATUS_TRAINING p) (m != 0)
    t.setPort p { t.port p with modePending := false }
  | .mergeVerifyTimer p, s =>
    if (s.port p).verifyTries < 3 then
      (s.setPort p { s.port p with verifyTries := (s.port p).verifyTries + 1 }).emit (.verifyPacket p)
    else s.setMerge p 3
  | .mergeRespond p, s => s.setMerge p 2
  | .regionTrainingStart r, s =>
    (List.range 16).foldl (fun t k =>
      let p := 16 * r.val + k
      let m := t.fld (F.PRT_MODE_MODE p)
      if m = 0 ∨ t.laneFenced p = true then t
      else ((t.setFld (F.PRT_STATUS_ACTIVE_MODE p) m).setFlag (F.PRT_STATUS_TRAINING p)
        (!t.flag (F.PRT_STATUS_PCS_LOCK p))).setPort p { t.port p with modePending := false }) s
  | .dispatch p, s =>
    match s.offered p with
    | none => s
    | some (i, f) =>
      let r := p.val / 16
      let u := s.wakesEnd (eligible r)
      match u.choose r f.admPort (u.defClass f) with
      | .comp k =>
        let ps := u.port p
        let t := u.setPort p { ps with staging := ps.staging.filter (· != i), reorder := ps.reorder ++ [i] }
        let t := if ps.reorder.length = 63 then t.raiseRegion r 0 else t
        ((t.offerCase (k / 8)).rotate (k / 8) r).startPass i k (u.fld (F.FRM_PORT_DECL_PROFILE f.tag p)) f
      | _ => u
  | .cellRequest reqs, s =>
    match reqs with
    | [(q, b)] =>
      let t := (s.oneRequest [] q b).2.2
      let x := reqKind q
      let g := { t.gal with kinds := toLast t.gal.kinds x.1 }
      let g := if x.1 = 0 then { g with ingressOrder := toLast g.ingressOrder x.2 } else g
      { t with gal := if x.1 = 3 then { g with recircOrder := toLast g.recircOrder x.2 } else g }
    | _ => s
  | .sweepDone b, s => s.sweepEnd b
  | .dmaPoolRetry k, s => State.injectCells injectMax k false s
  | .cellFree req byAddr x, s =>
    (s.freeIndex req.toNat (if byAddr then (x.toNat - 0x80000000) / 256 else x.toNat)).serveAll
  | .galleyCommit p bad, s =>
    match (s.nextCommit p).find? fun x =>
        let r := s.resolveDelivery x.2 bad
        s.commitReady x.1 x.2 r.1 r.2.1 with
    | some (i, f) =>
      let r := s.resolveDelivery f bad
      r.2.2.commitFrame p i f r.1 r.2.1
    | none => s
  | .residueTimeout k, s =>
    match tget (fun _ => none) s.gal.residue k.val with
    | some e =>
      let t : State := { s with gal := { s.gal with residue := tput (fun _ => none) s.gal.residue k.val none } }
      let t := (t.countN R.GAL_C_RESIDUE_TIMEOUT_DROP (maskPorts e.mask).length).raiseG 36 6
      (t.modFrame e.frame fun f => { f with residue := none }).release e.frame (match t.frame e.frame with
        | some f => 0x18 + f.inPort / 16
        | none => 0x18)
    | none => s
  | .recircOffer r ecc, s =>
    match s.path r with
    | [] => s
    | i :: rest => match s.frame i with
      | none => s
      | some f =>
        let u := (s.readFrame f.cells ecc).2.wakesEnd (eligible r)
        match u.choose r f.admPort (u.defClass f) with
        | .comp k =>
          let g := u.freePassCell f
          let t := ((g.2.setPath r rest).offerCase (k / 8)).rotate (k / 8) r
          let t := t.setPort f.inPort { t.port f.inPort with again := (t.port f.inPort).again ++ [i] }
          (t.startPass i k (match f.act.dlv with
            | some (.second e) => e
            | _ => 0) { g.1 with pass := f.pass + 1, refcnt := f.refcnt - 1 }).serveAll
        | _ => u
  | .alu f func rd rs1 rs2, s =>
    s.ranSeq f 1 fun cs _ => cs.setG rd (aluOp func (cs.greg rd) (cs.greg rs1) (cs.greg rs2))
  | .alui f func rd rs1 imm, s =>
    s.ranSeq f 1 fun cs _ => cs.setG rd (aluOp func (cs.greg rd) (cs.greg rs1) (sextTo imm))
  | .movhi f rd rs1 imm, s =>
    s.ranSeq f 1 fun cs _ => cs.setG rd (w64 (imm.toNat * 2 ^ 32 + (cs.greg rs1).toNat % 2 ^ 32))
  | .mfs f rd spec, s => s.ranSeq f 1 fun cs fr => cs.setG rd (w64 (s.special f.comp.val cs fr spec.toNat))
  | .mts f spec rs1, s =>
    s.ranSeq f 1 fun cs _ =>
    let v := (cs.greg rs1).toNat
    if spec.toNat = 6 then { cs with qoff := v % 8 * 16 + cs.qoff % 16 }
    else if spec.toNat = 9 then { cs with cur := v % 16384 }
    else if spec.toNat = 10 then { cs with ovr := bitOf (cs.greg rs1) 0 }
    else if spec.toNat = 11 then { cs with user := cs.greg rs1 }
    else if spec.toNat = 18 then { cs with hash := { cs.hash with value := v % 2 ^ 32 } }
    else if spec.toNat = 22 then cs.setQoff v
    else cs
  | .mul f rd rs1 rs2, s => s.ranSeq f 2 fun cs _ => cs.setG rd (cs.greg rs1 * cs.greg rs2)
  | .ext f rd rs1 scratch off bit wm1 sx, s =>
    s.ranSeq f 1 fun cs fr =>
    let w := wm1.toNat + 1
    let r := if scratch then cs.readScratch (cs.scratchEa rs1 off) (fieldBytes bit.toNat w)
      else readOr (fr.readBytes (cs.frameEa rs1 off) (fieldBytes bit.toNat w)) ([], false)
    (cs.setOvr r.2).setG rd (extend (fieldOf r.1 bit.toNat w) w sx)
  | .ins f rs1 rs2 off bit wm1, s =>
    s.ranSeq f 1 fun cs _ =>
    let w := wm1.toNat + 1
    let ea := cs.scratchEa rs1 off
    let r := cs.readScratch ea (fieldBytes bit.toNat w)
    (cs.writeScratch ea (setField r.1 bit.toNat w (cs.greg rs2).toNat)).setOvr r.2
  | .setc f rs1 imm, s => s.ranSeq f 1 fun cs _ => { cs with cur := wrap 14 (sx64 (cs.greg rs1) + imm.toInt) }
  | .advc f rs1 imm, s => s.ranSeq f 1 fun cs _ => { cs with cur := wrap 14 (cs.cur + sx64 (cs.greg rs1) + imm.toInt) }
  | .br f cond rs1 rs2 disp, s =>
    s.ran f 1 fun cs _ =>
    (if condHolds cond (cs.greg rs1) (cs.greg rs2) then .goto (cs.target disp) else .seq, cs)
  | .bri f cond rs1 imm disp, s =>
    s.ran f 1 fun cs _ =>
    (if condHolds cond (cs.greg rs1) (briImm cond imm) then .goto (cs.target disp) else .seq, cs)
  | .jmp f disp, s => s.ran f 1 fun cs _ => (.goto (cs.target disp), cs)
  | .jtab f rs1 nmax disp, s => s.ran f 1 fun cs _ => (.goto (cs.target disp + min (cs.greg rs1).toNat nmax.toNat), cs)
  | .loop f count len, s =>
    s.ran f 1 fun cs _ =>
    let r := cs.openLoop count.toNat len.toNat
    (.goto r.pc, { cs with loops := r.loops })
  | .loopr f rs1 count len, s =>
    s.ran f 1 fun cs _ =>
    let r := cs.openLoop (min (cs.greg rs1).toNat count.toNat) len.toNat
    (.goto r.pc, { cs with loops := r.loops })
  | .end_ f, s =>
    match (s.comp f.comp.val).frame with
    | none => s
    | some i => match s.frame i with
      | none => s
      | some fr =>
        let c := f.comp.val
        let cs := s.comp c
        let t := (s.issued f 1 (cs.advance .seq)).discardLookups c
        ((t.setComp c { CompState.init with scratch := cs.scratch }).count (R.CMP_C_FRAMES (c / 8) (c % 8))).setFrame i
          (fr.retire cs)
  | .pmRepairDone k, s => s.setCase k { s.caseOf k with repair := (s.caseOf k).repair.tail }
  | .watchdog c, s => s.watchdogDrop c
  | .lkiL2dst f tag rs1, s => s.ranLki f tag fun cs => .l2 (cs.greg rs1) false
  | .lkiL2src f tag rs1, s => s.ranLki f tag fun cs => .l2 (cs.greg rs1) true
  | .lkiIpv4 f tag rs1, s => s.ranLki f tag fun cs => .ipv4 (cs.greg rs1)
  | .lkiIpv6 f tag rs1 rs2, s => s.ranLki f tag fun cs => .ipv6 (cs.greg rs1) (cs.greg rs2)
  | .lkiRule f tag rs1 arg, s =>
    s.ranSeq f 1 fun cs _ =>
    let r := cs.readScratch (sx64 (cs.greg rs1) + (arg.toNat : Int)) 60
    (cs.setSlot tag.toNat (.waiting (.rule r.1))).setOvr r.2
  | .lkiFork f tag rs1 table, s => s.ranLki f tag fun cs => .fork table.toNat ((cs.greg rs1).toNat % 256)
  | .lkiWatch f tag rs2 set, s =>
    s.ranOn f 1 fun cs fr =>
    let len := if rs2.val = 0 then none else some (cs.greg rs2).toNat
    let adm := s.admClass fr.tag (cs.qoff / 16)
    (.seq, cs.setSlot tag.toNat (.waiting (.watch set.toNat cs.cur len)), s.modWatch fun w => { w with waiting :=
      w.waiting ++ [⟨some (f.comp.val, tag.toNat), cs.frame.getD 0, [], fr.tag, set.toNat, cs.cur, len, adm⟩] })
  | .lookupComplete c tag bad, s =>
    match (s.comp c).frame.bind s.frame, (s.comp c).slot tag.toNat with
    | some fr, .waiting req =>
      let r := s.lookupResult fr req bad
      r.2.setComp c ((s.comp c).answer tag.toNat r.1)
    | _, _ => s
  | .lkw f rd tag bm disp, s =>
    s.ran f 1 fun cs _ => match cs.slot tag.toNat with
    | .ready st w0 w1 => (if bm && st != 1 then .goto (cs.target disp) else .seq,
      { (cs.setG rd w0).setSlot tag.toNat .idle with lres1 := w1, lst := st + 16 * tag.toNat })
    | _ => (.seq, cs)
  | .hini f alg key seed, s =>
    s.ranSeq f 1 fun cs _ => { cs with hash := ⟨alg, key.toNat, if alg then 0 else seed.toNat, 0⟩ }
  | .hacc f rs1 nm1, s =>
    s.ranSeq f 1 fun cs fr =>
    cs.hashBytes (s.toeplitzKey fr.tag cs.hash.key) (toBE (nm1.toNat + 1) (cs.greg rs1).toNat)
  | .hacf f rs1 off nm1, s =>
    s.ranSeq f (ceilDiv (nm1.toNat + 1) 8) fun cs fr =>
    let r := readOr (fr.readBytes (cs.frameEa rs1 off) (nm1.toNat + 1)) ([], false)
    (cs.hashBytes (s.toeplitzKey fr.tag cs.hash.key) r.1).setOvr r.2
  | .hfin f rd, s =>
    s.ranSeq f 1 fun cs _ =>
    let v := if cs.hash.toeplitz then cs.hash.value else cs.hash.value ^^^ 0xFFFFFFFF
    { cs.setG rd (w64 v) with hash := { cs.hash with value := v } }
  | .berx f rd _ _ _ skip, s =>
    s.ranSeq f 2 fun cs fr =>
    let hd := readOr (fr.readBytes cs.cur 2) ([], false)
    let n := (berForm (byteAt hd.1 1).toNat).getD 0
    let ext := readOr (fr.readBytes ((cs.cur : Int) + 2) n) ([], false)
    let len := if n = 0 then (byteAt hd.1 1).toNat else beNat ext.1
    ({ cs.setG rd (w64 len) with
      dtag := (byteAt hd.1 0).toNat, dlen := len, dstat := 0
      cur := (cs.cur + 2 + n + (if skip then len else 0)) % 16384 }).setOvr (hd.2 || ext.2)
  | .asdu f rd fld rs2 _, s =>
    s.ranSeq f (asduCycles fld.toNat) fun cs fr =>
    match fr.asduFind cs.cur fld.toNat with
    | .ok (c, len) => match fr.asduValue cs.cur fld.toNat (cs.greg rs2).toNat c len with
      | .ok (some v) => ({ cs with
          dtag := match fr.walkByte cs.cur cs.cur with
            | .ok b => b
            | _ => 0
          dstat := 0, dlen := if fld.toNat = 0 ∨ fld.toNat = 6 then len else cs.dlen } : CompState).setG rd (w64 v)
      | _ => cs
    | _ => cs
  | .wbopRead f tag rs1 word _, s => s.ranWbop f tag rs1 fun i _ _ => s.wRead i word.val none
  | .wbopAdd f tag rs1 rs2 word _, s => s.ranWbop f tag rs1 fun i _ cs => s.wAdd i word.val (cs.greg rs2) none
  | .dupchk f tag rs1 rs2 _, s => s.ranWbop f tag rs1 fun i x cs => s.wDupchk i x (cs.greg rs2) none
  | .svchk f tag rs1 rs2 _, s => s.ranWbop f tag rs1 fun i x cs => s.wSvchk i x (cs.greg rs2) none
  | .gschk f tag rs1 rs2 _, s => s.ranWbop f tag rs1 fun i x cs => s.wGschk i x (cs.greg rs2) none
  | .meter f tag rs1 rs2 _, s => s.ranWbop f tag rs1 fun i x cs => s.wMeter i x (cs.greg rs2) none
  | .wbind f rs1, s => s.ranSeq f 1 fun cs _ => { cs with wbl := some (cs.greg rs1).toNat }
  | .dlvDrop f, s => s.ranSeq f 1 fun cs _ => cs.deliver .drop
  | .dlvFwd f imm port rs1, s =>
    s.ranSeq f 1 fun cs _ => cs.deliver (.fwd (if imm then port.toNat else (cs.greg rs1).toNat))
  | .dlvMcast f rs1 rs2 excl, s =>
    s.ranSeq f 1 fun cs fr =>
    let mask := BitVec.ofNat 128 ((cs.greg rs1).toNat + (cs.greg rs2).toNat * 2 ^ 64)
    let mask := if excl then mask &&& ~~~ BitVec.ofNat 128 (2 ^ fr.inPort) else mask
    cs.deliver (if mask = 0 then .drop else .mcast mask)
  | .dlvFork f table rs1, s => s.ranSeq f 1 fun cs _ => cs.deliver (.fork table.toNat ((cs.greg rs1).toNat % 256))
  | .dlvPunt f reason, s => s.ranSeq f 1 fun cs _ => cs.deliver (.punt reason.toNat)
  | .dlvSecond f entry, s => s.ranSeq f 1 fun cs _ => cs.deliver (.second entry.toNat)
  | .qsel f imm qoff rs1, s => s.ranSeq f 1 fun cs _ => cs.setQoff (if imm then qoff.toNat else (cs.greg rs1).toNat)
  | .sideMirror f session, s =>
    s.ranSeq f 1 fun cs _ =>
    { cs with act := { cs.act with mirrors := cs.act.mirrors ++ [session.toNat] } }
  | .sideCapmark f selector, s =>
    s.ranSeq f 1 fun cs _ => { cs with act := { cs.act with capmark := some selector.toNat } }
  | .sideCaptrig f cause, s => s.ranSeq f 1 fun cs _ => { cs with act := { cs.act with captrig := some cause.toNat } }
  | .sideTstamp f ident, s => s.ranSeq f 1 fun cs _ => { cs with tsreq := some ident.toNat }
  | .editVpush f rs1, s => s.ranEdit f 1 0 fun cs => cs.greg rs1
  | .editVpop f, s => s.ranEdit f 2 0 fun _ => 0
  | .editVswap f rs1, s => s.ranEdit f 3 0 fun cs => cs.greg rs1
  | .editHsrIns f rs1 path, s => s.ranEdit f 4 path.toNat fun cs => cs.greg rs1
  | .editHsrRem f, s => s.ranEdit f 5 0 fun _ => 0
  | .editPrpAdd f rs1 lan, s => s.ranEdit f 6 lan.toNat fun cs => cs.greg rs1
  | .editPrpStrip f, s => s.ranEdit f 7 0 fun _ => 0
  | .editMacDa f rs1, s => s.ranEdit f 8 0 fun cs => cs.greg rs1
  | .editMacSa f rs1, s => s.ranEdit f 9 0 fun cs => cs.greg rs1
  | .editTtlDec f off, s => s.ranEdit f 10 off.toNat fun _ => 0
  | .editPtpCf f off, s => s.ranEdit f 11 off.toNat fun _ => 0
  | .learnRequest bad, s => s.keeperThrough KprInput.isLearn bad
  | .ageingStep bad, s => (s.agedPast bad).ageEntry (s.drainLearn bad).ledger.ageAt
  | .parityInvalidate table addr, s =>
    s.keeperThrough (· == KprInput.invalidate (if table.val = 1 then 0 else table.val) addr.toNat) []
  | .scanStart, s =>
    let adm := (s.watch.waiting.find? fun x => x.admitted == true).isSome
    match s.watch.waiting.find? fun x => x.admitted == adm, s.freeEngine adm with
    | some sc, some e =>
      let t := (s.modWatch fun w => { w with waiting := w.waiting.erase sc }).setEngine e (some sc)
      { t with pwr := { t.pwr with enginesAsleep := t.pwr.enginesAsleep &&& ~~~ BitVec.ofNat 42 (2 ^ e) } }
    | _, _ => s
  | .scanDone engine _, s =>
    match s.engine engine with
    | none => s
    | some sc =>
      let bs := (s.scanBytes sc).getD []
      let res := scanResult s.wchLine (s.wchDir (256 * sc.ftag + sc.set)) sc.set sc.start bs
      let t := (s.setEngine engine none).countN R.WCH_C_BYTES_SCANNED bs.length
      let t := t.count (if sc.admitted then R.WCH_C_SCANS_ADM else R.WCH_C_SCANS_BE)
      let t := if res.1 = 1 then t.count R.WCH_C_HITS else t
      match sc.owner with
      | some (c, tag) => t.setSlot c tag (.ready res.1 res.2.1 res.2.2)
      | none => t
  | .maintWrite shadow, s =>
    match s.watch.writes with
    | [] => s
    | m :: rest =>
      let t := (s.modWatch fun w => { w with writes := rest }).steal
      match m with
      | .line l bs => t.writeLine l bs
      | .dir i w0 w1 => t.writeDir i w0 w1 shadow
  | .wchPatrolStep differs shadow, s =>
    let item := s.watch.patrolAt
    let mine := if item < 65536 then s.wchLine item
      else dirBytes (s.wchDir (item - 65536)).1 (s.wchDir (item - 65536)).2
    let t := match s.ddrRead 2 (s.shadowAddr item) mine.length [(0, shadow)] with
      | (some bs, t) =>
        if differs || mine != bs then ((t.count R.WCH_C_MISMATCH).raiseG 38 17).queueRepair item 2 else t
      | (none, t) => t
    if item + 1 < 66048 then t.modWatch fun w => { w with patrolAt := item + 1 }
    else (t.modWatch fun w => { w with patrolAt := 0 }).raiseG 38 19
  | .wchRepair line shadow, s =>
    match s.watch.repairs.find? fun x => x.1 == line.toNat with
    | none => s
    | some (item, kind) =>
      match (s.modWatch fun w => { w with repairs := w.repairs.filter fun y => y.1 != item }).ddrRead 2
          (s.shadowAddr item) (if item < 65536 then 64 else 16) [(0, shadow)] with
      | (some bs, t) =>
        let t := ((t.steal).count R.WCH_C_REPAIRED).wchLog item kind
        if item < 65536 then t.modWatch fun w => { w with lines := Memory.writeN 0 w.lines (64 * item) bs }
        else t.setDir (item - 65536) (w64 (beAt bs 0 8)) (w64 (beAt bs 8 8))
      | (none, t) => t
  | .wblHostWrite addr _ data _, s =>
    let t := (s.wrepair (addr.toNat / 64)).count R.WBL_C_OPS
    if addr.toNat / 8 % 8 = 0 then t.wwrite0 (addr.toNat / 64) data
    else t.putWword (addr.toNat / 64) (addr.toNat / 8 % 8) data
  | .wblHostRead addr wide bad, s =>
    let r := s.wblRead addr.toNat bad
    r.2.emit (.readData (if wide then r.1 else (r.1.drop (addr.toNat / 4 % 2 * 4)).take 4) false)
  | .wblPatrolVisit _, s =>
    let i := s.wbl.patrolAt
    let t := s.wrepair i
    let t := if wPlain (t.wword i 0) then t
      else if t.wbl.hold ≠ 0 then t.wstamps i
      else if t.wbl.poisoned.contains i || !wVALID (t.wword i 0) then t
      else t.wtests i
    if i + 1 < 32768 then t.modWbl fun w => { w with patrolAt := i + 1 }
    else (t.modWbl fun w => { w with patrolAt := 0, hold := w.hold - 1 }).count R.WBL_C_PATROL_PASSES
  | .wblStateRepair w, s =>
    ((s.modWbl fun x => { x with repairs := x.repairs.filter (· != w.val) }).armState w.val).count R.WBL_C_OPS
  | .wblSnapshot v bad, s => s.wblSnap (bitsOf v 14 0) bad
  | .stickyClear w mask bad, s => s.stickyOp w.val mask.toNat false false bad
  | .clrBlocked w bad, s => s.stickyOp w.val 0 true false bad
  | .clrQual w bad, s => s.stickyOp w.val 0 false true bad
  | .meterClr m, s => (s.count R.WBL_C_OPS).setFlag (F.WBL_METER_STATE_MARK_RED m) false
  | .evlogPop, s =>
    match s.wbl.log with
    | [] => s.emit (.readData (toLE 8 0) false)
    | r :: rest => (s.modWbl fun w => { w with log := rest }).emit (.readData (toLE 8 r.toNat) false)
  | .perTagTableWrite off wide data, s => s.barWrite off.toNat wide data State.putTagTable
  | .egressPick p, s =>
    let t := (s.busyQueues p).foldl State.bringCredit (s.testHeads p)
    match t.bestHead p false with
    | some w => t.pick p w
    | none => t
  | .ageDecisionTick p, s => s.testHeads p
  | .frameTxStart p ecc, s =>
    match (s.egrPort p).picked with
    | some k => s.beginTx p k ecc
    | none => s
  | .frameTxEnd p bad, s =>
    match (s.egrPort p).wire with
    | none => s
    | some w => match s.frame w.ref.frame with
      | none => s
      | some f =>
        let r := s.wireEdited p w f
        let t := (s.wireUe f bad).2.countSkips r.2.1 r.2.2
        let t := (t.count (R.PRT_C_TX_FRAMES_OK p)).countN (R.PRT_C_TX_BYTES_OK p) r.1.length
        let t := if w.cut then t.count (R.PRT_C_MERGE_TX_FRAGMENTS p) else t
        let t := (t.count (R.EGR_Q_C_TX_FRAMES w.queue)).countN (R.EGR_Q_C_TX_BYTES w.queue) r.1.length
        let t := t.chargeGap w.queue
        let t := (t.setEgr p { t.egrPort p with wire := none }).removeRef w.queue w.ref
        (t.pdelaySent p w.ref.frame f w.tx).sendFrame p r.1 false false
  | .ttEntryChange p t, s =>
    let tt := (s.egrPort p).tt t
    let new := (s.ttNow p t).1
    let u := s.bringPort p
    (u.setEgr p ((u.egrPort p).setTt t { tt with
      entry := new, hold := s.holdAfter p t tt.hold (s.ttPassed p t tt.entry new) })).gateEffects p
  | .ttOperationalBase p t, s =>
    let tt := (s.egrPort p).tt t
    let new := (s.ttNow p t).1
    let u := s.bringPort p
    ((u.setEgr p ((u.egrPort p).setTt t { tt with
      running := true, entry := new, hold := s.holdAfter p t false (List.range (new + 1)) })).raiseG 40 2).gateEffects p
  | .queueFlush q, s => s.flushQueue q
  | .queuePause q on, s => s.setFlag (F.EGR_Q_CTRL_PAUSE q) on
  | .ttDataWrite off wide data, s => s.barWrite off.toNat wide data State.putTimetable
  | .fstage inh seed bad, s => State.did (s.formeStage inh seed.toNat bad)
  | .fdiscard, s => State.did (s.formeDiscard)
  | .fcommit, s => State.did (s.formeCommit)
  | .fverify, s => State.did (s.formeVerify)
  | .fload addr finds, s => State.did (s.formeLoad addr.toNat finds)
  | .drainComplete, s =>
    match s.drainingTag with
    | some t => s.checkSettled.beginRelease t
    | none => s
  | .drainTimeout, s =>
    match s.drainingTag with
    | none => s
    | some t =>
      let u := (s.aliveFrames t).foldl (fun (v : State) x =>
        (if s.leaving x.1 then v else v.count R.ADM_C_DRAIN_DROP).drainFrame x.1) s
      let u := u.raiseG 41 20
      (if u.flag F.FRM_STATUS_SETTLED then u else (u.setFlag F.FRM_STATUS_SETTLED true).raiseG 41 18).beginRelease t
  | .tagReleaseDone bad, s =>
    match s.releasingTag with
    | none => s
    | some t =>
      let u := ((s.ledgerRelease t bad).watchRelease t).clearTagTables t
      let u := (List.range 128).foldl (fun (v : State) p => v.setEgr p ((v.egrPort p).setTt t .init)) u
      let u := ((u.setImage t .init).setResv t 0).setTagState t 0
      let u : State := { u with forme := { u.forme with overlap := false } }
      (if u.activeTag.isSome then u.chipValues else u).raiseG 41 19
  | .freqTrim v, s => s.setFld F.TIM_FREQ_FREQ v.toNat
  | .slew, s => (s.setFld F.TIM_ADJ_CMD_MODE 0).slewGo
  | .timeStep, s => (s.setFld F.TIM_ADJ_CMD_MODE 1).stepGo
  | .timeSet, s => s.setGo
  | .slewEnd, s =>
    match s.time.slew with
    | none => s
    | some rest =>
      let n := ceilDiv rest.natAbs slewRate.natAbs
      let t := s.tbAdd (n * s.tbRate + rest)
      ({ t with time := { t.time with cycles := t.time.cycles + n } } : State).slewStop.ppsRun s.time.now
  | .ppsOutRise, s => s.ppsRise s.time.cycles
  | .ppsOutFall, s => { s with time := { s.time with ppsOut := false } }
  | .ppsInEdge, s =>
    let ovf := s.flag F.TIM_PPS_IN_TS_VALID || s.flag F.TIM_PPS_IN_TS_OVF
    let t := s.setReg R.TIM_PPS_IN_TS (w64 (2 ^ 31 + b2n ovf * 2 ^ 30 + stampNs s.stamp))
    let t := t.setFld F.TIM_PPS_IN_SEC_SEC_LO (stampSec s.stamp)
    let t := (t.count R.TIM_C_PPS_IN_EDGES).raiseG 42 2
    if t.flag F.TIM_PPS_IN_CFG_LOAD then
      (t.setFlag F.TIM_PPS_IN_CFG_LOAD false).stepTo (t.fld F.TIM_PPS_LOAD_SEC_LOAD_SEC * 1000000000 * tbNs)
    else t
  | .timeNowLatch, s => s.latchNow.emit (.readData (toLE 4 (stampFrac s.stamp)) false)
  | .txtsPop, s => s.txtsPop.emit (.readData (toLE 8 s.txtsWord0.toNat) false)
  | .ringDoorbell pi, s => s.setFld F.CMD_RING_PI_PI pi.toNat
  | .ringBlockFetched words, s =>
    let r := s.fetchedBlock words
    { r.2 with cmd := { r.2.cmd with queue := r.2.cmd.queue ++ [r.1] } }
  | .i2cGo words, s =>
    let m := s.mailboxWrite words
    { m with cmd := { m.cmd with queue := m.cmd.queue ++ [m.mailBlock] } }
  | .blockExecute found, s =>
    match s.cmd.queue with
    | b :: rest => ({ s with cmd := { s.cmd with queue := rest } } : State).blockRun b found
    | [] => s
  | .twrite table tag dir idx data bad, s => State.did (s.tWrite table.toNat tag dir idx.toNat data bad)
  | .tdelete table tag dir idx data bad, s => State.did (s.tDelete table.toNat tag dir idx.toNat data bad)
  | .tread table dir x bad, s => State.did (s.tRead table.toNat dir x.toNat bad)
  | .tsearch table tag key bad, s => State.did (s.tSearch table.toNat tag key bad)
  | .tnext table tag start filter bad, s => State.did (s.tNext table.toNat tag start.toNat [filter] bad)
  | .tflush v fid port bad, s => State.did (s.tFlush (if v then some fid.toNat else none) port bad)
  | .nop, s => State.did (((0, 0, []), s))
  | .snapshot units x finds, s => State.did (s.snapshot units x.toNat finds)
  | .caparm sel arm data, s => State.did (s.capArmCmd sel.toNat arm data)
  | .captrig cause, s => State.did (s.capTrig cause.toNat)
  | .role src r, s => State.did (s.roleWrite src.toNat r.toNat)
  | .arcread w0 w1 reads, s => State.did (s.arcRead w0 w1 reads)
  | .resultHeaderRead src, s =>
    let v := s.resultView src
    let t := s.emit (.readData (toLE 8 v.toNat) false)
    if bitOf v 63 then t.setReg (R.CMD_RESULT src 0) (s.reg (R.CMD_RESULT src 0) ||| w64 (2 ^ 62)) else t
  | .bar0BadAccess read off, s =>
    let t := s.barErr read off.toNat
    if read then t.emit (.readData (toLE 4 0) false) else t
  | .bar2Request write off size data finds, s =>
    let room := 2 ^ s.host.bar2Log / 16
    let w := off.toNat / room
    let x := off.toNat % room
    let a := bitsOf (s.reg (R.HST_WIN w)) 39 12 * 4096 + x
    if write then s.bar2Write w x a size (padTo size data) finds else s.bar2Read w x a size finds
  | .winEntryWrite w _ data, s => s.setReg (R.HST_WIN w) (data &&& 0xE00000FFFFFFF000)
  | .winEntryRead w, s => s.emit (.readData (toLE 8 (s.reg (R.HST_WIN w)).toNat) false)
  | .barResize n, s =>
    (List.range 16).foldl (fun u w => u.setReg (R.HST_WIN w) (setBits (u.reg (R.HST_WIN w)) 63 63 0))
      (s.modHost fun h => { h with bar2Log := n.val })
  | .dmaChStart c, s => (s.setFld (F.DMA_CH_STATUS_STATE c) 1).setFld (F.DMA_CH_STATUS_STOP_CODE c) 0
  | .dmaChStop c, s => s.stopAtBoundary c 1
  | .ringEnable k, s => s.ringOn k
  | .ringDisable k, s => s.ringOff k
  | .dmaRingDb k, s => s.ringBell k
  | .descWord1Read k w, s => s.word1Arrived k w
  | .txFrameInject k d data, s =>
    let r := d.request
    let q := s.newFrame { Frame.start (.host k) s.builtTag 0 false s.stamp (bitsOf r 29 23) with
      bytes := data.take (bitsOf r 15 0), complete := true
      tsreq := if bitOf r 30 then some (bitsOf r 53 46) else none
      ptpCf := if bitOf r 31 then some (bitsOf r 45 32) else none }
    (State.injectCells injectMax k false (q.2.setInjecting k (some (.frame q.1 r false)))).injectFinish k d.word1
  | .rxFrameDeliver k d, s =>
    match s.puntQueue k with
    | [] => s
    | r :: rest => match s.frame r.frame with
      | none => s
      | some f =>
        let len := bitsOf d.request 15 0
        let bs := s.puntHeader f r.reason ++ f.bytes
        let t := s.emit (.hostWrite d.buf.toNat (bs.take len) s.host.cfg.relaxed)
        ((t.setPuntQueue k rest).descDone k 0 (min len bs.length) (decide (len < bs.length)) false d.word1).release
          r.frame 0x11
  | .dmaCopy k d data finds, s =>
    let len := if bitsOf d.request 15 0 = 0 then 65536 else bitsOf d.request 15 0
    let r := s.ddrReadTo 4 (bitsOf d.request 55 16) len finds
    if bitOf d.request 56 = false then
      (s.ddrWrite 4 (bitsOf d.request 55 16) (data.take len) finds).descDone k 0 len false false d.word1
    else (if r.1.isEmpty then r.2.2 else r.2.2.emit (.hostWrite d.buf.toNat r.1 s.host.cfg.relaxed)).descDone k 0
      r.1.length false false d.word1
  | .rxStreamDeliver k d _, s =>
    match s.streams k with
    | [] => s
    | bs :: rest =>
      let len := bitsOf d.request 15 0
      let t := if (bs.take len).isEmpty then s else s.emit (.hostWrite d.buf.toNat (bs.take len) s.host.cfg.relaxed)
      (t.setStreams k (if bs.length ≤ len then rest else bs.drop len :: rest)).descDone k 0 (bs.take len).length false
        (decide (bs.length ≤ len)) d.word1
  | .perstNFall, s => { s.linkReset with boot := { s.linkReset.boot with perstLow := true } }
  | .perstNRise, s => { s with boot := { s.boot with perstLow := false } }
  | .hotReset, s => s.linkReset
  | .pcieLinkDown, s => s.linkReset
  | .flr, s => ((s.hostReset 3).count R.HST_C_FLRS).raiseG 43 2
  | .d3hotEntry, s => (s.abortAll 2).modHost fun h => { h with d3hot := true }
  | .d0Return, s => (s.modHost fun h => { h with d3hot := false }).flushPba
  | .bmeClear, s => ((s.abortAll 2).modHost fun h => { h with bme := false }).raiseG 43 1
  | .bmeSet cfg, s => (s.modHost fun h => { h with bme := true, cfg := cfg }).flushPba
  | .freezingError bit header, s => (s.aerError bit.toNat header).freeze.setFld F.HST_FREEZE_CAUSE bit.toNat
  | .freezeRelease cleared, s => ((s.aerClear cleared).setFlag F.HST_STATUS_FROZEN false).flushPba
  | .irqHoldExpiry k, s =>
    let t := s.modHost fun h => { h with
      holdRun := h.holdRun.filter (· != k.val), holdPend := h.holdPend.filter (· != k.val) }
    if s.host.holdPend.contains k.val then t.ringSignal k else t
  | .msixUnmask v, s => (s.setFlag (F.MSIX_CTRL_MASK v) false).flushPba
  | .lateCompletion _, s => s.count R.HST_C_LATE_CPL
  | .tagQuarantineEnd tag, s =>
    s.modHost fun h => { h with quarantine := h.quarantine &&& ~~~ BitVec.ofNat 1024 (2 ^ tag.toNat) }
  | .ddrRequest req write x len data finds, s =>
    if write then s.ddrWrite req.toNat x.toNat (padTo len data) finds
    else match s.ddrRead req.toNat x.toNat len finds with
      | (some bs, t) => t.emit (.readData bs false)
      | (none, t) => (t.freeBytes len).2.emit (.readData (t.freeBytes len).1 true)
  | .ddrFreqChange set, s =>
    let u := s.setFld F.DDR_FREQ_CTRL_SET set.val
    { u.setRanks 2 with ddr := { (u.setRanks 2).ddr with change := some (set.val, u.time.cycles) } }
  | .refreshInterval rank blocked, s =>
    (List.range 4).foldl (fun t i =>
      let k := 4 * rank.val + i
      let lag := if bitOf blocked i then tget (fun _ => 0) t.ddr.lag k + 1 else 0
      let left := if 2 ≤ lag then 0 else lag
      let t : State := { t with ddr := { t.ddr with lag := tput (fun _ => 0) t.ddr.lag k left } }
      if 2 ≤ lag then t.count R.DDR_C_REFSB_FORCED else t) s
  | .scrubStep ecc overtaken, s =>
    let o := 64 * s.ddr.scrubAt
    let t := match ecc with
      | .clean => s
      | .corrected => (s.ddrCorrected o).count (if overtaken then R.DDR_C_SCRUB_CANCELLED else R.DDR_C_SCRUB_FIXED)
      | .uncorrectable => s.ddrUncorrectable 7 o
    if s.ddrCapacity ≤ 64 * (s.ddr.scrubAt + 1) then
      ({ t with ddr := { t.ddr with scrubAt := 0, ceRows := [] } } : State).raiseG 44 6
    else { t with ddr := { t.ddr with scrubAt := s.ddr.scrubAt + 1 } }
  | .ddrTempReport sub rank hot, s =>
    let k := 2 * sub.val + rank.val
    let now := if hot then s.ddr.hot ||| BitVec.ofNat 8 (2 ^ k) else s.ddr.hot &&& ~~~ BitVec.ofNat 8 (2 ^ k)
    let t : State := { s with ddr := { s.ddr with hot := now } }
    let t := t.setFld F.DDR_STATUS_THERM_2X (maskOf 4 fun i => bitOf now (2 * i) || bitOf now (2 * i + 1))
    if hot && !bitOf s.ddr.hot k then t.raiseG 44 7 else t
  | .rankPowerDown rank, s => { s with ddr := { s.ddr with rankMode := tput (fun _ => 0) s.ddr.rankMode rank.val 1 } }
  | .rankSelfRefresh rank, s => { s with ddr := { s.ddr with rankMode := tput (fun _ => 0) s.ddr.rankMode rank.val 2 } }
  | .captureServe ecc finds, s =>
    match s.arc.queue with
    | [] => s
    | q :: _ => match s.frame q.frame with
      | none => s
      | some f => (s.capCharge q.sel (48 + ceilDiv (s.capLen q.sel f.len) 8 * 8)).2.capWrite q f ecc finds
  | .trigInEdge, s =>
    (s.modArc fun a => { a with pinAt := some s.time.cycles }).trigger 3 (s.fld F.ARC_TRIG_CFG2_PIN_CAUSE) s.stamp
  | .eventEndPass, s =>
    s.modArc fun a => { a.modOpen s.endPosition with pendingEvent := a.pendingEvent.map s.endPosition }
  | .eventClose, s => s.closeEvent
  | .arcEnable formatted dies, s => s.arcOn formatted (s.agreeing dies)
  | .arcDisable, s => s.arcStop
  | .arcFormat, s => s.setArcState 1
  | .formatDone bad dies, s =>
    let t := s.eraseStore bad (s.agreeing dies)
    let t := t.setFld F.ARC_STATUS_DIES_OK t.usableDies.length
    if t.usableDies.isEmpty then t.arcUnavailable else (t.writeCheckpoint).setArcState 0
  | .arcRecoveryDone bad reads rereads, s => s.recovered bad reads rereads
  | .checkpointTimer finds, s => (s.drainPage true true finds).writeCheckpoint
  | .pageProgramDone ok finds, s => (s.drainPage ok false finds).keepAllErased
  | .blockEraseDone b _, s => s.blockErased b
  | .nandPatrolRead _, s =>
    match s.arc.pages.find? fun p => decide (s.arc.patrolAt ≤ p.pseq) with
    | some p => s.modArc fun a => { a with patrolAt := p.pseq + 1 }
    | none => s
  | .keepSet _, s =>
    let n := bitsOf (s.reg R.ARC_KEEP) 31 0
    s.modArc fun a => { a with events := a.events.map fun x => if x.num = n then { x with keep := false } else x }
  | .caseSleep k, s => s.setFld (F.PWR_CASE_STATE k) (s.fld (F.PWR_CASE_STATE k) + 1)
  | .casePointIdle k, s => (s.setCase k { s.caseOf k with active := false, raise := none }).setPoint k (s.lowerLimit k)
  | .railConfirm k _, s =>
    match (s.caseOf k).raise with
    | some (p, _) => ((s.setCase k { s.caseOf k with raise := none }).setRail (k.val / 2)
        (max p (s.railPoint (k.val / 2)))).switchPoint k p
    | none => s
  | .avsTick r _, s => s.modPwr fun p => { p with avsShort := setBits p.avsShort r.val r.val 0 }
  | .powerEstimate tenths, s =>
    let t := s.newEstimate s.pwr.samples tenths.toNat
    let t := if t.flag F.PWR_STATUS_CAP_ACTIVE then t.countN R.PWR_C_CAP_US 10 else t
    if (List.range 16).any t.throttledCase then t.countN R.PWR_C_THROTTLE_US 10 else t
  | .powerRecalibrate vouts tenths, s =>
    (((List.range 8).zip vouts).foldl (fun t x => t.setFld (F.PWR_REGION_VOUT x.1) x.2.toNat)
      s).newEstimate (s.pwr.samples.drop 1) tenths.toNat
  | .ddrLowSwitch _, s => s.ddrFreqGo (1 - s.fld F.DDR_STATUS_SET_ACTIVE)
  | .shedStep, s =>
    State.shedEvent s (match s.pwr.step with
      | 0 => (s.setStep 1).refitAll
      | 1 => match s.hottestAbove with
        | some c => ((s.setStep 2).setCapCut c (s.capCut c + 1)).refit c
        | none => s.setStep 2
      | 2 => match s.hottestAbove with
        | some c => (s.setCapCut c (s.capCut c + 1)).refit c
        | none => s.setStep 3
      | n => s.setStep (n + 1))
  | .shedWithdraw, s =>
    match s.pwr.step with
    | 0 => s
    | 1 => (s.setStep 0).refitAll
    | 2 => match s.coolestCut with
      | some c => (s.setCapCut c (s.capCut c - 1)).refit c
      | none => s.setStep 1
    | n => s.setStep (n - 1)
  | .sensorSample i temp _, s =>
    let k := i.val
    let t := s.modPwr fun p => { p with
      temp0 := tput (fun _ => 0) p.temp0 k (tget (fun _ => 0) p.temp k), temp := tput (fun _ => 0) p.temp k temp.toInt }
    let shown := wrap 8 (t.sensor k)
    let t := if k < 16 then t.setFld (F.PWR_CASE_TEMP k) shown else t.setFld (F.PWR_REGION_TEMP (k - 16)) shown
    let hot := bitOf t.pwr.throttleOn k
    let t := t.modPwr fun p => { p with
      throttleOn := hysteresis p.throttleOn k (t.sensor k) t.throttleAt
      shedOn := hysteresis p.shedOn k (t.sensor k) 112 }
    let t := if bitOf t.pwr.throttleOn k && !hot then t.raiseG 46 0 else t
    ((List.range 16).foldl (fun u c => if u.caseHot c then u else u.setHeatCut c 0)
      (State.shedEvent s t.showHottest)).refitAll
  | .capWrite v, s => (s.setFlag F.PWR_CAP_CAP_EN (bitOf v 31)).setFld F.PWR_CAP_CAP (min (bitsOf v 15 0) s.maxPower)
  | .crystalLoss, s => (s.modPwr fun p => { p with oscillator := true }).fault 0x611 0x60 0 false
  | .pllLockLoss serves, s =>
    match serves with
    | .region r => s.faultAt (0x580 + r.val) 0x61 4 0 false
    | .chip => s.faultAt 0x611 0x61 5 0 false
  | .dualRailError src k, s => s.faultAt src.toNat k.toNat (baseLevel k.toNat) 0 false
  | .wireFault src, s => s.fault src.toNat 0x01 0 false
  | .codedMessage src k x, s => s.fault src.toNat k.toNat x.toNat true
  | .fenceComplete src, s =>
    match s.flt.fencing.find? fun x => x.1 == src.toNat with
    | some (src, level) => s.fenceDone src level
    | none => s
  | .recheckDone, s =>
    let t := ({ s with flt := { s.flt with recheck := false } } : State).setFlag F.FLT_RECHECK_BUSY false
    match s.activeTag with
    | none => t
    | some a =>
      let bad := (s.admission a ⟨0, (s.image a).info⟩ true).failing
      (t.setReg R.FLT_RECHECK (w64 (2 ^ 31 + a * 2 ^ 28 + bad.headD 0 * 2 ^ 16 + bad.length))).raiseG 47 5
  | .faultAck k, s => s.ackRecord k
  | .faultAckAll, s => (List.range 256).foldl State.ackRecord s
  | .faultClear k, s => s.markRecord k 61
  | .faultClearAll, s => (List.range 256).foldl State.clearRecord s
  | .unfence src, s =>
    (({ s with flt := { s.flt with unfencing := some src.toNat } } : State).setFlag
      F.FLT_UNFENCE_STATUS_BUSY true).setFld F.FLT_UNFENCE_STATUS_RESULT 0
  | .bistDone _, s =>
    match s.flt.unfencing with
    | none => s
    | some src =>
      let t := ({ s with flt := { s.flt with unfencing := none } } : State).setFlag F.FLT_UNFENCE_STATUS_BUSY false
      let t : State := { t with flt := { t.flt with
        fenced := t.flt.fenced.filter (· != src), fenceLevel := tput (fun _ => 0) t.flt.fenceLevel src 0 } }
      let t := if 0x80 ≤ src ∧ src < 0x100 then t.laneReturns (src - 0x80)
        else if 0x550 ≤ src ∧ src < 0x570 then
          (List.range 4).foldl (fun (u : State) i => u.laneReturns (4 * (src - 0x550) + i)) t
        else t
      ((((t.setFld F.FLT_UNFENCE_STATUS_RESULT 1).refitAll).count R.FLT_C_UNFENCES).raiseG 47 6).wantRecheck
  | .faultInject level src, s => s.faultAt src.toNat 0x02 level.toNat 0 false
  | .powerOn, s =>
    { s.clearWatch.cleared with boot := { s.clearWatch.cleared.boot with resetLow := true, railFault := false } }
  | .resetNAssert, s => { s.cleared with boot := { s.cleared.boot with resetLow := true } }
  | .resetNRelease facts, s => ({ s with boot := { s.boot with resetLow := false } } : State).releaseStart facts
  | .restartCold _ facts, s => s.coldStart facts
  | .restartWarm _ facts, s => s.warmStart facts
  | .clrFails _, s => s.setFld F.BOOT_STATUS_WARM_FAILS 0
  | .startWatchdog, s =>
    match s.boot.facts with
    | none => s
    | some facts =>
      let f : StartFail := ⟨0x0B, 0, s.fld F.BOOT_STATUS_STEP⟩
      if s.boot.mode = .warm then s.warmFailed facts f
      else
        let r := s.coldCount f
        if r.1 then r.2.coldStart facts else { r.2 with boot := { r.2.boot with facts := none } }
  | .watchRailLoss, s => s.clearWatch
  | .railUndervolt, s => { s.cleared with boot := { s.cleared.boot with railFault := true } }
  | .railRestoreRelease facts, s => ({ s with boot := { s.boot with railFault := false } } : State).releaseStart facts
  | .qspiRead len, s =>
    (s.setFld F.BOOT_QSPI_CTRL_RESULT 0).modBoot fun b =>
      { b with qspiOp := some (0, len.toNat, s.fld F.BOOT_QSPI_ADDR_ADDR) }
  | .qspiProgram len, s =>
    (s.setFld F.BOOT_QSPI_CTRL_RESULT 0).modBoot fun b =>
      { b with qspiOp := some (1, len.toNat, s.fld F.BOOT_QSPI_ADDR_ADDR) }
  | .qspiErase, s =>
    (s.setFld F.BOOT_QSPI_CTRL_RESULT 0).modBoot fun b =>
      { b with qspiOp := some (2, 0, s.fld F.BOOT_QSPI_ADDR_ADDR) }
  | .qspiDone error, s =>
    match s.boot.qspiOp with
    | none => s
    | some (op, len, x) =>
      let t := (s.qspiEffect op len x error).modBoot fun b => { b with qspiOp := none }
      (t.setFld F.BOOT_QSPI_CTRL_RESULT 1).raiseG 47 21
  | .keyProgram k _, s => (s.setFld F.SEC_KEY_CTRL_RESULT 0).modBoot fun b => { b with keyOp := some (1, k.val) }
  | .keyRevoke k _, s => (s.setFld F.SEC_KEY_CTRL_RESULT 0).modBoot fun b => { b with keyOp := some (2, k.val) }
  | .keyOpDone _, s =>
    match s.boot.keyOp with
    | none => s
    | some (op, k) =>
      let t := s.modBoot fun b => { b with keyOp := none }
      let t := t.setKeySlot k (if op = 1 then
          { t.keySlot k with programmed := true, hash := beNat (s.windowBytes (R.SEC_KEY_DATA 0) 8) }
        else { t.keySlot k with revoked := true })
      (t.setFld F.SEC_KEY_CTRL_RESULT 1).raiseG 47 22
  | .attestGo, s =>
    (s.measure.2.modBoot fun b => { b with attest := some s.measure.1 }).setFlag F.SEC_ATTEST_CTRL_VALID false
  | .attestDone, s =>
    match s.boot.attest with
    | none => s
    | some bs =>
      let r := s.freeBytes 32
      let signature := pssSign s.boot.otp.idModulus s.boot.otp.idExponent bs r.1
      (((r.2.modBoot fun b => { b with attest := none }).putWindow (R.SEC_ATTEST_REPORT 0) (bs ++ signature)).setFlag
        F.SEC_ATTEST_CTRL_VALID true).raiseG 47 23
  | .formeHashDone, s =>
    match s.activeTag with
    | none => s
    | some t =>
      (s.modBoot fun b => { b with formeHash := some (s.formeDigest t), formeHashBusy := false }).raiseG 47 24
  | .evtLatchClear g mask now, s => (s.clearLatch g ((mask &&& ~~~ now).setWidth 64)).raiseMask g (now.setWidth 64)
  | .evtSet g mask, s => s.raiseMask g (mask.setWidth 64)
  | .evtEnableWrite g v, s => s.putEnable g (v.setWidth 64)
  | .evtTargetWrite n v, s => s.putTarget n (v.setWidth 64)
  | .evtVecAck v, s => if s.vecLevel v then s.signalVec v else s
  | .registerWrite off wide data, s => s.barWrite off.toNat wide data State.writeReg
  | .frameBytesArrive p bytes, s => s.takeBytes p bytes
  | .hiBerChange p on, s =>
    let t := s.setFlag (F.PRT_STATUS_HI_BER p) on
    if on && !s.flag (F.PRT_STATUS_HI_BER p) then t.raisePort p 1 else t
  | .fecCodeword p corrected, s =>
    if corrected then s.count (R.PRT_C_FEC_CORRECTED p)
    else
      let t := s.count (R.PRT_C_FEC_UNCORRECTED p)
      (t.setPort p { t.port p with fecBadAt := some t.time.cycles }).raisePort p 1
  | .pcieLinkUp speed width, s =>
    let t := ((s.setFld F.HST_STATUS_SPEED speed.val).setFld F.HST_STATUS_WIDTH width.val).modHost fun h =>
      { h with linkUp := true }
    (if s.fld F.HST_STATUS_SPEED ≠ speed.val ∨ s.fld F.HST_STATUS_WIDTH ≠ width.val then t.raiseG 43 10 else t).flushPba
  | .correctableError bit, s =>
    ((s.modHost fun h => { h with aer := { h.aer with
      correctable := h.aer.correctable ||| BitVec.ofNat 32 (2 ^ bit.toNat) } }).count R.HST_C_CORR_ERRS).raiseG 43 9
  | .caseBacklog k, s => s.raiseCase k 3
  | .watchlistEngineSleep e, s =>
    { s with pwr := { s.pwr with enginesAsleep := s.pwr.enginesAsleep ||| BitVec.ofNat 42 (2 ^ e.val) } }
  | .throttleStep k, s =>
    let goal := s.casePoint k - 1
    ((s.setHeatCut k (s.upperLimit k - s.capCut k - goal)).setPoint k goal).raiseRegion (k.val / 2) 4

end Sys2Proof.Machine
end

