-- ==== Sys2Proof/Certificates/Slice0/Obligations.lean ====
section
/-! DEFINITION. The statements for the provers, in the order of `OBLIGATIONS.json`. -/

open Sys2Proof Sys2Proof.Machine

/-- A step takes the command at the front of the queue and runs it on the block with the queue's rest. -/
def Obligations.StepRunsFrontCommand : Prop :=
  ∀ (c : Instr) (rest : List Instr) (s : State), s.pending = c :: rest →
    step s = exec c { s with pending := rest }

/-- Every command has an effect in every state: none ends in a fault or a refusal. -/
def Obligations.EveryCommandAnswers : Prop :=
  ∀ (c : Instr) (s : State), ∃ t, exec c s = .next t

/-- A command's own effect leaves the queue of waiting commands alone (the queue is the model's). -/
def Obligations.CommandsLeaveTheQueue : Prop :=
  ∀ (c : Instr) (s t : State), exec c s = .next t → t.pending = s.pending

/-- The invariant of `Safety.lean` holds right after reset (some reset values in it are the model's: log entry 3). -/
def Obligations.ResetHasInvariant : Prop :=
  Inv State.reset

/-- Every step keeps the invariant: the time base stays below its wrap (R260), the register file, the Galley's state
RAM, DDR and the flash stay in canonical form, a key PROGRAM that runs names an unprogrammed slot, and the OTP holds
four slots (R437). -/
def Obligations.EveryStepKeepsInvariant : Prop :=
  ∀ (s t : State), Inv s → step s = .next t → Inv t

/-- R437: no step clears PROGRAMMED or REVOKED of an OTP key slot, or changes the hash of a programmed one. -/
def Obligations.KeySlotsOnlyMoveForward : Prop :=
  ∀ (s t : State), Inv s → step s = .next t → KeysForward s t

/-- R260: with no command waiting a cycle of the time base passes, and adds 8 × (2^40 + FREQ) units of 1/(5 × 2^40) ns,
which is 1.6 ns × (1 + FREQ × 2^-40), modulo the 48-bit seconds; held in reset or stopped, nothing passes. That a cycle
passes when no command waits is the model's choice (log entry 1). -/
def Obligations.IdleCycleAdvancesTimeBase : Prop :=
  ∀ (s : State), s.pending = [] →
    (s.clocked = true → s.time.slew = none → ∃ t, step s = .next t ∧
      t.time.now = (((s.time.now : Int) + 8 * (2 ^ 40 + signed 32 (s.fld F.TIM_FREQ_FREQ))) % (tbWrap : Int)).toNat ∧
      t.time.cycles = s.time.cycles + 1) ∧
    (s.clocked = false → step s = .next s)

/-- R463: at reset every source of group g names vector g with IRQ 0 and ENABLE 0, but FAULT and SAFE_HOLD, which reset
enabled and routed to IRQ_N. -/
def Obligations.ResetRoutesEvents : Prop :=
  (∀ n < 1536, State.reset.evtVector n = n / 32 ∧ State.reset.evtVector n < 48 ∧
    bitOf (State.reset.reg (R.EVT_TARGET n)) 31 = (n == 1504 || n == 1523)) ∧
  (∀ g < 48, ∀ b < 32, bitOf (State.reset.reg (R.EVT_ENABLE g)) b = (32 * g + b == 1504 || 32 * g + b == 1523))

/-- R461: IRQ_N is driven low exactly while some asserting source has IRQ = 1 in its target. -/
def Obligations.IrqPinFollowsSources : Prop :=
  ∀ (s : State), s.irqLow = true ↔ ∃ g < 48, ∃ b < 32, bitOf (s.reg (R.EVT_LATCH g)) b = true ∧
    bitOf (s.reg (R.EVT_ENABLE g)) b = true ∧ bitOf (s.reg (R.EVT_TARGET (32 * g + b))) 31 = true

/-- R305, R455, R460, R462, R464: a LATCH write clears the bits written 1, but for those set in the same cycle; EVT_SET
latches the sources in use; an ENABLE or target write takes the value; a VEC_ACK sends the vector's message again while
the level stands; a register write reaches the register, and a malformed one is recorded. -/
def Obligations.EventsAndRegisters : Prop :=
  ∀ (s : State),
    (∀ g : Fin 48, s.barOpen (R.EVT_LATCH g) = true →
      (∀ m : W32, exec (.evtLatchClear g m 0) s =
        .next (s.setReg (R.EVT_LATCH g) (s.reg (R.EVT_LATCH g) &&& ~~~ (m.setWidth 64)))) ∧
      (∀ m now : W32, Inv s → ∃ t, exec (.evtLatchClear g m now) s = .next t ∧
        ∀ b < 32, bitOf (t.reg (R.EVT_LATCH g)) b =
          if bitOf now b && bitOf (evtBits g) b then true
          else if bitOf m b && !bitOf now b then false else bitOf (s.reg (R.EVT_LATCH g)) b)) ∧
    (∀ g : Fin 48, s.barOpen (R.EVT_SET g) = true → ∀ m : W32, Inv s → ∃ t, exec (.evtSet g m) s = .next t ∧
      ∀ b < 32, bitOf (t.reg (R.EVT_LATCH g)) b = (bitOf (s.reg (R.EVT_LATCH g)) b || (bitOf m b && bitOf (evtBits g) b))) ∧
    (∀ g : Fin 48, s.barOpen (R.EVT_ENABLE g) = true → ∀ v : W32, Inv s → ∃ t, exec (.evtEnableWrite g v) s = .next t ∧
      t.reg (R.EVT_ENABLE g) = v.setWidth 64 &&& evtBits g ∧ (∀ h : Fin 48, t.reg (R.EVT_LATCH h) = s.reg (R.EVT_LATCH h))) ∧
    (∀ n : Fin 1536, s.barOpen (R.EVT_TARGET n) = true → ∀ v : W32, Inv s → ∃ t, exec (.evtTargetWrite n v) s = .next t ∧
      bitsOf (t.reg (R.EVT_TARGET n)) 5 0 = bitsOf v 5 0 ∧ bitOf (t.reg (R.EVT_TARGET n)) 31 = bitOf v 31) ∧
    (∀ v : Fin 64, s.barOpen R.EVT_VEC_ACK = true →
      (s.vecLevel v = true → exec (.evtVecAck v) s = .next (s.signalVec v)) ∧
      (s.vecLevel v = false → exec (.evtVecAck v) s = .next s)) ∧
    (∀ off : BitVec 26, s.barOpen off.toNat = true → s.fld F.CMD_ROLE_HOST_ROLE = 2 →
      (∀ wide d, regParts off.toNat wide d = none → exec (.registerWrite off wide d) s = .next (s.barErr false off.toNat)) ∧
      (∀ wide d a v, regParts off.toNat wide d = some [(a, v)] →
        exec (.registerWrite off wide d) s = .next (s.writeReg a v))) ∧
    (∀ off : BitVec 26, s.barOpen off.toNat = false → ∀ wide d, exec (.registerWrite off wide d) s = .next s) ∧
    (∀ off : BitVec 26, s.barOpen off.toNat = true → roleExempt off.toNat = false → s.fld F.CMD_ROLE_HOST_ROLE ≠ 2 →
      ∀ wide d, exec (.registerWrite off wide d) s = .next ((s.count R.CMD_C_ROLE_DROP_HOST).raiseG 41 3))

/-- R27 to R29: a lock loss or fault starts the down debounce of an up link, a gain of lock starts the up debounce of a
down link, the down debounce ends in link-down, the up debounce in link-up, and the hold time in the flush of the
queues. -/
def Obligations.LinkDebounces : Prop :=
  ∀ (p : Port) (s : State), Inv s →
    (∀ lock lf rf, exec (.pcsLockLoss p lock lf rf) s =
      let t := ((s.setFlag (F.PRT_STATUS_PCS_LOCK p) lock).setFlag (F.PRT_STATUS_LOCAL_FAULT p) lf).setFlag
        (F.PRT_STATUS_REMOTE_FAULT p) rf
      let t := if lock then t else t.lostSignal p
      if lock = true ∧ lf = false ∧ rf = false then .next t
      else .next (t.setPort p { t.port p with downDeb := t.flag (F.PRT_STATUS_LINK_UP p), upDeb := false })) ∧
    (s.fld (F.PRT_STATUS_ACTIVE_MODE p) ≠ 0 → ∃ t, exec (.pcsLockGain p) s = .next t ∧
      t.flag (F.PRT_STATUS_PCS_LOCK p) = true ∧ t.flag (F.PRT_STATUS_SIGNAL p) = true ∧
      t.flag (F.PRT_STATUS_LOCAL_FAULT p) = false ∧ t.flag (F.PRT_STATUS_REMOTE_FAULT p) = false ∧
      t.flag (F.PRT_STATUS_TRAINING p) = false ∧ (∀ o, o ≠ R.PRT_STATUS p → t.reg o = s.reg o) ∧
      t = { s.setPort p { s.port p with downDeb := false, upDeb := !s.flag (F.PRT_STATUS_LINK_UP p) } with
        regs := t.regs }) ∧
    ((s.port p).upDeb = true → s.laneFenced p = false → s.flag (F.PRT_STATUS_PCS_LOCK p) = true →
      exec (.linkUp p) s = .next (((((s.setFlag (F.PRT_STATUS_LINK_UP p) true).setFlag (F.PRT_STATUS_HOLDING p) false).setFlag
        (F.PRT_STATUS_AN_DONE p) (s.flag (F.PRT_MODE_AN_EN p) &&
          (s.fld (F.PRT_STATUS_ACTIVE_MODE p) == 1 || s.fld (F.PRT_STATUS_ACTIVE_MODE p) == 2))).setPort p
        { s.port p with upDeb := false }).raisePort p 0)) ∧
    ((s.port p).downDeb = true → s.flag (F.PRT_STATUS_LINK_UP p) = true →
      exec (.linkDown p) s = .next (s.linkDownNow p)) ∧
    (s.flag (F.PRT_STATUS_HOLDING p) = true →
      exec (.holdTimeExpiry p) s = .next ((s.setFlag (F.PRT_STATUS_HOLDING p) false).flushHeld p))

/-- R17 to R21, R31, R24, R36: an accepted PRT_MODE write stores MODE and FEC and begins the mode change, a refused one
records its code and raises MODE_REFUSED; the mode comes into force with training; HI_BER and FEC codewords count and
latch SIGNAL. R25, R26: while VERIFYING on an up link each timer sends a verify mPacket, three at most, and the fourth
ends in FAILED; a response makes the port ACTIVE. R31: every lane of the region that has a mode and is not fenced leaves
training start with its mode active; no other lane's status changes, nor any register but PRT_STATUS of the region's
lanes. -/
def Obligations.LanesTrainAndMerge : Prop :=
  (
  ∀ (p : Port) (s : State),
    (∀ v, s.barOpen (R.PRT_MODE p) = true → s.fld F.CMD_ROLE_HOST_ROLE = 2 →
      (s.modeRefusal p v ≠ 0 → exec (.prtModeWrite p v) s =
        .next ((s.setFld (F.PRT_STATUS_REFUSE_CODE p) (s.modeRefusal p v)).raisePort p 2)) ∧
      (s.modeRefusal p v = 0 → bitsOf v 2 0 = s.fld (F.PRT_MODE_MODE p) → bitsOf v 5 4 = s.fld (F.PRT_MODE_FEC p) →
        exec (.prtModeWrite p v) s =
          .next ((s.plainWrite (R.PRT_MODE p) (v.setWidth 64)).setFld (F.PRT_STATUS_REFUSE_CODE p) 0)) ∧
      (s.modeRefusal p v = 0 → (bitsOf v 2 0 ≠ s.fld (F.PRT_MODE_MODE p) ∨ bitsOf v 5 4 ≠ s.fld (F.PRT_MODE_FEC p)) →
        let m := bitsOf v 2 0
        let t := ((s.plainWrite (R.PRT_MODE p) (v.setWidth 64)).setFld (F.PRT_STATUS_REFUSE_CODE p) 0).forceDown p
        let t := if p.val % 4 = 0 then
            [1, 2, 3].foldl (fun u k => u.setFlag (F.PRT_STATUS_FUSED_SUB (p + k)) (m == 6)) t
          else t
        let t := ((t.setFlag (F.PRT_STATUS_PCS_LOCK p) false).setFlag (F.PRT_STATUS_TRAINING p) false).setSignal p false
        let t := t.setPort p { t.port p with modePending := true, downDeb := false, upDeb := false }
        exec (.prtModeWrite p v) s =
          .next (if m = 0 then (t.setFlag (F.PRT_STATUS_HOLDING p) false).flushHeld p else t))) ∧
    ((s.port p).modePending = true → exec (.laneModeInForce p) s =
      .next (((s.setFld (F.PRT_STATUS_ACTIVE_MODE p) (s.fld (F.PRT_MODE_MODE p))).setFlag (F.PRT_STATUS_TRAINING p)
        (s.fld (F.PRT_MODE_MODE p) != 0)).setPort p { s.port p with modePending := false })) ∧
    (s.flag (F.PRT_STATUS_HI_BER p) = false → exec (.hiBerChange p true) s =
      .next ((s.setFlag (F.PRT_STATUS_HI_BER p) true).raisePort p 1)) ∧
    exec (.hiBerChange p false) s = .next (s.setFlag (F.PRT_STATUS_HI_BER p) false) ∧
    exec (.fecCodeword p true) s = .next (s.count (R.PRT_C_FEC_CORRECTED p)) ∧
    exec (.fecCodeword p false) s = .next (((s.count (R.PRT_C_FEC_UNCORRECTED p)).setPort p
      { s.port p with fecBadAt := some s.time.cycles }).raisePort p 1)) ∧
  (
  ∀ (p : Port) (s : State), s.fld (F.PRT_MERGE_STATUS_VERIFY_STATE p) = 1 →
    (s.flag (F.PRT_STATUS_LINK_UP p) = true → (s.port p).verifyTries < 3 → exec (.mergeVerifyTimer p) s =
      .next ((s.setPort p { s.port p with verifyTries := (s.port p).verifyTries + 1 }).emit (.verifyPacket p))) ∧
    (s.flag (F.PRT_STATUS_LINK_UP p) = true → 3 ≤ (s.port p).verifyTries → exec (.mergeVerifyTimer p) s =
      .next ((s.setFld (F.PRT_MERGE_STATUS_VERIFY_STATE p) 3).raisePort p 3)) ∧
    exec (.mergeRespond p) s = .next (s.setFld (F.PRT_MERGE_STATUS_VERIFY_STATE p) 2)) ∧
  (
  ∀ (r : Region) (s : State), Inv s → ∃ t, exec (.regionTrainingStart r) s = .next t ∧
    (∀ o, (∀ k, k < 16 → o ≠ R.PRT_STATUS (16 * r + k)) → t.reg o = s.reg o) ∧
    (∀ k, k < 16 → s.fld (F.PRT_MODE_MODE (16 * r + k)) ≠ 0 → s.laneFenced (16 * r + k) = false →
      t.fld (F.PRT_STATUS_ACTIVE_MODE (16 * r + k)) = s.fld (F.PRT_MODE_MODE (16 * r + k)) ∧
      t.flag (F.PRT_STATUS_TRAINING (16 * r + k)) = !s.flag (F.PRT_STATUS_PCS_LOCK (16 * r + k))) ∧
    t = { s with regs := t.regs, ports := t.ports })

/-- R12, R15, R23, R24, R35, R262: a start of frame on an up port with reception on opens a frame record at the tail of
ingress staging, tagged with the port's forme, and is dropped at once where staging is full; arriving bytes join the
frame being received; the end of a frame counts its fragments, drops and counts a runt, an oversize, a damaged and a
stomped frame, and marks a good one complete, which ends a compositor's stall and goes to reception. R267, R212: an
answered peer-delay request builds a response for its queue and counts it when a queue takes it; with no request
waiting nothing happens. -/
def Obligations.FramesArrive : Prop :=
  (
  ∀ (p : Port) (s : State),
    (s.loop p = 1 → exec (.frameStart p) s = .next s) ∧
    (s.loop p ≠ 1 → s.flag (F.PRT_STATUS_LINK_UP p) = true → s.flag (F.PRT_MAC_CFG_RX_EN p) = true →
      (s.port p).rx = none →
      let tag := (s.port p).tag.getD 2
      let adm := decide (tag < 2) && s.admittedPort tag p
      let cls := if tag < 2 then s.fld (F.FRM_PORT_DECL_DEF_CLASS tag p) else 0
      let t := (({ s with nextFrame := s.nextFrame + 1 } : State).setFrame s.nextFrame
        (Frame.start (.port p) tag (s.fld (F.PRT_ROLE_ROLE p)) adm (s.rxStamp p) (16 * cls))).setPort p
          { s.port p with rx := some s.nextFrame, staging := (s.port p).staging ++ [s.nextFrame] }
      let u := if adm then t.wakeForAdmitted p else t
      (s.stagingBytes p < 20480 → exec (.frameStart p) s = .next u) ∧
      (20480 ≤ s.stagingBytes p → exec (.frameStart p) s = .next (u.stagingDrop p s.nextFrame))) ∧
    (∀ bytes, (s.port p).rx = none → exec (.frameBytesArrive p bytes) s = .next s) ∧
    (∀ i f bytes, (s.port p).rx = some i → s.frame i = some f →
      let t := ((s.setFrame i { f with bytes := f.bytes ++ bytes }).endStall i).watermarksOf i
      (f.stage ≠ .staged ∨ t.stagingBytes p ≤ 20480 → exec (.frameBytesArrive p bytes) s = .next t) ∧
      (f.stage = .staged → 20480 < t.stagingBytes p → exec (.frameBytesArrive p bytes) s =
        .next (t.stagingDrop p i))) ∧
    (∀ n m bad,
      let t := (s.countN (R.PRT_C_MERGE_RX_FRAGMENTS p) n).countN (R.PRT_C_MERGE_RX_SMD_ERR p) m
      let t := if bad then t.count (R.PRT_C_MERGE_RX_ASSEMBLY_ERR p) else t
      ((s.port p).rx = none → exec (.frameEnd p n m bad) s = .next t) ∧
      (∀ i f, (s.port p).rx = some i → s.frame i = some f →
        let t := (t.setPort p { s.port p with rx := none }).farEnd p f.bytes
        let len := f.bytes.length
        (bad = true → exec (.frameEnd p n m bad) s = .next (t.macDrop i)) ∧
        (bad = false → len < 64 → exec (.frameEnd p n m bad) s = .next ((t.count (R.PRT_C_RX_RUNT p)).macDrop i)) ∧
        (bad = false → 64 ≤ len → t.maxFrame p < len →
          exec (.frameEnd p n m bad) s = .next ((t.count (R.PRT_C_RX_OVERSIZE p)).macDrop i)) ∧
        (bad = false → 64 ≤ len → len ≤ t.maxFrame p →
          (fcsCheck f.bytes = .bad →
            exec (.frameEnd p n m bad) s = .next ((t.count (R.PRT_C_RX_FCS_ERR p)).macDrop i)) ∧
          (fcsCheck f.bytes = .stomped →
            exec (.frameEnd p n m bad) s = .next ((t.count (R.PRT_C_RX_STOMPED p)).macDrop i)) ∧
          (fcsCheck f.bytes = .good →
            let t := (t.count (R.PRT_C_RX_FRAMES_OK p)).countN (R.PRT_C_RX_BYTES_OK p) len
            let u := (t.setFrame i { f with complete := true }).endStall i
            (f.stage = .staged → exec (.frameEnd p n m bad) s = .next (u.received p i { f with complete := true })) ∧
            (f.stage ≠ .staged → f.stage ≠ .dropped → exec (.frameEnd p n m bad) s = .next u)))))) ∧
  (
  ∀ (p : Port) (s : State),
    ((s.port p).pdelayReq = none → exec (.pdelayResponse p) s = .next s) ∧
    (∀ req rx, (s.port p).pdelayReq = some (req, rx) →
      let one := s.flag F.TIM_PDELAY_CFG_ONE_STEP
      let body := s.ptpReply p req 3 (!one) (if one then beAt req 22 8 else 0) (if one then none else some rx)
      let f := { Frame.start (.pdelay p false (beAt req 22 8) rx) s.builtTag 0 false s.stamp 0 with
        bytes := body ++ fcsOf body }
      let r := (s.setPort p { s.port p with pdelayReq := none }).sendBuilt p (s.fld F.TIM_PDELAY_CFG_QOFF) f
        fun u => (u.count R.TIM_C_PDELAY_DROP).raiseG 42 6
      exec (.pdelayResponse p) s = .next (match r.1 with
        | some k => (r.2.setPort p { r.2.port p with pdelay := some k }).count R.TIM_C_PDELAY_ANSWERED
        | none => r.2)))

/-- R13 to R16, R125, R383: a dispatched frame leaves staging, joins its port's reorder buffer and starts on the chosen
compositor at its port's entry point. R99, R126, R127: an empty path offers nothing; a waiting head whose cells fail
their read is dropped; one that a compositor takes starts its next pass at the entry point that SECOND named, and a
case with every unfenced compositor busy raises CASE_BACKLOG. -/
def Obligations.FramesReachCompositors : Prop :=
  (
  ∀ (p : Port) (s : State) (i : Nat) (f : Frame),
    (s.offered p = none → exec (.dispatch p) s = .next s) ∧
    (s.offered p = some (i, f) →
      let r := p.val / 16
      let u := s.wakesEnd (eligible r)
      (u.choose r f.admPort (u.defClass f) = .drop → exec (.dispatch p) s = .next ((u.shedDrop r f).loseFrame i)) ∧
      (u.choose r f.admPort (u.defClass f) = .wait → exec (.dispatch p) s =
        .next (if f.admPort then u.wakeForAdmitted p else u.wakeForWaiting r)) ∧
      (∀ k, u.choose r f.admPort (u.defClass f) = .comp k → u.accepts (k / 8) r f.admPort = true →
        exec (.dispatch p) s =
          let t := u.setPort p { u.port p with
            staging := (u.port p).staging.filter (· != i), reorder := (u.port p).reorder ++ [i] }
          let t := if (u.port p).reorder.length = 63 then t.raiseRegion r 0 else t
          .next (((t.offerCase (k / 8)).rotate (k / 8) r).startPass i k (u.fld (F.FRM_PORT_DECL_PROFILE f.tag p)) f)))) ∧
  (
  ∀ (r : Region) (s : State) (ecc : EccRead),
    (s.path r = [] → exec (.recircOffer r ecc) s = .next s) ∧
    (∀ i rest f, s.path r = i :: rest → s.frame i = some f →
      ((s.readFrame f.cells ecc).1 = true → exec (.recircOffer r ecc) s =
        .next ((((s.readFrame f.cells ecc).2.setPath r rest).recircDropped r).pathDrop r i)) ∧
      (∀ k e, (s.readFrame f.cells ecc).1 = false → f.act.dlv = some (.second e) →
        let u := (s.readFrame f.cells ecc).2.wakesEnd (eligible r)
        u.choose r f.admPort (u.defClass f) = .comp k → u.accepts (k / 8) r f.admPort = true →
        let g := (u.freePassCell f).1
        let t := (((u.freePassCell f).2.setPath r rest).offerCase (k / 8)).rotate (k / 8) r
        let t := t.setPort f.inPort { t.port f.inPort with again := (t.port f.inPort).again ++ [i] }
        exec (.recircOffer r ecc) s =
          .next ((t.startPass i k e { g with pass := f.pass + 1, refcnt := f.refcnt - 1 }).serveAll))) ∧
    (∀ c : Case, let ks := ((List.range 8).map fun i => 8 * c.val + i).filter fun k => !s.compFenced k
      ks ≠ [] → (∀ k ∈ ks, (s.comp k).frame.isSome = true) → exec (.caseBacklog c) s = .next (s.raiseCase c 3)))

/-- R42, R48: a free request from a requester that OWNER permits returns an allocated cell of a bank in service to the
pool, at the tail of its bank's sublist; the free of a FENCED cell keeps it fenced with no owner; in a fenced bank the
cell becomes FENCED. R48, R49: a free of a FREE cell, of a cell that OWNER does not permit, or of no cell at all is
rejected, recorded with its KIND and raised; the pool, its counts and every cell stay as they are. R65: a free that
lets a waiting queue fall below its limit serves it; the details are stated with no residue entry in use. -/
def Obligations.CellFrees : Prop :=
  (
  ∀ (s : State) (req : BitVec 6) (x : BitVec 40),
    exec (.cellFree req false x) s = .next (s.freeCell req.toNat x.toNat).serveAll ∧
    exec (.cellFree req true x) s = .next (s.freeAddr req.toNat x.toNat).serveAll ∧
    (Inv s → x.toNat < 393216 → s.gal.residue = [] → freePermitted (s.cellOwner x.toNat) req.toNat = true →
    (s.cellState x.toNat = 2 → exec (.cellFree req false x) s = .next (s.setCellRam x.toNat (cellByte 2 0x3F))) ∧
    (s.cellState x.toNat = 1 → s.bankFenced (x.toNat % 32) = false → bitOf s.gal.sweeping (x.toNat % 32) = false →
      ∃ t, exec (.cellFree req false x) s = .next t ∧ t.cellState x.toNat = 0 ∧ t.gal.free = s.gal.free + 1 ∧
        t.gal.lists = (s.setBankList (x.toNat % 32) (runAppend (s.bankList (x.toNat % 32)) (x.toNat / 32))).gal.lists ∧
        (∀ i, i ≠ x.toNat → t.cellRam i = s.cellRam i) ∧
        t = { s with gal := t.gal } ∧ t.gal.resvUsed = s.gal.resvUsed ∧ t.gal.link = s.gal.link ∧
        t.gal.fencedCells = s.gal.fencedCells) ∧
    (s.cellState x.toNat = 1 → s.bankFenced (x.toNat % 32) = true → ∃ t, exec (.cellFree req false x) s = .next t ∧
      t.gal.fencedCells = s.gal.fencedCells + 1 ∧ t.gal.free = s.gal.free ∧ t.gal.lists = s.gal.lists ∧
      t.cellState x.toNat = 2 ∧ t.cellOwner x.toNat = 0x3F))) ∧
  (
  ∀ (s : State) (req : BitVec 6) (byAddress : Bool) (x : BitVec 40),
    let i := if byAddress then (x.toNat - 0x80000000) / 256 else x.toNat
    let named := if byAddress then decide (0x80000000 ≤ x.toNat) && (x.toNat - 0x80000000) % 256 == 0 else true
    let kind := if i < 393216 ∧ named = true then (if s.cellState i = 0 then 1 else 2) else 3
    s.gal.residue = [] →
    (i < 393216 → named = true → s.cellState i = 0 ∨ freePermitted (s.cellOwner i) req.toNat = false) →
    ∃ t, exec (.cellFree req byAddress x) s = .next t ∧ t = { s with regs := t.regs, out := t.out } ∧
      (∀ o, o ≠ R.GAL_FREE_ERR → o ≠ R.GAL_FREE_ERR_ADDR → o ≠ R.MSIX_PBA → o ≠ R.EVT_LATCH 36 → t.reg o = s.reg o) ∧
      (Inv s → bitOf (t.reg (R.EVT_LATCH 36)) (kind - 1) = true ∧ bitOf (t.reg R.GAL_FREE_ERR) 31 = true ∧
        (bitOf (s.reg R.GAL_FREE_ERR) 31 = false → t.fld F.GAL_FREE_ERR_KIND = kind)))

/-- R39, R46, R47: with no request in a cycle nothing moves; a cycle with one request asks the pool once, and a granted
requester's kind, and its region within the kind, go to the end of their rotating orders. A capture request that is
granted takes the record cell. -/
def Obligations.CellArbitration : Prop :=
  ∀ (s : State),
    exec (.cellRequest []) s = .next s ∧
    (∀ req bad, s.gal.kinds.count (reqKind req).1 = 1 →
      ((reqKind req).1 = 0 → s.gal.ingressOrder.count (reqKind req).2 = 1) →
      ((reqKind req).1 = 3 → s.gal.recircOrder.count (reqKind req).2 = 1) →
      let r := s.oneRequest [] req bad
      let t := r.2.2
      exec (.cellRequest [(req, bad)]) s = .next (if r.1 then { t with gal := { t.gal with
          kinds := toLast t.gal.kinds (reqKind req).1
          ingressOrder := if (reqKind req).1 = 0 then toLast t.gal.ingressOrder (reqKind req).2 else t.gal.ingressOrder
          recircOrder := if (reqKind req).1 = 3 then toLast t.gal.recircOrder (reqKind req).2 else t.gal.recircOrder } }
        else t)) ∧
    (∀ bad c u ch t, s.gal.kinds.count 1 = 1 → s.arc.queue ≠ [] → s.arc.recCell = none →
      s.request 0x10 false bad [] = (.cell c, u, ch, t) → ∃ v, exec (.cellRequest [(.capture, bad)]) s = .next v ∧
        v.arc.recCell = some c ∧ v.gal.kinds = toLast t.gal.kinds 1 ∧ v.gal.cell = t.gal.cell ∧ v.regs = t.regs)

/-- R45, R47, R317: the end of a sweep links every FREE cell of the bank in rising order and takes the bank out of the
sweep; a ring whose injected frame lacks cells asks the pool again, counts a NONE, and commits the frame once it lacks
nothing. R56, R65, R117, R125: a port whose frame may commit commits it with the delivery its action set comes to; a
residue entry that times out loses its ports, is forgotten and gives up its reference. -/
def Obligations.CommitsAndRetries : Prop :=
  (
  ∀ (s : State),
    (∀ b : Fin 32, bitOf s.gal.sweeping b = true → ∃ t, exec (.sweepDone b) s = .next t ∧
      t.gal.sweeping = s.gal.sweeping &&& ~~~ BitVec.ofNat 32 (2 ^ b.val) ∧
      t.gal.lists = (s.setBankList b (((List.range 12288).filter fun r => s.cellState (32 * r + b) == 0).foldl
        runAppend [])).gal.lists ∧ t.gal.cell = s.gal.cell ∧ t.gal.free = s.gal.free ∧
      t = { s with gal := t.gal }) ∧
    (∀ (k : Ring) u ch t, ((s.injectNeeds k).1 || (s.injectNeeds k).2) = true →
      s.request 0x11 false false [] = (.none, u, ch, t) →
      exec (.dmaPoolRetry k) s = .next (t.injectGrant k .none)) ∧
    (∀ (k : Ring) c u ch t, ((s.injectNeeds k).1 || (s.injectNeeds k).2) = true →
      s.request 0x11 false false [] = (.cell c, u, ch, t) →
      exec (.dmaPoolRetry k) s = .next (State.injectCells 47 k false (t.injectGrant k (.cell c)))) ∧
    (∀ (k : Ring), ((s.injectNeeds k).1 || (s.injectNeeds k).2) = false → exec (.dmaPoolRetry k) s = .next s)) ∧
  (
  ∀ (s : State),
    (∀ (p : Port) bad i f rest, s.nextCommit p = (i, f) :: rest →
      let r := s.resolveDelivery f bad
      (s.commitReady i f r.1 r.2.1 = true →
        exec (.galleyCommit p bad) s = .next (r.2.2.commitFrame p i f r.1 r.2.1)) ∧
      (rest = [] → s.commitReady i f r.1 r.2.1 = false →
        exec (.galleyCommit p bad) s = .next (if f.stage == .ended && s.cellsReady i f && !f.complete && f.windowOk
          then s.setFrame i { f with stored := true } else s))) ∧
    (∀ (p : Port) bad, s.nextCommit p = [] → exec (.galleyCommit p bad) s = .next s) ∧
    (∀ (k : Fin 16384) e f, tget (fun _ => none) s.gal.residue k.val = some e → s.frame e.frame = some f →
      exec (.residueTimeout k) s = .next (((((({ s with gal := { s.gal with
          residue := tput (fun _ => none) s.gal.residue k.val none } } : State).countN R.GAL_C_RESIDUE_TIMEOUT_DROP
        (maskPorts e.mask).length).raiseG 36 6).setFrame e.frame { f with residue := none }).release e.frame
        (0x18 + f.inPort / 16)))) ∧
    (∀ (k : Fin 16384), tget (fun _ => none) s.gal.residue k.val = none → exec (.residueTimeout k) s = .next s))

/-- R82: the functions of ALU and ALUI on operands a and b, with the old rd as d. R80 to R83: class A writes its result
into rd, a write to g0 being discarded, and takes its cycles; MTS writes the special registers that are writable; MFS of
LEN waits for the frame's end. Nothing else of the block changes. -/
def Obligations.ArithmeticInstructions : Prop :=
  (
  ∀ d a b : W64,
    aluOp 0x00 d a b = a + b ∧ aluOp 0x01 d a b = a - b ∧ aluOp 0x02 d a b = a &&& b ∧ aluOp 0x03 d a b = a ||| b ∧
    aluOp 0x04 d a b = a ^^^ b ∧ aluOp 0x05 d a b = a &&& ~~~ b ∧ aluOp 0x06 d a b = a <<< (b.toNat % 64) ∧
    aluOp 0x07 d a b = a >>> (b.toNat % 64) ∧ aluOp 0x08 d a b = a.sshiftRight (b.toNat % 64) ∧
    aluOp 0x0A d a b = (if a = b then 1 else 0) ∧ aluOp 0x0B d a b = (if a = b then 0 else 1) ∧
    aluOp 0x0C d a b = (if a.toNat < b.toNat then 1 else 0) ∧ aluOp 0x0D d a b = (if a.toInt < b.toInt then 1 else 0) ∧
    (aluOp 0x0E d a b).toNat = min a.toNat b.toNat ∧ (aluOp 0x0F d a b).toNat = max a.toNat b.toNat ∧
    aluOp 0x10 d a b = (if a = 0 then d else b) ∧
    (aluOp 0x11 d a b).toNat = ((List.range 64).filter fun i => a.getLsbD i).length ∧
    (∀ n, n < 64 → a.getLsbD (63 - n) = true → (∀ i, 63 - n < i → i < 64 → a.getLsbD i = false) →
      (aluOp 0x12 d a b).toNat = n) ∧
    aluOp 0x12 d 0 b = 64) ∧
  (
  ∀ (s : State) (f : Fetch) (cs : CompState) (fr : Frame), Issues s f cs fr →
    ∀ (rd rs1 rs2 : GReg),
    let wrote := fun (n : Nat) (v : W64) => Host.Outcome.next (s.issued f n
      ((if rd.val = 0 then cs else { cs with g := tput (fun _ => 0) cs.g rd.val v }).advance .seq))
    let special := fun (cs' : CompState) => Host.Outcome.next (s.issued f 1 (cs'.advance .seq))
    (∀ func, exec (.alu f func rd rs1 rs2) s = wrote 1 (aluOp func (cs.greg rd) (cs.greg rs1) (cs.greg rs2))) ∧
    (∀ func (imm : BitVec 38), exec (.alui f func rd rs1 imm) s =
      wrote 1 (aluOp func (cs.greg rd) (cs.greg rs1) (imm.signExtend 64))) ∧
    (∀ imm : BitVec 32, exec (.movhi f rd rs1 imm) s = wrote 1 (imm ++ (cs.greg rs1).setWidth 32)) ∧
    exec (.mul f rd rs1 rs2) s = wrote 2 (cs.greg rs1 * cs.greg rs2) ∧
    (∀ spec : BitVec 5, (spec = 0 → fr.complete = true) →
      exec (.mfs f rd spec) s = wrote 1 (w64 (s.special f.comp.val cs fr spec.toNat))) ∧
    (fr.complete = false → exec (.mfs f rd 0) s = .next (s.stalled f 16383)) ∧
    exec (.mts f 9 rs1) s = special { cs with cur := (cs.greg rs1).toNat % 2 ^ 14 } ∧
    exec (.mts f 10 rs1) s = special { cs with ovr := (cs.greg rs1).getLsbD 0 } ∧
    exec (.mts f 11 rs1) s = special { cs with user := cs.greg rs1 } ∧
    exec (.mts f 18 rs1) s = special { cs with hash := { cs.hash with value := (cs.greg rs1).toNat % 2 ^ 32 } } ∧
    exec (.mts f 22 rs1) s = special { cs with qoff := (cs.greg rs1).toNat % 128 } ∧
    exec (.mts f 6 rs1) s = special { cs with qoff := (cs.greg rs1).toNat % 8 * 16 + cs.qoff % 16 })

/-- R85 to R87: EXT reads a big-endian field of the frame or of scratch, setting OVR outside it and stalling for a frame
byte that has not arrived; INS writes a field into scratch alone; SETC and ADVC move CUR modulo 2^14. -/
def Obligations.FieldAccess : Prop :=
  ∀ (s : State) (f : Fetch) (cs : CompState) (fr : Frame), Issues s f cs fr →
    ∀ (rd rs1 rs2 : GReg) (off imm : BitVec 14) (bit : BitVec 3) (wm1 : BitVec 6) (sx : Bool),
    let w := wm1.toNat + 1
    let n := (bit.toNat + w + 7) / 8
    let val := fun (bs : List Byte) =>
      let v := BitVec.ofNat w (beNat bs / 2 ^ (8 * n - bit.toNat - w))
      if sx then v.signExtend 64 else v.setWidth 64
    let sa := (cs.greg rs1).toInt + off.toInt
    let fa := (cs.cur : Int) + (cs.greg rs1).toInt + off.toInt
    (∀ bs ovr, fr.readBytes fa n = .ok (bs, ovr) → exec (.ext f rd rs1 false off bit wm1 sx) s =
      .next (s.issued f 1 (((if ovr then { cs with ovr := true } else cs).setG rd (val bs)).advance .seq))) ∧
    (∀ a, fr.readBytes fa n = .error a → exec (.ext f rd rs1 false off bit wm1 sx) s = .next (s.stalled f a)) ∧
    (let r := cs.readScratch sa n;
      exec (.ext f rd rs1 true off bit wm1 sx) s =
        .next (s.issued f 1 (((if r.2 then { cs with ovr := true } else cs).setG rd (val r.1)).advance .seq))) ∧
    (∃ cs' : CompState, exec (.ins f rs1 rs2 off bit wm1) s = .next (s.issued f 1 (cs'.advance .seq)) ∧
      cs' = { cs with scratch := cs'.scratch, ovr := cs.ovr || decide (sa < 0) || decide (2048 < sa + n) } ∧
      ∀ a : Nat, ((a : Int) < sa ∨ sa + n ≤ (a : Int) ∨ 2048 ≤ a) →
        Memory.read 0 cs'.scratch a = Memory.read 0 cs.scratch a) ∧
    exec (.setc f rs1 imm) s = .next (s.issued f 1
      ({ cs with cur := (((cs.greg rs1).toInt + imm.toInt) % 16384).toNat }.advance .seq)) ∧
    exec (.advc f rs1 imm) s = .next (s.issued f 1
      ({ cs with cur := (((cs.cur : Int) + (cs.greg rs1).toInt + imm.toInt) % 16384).toNat }.advance .seq))

/-- R88, R89: branches go to PC + 1 + DISP when their condition holds and on otherwise, a jump table adds the lesser of
its index and NMAX, and a loop opens its body or goes past it. -/
def Obligations.BranchesAndLoops : Prop :=
  ∀ (s : State) (f : Fetch) (cs : CompState) (fr : Frame), Issues s f cs fr →
    ∀ (rs1 rs2 : GReg) (cond : BitVec 3) (disp : BitVec 14) (count : BitVec 7) (len : BitVec 14),
    let went := fun (t : Nat) => Host.Outcome.next (s.issued f 1
      { cs with pc := t % 16384, loops := cs.loops.dropWhile fun l => decide (l.last < t) })
    let next := Host.Outcome.next (s.issued f 1 (cs.advance .seq))
    let opened := fun (n : Nat) => Host.Outcome.next (s.issued f 1
      { cs with pc := (cs.pc + 1) % 16384, loops := (LoopLevel.mk (cs.pc + 1) (cs.pc + len.toNat) (n - 1) 0 :: cs.loops.take 1) })
    exec (.br f cond rs1 rs2 disp) s =
      (if condHolds cond (cs.greg rs1) (cs.greg rs2) then went (cs.pc + 1 + disp.toNat) else next) ∧
    (∀ imm : BitVec 16, exec (.bri f cond rs1 imm disp) s =
      if condHolds cond (cs.greg rs1) (if cond = 4 ∨ cond = 5 then imm.signExtend 64 else imm.setWidth 64) then
        went (cs.pc + 1 + disp.toNat) else next) ∧
    exec (.jmp f disp) s = went (cs.pc + 1 + disp.toNat) ∧
    (∀ nmax : BitVec 8, exec (.jtab f rs1 nmax disp) s =
      went (cs.pc + 1 + disp.toNat + min (cs.greg rs1).toNat nmax.toNat)) ∧
    (0 < count.toNat → 0 < len.toNat → exec (.loop f count len) s = opened count.toNat) ∧
    (0 < min (cs.greg rs1).toNat count.toNat → 0 < len.toNat →
      exec (.loopr f rs1 count len) s = opened (min (cs.greg rs1).toNat count.toNat)) ∧
    (cs.greg rs1 = 0 → cs.loops = [] → exec (.loopr f rs1 count len) s =
      .next (s.issued f 1 { cs with pc := (cs.pc + len.toNat + 1) % 16384 }))

/-- R90, R93, R98: END hands the frame with its action set to the reorder buffer and leaves the compositor ready with
nothing but its scratch; a bad program word drops the frame and opens a repair, the oldest of which ends first; a
program past its worst path is dropped by the watchdog, and no other one is. -/
def Obligations.ProgramEnds : Prop :=
  ∀ (s : State) (f : Fetch) (cs : CompState) (fr : Frame) (i : Nat),
    s.comp f.comp.val = cs → cs.frame = some i → s.frame i = some fr →
    (∀ fv, Issues s f cs fv →
      let u := (s.issued f 1 (cs.advance .seq)).discardLookups f.comp.val
      let v := (u.setComp f.comp.val { CompState.init with scratch := cs.scratch }).count
        (R.CMP_C_FRAMES (f.comp.val / 8) (f.comp.val % 8))
      exec (.end_ f) s = .next (if fr.stage = .dropped then v.endLost i fr else v.setFrame i { fr with
        stage := .ended, qoff := cs.qoff, user := cs.user, wbl := cs.wbl, tsreq := cs.tsreq, edits := cs.edits
        act := cs.act, passScratch := Memory.readN 0 cs.scratch 0 192 })) ∧
    (∀ k : Case, exec (.pmRepairDone k) s = .next (s.setCase k.val { s.caseOf k.val with repair := (s.caseOf k.val).repair.tail })) ∧
    (s.worstPath fr.tag cs.entry < cs.cyc → exec (.watchdog f.comp) s =
      .next (((s.abandon f.comp.val (R.CMP_C_WATCHDOG (f.comp.val / 8) (f.comp.val % 8))).raiseComp f.comp.val 0).fault
        f.comp.val 0x11 0 false)) ∧
    (cs.cyc ≤ s.worstPath fr.tag cs.entry → exec (.watchdog f.comp) s = .next s) ∧
    (let k := f.comp.val / 8
     let t := s.abandon f.comp.val (R.CMP_C_PM_PARITY k (f.comp.val % 8))
     ((fr.tag, cs.pc) ∈ (s.caseOf k).repair → exec (.jmp f 0) s = .next t) ∧
     (f.parityBad = true → (fr.tag, cs.pc) ∉ (s.caseOf k).repair → exec (.jmp f 0) s =
       .next (((t.setCase k { t.caseOf k with repair := (s.caseOf k).repair ++ [(fr.tag, cs.pc)] }).raiseCase k 0).fault
         (0x540 + k) 0x12 0 false)))

/-- R103: CLASS reads QOFF / 16; MTS of CLASS writes QOFF[6:4] and keeps QOFF[3:0]; MTS of QOFF and QSEL write QOFF. -/
def Obligations.ClassFollowsQoff : Prop :=
  ∀ (s : State) (f : Fetch) cs fr, Issues s f cs fr → cs.qoff < 128 →
    (∀ rd : GReg, exec (.mfs f rd 6) s = .next (s.issued f 1 ((cs.setG rd (w64 (cs.qoff / 16))).advance .seq)) ∧
      exec (.mfs f rd 22) s = .next (s.issued f 1 ((cs.setG rd (w64 cs.qoff)).advance .seq))) ∧
    (∀ r : GReg, ∃ d : CompState, exec (.mts f 6 r) s = .next (s.issued f 1 (d.advance .seq)) ∧ d = { cs with qoff := d.qoff } ∧
      d.qoff / 16 = (cs.greg r).toNat % 8 ∧ d.qoff % 16 = cs.qoff % 16) ∧
    (∀ r : GReg, exec (.mts f 22 r) s =
      .next (s.issued f 1 ({ cs with qoff := (cs.greg r).toNat % 128 }.advance .seq))) ∧
    (∀ (q : BitVec 7) r, exec (.qsel f true q r) s = .next (s.issued f 1 ({ cs with qoff := q.toNat }.advance .seq)) ∧
      exec (.qsel f false q r) s =
        .next (s.issued f 1 ({ cs with qoff := (cs.greg r).toNat % 128 }.advance .seq)))

/-- R104, R106, R168: a lookup issues with its key copied and its tag waiting; LKI.RULE copies 60 scratch bytes; a scan
of an invalid set misses at once and one of a broken set errs, while any other waits for an engine. R104, R105, R107,
R108: a lookup's result comes back under its tag: a miss as status 0, a hit as status 1 with the result words, an entry
with bad parity as status 2; LKW waits for it, then takes it, frees the tag and branches on a miss when BM is set. -/
def Obligations.Lookups : Prop :=
  (
  ∀ (s : State) (f : Fetch) (cs : CompState) (fr : Frame), Issues s f cs fr →
    ∀ (tag : BitVec 3) (rs1 rs2 : GReg),
    let waits := fun (r : LookupReq) => Host.Outcome.next (s.issued f 1 ((cs.setSlot tag.toNat (.waiting r)).advance .seq))
    exec (.lkiL2dst f tag rs1) s = waits (.l2 (cs.greg rs1) false) ∧
    exec (.lkiL2src f tag rs1) s = waits (.l2 (cs.greg rs1) true) ∧
    exec (.lkiIpv4 f tag rs1) s = waits (.ipv4 (cs.greg rs1)) ∧
    exec (.lkiIpv6 f tag rs1 rs2) s = waits (.ipv6 (cs.greg rs1) (cs.greg rs2)) ∧
    (∀ table : BitVec 6, exec (.lkiFork f tag rs1 table) s = waits (.fork table.toNat ((cs.greg rs1).toNat % 256))) ∧
    (∀ arg : BitVec 11, 0 ≤ (cs.greg rs1).toInt + arg.toNat → (cs.greg rs1).toInt + arg.toNat + 60 ≤ 2048 →
      exec (.lkiRule f tag rs1 arg) s =
        waits (.rule (Memory.readN 0 cs.scratch ((cs.greg rs1).toInt + arg.toNat).toNat 60))) ∧
    (∀ set : BitVec 8, let d := s.wchDir (256 * fr.tag + set.toNat);
      (dirValid d = false → exec (.lkiWatch f tag rs2 set) s =
        .next (s.issued f 1 ((cs.setSlot tag.toNat (.ready 0 0 0)).advance .seq))) ∧
      (dirValid d = true → bitOf d.1 62 = true → exec (.lkiWatch f tag rs2 set) s =
        .next (s.issued f 1 ((cs.setSlot tag.toNat (.ready 2 0 0)).advance .seq))) ∧
      (dirValid d = true → bitOf d.1 62 = false → s.waitingBe < 256 →
        let len := if rs2.val = 0 then none else some (cs.greg rs2).toNat
        let scan : Scan := ⟨some (f.comp.val, tag.toNat), cs.frame.getD 0, [], fr.tag, set.toNat, cs.cur, len,
          s.admClass fr.tag (cs.qoff / 16)⟩
        exec (.lkiWatch f tag rs2 set) s =
          .next ((s.modWatch fun w => { w with waiting := w.waiting ++ [scan] }).issued f 1
            ((cs.setSlot tag.toNat (.waiting (.watch set.toNat cs.cur len))).advance .seq))))) ∧
  (
  ∀ (s : State) (f : Fetch) (cs : CompState) (fr : Frame), Issues s f cs fr →
    ∀ (tag : BitVec 3) (rd : GReg) (bm : Bool) (disp : BitVec 14),
    (∀ req, cs.slot tag.toNat = .waiting req → exec (.lkw f rd tag bm disp) s =
      .next (s.setComp f.comp.val { cs with lwait := some tag.toNat })) ∧
    (cs.slot tag.toNat = .idle → exec (.lkw f rd tag bm disp) s = .next (s.issued f 1 (cs.advance .seq))) ∧
    (∀ st w0 w1, cs.slot tag.toNat = .ready st w0 w1 →
      let cs' := { (cs.setG rd w0).setSlot tag.toNat .idle with lres1 := w1, lst := st + 16 * tag.toNat }
      exec (.lkw f rd tag bm disp) s = .next (s.issued f 1
        (if bm = true ∧ st ≠ 1 then cs'.advance (.goto (cs.pc + 1 + disp.toNat)) else cs'.advance .seq))) ∧
    (∀ key bad, cs.slot tag.toNat = .waiting (.ipv4 key) →
      let back := fun (t : State) (st : Nat) (w0 w1 : W64) =>
        Host.Outcome.next (t.setComp f.comp.val (cs.answer tag.toNat (.ready st w0 w1)))
      exec (.lookupComplete f.comp tag bad) s = match s.findEntry fr.tag (.ipv4 key) with
        | none => back s 0 0 0
        | some (t, a) => if bad then back (s.paritySeen t a) 2 0 0
            else back s 1 (s.resultWords t a).1 (s.resultWords t a).2) ∧
    (∀ st w0 bad, cs.slot tag.toNat = .waiting (.waybill st w0) → exec (.lookupComplete f.comp tag bad) s =
      .next (s.setComp f.comp.val (cs.answer tag.toNat (.ready st w0 0)))))

/-- R110: HINI loads the seed, HACC and HACF accumulate bytes of a register and of the frame in order, and HFIN writes
the hash, a CRC-32C with its final XOR. R111, R112, R113: BERX reads a tag and a short or long length at CUR and moves
CUR past the header, or past the element with SKIP; a tag it does not want, or a form it does not support, branches
with its status; ASDU answers the content offset of svID and branches where the element is no sequence. -/
def Obligations.HashesAndDecoding : Prop :=
  (
  ∀ (s : State) (f : Fetch) (cs : CompState) (fr : Frame), Issues s f cs fr →
    ∀ (rd rs1 : GReg),
    (∀ alg key seed, exec (.hini f alg key seed) s = .next (s.issued f 1
      ({ cs with hash := ⟨alg, key.toNat, if alg then 0 else seed.toNat, 0⟩ }.advance .seq))) ∧
    (∀ nm1 : BitVec 3, cs.hash.toeplitz = false → exec (.hacc f rs1 nm1) s = .next (s.issued f 1 ({ cs with hash :=
      { cs.hash with value := crc32cState cs.hash.value (toBE (nm1.toNat + 1) (cs.greg rs1).toNat) } }.advance .seq))) ∧
    (∀ (off : BitVec 14) (nm1 : BitVec 6) bs ovr, cs.hash.toeplitz = false →
      fr.readBytes ((cs.cur : Int) + (cs.greg rs1).toInt + off.toInt) (nm1.toNat + 1) = .ok (bs, ovr) →
      exec (.hacf f rs1 off nm1) s = .next (s.issued f ((nm1.toNat + 8) / 8) ({ cs with
        hash := { cs.hash with value := crc32cState cs.hash.value bs }, ovr := cs.ovr || ovr }.advance .seq))) ∧
    (∀ (off : BitVec 14) (nm1 : BitVec 6) a,
      fr.readBytes ((cs.cur : Int) + (cs.greg rs1).toInt + off.toInt) (nm1.toNat + 1) = .error a →
      exec (.hacf f rs1 off nm1) s = .next (s.stalled f a)) ∧
    (cs.hash.toeplitz = false → exec (.hfin f rd) s = .next (s.issued f 1
      ({ cs.setG rd (w64 (cs.hash.value ^^^ 0xFFFFFFFF)) with
        hash := { cs.hash with value := cs.hash.value ^^^ 0xFFFFFFFF } }.advance .seq))) ∧
    (cs.hash.toeplitz = true → exec (.hfin f rd) s = .next (s.issued f 1
      ((cs.setG rd (w64 cs.hash.value)).advance .seq)))) ∧
  (
  ∀ (s : State) (f : Fetch) (cs : CompState) (fr : Frame), Issues s f cs fr →
    ∀ (rd rs2 : GReg) (any : Bool) (btag : BitVec 8) (disp : BitVec 14) (skip : Bool) (tag l : Byte),
    fr.readBytes cs.cur 2 = .ok ([tag, l], false) →
    let failed := fun (n st : Nat) => Host.Outcome.next (s.issued f n
      ({ cs with dtag := tag.toNat, dstat := st }.advance (.goto (cs.pc + 1 + disp.toNat))))
    (tag.toNat % 32 = 31 → exec (.berx f rd any btag disp skip) s = failed 2 2) ∧
    (tag.toNat % 32 ≠ 31 → any = false → tag ≠ btag → exec (.berx f rd any btag disp skip) s = failed 2 1) ∧
    (tag.toNat % 32 ≠ 31 → (any = true ∨ tag = btag) → l.toNat = 0x80 ∨ 0x84 ≤ l.toNat →
      exec (.berx f rd any btag disp skip) s = failed 2 2) ∧
    (tag.toNat % 32 ≠ 31 → (any = true ∨ tag = btag) → l.toNat < 0x80 → exec (.berx f rd any btag disp skip) s =
      .next (s.issued f 2 ({ cs.setG rd (w64 l.toNat) with
        dtag := tag.toNat, dlen := l.toNat, dstat := 0
        cur := (cs.cur + 2 + if skip then l.toNat else 0) % 16384 }.advance .seq))) ∧
    (tag.toNat % 32 ≠ 31 → tag.toNat ≠ 0x30 → ∀ fld : BitVec 4, fld.toNat ≤ 9 →
      exec (.asdu f rd fld rs2 disp) s = failed (if fld = 7 then 7 else if fld = 8 then 12 else 6) 1) ∧
    (∀ c len, fr.asduFind cs.cur 0 = .ok (c, len) → (∃ b, fr.walkByte cs.cur (c + len - 1) = .ok b) ∨ len = 0 →
      exec (.asdu f rd 0 rs2 disp) s = .next (s.issued f 6 ({ cs.setG rd (w64 c) with
        dtag := tag.toNat, dstat := 0, dlen := len }.advance .seq))))

/-- R114, R115, R180, R185, R193, R203: a waybill operation is performed when it issues and its outcome waits under its
tag. READ answers the word and ADD adds to a user word of a valid plain waybill; DUPCHK with TAKE_ANY accepts; SVCHK of
a waybill of another kind, GSCHK of an invalid one and METER of an invalid one are misuses; METER of a plain waybill
with no gate and no meter answers GREEN; an index of 32,768 or more, and a poisoned waybill, answer ERROR. -/
def Obligations.WaybillOperations : Prop :=
  ∀ (s : State) (f : Fetch) (cs : CompState) (fr : Frame), Issues s f cs fr →
    ∀ (tag : BitVec 3) (rs1 rs2 : GReg) (word : Fin 8) (bad : Option (Fin 16)),
    let i := (cs.greg rs1).toNat
    let x : OpCtx := ⟨fr.inPort, fr.tag, s.passStamp fr⟩
    let done := fun (r : Nat × W64 × State) => Host.Outcome.next
      (((r.2.2.countStall f.comp.val).countN (R.CMP_C_ISSUE_CYCLES (f.comp.val / 8) (f.comp.val % 8)) 1).setComp f.comp.val
        { (cs.setSlot tag.toNat (.waiting (.waybill r.1 r.2.1))).advance .seq with
          cyc := cs.cyc + 1, stall := none, lwait := none })
    let t := s.count R.WBL_C_OPS
    (32768 ≤ i → exec (.wbopRead f tag rs1 word bad) s = done (2, 0, s) ∧
      exec (.dupchk f tag rs1 rs2 bad) s = done (2, 0, s)) ∧
    (i < 32768 → i ∈ s.wbl.poisoned → i ∉ s.wbl.repairs → exec (.svchk f tag rs1 rs2 none) s = done (2, 0, t)) ∧
    (i < 32768 → i ∉ s.wbl.poisoned → i ∉ s.wbl.repairs →
      exec (.wbopRead f tag rs1 word none) s = done (1, s.wword i word, t) ∧
      (∀ b : Fin 16, b.val = word.val → exec (.wbopRead f tag rs1 word (some b)) s = done (2, 0, t.wparity i word)) ∧
      (bitOf (s.wword i 0) 63 = true → bitOf (s.wword i 0) 62 = false → bitsOf (s.wword i 0) 59 58 = 0 → 3 ≤ word.val →
        exec (.wbopAdd f tag rs1 rs2 word none) s =
          done (1, s.wword i word, t.setWword i word (s.wword i word + cs.greg rs2))) ∧
      (bitOf (s.wword i 0) 63 = false → exec (.wbopAdd f tag rs1 rs2 word none) s = done (1, s.wword i word, t.wmisuse)) ∧
      (bitOf (s.wword i 0) 63 = true → bitOf (s.wword i 0) 62 = true → bitsOf (s.wword i 0) 61 60 ≠ 0 →
        bitOf (s.wword i 7) 2 = true → (s.pairOf fr.tag fr.inPort) = none → (bitsOf (cs.greg rs2) 19 16) % 2 = 0 →
        ∃ u, exec (.dupchk f tag rs1 rs2 none) s = done (1, 1, u) ∧ 
          u.wbl.counters = (s.wadd i 0 1).wbl.counters ∧ u = { t with wbl := u.wbl }) ∧
      (bitsOf (s.wword i 0) 59 58 ≠ 1 → exec (.svchk f tag rs1 rs2 none) s = done (1, 2 ^ 15, t.wmisuse)) ∧
      (bitOf (s.wword i 0) 63 = false → exec (.gschk f tag rs1 rs2 none) s = done (1, 2 ^ 15, t.wmisuse)) ∧
      (bitOf (s.wword i 0) 63 = true → bitsOf (s.wword i 0) 59 58 = 2 → bitOf (s.wword i 7) 3 = true →
        exec (.gschk f tag rs1 rs2 none) s = done (1, w64 (64 * b2n (bitOf (s.wword i 7) 4) + 2 ^ 8),
          ((t.setWword i 6 (cs.greg rs2)).wsupervised i x.time).wconds i (64 * b2n (bitOf (s.wword i 7) 4)) x.time)) ∧
      (bitOf (s.wword i 0) 63 = true → bitsOf (s.wword i 0) 59 58 = 1 → bitOf (s.wword i 7) 3 = true →
        ∃ u w0, exec (.svchk f tag rs1 rs2 none) s = done (1, w0, u) ∧ bitOf w0 8 = true ∧ bitsOf w0 31 16 = 0) ∧
      (bitOf (s.wword i 0) 63 = false → exec (.meter f tag rs1 rs2 none) s = done (1, 0, t.wmisuse)) ∧
      (bitOf (s.wword i 0) 63 = true → bitOf (s.wword i 0) 62 = false → bitsOf (s.wword i 0) 59 58 = 0 →
        bitOf (s.wword i 0) 57 = false → bitOf (s.wword i 0) 56 = false → bitsOf (s.wword i 0) 30 17 = 0 →
        exec (.meter f tag rs1 rs2 none) s = done (1, 0, t))) ∧
    exec (.wbind f rs1) s = .next (s.issued f 1
      ((if i < 32768 then { cs with wbl := some i } else { cs with ovr := true }).advance .seq))

/-- R117, R118, R120 to R122: deliveries, the queue and side actions set the action set of the pass and touch nothing
else. -/
def Obligations.DeliveriesAndSideActions : Prop :=
  ∀ (s : State) (f : Fetch) (cs : CompState) (fr : Frame), Issues s f cs fr →
    ∀ (rs1 rs2 : GReg),
    let on := fun (cs' : CompState) => Host.Outcome.next (s.issued f 1 (cs'.advance .seq))
    let to_ := fun (d : Delivery) => on { cs with act := { cs.act with dlv := some d } }
    let mask := BitVec.ofNat 128 ((cs.greg rs1).toNat + (cs.greg rs2).toNat * 2 ^ 64)
    exec (.dlvDrop f) s = to_ .drop ∧
    (∀ port : BitVec 7, exec (.dlvFwd f true port rs1) s = to_ (.fwd port.toNat)) ∧
    (∀ port : BitVec 7, (cs.greg rs1).toNat < 128 → exec (.dlvFwd f false port rs1) s = to_ (.fwd (cs.greg rs1).toNat)) ∧
    (∀ port : BitVec 7, 128 ≤ (cs.greg rs1).toNat → exec (.dlvFwd f false port rs1) s =
      on { cs with act := { cs.act with dlv := some .drop }, ovr := true }) ∧
    exec (.dlvMcast f rs1 rs2 false) s = to_ (if mask = 0 then .drop else .mcast mask) ∧
    (∀ m, m = mask &&& ~~~ BitVec.ofNat 128 (2 ^ fr.inPort) →
      exec (.dlvMcast f rs1 rs2 true) s = to_ (if m = 0 then .drop else .mcast m)) ∧
    (∀ table : BitVec 6, exec (.dlvFork f table rs1) s = to_ (.fork table.toNat ((cs.greg rs1).toNat % 256))) ∧
    (∀ reason : BitVec 8, exec (.dlvPunt f reason) s = to_ (.punt reason.toNat)) ∧
    (∀ entry : BitVec 6, exec (.dlvSecond f entry) s = to_ (.second entry.toNat)) ∧
    (∀ qoff : BitVec 7, exec (.qsel f true qoff rs1) s = on { cs with qoff := qoff.toNat }) ∧
    (∀ qoff : BitVec 7, exec (.qsel f false qoff rs1) s = on { cs with qoff := (cs.greg rs1).toNat % 128 }) ∧
    (∀ m : BitVec 4, s.flag (F.FRM_MIRROR_VALID fr.tag m.toNat) = true → m.toNat ∉ cs.act.mirrors →
      cs.act.mirrors.length < 2 → exec (.sideMirror f m) s =
        on { cs with act := { cs.act with mirrors := cs.act.mirrors ++ [m.toNat] } }) ∧
    (∀ m : BitVec 4, s.flag (F.FRM_MIRROR_VALID fr.tag m.toNat) = true → m.toNat ∉ cs.act.mirrors →
      2 ≤ cs.act.mirrors.length → exec (.sideMirror f m) s = on { cs with ovr := true }) ∧
    (∀ m : BitVec 4, s.flag (F.FRM_MIRROR_VALID fr.tag m.toNat) = false ∨ m.toNat ∈ cs.act.mirrors →
      exec (.sideMirror f m) s = on cs) ∧
    (∀ a : BitVec 8, exec (.sideCapmark f a) s = on { cs with act := { cs.act with capmark := some a.toNat } }) ∧
    (∀ a : BitVec 8, exec (.sideCaptrig f a) s = on { cs with act := { cs.act with captrig := some a.toNat } }) ∧
    (∀ a : BitVec 8, exec (.sideTstamp f a) s = on { cs with tsreq := some a.toNat })

/-- R123, R124: each edit joins the edit list with its code, its pass, its offset or path and its value. -/
def Obligations.EditInstructions : Prop :=
  ∀ (s : State) (f : Fetch) (cs : CompState) (fr : Frame), Issues s f cs fr → cs.edits.length < 8 →
    ∀ (rs1 : GReg) (off : BitVec 14) (path : BitVec 4),
    let adds := fun (eop off : Nat) (v : W64) => Host.Outcome.next (s.issued f 1
      ({ cs with edits := cs.edits ++ [(⟨eop, fr.pass, off, v⟩ : Edit)] }.advance .seq))
    exec (.editVpush f rs1) s = adds 1 0 (cs.greg rs1) ∧ exec (.editVpop f) s = adds 2 0 0 ∧
    exec (.editVswap f rs1) s = adds 3 0 (cs.greg rs1) ∧ exec (.editHsrIns f rs1 path) s = adds 4 path.toNat (cs.greg rs1) ∧
    exec (.editHsrRem f) s = adds 5 0 0 ∧ exec (.editPrpAdd f rs1 off) s = adds 6 off.toNat (cs.greg rs1) ∧
    exec (.editPrpStrip f) s = adds 7 0 0 ∧ exec (.editMacDa f rs1) s = adds 8 0 (cs.greg rs1) ∧
    exec (.editMacSa f rs1) s = adds 9 0 (cs.greg rs1) ∧ exec (.editTtlDec f off) s = adds 10 off.toNat 0 ∧
    exec (.editPtpCf f off) s = adds 11 off.toNat 0

/-- R142 to R147, R153: the Keeper takes the oldest learning request: a key held by a static entry only counts; ageing
moves on one address per step, ages a learned entry in all its placements together, and ages out one that was not seen;
a bad entry is reported and invalidated, and an invalidation that a search queued is done in its turn. A halted Keeper
does none of it. The steps are stated with no earlier input waiting, which the Keeper would serve first. -/
def Obligations.KeeperSteps : Prop :=
  ∀ (s : State),
    (s.ledger.input = [] → ∀ bad, exec (.learnRequest bad) s = .next s) ∧
    (∀ r rest bad, s.ledger.input = .learn r :: rest → s.keeperHalted = false → exec (.learnRequest bad) s =
      .next (({ s with ledger := { s.ledger with input := rest } } : State).learnApply r bad)) ∧
    (∀ r rest bad e a, s.ledger.input = .learn r :: rest → s.keeperHalted = false → s.l2Seeds = [e] →
      (s.l2Match e (bitsOf r.key 59 0) fun x => !isLearned x) = [a] → exec (.learnRequest bad) s =
        .next (({ s with ledger := { s.ledger with input := rest } } : State).count R.LDG_C_LEARN_STATIC)) ∧
    (∀ bad, s.keeperHalted = false → s.flag F.LDG_AGE_CFG_AGE_EN = true → s.ledger.input = [] →
      let a := s.ledger.ageAt
      let e := s.entry 0 a
      let w := entryWord e 1
      let t : State := { s with ledger := { s.ledger with ageAt := (a + 1) % 262144 } }
      let first := t.l2Match (t.l2Seeds.headD 0) (l2Key e) isLearned
      (entryValid 0 e = false → exec (.ageingStep bad) s = .next t) ∧
      (entryValid 0 e = true → bad.has 0 a = true → exec (.ageingStep bad) s = .next (t.parityHit 0 a)) ∧
      (bad.has 0 a = false → isLearned e = false → exec (.ageingStep bad) s = .next t) ∧
      (entryValid 0 e = true → bad.has 0 a = false → isLearned e = true → first ≠ [] → a ∉ first →
        exec (.ageingStep bad) s = .next t) ∧
      (entryValid 0 e = true → bad.has 0 a = false → isLearned e = true → (first = [] ∨ a ∈ first) →
        exec (.ageingStep bad) s = .next (t.ageEntry a) ∧
        (t.placements (l2Key e) = [a] → s.activity a = true → exec (.ageingStep bad) s =
          .next ((t.setActivity a false).setEntry 0 a
            (e.set 1 (setBits (setBits w 63 56 0) 55 48 (bitsOf w 55 48 / 2))))) ∧
        (t.placements (l2Key e) = [a] → s.activity a = false →
          let age := min 255 (bitsOf w 63 56 + 1)
          let u := (t.setActivity a false).setEntry 0 a
            (e.set 1 (setBits (setBits w 63 56 age) 55 48 (bitsOf w 55 48 / 2)))
          exec (.ageingStep bad) s = .next (if s.fld F.LDG_AGE_CFG_LIMIT ≤ age
            then (u.invalidate 0 a).count R.LDG_C_AGED_OUT else u)))) ∧
    (∀ (table : Fin 6) (addr : BitVec 18),
      let k := if table.val = 1 then 0 else table.val
      (∀ rest, s.ledger.input = .invalidate k addr.toNat :: rest → s.keeperHalted = false →
        exec (.parityInvalidate table addr) s =
          .next (({ s with ledger := { s.ledger with input := rest } } : State).invalidateWhole k addr.toNat)) ∧
      (KprInput.invalidate k addr.toNat ∉ s.ledger.input → exec (.parityInvalidate table addr) s = .next s)) ∧
    (s.keeperHalted = true → (∀ bad, exec (.learnRequest bad) s = .next s) ∧ (∀ bad, exec (.ageingStep bad) s = .next s) ∧
      ∀ table addr, exec (.parityInvalidate table addr) s = .next s)

/-- R166 to R172, R377: the oldest waiting scan of an admitted frame, else of a best-effort one, takes the lowest free
engine that may serve it and wakes it; a finished scan frees its engine, counts and answers its tag; a maintenance write
steals its slot; an idle unreserved engine may sleep. -/
def Obligations.ScansAndMaintenance : Prop :=
  ∀ (s : State),
    (∀ sc e, s.watch.waiting.find? (fun x => x.admitted) = some sc →
      (List.range 42).find? (fun e => (s.engine e).isNone) = some e → exec .scanStart s =
        .next { s with
          watch := { s.watch with
            waiting := s.watch.waiting.erase sc
            engines := tput (fun _ => none) s.watch.engines e (some sc) }
          pwr := { s.pwr with enginesAsleep := s.pwr.enginesAsleep &&& ~~~ BitVec.ofNat 42 (2 ^ e) } }) ∧
    (s.watch.waiting = [] → exec .scanStart s = .next s) ∧
    (∀ (engine : Fin 42) sc bs, s.engine engine.val = some sc → s.scanBytes sc = some bs → sc.owner = none →
      let r := scanResult s.wchLine (s.wchDir (256 * sc.ftag + sc.set)) sc.set sc.start bs
      let t := ((s.setEngine engine.val none).countN R.WCH_C_BYTES_SCANNED bs.length).count
        (if sc.admitted then R.WCH_C_SCANS_ADM else R.WCH_C_SCANS_BE)
      exec (.scanDone engine none) s = .next (if r.1 = 1 then t.count R.WCH_C_HITS else t)) ∧
    (∀ (engine : Fin 42) sc bs c tag l, s.engine engine.val = some sc → s.scanBytes sc = some bs →
      sc.owner = some (c, tag) →
      let t := ((s.setEngine engine.val none).countN R.WCH_C_BYTES_SCANNED bs.length).count
        (if sc.admitted then R.WCH_C_SCANS_ADM else R.WCH_C_SCANS_BE)
      exec (.scanDone engine (some l)) s = .next (((((t.count R.WCH_C_PARITY_ERR).raiseG 38 16).fault 0x60F 0x39 0
        false).queueRepair (if l.toNat < 65536 then l.toNat else 65536 + 256 * sc.ftag + sc.set) 1).setSlot c tag
          (.ready 2 0 0))) ∧
    (∀ m rest ecc, s.watch.writes = m :: rest →
      let t := (s.modWatch fun w => { w with writes := rest }).countN R.WCH_C_STOLEN_CYCLES 42
      exec (.maintWrite ecc) s = .next (match m with
        | .line l bs => t.writeLine l bs
        | .dir i w0 w1 => t.writeDir i w0 w1 ecc)) ∧
    (∀ engine : Fin 42, s.engine engine.val = none → s.fld F.WCH_ENGINES_ADM ≤ engine.val →
      exec (.watchlistEngineSleep engine) s = .next { s with pwr := { s.pwr with
        enginesAsleep := s.pwr.enginesAsleep ||| BitVec.ofNat 42 (2 ^ engine.val) } }) ∧
    (∀ engine : Fin 42, (s.engine engine.val ≠ none ∨ engine.val < s.fld F.WCH_ENGINES_ADM) →
      exec (.watchlistEngineSleep engine) s = .next s)

/-- R173 to R175: the patrol compares its next item with the shadow, queues the repair of one that differs and moves on,
raising its pass at the end; a repair rewrites its item from a sound shadow, and marks it failed where the shadow has
none. -/
def Obligations.WatchlistPatrolAndRepair : Prop :=
  ∀ (s : State),
    (s.shadowOn = false ∨ s.flag F.WCH_SHADOW_CFG_PATROL_EN = false →
      ∀ d ecc, exec (.wchPatrolStep d ecc) s = .next s) ∧
    (s.shadowOn = true → s.flag F.WCH_SHADOW_CFG_PATROL_EN = true →
      let item := s.watch.patrolAt
      let mine := if item < 65536 then s.wchLine item
        else dirBytes (s.wchDir (item - 65536)).1 (s.wchDir (item - 65536)).2
      let on := fun (t : State) => t.modWatch fun w => { w with patrolAt := item + 1 }
      (∀ d ecc, item ∈ s.watch.failed → item < 66047 → exec (.wchPatrolStep d ecc) s = .next (on s)) ∧
      (item ∉ s.watch.failed → item < 66047 → s.ddrMapped (s.shadowAddr item) mine.length = true →
        (∀ d ecc bs t, s.ddrRead 2 (s.shadowAddr item) mine.length [(0, ecc)] = (some bs, t) →
          (d = true ∨ bs ≠ mine → exec (.wchPatrolStep d ecc) s =
            .next (on (((t.count R.WCH_C_MISMATCH).raiseG 38 17).queueRepair item 2))) ∧
          (d = false → bs = mine → exec (.wchPatrolStep d ecc) s = .next (on t))) ∧
        (∀ d ecc t, s.ddrRead 2 (s.shadowAddr item) mine.length [(0, ecc)] = (none, t) →
          exec (.wchPatrolStep d ecc) s = .next (on t))) ∧
      (∀ d ecc, item ∈ s.watch.failed → item = 66047 → exec (.wchPatrolStep d ecc) s =
        .next ((s.modWatch fun w => { w with patrolAt := 0 }).raiseG 38 19))) ∧
    (∀ (line : BitVec 17) kind ecc, s.shadowOn = true → s.watch.repairs = [(line.toNat, kind)] → line.toNat < 65536 →
      let t := s.modWatch fun w => { w with repairs := [] }
      (∀ bs u, t.ddrRead 2 (t.shadowAddr line.toNat) 64 [(0, ecc)] = (some bs, u) → exec (.wchRepair line ecc) s =
        .next ((((u.countN R.WCH_C_STOLEN_CYCLES 42).count R.WCH_C_REPAIRED).wchLog line.toNat kind).modWatch fun w =>
          { w with lines := Memory.writeN 0 w.lines (64 * line.toNat) bs })) ∧
      (∀ u, t.ddrRead 2 (t.shadowAddr line.toNat) 64 [(0, ecc)] = (none, u) → exec (.wchRepair line ecc) s =
        .next (((((u.modWatch fun w => { w with failed := w.failed ++ [line.toNat] }).rebreak line.toNat).wchLog
          line.toNat 3).raiseG 38 18).fault 0x60F 0x39 0 false))) ∧
    (∀ (line : BitVec 17) ecc, s.shadowOn = false ∨ s.watch.repairs = [] → exec (.wchRepair line ecc) s = .next s)

/-- R182 to R184, R203: an aligned 8-byte write to words 1 and 2 of a waybill applies at once, one to words 3 to 7 or
to word 0 only as R183 allows, with the bits that R182 gives as zero cleared; every other write is dropped, recorded as
BADWRITE, counted and raised, and changes no word. A write that has to read a word 0 of bad parity poisons the waybill.
-/
def Obligations.WaybillHostWrites : Prop :=
  ∀ (s : State) (addr : BitVec 22) (size : Fin 17) (data : W64), s.host.d3hot = false →
    let i := addr.toNat / 64
    let j := addr.toNat / 8 % 8
    let t := s.count R.WBL_C_OPS
    let tidy := fun (u : State) => [4, 5, 6, 7].foldl (fun u j => u.putWword i j (u.wword i j)) u
    let refused := (t.count R.WBL_C_WR_REFUSED).raiseG 39 1
    (size.val ≠ 8 ∨ addr.toNat % 8 ≠ 0 ∨ 2 ^ 21 ≤ addr.toNat → ∀ bad, ∃ u,
      exec (.wblHostWrite addr size data bad) s = .next u ∧ u.wbl = s.wbl ∧ u = { s with regs := u.regs, out := u.out } ∧
      (Inv s → bitOf (u.reg (R.EVT_LATCH 39)) 1 = true ∧ u.reg R.WBL_C_WR_REFUSED = s.reg R.WBL_C_WR_REFUSED + 1)) ∧
    (size.val = 8 → addr.toNat % 8 = 0 → addr.toNat < 2 ^ 21 → i ∉ s.wbl.repairs →
      (j = 1 ∨ j = 2 → ∀ bad, exec (.wblHostWrite addr size data bad) s = .next (t.putWword i j data)) ∧
      (3 ≤ j → bitOf (s.wword i 0) 63 = false → exec (.wblHostWrite addr size data false) s =
        .next (t.putWword i j data)) ∧
      (3 ≤ j → bitOf (s.wword i 0) 63 = true → exec (.wblHostWrite addr size data false) s = .next refused) ∧
      (3 ≤ j → bitOf ((t.wparity i 0).wword i 0) 63 = false → exec (.wblHostWrite addr size data true) s =
        .next ((t.wparity i 0).putWword i j data)) ∧
      (j = 0 → bitOf (s.wword i 0) 63 = true → bitOf data 63 = true →
        (bitsOf (s.wword i 0) 62 58 ≠ bitsOf data 62 58 ∨ bitsOf (s.wword i 0) 55 49 ≠ bitsOf data 55 49) →
        exec (.wblHostWrite addr size data false) s = .next refused) ∧
      (j = 0 → bitOf data 63 = false → exec (.wblHostWrite addr size data false) s =
        .next (tidy ((t.putWword i 0 data).modWbl fun w =>
          { w with poisoned := w.poisoned.filter (· != i) }))) ∧
      (j = 0 → bitOf (s.wword i 0) 63 = false → bitOf data 63 = true → bitOf data 16 = false →
        exec (.wblHostWrite addr size data false) s = .next ((List.range 8).foldl (fun t k => t.setWcount i k 0)
          ((tidy ((t.putWword i 0 data).modWbl fun w =>
            { w with poisoned := w.poisoned.filter (· != i) })).armState i))))

/-- R195, R202, R203, R208: host reads answer stored words; a waybill's snapshot, its sticky bits, its block and
quality, a meter's mark and the event log answer the host's writes and reads, and a queued repair re-arms its waybill.
-/
def Obligations.WaybillHostControls : Prop :=
  ∀ (s : State), s.wbl.repairs = [] → s.host.d3hot = false →
    (∀ addr : BitVec 22, addr.toNat < 2 ^ 21 → addr.toNat % 8 = 0 → exec (.wblHostRead addr true false) s =
      .next ((s.count R.WBL_C_OPS).emit (.readData (toBE 8 (s.wword (addr.toNat / 64) (addr.toNat / 8 % 8)).toNat) false))) ∧
    (∀ addr : BitVec 22, addr.toNat < 2 ^ 21 → addr.toNat % 8 = 4 → exec (.wblHostRead addr false false) s =
      .next ((s.count R.WBL_C_OPS).emit (.readData (toBE 4 ((s.wword (addr.toNat / 64) (addr.toNat / 8 % 8)).toNat % 2 ^ 32))
        false))) ∧
    (s.wbl.log = [] → exec .evlogPop s = .next (s.emit (.readData (List.replicate 8 0) false))) ∧
    (∀ r rest, s.wbl.log = r :: rest → exec .evlogPop s =
      .next ((s.modWbl fun w => { w with log := rest }).emit (.readData (toLE 8 r.toNat) false))) ∧
    (s.barOpen R.WBL_SNAP_CTRL = true → s.fld F.CMD_ROLE_HOST_ROLE = 2 → ∀ v : W32, Inv s →
      ∃ t, exec (.wblSnapshot v none) s = .next t ∧ t = { s with regs := t.regs } ∧
        (∀ j, j < 8 → t.reg (R.WBL_SNAP_DATA j) = s.wword (v.toNat % 32768) j ∧
          t.reg (R.WBL_SNAP_DATA (8 + j)) = s.wcount (v.toNat % 32768) j) ∧
        (t.flag F.WBL_SNAP_CTRL_POISON = true ↔ v.toNat % 32768 ∈ s.wbl.poisoned)) ∧
    (s.barOpen R.WBL_STICKY_CLR = true → s.fld F.CMD_ROLE_HOST_ROLE = 2 → ∀ w : Fin 32768, w.val ∉ s.wbl.poisoned →
      let t := s.count R.WBL_C_OPS
      let w7 := s.wword w 7
      let st := bitsOf w7 31 24
      (wPlain (s.wword w 0) = false → ∀ mask : BitVec 8, exec (.stickyClear w mask none) s =
        .next (t.setWword w 7 (setBits (setBits w7 31 24 (st &&& (255 - mask.toNat))) 5 5 (b2n (bitOf w7 5))))) ∧
      (wPlain (s.wword w 0) = false → exec (.clrBlocked w none) s =
        .next (t.setWword w 7 (setBits (setBits w7 31 24 (st &&& 255)) 5 5 0))) ∧
      (wPlain (s.wword w 0) = true → (∀ mask, exec (.stickyClear w mask none) s = .next t) ∧
        exec (.clrBlocked w none) s = .next t ∧ exec (.clrQual w none) s = .next t) ∧
      (bitsOf (s.wword w 0) 59 58 = 1 → exec (.clrQual w none) s =
        .next ((t.setWword w 7 (setBits (setBits w7 31 24 (st &&& 255)) 5 5 (b2n (bitOf w7 5)))).wset w 6 31 0 0))) ∧
    (s.barOpen R.WBL_METER_CLR = true → s.fld F.CMD_ROLE_HOST_ROLE = 2 → ∀ m : Fin 4096,
      exec (.meterClr m) s = .next ((s.count R.WBL_C_OPS).setFlag (F.WBL_METER_STATE_MARK_RED m.val) false)) ∧
    (∀ w : Fin 32768, exec (.wblStateRepair w) ({ s with wbl := { s.wbl with repairs := [w.val] } } : State) =
      .next ((s.armState w).count R.WBL_C_OPS))

/-- R187, R190, R199, R200, R203: the patrol visits the waybills in order, leaves an invalid or plain one as it is,
rewrites the stamps of every other one during the hold after a time step, tests an armed one else, and counts a pass at
the end; a per-tag table takes a write for the staged tag, and any other write sets WR_ACTIVE alone. -/
def Obligations.WaybillPatrolAndTables : Prop :=
  ∀ (s : State),
    (s.wbl.repairs = [] → wPlain (s.wword s.wbl.patrolAt 0) = false → s.wbl.patrolAt < 32767 →
      (s.wbl.hold ≠ 0 → exec (.wblPatrolVisit none) s =
        .next ((s.wstamps s.wbl.patrolAt).modWbl fun w => { w with patrolAt := s.wbl.patrolAt + 1 })) ∧
      (s.wbl.hold = 0 → s.wbl.patrolAt ∉ s.wbl.poisoned → bitOf (s.wword s.wbl.patrolAt 0) 63 = true →
        exec (.wblPatrolVisit none) s =
          .next ((s.wtests s.wbl.patrolAt).modWbl fun w => { w with patrolAt := s.wbl.patrolAt + 1 }))) ∧
    (s.wbl.repairs = [] → (wPlain (s.wword s.wbl.patrolAt 0) = true ∨ (s.wbl.hold = 0 ∧
      bitOf (s.wword s.wbl.patrolAt 0) 63 = false)) →
      (s.wbl.patrolAt < 32767 → exec (.wblPatrolVisit none) s =
        .next (s.modWbl fun w => { w with patrolAt := s.wbl.patrolAt + 1 })) ∧
      (s.wbl.patrolAt = 32767 → exec (.wblPatrolVisit none) s =
        .next ((s.modWbl fun w => { w with patrolAt := 0, hold := w.hold - 1 }).count R.WBL_C_PATROL_PASSES))) ∧
    (∀ j : Fin 8, s.wbl.repairs = [] → s.wbl.patrolAt ∉ s.wbl.poisoned → s.wbl.patrolAt < 32767 →
      exec (.wblPatrolVisit (some j)) s = .next ((s.wparity s.wbl.patrolAt j).modWbl fun w =>
        { w with patrolAt := s.wbl.patrolAt + 1 })) ∧
    (∀ (off : BitVec 26) (data : W64) (tag : Nat), s.barOpen off.toNat = true → s.fld F.CMD_ROLE_HOST_ROLE = 2 →
      regParts off.toNat false data = some [(off.toNat, w64 (data.toNat % 2 ^ 32))] →
      0x1402000 ≤ off.toNat → off.toNat < 0x1402200 → tag = (off.toNat - 0x1402000) / 256 →
      (s.tagState tag = 1 → s.pairClash tag (off.toNat % 256 / 4) (w64 (data.toNat % 2 ^ 32)) = false →
        exec (.perTagTableWrite off false data) s = .next (s.plainWrite off.toNat (w64 (data.toNat % 2 ^ 32)))) ∧
      (s.tagState tag ≠ 1 ∨ s.pairClash tag (off.toNat % 256 / 4) (w64 (data.toNat % 2 ^ 32)) = true →
        exec (.perTagTableWrite off false data) s =
          .next ((s.setFlag F.WBL_STATUS_WR_ACTIVE true).raiseG 39 19)))

/-- R214: among a port's eligible heads the pick takes the one of the highest class group, and within it the one of the
highest k, express and preemptable alike; it is made once there is room in egress staging (R55, R215). -/
def Obligations.PickTakesHighestQueue : Prop :=
  ∀ (s : State) (p : Port) (c k : Nat) r pre, c < 8 → k < 16 →
    let t := (s.busyQueues p).foldl State.bringCredit (s.testHeads p)
    let w := TxFrame.mk (128 * p.val + 16 * c + k) r pre 0 [] false false false 0 0 ⟨0, 0, 0⟩
    (t.egrPort p).picked = none → t.eligibleHead (128 * p.val + 16 * c + k) = some (r, pre) →
    (∀ c' k', c' < 8 → k' < 16 → (c < c' ∨ c = c' ∧ k < k') → t.eligibleHead (128 * p.val + 16 * c' + k') = none) →
    exec (.egressPick p) s = .next (if t.pickRoom p w then t.pick p w else t)

/-- R215, R217, R218: the pick brings the port's credits to the present and picks the best head where nothing is
picked, an express one in place of a preemptable pick; the age decision tests every head; on an idle wire the picked
frame starts unless it is preemptable under hold, and one whose head cell cannot be read is given up. R24, R58, R217,
R219, R266: the end of a complete frame's transmission sends its edited bytes, counts them on its port and queue,
charges its gap and gives up its reference; a frame whose cell failed is stomped; one still arriving stays. R25: an
express pick preempts a preemptable frame on the wire where its fragment may end, and a preempted frame resumes. -/
def Obligations.PicksAndTransmissions : Prop :=
  (
  ∀ (s : State) (p : Port),
    exec (.ageDecisionTick p) s = .next (s.testHeads p) ∧
    (s.portCond p ≠ .up → exec (.ageDecisionTick p) s = .next s) ∧
    (let t := (s.busyQueues p).foldl State.bringCredit (s.testHeads p)
     ((t.egrPort p).picked = none → exec (.egressPick p) s = .next (match t.bestHead p false with
        | some w => if t.pickRoom p w then t.pick p w else t
        | none => t)) ∧
     (∀ w, (t.egrPort p).picked = some w → t.isPre p w = false → exec (.egressPick p) s = .next t)) ∧
    (∀ k ecc, (s.egrPort p).wire = none → (s.egrPort p).preempted = none → (s.egrPort p).picked = some k →
      (s.isPre p k = false ∨ s.holdOn p = false) → exec (.frameTxStart p ecc) s = .next (s.beginTx p k ecc)) ∧
    (∀ k ecc, (s.egrPort p).wire = none → (s.egrPort p).preempted = none → (s.egrPort p).picked = some k →
      s.isPre p k = true → s.holdOn p = true → exec (.frameTxStart p ecc) s = .next s) ∧
    (∀ k f c rest, (s.egrPort p).wire = none → (s.egrPort p).preempted = none → (s.egrPort p).picked = some k →
      s.isPre p k = false → s.frame k.ref.frame = some f → f.cells = c :: rest →
      exec (.frameTxStart p .uncorrectable) s =
        .next (((s.galleyUe c).setEgr p { (s.galleyUe c).egrPort p with picked := none }).removeRef k.queue k.ref)) ∧
    (∀ w k ecc, (s.egrPort p).wire = some w → (s.egrPort p).picked = some k → s.isPre p w = true →
      s.isPre p k = false → s.canCut p w = true →
      exec (.frameTxStart p ecc) s = .next ((s.preemptWire p).beginTx p k ecc)) ∧
    (∀ w ecc, (s.egrPort p).wire = none → (s.egrPort p).picked = none → (s.egrPort p).preempted = some w →
      exec (.frameTxStart p ecc) s = .next (s.resume p w)) ∧
    (∀ w ecc, (s.egrPort p).wire = some w → (s.egrPort p).picked = none → exec (.frameTxStart p ecc) s = .next s)) ∧
  (
  ∀ (s : State) (p : Port),
    (∀ bad, (s.egrPort p).wire = none → exec (.frameTxEnd p bad) s = .next s) ∧
    (∀ w f bad, (s.egrPort p).wire = some w → s.frame w.ref.frame = some f → f.complete = false →
      exec (.frameTxEnd p bad) s = .next s) ∧
    (∀ w f bad, (s.egrPort p).wire = some w → s.frame w.ref.frame = some f → f.complete = true →
      let r := s.wireEdited p w f
      let n := r.1.length
      let t := (s.wireUe f bad).2.countSkips r.2.1 r.2.2
      let ends := fun (t : State) =>
        let t := if w.cut then t.count (R.PRT_C_MERGE_TX_FRAGMENTS p) else t
        let t := ((t.count (R.EGR_Q_C_TX_FRAMES w.queue)).countN (R.EGR_Q_C_TX_BYTES w.queue) n).chargeGap w.queue
        ((t.setEgr p { t.egrPort p with wire := none }).removeRef w.queue w.ref).pdelaySent p w.ref.frame f w.tx
      ((w.stomp || f.bad || (s.wireUe f bad).1) = false → exec (.frameTxEnd p bad) s =
        .next ((ends ((t.count (R.PRT_C_TX_FRAMES_OK p)).countN (R.PRT_C_TX_BYTES_OK p) n)).sendFrame p r.1 false
          false)) ∧
      ((w.stomp || f.bad || (s.wireUe f bad).1) = true → exec (.frameTxEnd p bad) s =
        .next ((ends (t.stompCount p f)).sendFrame p (stompFcs r.1) true false))))

/-- R219 to R222, R230: a running timetable moves to the entry of the moment, an enabled one starts at its operational
base; a timetable word is written for the staged tag alone, and any other write sets WR_ACTIVE; the host pauses and
flushes queues. -/
def Obligations.TimetablesAndQueueControl : Prop :=
  ∀ (s : State) (p : Port) (t : Tag),
    (s.ttOn p t = true → ((s.egrPort p).tt t).running = true → (s.ttNow p t).1 = ((s.egrPort p).tt t).entry →
      exec (.ttEntryChange p t) s = .next s) ∧
    (s.ttOn p t = true → ((s.egrPort p).tt t).running = true → (s.ttNow p t).1 ≠ ((s.egrPort p).tt t).entry →
      exec (.ttEntryChange p t) s = .next (((s.bringPort p).setEgr p (((s.bringPort p).egrPort p).setTt t
        { (s.egrPort p).tt t with
          entry := (s.ttNow p t).1
          hold := s.holdAfter p t ((s.egrPort p).tt t).hold
            (s.ttPassed p t ((s.egrPort p).tt t).entry (s.ttNow p t).1) })).gateEffects p)) ∧
    (s.ttOn p t = true → ((s.egrPort p).tt t).running = false → ((s.egrPort p).tt t).base ≤ s.nowNs →
      exec (.ttOperationalBase p t) s = .next ((((s.bringPort p).setEgr p (((s.bringPort p).egrPort p).setTt t
        { (s.egrPort p).tt t with
          running := true, entry := (s.ttNow p t).1
          hold := s.holdAfter p t false (List.range ((s.ttNow p t).1 + 1)) })).raiseG 40 2).gateEffects p)) ∧
    (s.nowNs < ((s.egrPort p).tt t).base → exec (.ttOperationalBase p t) s = .next s) ∧
    (∀ q : QNum, s.barOpen (R.EGR_Q_CTRL q) = true → s.fld F.CMD_ROLE_HOST_ROLE = 2 →
      (∀ b, exec (.queuePause q b) s = .next (s.setFlag (F.EGR_Q_CTRL_PAUSE q) b)) ∧
      ((s.queue q).refs = [] → exec (.queueFlush q) s = .next s) ∧
      exec (.queueFlush q) s =
        .next (s.removeRefs q (fun _ _ => true) fun u _ => u.count (R.EGR_Q_C_FLUSH_DROP q))) ∧
    (∀ data : W64, s.barOpen (R.EGR_TT_DATA p) = true → s.fld F.CMD_ROLE_HOST_ROLE = 2 →
      let i := s.reg (R.EGR_TT_INDEX p)
      (s.tagState (bitsOf i 10 10) = 1 → exec (.ttDataWrite (BitVec.ofNat 26 (R.EGR_TT_DATA p)) true data) s =
        .next (s.setTtWord p (bitsOf i 10 10) (bitsOf i 9 0) data)) ∧
      (s.tagState (bitsOf i 10 10) ≠ 1 → exec (.ttDataWrite (BitVec.ofNat 26 (R.EGR_TT_DATA p)) true data) s =
        .next ((s.setFlag (F.EGR_PORT_STATUS_WR_ACTIVE p) true).raiseG 40 3)))

/-- R238, R239, R287: FSTAGE stages the tag that is not active when both tags allow it and answers STATE otherwise;
FDISCARD begins the staged tag's release; FVERIFY answers the verifier's record and changes no forme; an FLOAD of an
unaligned image answers ADDRESS, of one that fails its checks SIGNATURE, of one that the verifier refuses VERIFY, and
any other becomes the staged tag's image. R135: while the sweep of that tag runs, FSTAGE answers BUSY. While the Keeper
is halted each answers UNAVAILABLE. -/
def Obligations.StagingCommands : Prop :=
  ∀ (s : State), s.boot.mode = .running →
    (∀ inh (seed : BitVec 32) bad, s.keeperHalted = false → s.flag F.FRM_STATUS_VALID = false →
      (s.ledger.sweep = some 0 → exec (.fstage inh seed bad) s = .next (s.answered 4 0 [])) ∧
      (s.ledger.sweep ≠ some 0 → s.tagState 0 ≠ 0 → exec (.fstage inh seed bad) s = .next (s.answered 0x10 0 [])) ∧
      (s.ledger.sweep ≠ some 0 → s.tagState 0 = 0 → s.tagState 1 = 0 →
        let l := (s.drainLearn bad).ledgerStage 0 none seed.toNat bad
        let u := (((l.watchStage 0 none).stageRegs 0 none).stageEgress 0 none).dropTerms 0
        exec (.fstage inh seed bad) s = .next (((u.setImage 0 Image.init).setTagState 0 1).answered 0 0 []))) ∧
    (∀ inh seed bad, s.keeperHalted = true → exec (.fstage inh seed bad) s = .next (s.answered 0x16 0 []) ∧
      exec .fdiscard s = .next (s.answered 0x16 0 []) ∧ exec .fverify s = .next (s.answered 0x16 0 []) ∧
      exec .fcommit s = .next (s.answered 0x16 0 [])) ∧
    (s.keeperHalted = false → s.stagedTag = none → exec .fdiscard s = .next (s.answered 0x10 0 []) ∧
      exec .fverify s = .next (s.answered 0x10 0 []) ∧ exec .fcommit s = .next (s.answered 0x10 0 [])) ∧
    (∀ t, s.keeperHalted = false → s.stagedTag = some t → exec .fdiscard s =
      .next ((({ s with ledger := { s.ledger with sweep := some t } } : State).setTagState t 5).answered 0 0 [])) ∧
    (∀ t, s.keeperHalted = false → s.stagedTag = some t → exec .fverify s =
      .next (s.answered (if (s.verifyTag t).record = 0 then 0 else 0x12) 0 [(s.verifyTag t).record])) ∧
    (∀ t (addr : BitVec 40) finds, s.keeperHalted = false → s.fencedSrc 0x605 = false → s.stagedTag = some t →
      let a := addr.toNat
      (a % 4096 ≠ 0 → exec (.fload addr finds) s = .next (s.answered 0x15 0 [])) ∧
      (a % 4096 = 0 → s.ddrMapped a 64 = false → exec (.fload addr finds) s = .next (s.answered 0x15 0 [])) ∧
      (∀ h u, a % 4096 = 0 → s.ddrMapped a 64 = true → s.ddrRead 5 a 64 finds = (some h, u) →
        (slotRoom 0 < beAt h 8 4 → exec (.fload addr finds) s = .next (u.answered 0x13 0 [])) ∧
        (∀ rest v, beAt h 8 4 ≤ slotRoom 0 → u.ddrMapped a (max 64 (beAt h 8 4)) = true →
          u.ddrRead 5 (a + 64) (beAt h 8 4 - 64) (finds.after 1) = (some rest, v) →
          (∀ e, imageCheck v.boot.otp 3 (slotRoom 0) 0 (h ++ rest) = .error e →
            exec (.fload addr finds) s = .next (v.answered 0x13 0 [])) ∧
          (∀ image words entries, imageCheck v.boot.otp 3 (slotRoom 0) 0 (h ++ rest) = .ok image →
            (imageSection image 4).bind parseProgram = some (words, entries) →
            let r := verifyImage words entries (v.budgetOf t) []
            let result := [r.record, w64 (imageCrc words)]
            (r.record = 0 → exec (.fload addr finds) s =
              .next ((v.setImage t ⟨words, entries, true, r.info⟩).answered 0 words.length result)) ∧
            (r.record ≠ 0 → exec (.fload addr finds) s = .next (v.answered 0x12 words.length result))))))

/-- R240 to R242, R245: an admitted forme is locked up, a refused one keeps its tag and answers the number of its
refusals; the old tag's release begins when none of its frames is alive, and its end leaves the tag EMPTY. -/
def Obligations.LockUpAndRelease : Prop :=
  ∀ (s : State), s.boot.mode = .running → s.keeperHalted = false →
    (∀ t, s.stagedTag = some t → (s.admission t (s.verifyTag t) false).fails = [] →
      let r := s.admission t (s.verifyTag t) false
      let u := s.recordCheck t r
      let u := u.setImage t { u.image t with verified := true, info := (s.verifyTag t).info }
      exec .fcommit s = .next (((u.setResv t r.resv).flip t).answered 0 t [])) ∧
    (∀ t f fs, s.stagedTag = some t → (s.admission t (s.verifyTag t) false).fails = f :: fs →
      exec .fcommit s = .next ((((s.recordCheck t (s.admission t (s.verifyTag t) false)).count
        R.ADM_C_REFUSALS).raiseG 41 16).answered 0x11 (min 256 (fs.length + 1)) [])) ∧
    (∀ t, s.drainingTag = some t → s.aliveFrames t = [] →
      exec .drainComplete s = .next (s.checkSettled.beginRelease t)) ∧
    (∀ t x xs, s.drainingTag = some t → s.aliveFrames t = x :: xs → exec .drainComplete s = .next s) ∧
    (∀ t, s.drainingTag = some t → s.aliveFrames t = [] →
      let u := s.raiseG 41 20
      let v := if u.flag F.FRM_STATUS_SETTLED then u else (u.setFlag F.FRM_STATUS_SETTLED true).raiseG 41 18
      exec .drainTimeout s = .next (v.beginRelease t)) ∧
    (∀ bad, s.releasingTag = none → exec (.tagReleaseDone bad) s = .next s) ∧
    (∀ t bad, s.releasingTag = some t →
      let u := ((s.ledgerRelease t bad).watchRelease t).clearTagTables t
      let u := (List.range 128).foldl (fun (v : State) p => v.setEgr p ((v.egrPort p).setTt t .init)) u
      let u := ((u.setImage t .init).setResv t 0).setTagState t 0
      let u : State := { u with forme := { u.forme with overlap := false } }
      exec (.tagReleaseDone bad) s = .next ((if u.activeTag.isSome then u.chipValues else u).raiseG 41 19)) ∧
    (∀ t, s.releasingTag = some t → ∃ u, exec (.tagReleaseDone []) s = .next u ∧ u.forme.overlap = false ∧
      (u.activeTag = none → Inv s → u.tagState t = 0 ∧ u.tagState (1 - t) = s.tagState (1 - t)))

/-- R260, R261, R269, R270: SLEW starts to apply the OFFSET, clamped to 1 ms; a step and TIME_SET move the time base at
once; FREQ_TRIM sets FREQ; the end of a slew has applied all of it. R264, R269, R270, R272, R273: PPS_OUT rises only
while enabled, at a whole second, and falls when its WIDTH has passed; a PPS_IN edge records its time and sets LOAD's
second where LOAD is set; a read of TIM_NOW_FRAC copies the time base, and a read of TIM_TXTS_POP takes the oldest
report (in D3hot, R304, each is answered Unsupported Request). -/
def Obligations.TimeBaseAndPps : Prop :=
  (
  ∀ (s : State), s.time.slew = none →
    (s.barOpen R.TIM_FREQ = true → s.fld F.CMD_ROLE_HOST_ROLE = 2 → ∀ v : W32,
      exec (.freqTrim v) s = .next (s.setFld F.TIM_FREQ_FREQ v.toNat)) ∧
    (s.barOpen R.TIM_ADJ_CMD = true → s.fld F.CMD_ROLE_HOST_ROLE = 2 → Inv s →
      (∃ t, exec .slew s = .next t ∧ t = { s with time := t.time, regs := t.regs } ∧
        t.time.slew = some (max (-1000000) (min 1000000 (signed 32 (s.fld F.TIM_ADJ_OFFSET))) * 5497558138880) ∧
        t.time.now = s.time.now ∧ t.time.cycles = s.time.cycles ∧ t.time.reports = s.time.reports ∧
        t.flag F.TIM_STATUS_SLEWING = true) ∧
      (∃ t, exec .timeStep s = .next t ∧ t.time.slew = none ∧ t.time.cycles = s.time.cycles ∧
        ((t.time.now : Int) - ((s.time.now : Int) + signed 32 (s.fld F.TIM_ADJ_OFFSET) * 5497558138880)) %
          (2 ^ 48 * 1000000000 * 5497558138880) = 0 ∧ t.time.now < tbWrap)) ∧
    (s.barOpen R.TIM_SET_CMD = true → s.fld F.CMD_ROLE_HOST_ROLE = 2 → ∃ t, exec .timeSet s = .next t ∧
      t.time.slew = none ∧ t.time.now = ((s.fld F.TIM_SET_SEC_HI_SEC_HI * 2 ^ 32 + s.fld F.TIM_SET_SEC_LO_SEC_LO) *
        1000000000 + min 999999999 (s.fld F.TIM_SET_NS_NS)) * 5497558138880 % tbWrap) ∧
    exec .slewEnd s = .next s ∧
    (∀ rest : Int, ∃ t, exec .slewEnd { s with time := { s.time with slew := some rest } } = .next t ∧
      t.time.slew = none ∧ (s.fld F.TIM_FREQ_FREQ = 0 → rest.natAbs = 8 * 2 ^ 30 →
        t.time.now = (((s.time.now : Int) + 8 * 2 ^ 40 + rest) % (tbWrap : Int)).toNat ∧
        t.time.cycles = s.time.cycles + 1))) ∧
  (
  ∀ (s : State),
    (s.flag F.TIM_PPS_OUT_CFG_PPS_OUT_EN = true → s.atSecond = true → s.time.ppsOut = false →
      exec .ppsOutRise s = .next { s with time := { s.time with ppsOut := true, ppsAt := s.time.cycles } }) ∧
    (s.flag F.TIM_PPS_OUT_CFG_PPS_OUT_EN = false ∨ s.atSecond = false ∨ s.time.ppsOut = true →
      exec .ppsOutRise s = .next s) ∧
    (s.time.ppsOut = true → s.time.ppsAt + 625 * s.fld F.TIM_PPS_OUT_CFG_WIDTH ≤ s.time.cycles →
      exec .ppsOutFall s = .next { s with time := { s.time with ppsOut := false } }) ∧
    (s.time.ppsOut = false ∨ s.time.cycles < s.time.ppsAt + 625 * s.fld F.TIM_PPS_OUT_CFG_WIDTH →
      exec .ppsOutFall s = .next s) ∧
    (s.flag F.TIM_PPS_IN_CFG_PPS_IN_EN = false → exec .ppsInEdge s = .next s) ∧
    (s.flag F.TIM_PPS_IN_CFG_PPS_IN_EN = true → s.flag F.TIM_PPS_IN_CFG_LOAD = false → s.flag F.TIM_PPS_IN_TS_VALID = false →
      s.flag F.TIM_PPS_IN_TS_OVF = false → exec .ppsInEdge s =
        .next ((((s.setReg R.TIM_PPS_IN_TS (w64 (2 ^ 31 + stampNs s.stamp))).setFld F.TIM_PPS_IN_SEC_SEC_LO
          (stampSec s.stamp)).count R.TIM_C_PPS_IN_EDGES).raiseG 42 2)) ∧
    (s.flag F.TIM_PPS_IN_CFG_PPS_IN_EN = true → s.flag F.TIM_PPS_IN_CFG_LOAD = true → ∃ t, exec .ppsInEdge s = .next t ∧
      t.time.now = s.fld F.TIM_PPS_LOAD_SEC_LOAD_SEC * 1000000000 * 5497558138880) ∧
    (s.host.d3hot = false → exec .timeNowLatch s = .next ((((s.setFld F.TIM_NOW_NS_NS (stampNs s.stamp)).setFld F.TIM_NOW_SEC_LO_SEC_LO
      (stampSec s.stamp)).setFld F.TIM_NOW_SEC_HI_SEC_HI (stampSec s.stamp / 2 ^ 32)).emit
        (.readData (toLE 4 (s.stamp % 65536)) false))) ∧
    (s.host.d3hot = true → exec .timeNowLatch s = .next (s.emit .unsupported) ∧
      exec .txtsPop s = .next (s.emit .unsupported)) ∧
    (s.host.d3hot = false → s.time.reports = [] → exec .txtsPop s = .next (s.emit (.readData (List.replicate 8 0) false))) ∧
    (∀ r rest, s.host.d3hot = false → s.time.reports = r :: rest → exec .txtsPop s =
      .next ((({ s with time := { s.time with reports := rest } } : State).setReg R.TIM_TXTS_POP1
        (w64 (stampNs r.stamp * 2 ^ 34 + r.stamp % 65536))).emit
        (.readData (toLE 8 (w64 (2 ^ 63 + r.port * 2 ^ 56 + r.ident * 2 ^ 48 + stampSec r.stamp)).toNat) false))))

/-- R281, R283, R291, R292: a doorbell stores PI unless it overruns the ring; a block fetched from the ring advances CI
and enters the queue or is refused as MALFORMED; an I2C master's block goes through its mailbox, and I2C_GO is refused
when the queue is full. R280, R284, R290, R294, R295: the block at the front of the queue runs its instructions in
order and leaves a result; NOP succeeds; a read of a result header sees READY = 0 while a block of its source waits,
and otherwise marks it read. -/
def Obligations.CommandBlocks : Prop :=
  (
  ∀ (s : State),
    (∀ pi : BitVec 16, s.barOpen R.CMD_RING_PI = true →
      let n := (pi.toNat + 65536 - s.fld F.CMD_RING_CI_CI) % 65536
      (n ≤ s.ringSlots → exec (.ringDoorbell pi) s = .next (s.setFld F.CMD_RING_PI_PI pi.toNat)) ∧
      (s.ringSlots < n → exec (.ringDoorbell pi) s =
        .next (((s.setFlag F.CMD_RING_CI_ERR true).count R.CMD_C_RING_ERR).raiseG 41 6))) ∧
    (∀ words, s.dmaBlocked = false → s.flag F.CMD_RING_CFG_EN = true → s.fld F.CMD_RING_PI_PI ≠ s.fld F.CMD_RING_CI_CI →
      s.cmdFull = false →
      let ci := s.fld F.CMD_RING_CI_CI
      let t := s.setFld F.CMD_RING_CI_CI ((ci + 1) % 65536)
      let b : CmdBlock := ⟨0, words, t.fld F.CMD_ROLE_HOST_ROLE, ci % s.ringSlots, none, false⟩
      (blockBad 0 words = false → b.forbidden = false → exec (.ringBlockFetched words) s =
        .next { t with cmd := { t.cmd with queue := s.cmd.queue ++ [b] } }) ∧
      (blockBad 0 words = true → exec (.ringBlockFetched words) s =
        .next (((t.count R.CMD_C_MALFORMED).raiseG 41 4).blockDone b [resultHeader (blockSeq words) 0x20 0 1])) ∧
      (blockBad 0 words = false → b.forbidden = true → exec (.ringBlockFetched words) s =
        .next (((t.count R.CMD_C_ROLE_DROP_HOST).raiseG 41 3).blockDone b [resultHeader (blockSeq words) 0x21 0 1]))) ∧
    (∀ words, s.dmaBlocked = true → exec (.ringBlockFetched words) s = .next s) ∧
    (∀ words, s.held = true → exec (.i2cGo words) s = .next s) ∧
    (∀ words, s.held = false →
      let m := s.mailboxWrite words
      (m.cmdFull = true → exec (.i2cGo words) s = .next ((m.setFlag F.CMD_I2C_CTRL_REFUSED true).raiseG 41 5)) ∧
      (m.cmdFull = false → blockBad 1 m.mailbox = false → m.fld F.CMD_ROLE_I2C_ROLE = 2 →
        (∀ i ∈ (blockInstrs m.mailbox).getD [], roleMay 2 (ctrlOp i.1) (ctrlFunc i.1) = true) →
        exec (.i2cGo words) s =
          .next { m with cmd := { m.cmd with queue := m.cmd.queue ++ [⟨1, m.mailbox, 2, 0, none, false⟩] } }))) ∧
  (
  ∀ (s : State),
    (∀ found, s.cmd.queue = [] → exec (.blockExecute found) s = .next s) ∧
    (∀ found, s.cmdOpen = false → exec (.blockExecute found) s = .next s) ∧
    (∀ b rest found, s.cmd.queue = b :: rest → s.cmdOpen = true →
      let t : State := { s with cmd := { s.cmd with queue := rest } }
      (b.forbidden = false → exec (.blockExecute found) s = .next (t.blockRun b found)) ∧
      (b.forbidden = true → exec (.blockExecute found) s = .next (t.roleRefuse b))) ∧
    (∀ b rest w found, s.cmd.queue = b :: rest → s.cmdOpen = true → b.forbidden = false →
      blockInstrs b.words = some [(w, [])] → ctrlOp w = 0x3E → ctrlFunc w = 0 →
      let t : State := { s with cmd := { s.cmd with queue := rest } }
      exec (.blockExecute found) s = .next (((t.count R.CMD_C_INSTRS).count R.CMD_C_BLOCKS).blockDone b
        [resultHeader (blockSeq b.words) 0 1 2, 0])) ∧
    (s.boot.mode = .running → exec .nop s = .next (s.answered 0 0 [])) ∧
    (∀ src : Fin 130, s.host.d3hot = false → (∃ b ∈ s.cmd.queue, b.source = src.val) →
      ∃ t, exec (.resultHeaderRead src) s = .next t ∧ t = { s with out := t.out }) ∧
    (∀ src : Fin 130, s.host.d3hot = false → (∀ b ∈ s.cmd.queue, b.source ≠ src.val) →
      bitOf (s.reg (R.CMD_RESULT src 0)) 63 = true →
      exec (.resultHeaderRead src) s = .next ((s.emit (.readData (toLE 8 (s.reg (R.CMD_RESULT src 0)).toNat) false)).setReg
        (R.CMD_RESULT src 0) (s.reg (R.CMD_RESULT src 0) ||| w64 (2 ^ 62)))))

/-- R143, R153, R155, R156, R286, R289: the table instructions act on the Keeper after the learning requests that came
before them (TBL 1 names the L2 table, as 0 does): a fork slot is written and deleted by its index for the staged or
active tag, a raw entry is read, a search answers what a lookup would, TFLUSH answers how many entries it took; a wrong
data count is RANGE and does nothing, and a read of an entry of bad parity answers PARITY. `bad` names the entries
whose parity fails when they are read. -/
def Obligations.TableInstructions : Prop :=
  ∀ (s : State) (bad : ParityBad), s.boot.mode = .running → s.keeperHalted = false →
    let d := s.drainLearn bad
    (∀ (tag : Tag) dir (idx : BitVec 18) v, d.tagRefusal tag.val = none → idx.toNat < 2 ^ 14 →
      entryBad 5 [v] = false → d.bankOut 5 (tag.val * 2 ^ 14 + idx.toNat) = false →
      exec (.twrite 5 tag dir idx [v] bad) s = .next ((d.setEntry 5 (tag.val * 2 ^ 14 + idx.toNat)
        (setValid 5 [v] true)).answered 0 (tag.val * 2 ^ 14 + idx.toNat) [])) ∧
    (∀ (table : BitVec 4) (tag : Tag) dir (idx : BitVec 18) data,
      (writeWords (tblOf table.toNat) dir ≠ some data.length →
        exec (.twrite table tag dir idx data bad) s = .next (d.answered 5 0 [])) ∧
      (deleteWords (tblOf table.toNat) ≠ some data.length →
        exec (.tdelete table tag dir idx data bad) s = .next (d.answered 5 0 []))) ∧
    (∀ (table : BitVec 4) (tag : Tag) dir (idx : BitVec 18) data,
      (tblOf table.toNat ≠ 6 → writeWords (tblOf table.toNat) dir = some data.length →
        let r := d.keeperWrite (tblOf table.toNat) tag.val idx.toNat data bad
        exec (.twrite table tag dir idx data bad) s = .next (r.2.answered r.1.1 r.1.2.1 r.1.2.2)) ∧
      (tblOf table.toNat ≠ 6 → deleteWords (tblOf table.toNat) = some data.length →
        let r := d.keeperDelete (tblOf table.toNat) tag.val idx.toNat data bad
        exec (.tdelete table tag dir idx data bad) s = .next (r.2.answered r.1.1 r.1.2.1 r.1.2.2))) ∧
    (∀ (table : BitVec 4) dir (a : BitVec 18), table.toNat < 6 →
      let t := tblOf table.toNat
      let act := b2n (t == 0 && d.activity a.toNat) * 2 ^ 39
      (a.toNat < tblSize t → bad.has t a.toNat = false →
        exec (.tread table dir a bad) s = .next (d.answered 0 act (d.entry t a.toNat))) ∧
      (a.toNat < tblSize t → bad.has t a.toNat = true →
        exec (.tread table dir a bad) s = .next ((d.parityHit t a.toNat).answered 7 act [])) ∧
      (tblSize t ≤ a.toNat → exec (.tread table dir a bad) s = .next (d.answered 5 0 []))) ∧
    (∀ (table : BitVec 4) (tag : Tag) key, (searchWords (tblOf table.toNat) = some key.length →
        let r := d.keeperSearch (tblOf table.toNat) tag.val key bad
        exec (.tsearch table tag key bad) s = .next (r.2.answered r.1.1 r.1.2.1 r.1.2.2)) ∧
      (searchWords (tblOf table.toNat) ≠ some key.length →
        exec (.tsearch table tag key bad) s = .next (d.answered 5 0 []))) ∧
    (∀ (table : BitVec 4) (tag : Tag) (start : BitVec 18) filter, table.toNat < 6 →
      let r := d.keeperNext (tblOf table.toNat) tag.val start.toNat filter bad
      exec (.tnext table tag start filter bad) s = .next (r.2.answered r.1.1 r.1.2.1 r.1.2.2)) ∧
    (∀ v (fid : BitVec 12) (port : Port),
      let r := d.flushPort port.val (if v then some fid.toNat else none) bad
      exec (.tflush v fid port bad) s = .next (r.2.answered 0 r.1 []))

/-- R277, R288, R296, R353, R359, R370: SNAPSHOT of no unit answers the time, and one at an address that is not a
multiple of 1 MiB or not mapped answers ADDRESS; CAPARM and CAPTRIG act on the capture path; ROLE sets the role that it
names and refuses every other source or role; ARCREAD needs a running Archive. -/
def Obligations.UnitInstructions : Prop :=
  ∀ (s : State), s.boot.mode = .running →
    (∀ (addr : BitVec 40) finds, addr.toNat % 2 ^ 20 = 0 → s.ddrMapped addr.toNat 1 = true →
      ∃ t, exec (.snapshot 0 addr finds) s = .next t ∧
        t.cmd.last = [w64 (2 * 2 ^ 40), w64 (stampSec s.stamp), w64 (stampNs s.stamp)] ∧ t.ddr.mem = s.ddr.mem) ∧
    (∀ units (addr : BitVec 40) finds, addr.toNat % 2 ^ 20 ≠ 0 ∨ s.ddrMapped addr.toNat 1 = false →
      exec (.snapshot units addr finds) s = .next (s.answered 0x15 0 [])) ∧
    (∀ (sel : BitVec 8) arm data, let r := s.capArm sel.toNat arm data;
      exec (.caparm sel arm data) s = .next (r.2.answered r.1 0 [])) ∧
    (∀ cause : BitVec 8, exec (.captrig cause) s = .next ((s.trigger 4 cause.toNat s.stamp).answered 0 0 [])) ∧
    (∀ r : BitVec 2, r ≠ 3 → exec (.role 0 r) s = .next ((s.setFld F.CMD_ROLE_HOST_ROLE r.toNat).answered 0 0 []) ∧
      exec (.role 1 r) s = .next ((s.setFld F.CMD_ROLE_I2C_ROLE r.toNat).answered 0 0 []) ∧
      ∀ src : BitVec 8, 2 ≤ src.toNat → src.toNat ≤ 129 →
        exec (.role src r) s = .next ((s.setFld (F.PRT_ROLE_ROLE (src.toNat - 2)) r.toNat).answered 0 0 [])) ∧
    (∀ src r, r = 3 ∨ 129 < src.toNat → exec (.role src r) s = .next (s.answered 5 0 [])) ∧
    (∀ w0 w1 reads, s.arcState ≠ 3 → s.arcState ≠ 4 → exec (.arcread w0 w1 reads) s = .next (s.answered 0x16 0 [])) ∧
    (∀ w0 w1 reads bs bad first soft t, s.arcState = 3 ∨ s.arcState = 4 →
      s.arcPages (bitOf w0 63) (bitsOf w0 55 40) (bitsOf w0 31 0) (bitsOf w1 63 40) reads = some (bs, bad, first, soft, t) →
      let k := t.fld F.ARC_READ_RING_RING
      let dest := bitsOf w1 39 0
      let words := [w64 (bitsOf w0 55 40), w64 bad, w64 first, w64 soft]
      (dest = 0xFFFFFFFFFF →
        exec (.arcread w0 w1 reads) s = .next ((t.setStreams k (t.streams k ++ [bs])).answered 0 0 words)) ∧
      (dest ≠ 0xFFFFFFFFFF → dest % 4096 = 0 → s.ddrMapped dest bs.length = true →
        exec (.arcread w0 w1 reads) s = .next ((t.ddrWrite 1 dest bs []).answered 0 0 words)))

/-- R304, R305, R307 to R310: a bad BAR0 access is ignored or reads zero and is recorded; only a write of 8 bytes
changes a window entry; a request through BAR2 that its window does not permit is refused, recorded and answered
Unsupported Request; a permitted read of an unmapped address is refused as kind 3; a resize of BAR2 makes every window
invalid. -/
def Obligations.WindowAccess : Prop :=
  ∀ (s : State),
    (∀ off : BitVec 26, s.host.d3hot = false → exec (.bar0BadAccess false off) s = .next (s.barErr false off.toNat) ∧
      exec (.bar0BadAccess true off) s = .next ((s.barErr true off.toNat).emit (.readData [0, 0, 0, 0] false))) ∧
    (s.host.d3hot = true → ∀ (off : BitVec 26) (w : Fin 16),
      exec (.bar0BadAccess false off) s = .next (s.emit .unsupported) ∧
      exec (.winEntryRead w) s = .next (s.emit .unsupported)) ∧
    (∀ w : Fin 16, s.barOpen (R.HST_WIN w) = true → s.fld F.CMD_ROLE_HOST_ROLE = 2 →
      (∀ data, ∃ t, exec (.winEntryWrite w true data) s = .next t ∧
        t = { s with regs := t.regs } ∧ (∀ o, o ≠ R.HST_WIN w → t.reg o = s.reg o) ∧
        (Inv s → bitsOf (t.reg (R.HST_WIN w)) 39 12 = bitsOf data 39 12 ∧
          bitsOf (t.reg (R.HST_WIN w)) 63 61 = bitsOf data 63 61 ∧ bitsOf (t.reg (R.HST_WIN w)) 60 40 = 0)) ∧
      (∀ data, exec (.winEntryWrite w false data) s = .next (s.barErr false (R.HST_WIN w)))) ∧
    (∀ w : Fin 16, s.host.d3hot = false → exec (.winEntryRead w) s = .next (s.emit (.readData (toLE 8 (s.reg (R.HST_WIN w)).toNat) false))) ∧
    (∀ (write : Bool) (off : BitVec 36) size data finds, s.host.linkUp = true → s.host.d3hot = false →
      s.flag F.HST_STATUS_FROZEN = false → off.toNat < 2 ^ s.host.bar2Log →
      (let room := 2 ^ s.host.bar2Log / 16
       let entry := s.reg (R.HST_WIN (off.toNat / room))
       let a := bitsOf entry 39 12 * 4096 + off.toNat % room
       let allowed := bitOf entry 63 && bitOf entry (if write then 62 else 61)
       (allowed = false → exec (.bar2Request write off size data finds) s =
         .next ((s.winRefused 1 (off.toNat / room) (off.toNat % room) (!write)).emit .unsupported)) ∧
       (allowed = true → s.target a size.val = .unmapped → exec (.bar2Request write off size data finds) s =
         .next ((s.winRefused 3 (off.toNat / room) (off.toNat % room) (!write)).emit .unsupported)) ∧
       (allowed = true → s.target a size.val = .galley → write = true → exec (.bar2Request write off size data finds) s =
         .next ((s.winRefused 2 (off.toNat / room) (off.toNat % room) false).emit .unsupported)) ∧
       (allowed = true → s.target a size.val = .ledger → write = false → exec (.bar2Request write off size data finds) s =
         .next (s.complete ((List.range size.val).map fun k => s.ledgerByte (a - 0x200000000 + k)) false)) ∧
       (allowed = true → s.target a size.val = .ddr → write = true → exec (.bar2Request write off size data finds) s =
         .next (s.ddrWrite 3 a (padTo size.val data) finds)))) ∧
    (∀ (off : BitVec 36) size data finds, s.host.linkUp = true → s.host.d3hot = false →
      s.flag F.HST_STATUS_FROZEN = true → off.toNat < 2 ^ s.host.bar2Log →
      exec (.bar2Request true off size data finds) s = .next (s.count R.HST_C_FROZEN_DROP)) ∧
    (∀ log2 : Fin 37, 24 ≤ log2.val → ∃ t, exec (.barResize log2) s = .next t ∧ t.host = { s.host with bar2Log := log2.val } ∧
      t = { s with host := t.host, regs := t.regs } ∧ (Inv s → ∀ w : Fin 16, bitOf (t.reg (R.HST_WIN w)) 63 = false))

/-- R321, R323, R325: a START moves a stopped channel to RUNNING and clears STOP_CODE, and is ignored while the
interface is frozen, Bus Master Enable is 0 or the channel runs; a STOP acts at a descriptor boundary, and the channel
is STOPPING while an injection is under way; enabling an idle ring makes it active at HEAD, and disabling one whose
descriptor is under way makes it CLOSING; a doorbell sets DB_PEND of an active ring and makes a stopped ring read its
word 1 again; the word 1 read when an injection has all its cells commits it. -/
def Obligations.RingsAndChannels : Prop :=
  ∀ (s : State),
    (∀ c : Chan, s.barOpen (R.DMA_CH_CTRL c) = true →
      (s.dmaBlocked = false → s.fld (F.DMA_CH_STATUS_STATE c) = 0 → exec (.dmaChStart c) s =
        .next ((s.setFld (F.DMA_CH_STATUS_STATE c) 1).setFld (F.DMA_CH_STATUS_STOP_CODE c) 0)) ∧
      (s.dmaBlocked = true → exec (.dmaChStart c) s = .next s) ∧
      (s.fld (F.DMA_CH_STATUS_STATE c) ≠ 0 → exec (.dmaChStart c) s = .next s) ∧
      (s.fld (F.DMA_CH_STATUS_STATE c) = 1 → (∀ k ∈ chanRings c.val, s.injecting k = none) →
        ∃ t, exec (.dmaChStop c) s = .next t ∧
          t = { s with regs := t.regs, host := { s.host with stopping := t.host.stopping } } ∧
          (∀ o, o ≠ R.DMA_CH_STATUS c → t.reg o = s.reg o) ∧
          (Inv s → t.fld (F.DMA_CH_STATUS_STATE c) = 0 ∧ t.fld (F.DMA_CH_STATUS_STOP_CODE c) = 1)) ∧
      (s.fld (F.DMA_CH_STATUS_STATE c) = 1 → (∀ k ∈ chanRings c.val, ∀ i r, s.injecting k ≠ some (.frame i r true)) →
        (∃ k ∈ chanRings c.val, s.injecting k ≠ none) → exec (.dmaChStop c) s = .next
          (({ s with host := { s.host with stopping := tput (fun _ => none) s.host.stopping c.val (some 1) } } :
            State).setFld (F.DMA_CH_STATUS_STATE c) 2)) ∧
      (s.fld (F.DMA_CH_STATUS_STATE c) = 0 → exec (.dmaChStop c) s = .next s)) ∧
    (∀ k : Ring, s.barOpen (R.DMA_RING_CFG k) = true →
      (s.ringState k = 0 → exec (.ringEnable k) s = .next
        (((s.setFlag (F.DMA_RING_CFG_EN k) true).setReg (R.DMA_RING_CUR k)
          (w64 ((s.reg (R.DMA_RING_HEAD k)).toNat / 32 * 32))).setRingState k 1)) ∧
      (s.ringState k ≠ 0 → exec (.ringEnable k) s = .next (s.setFlag (F.DMA_RING_CFG_EN k) true)) ∧
      (∃ t, exec (.ringDisable k) s = .next t ∧ t = { s with regs := t.regs, host := t.host } ∧
        (Inv s → t.flag (F.DMA_RING_CFG_EN k) = false) ∧
        (Inv s → s.ringState k ≠ 3 → s.injecting k = none → t.ringState k = 0) ∧
        (Inv s → s.ringState k = 1 → s.injecting k ≠ none → t.ringState k = 3) ∧
        (Inv s → s.ringState k = 3 → t.ringState k = 3))) ∧
    (∀ k : Ring, s.barOpen (R.DMA_RING_DB k) = true →
      (s.ringState k = 1 → exec (.dmaRingDb k) s = .next (s.setFlag (F.DMA_RING_STATE_DB_PEND k) true)) ∧
      (s.ringState k = 2 → s.host.reread.contains k.val = false → exec (.dmaRingDb k) s =
        .next { s with host := { s.host with reread := s.host.reread ++ [k.val] } }) ∧
      (s.ringState k = 0 → exec (.dmaRingDb k) s = .next s)) ∧
    (∀ (k : Ring) (w : W64) i r, s.dmaBlocked = false → s.injecting k = some (.frame i r false) →
      (s.frame i).isSome = true → (s.injectNeeds k).1 = false → (s.injectNeeds k).2 = false →
      exec (.descWord1Read k w) s = .next ((s.commitInjected k i r w).chanSettle (k.val / 16))) ∧
    (∀ (k : Ring) (w : W64), s.host.reread.contains k.val = true → s.dmaBlocked = false → s.injecting k = none →
      (exec (.descWord1Read k w) s = .next (s.word1Arrived k w)) ∧
      (s.ringState k = 2 → bitOf w 0 = false → exec (.descWord1Read k w) s =
        .next ((({ s with host := { s.host with reread := s.host.reread.filter (· != k.val) } } : State).setReg
          (R.DMA_RING_CUR k) (w64 (w.toNat / 32 * 32))).setRingState k 1)) ∧
      (s.ringState k = 2 → bitOf w 0 = true → exec (.descWord1Read k w) s =
        .next { s with host := { s.host with reread := s.host.reread.filter (· != k.val) } })) ∧
    (∀ (k : Ring) (w : W64), s.dmaBlocked = true ∨ (s.injecting k = none ∧ s.host.reread.contains k.val = false) →
      exec (.descWord1Read k w) s = .next s)

/-- R313, R314, R317, R318, R320: a descriptor whose request is malformed completes with DESC and stops the channel; an
injection into a class under admission, a port that is off or a length out of range completes with its status; a sound
one makes a frame and draws its cells; a COPY writes DDR or writes host memory, up to a burst that errs (DDR_ECC); a
stream's bytes fill the buffer and end with EOS, or with WITHDRAWN and the bytes delivered by then; a punted frame goes
out behind its punt header. -/
def Obligations.DescriptorTransfers : Prop :=
  ∀ (s : State) (k : Ring) (d : Desc),
    (s.ringReady k 1 d.word1 = true → descBad 1 d.request = false →
      (let r := d.request
       let len := bitsOf r 15 0
       let port := bitsOf r 22 16
       let frame := { Frame.start (.host k) s.builtTag 0 false s.stamp (bitsOf r 29 23) with
         complete := true
         tsreq := if bitOf r 30 then some (bitsOf r 53 46) else none
         ptpCf := if bitOf r 31 then some (bitsOf r 45 32) else none }
       let ok := s.fld (F.PRT_MODE_MODE port) ≠ 0 ∧ s.flag (F.PRT_STATUS_FUSED_SUB port) = false
       let free := ∀ t, s.activeTag = some t → s.admClass t (bitsOf r 29 23 / 16) = false
       (∀ data, free → ¬ok → exec (.txFrameInject k d data) s = .next (s.descDone k 3 0 false false d.word1)) ∧
       (∀ data, (∃ t, s.activeTag = some t ∧ s.admClass t (bitsOf r 29 23 / 16) = true) →
         exec (.txFrameInject k d data) s = .next (s.descDone k 2 0 false false d.word1)) ∧
       (∀ data, free → ok → len < 60 ∨ 9724 < len →
         exec (.txFrameInject k d data) s = .next (s.descDone k 4 0 false false d.word1)) ∧
       (∀ data, free → ok → 60 ≤ len → len ≤ 9724 → data.length < len →
         exec (.txFrameInject k d data) s = .next (s.descHostError k 0 d.word1)) ∧
       (∀ data, free → ok → 60 ≤ len → len ≤ 9724 → len ≤ data.length →
         let q := s.newFrame { frame with bytes := data.take len }
         exec (.txFrameInject k d data) s =
           .next ((State.injectCells injectMax k false (q.2.setInjecting k (some (.frame q.1 r false)))).injectFinish k
             d.word1)))) ∧
    (∀ data, s.ringReady k 1 d.word1 = true → descBad 1 d.request = true →
      exec (.txFrameInject k d data) s = .next (s.descError k d.word1)) ∧
    (∀ data e, s.ringReady k 3 d.word1 = true → descBad 3 d.request = true →
      exec (.dmaCopy k d data e) s = .next (s.descError k d.word1)) ∧
    (∀ r rest, s.puntQueue k = r :: rest → s.ringReady k 0 d.word1 = true → descBad 0 d.request = true →
      exec (.rxFrameDeliver k d) s = .next (s.descError k d.word1)) ∧
    (∀ b rest w, s.streams k = b :: rest → s.ringReady k 2 d.word1 = true → descBad 2 d.request = true →
      exec (.rxStreamDeliver k d w) s = .next (s.descError k d.word1)) ∧
    (s.puntQueue k = [] → exec (.rxFrameDeliver k d) s = .next s) ∧
    (∀ r rest f, s.puntQueue k = r :: rest → s.ringReady k 0 d.word1 = true → descBad 0 d.request = false →
      s.frame r.frame = some f →
      (let bs := s.puntHeader f r.reason ++ f.bytes
       let len := bitsOf d.request 15 0
       let t := s.emit (.hostWrite d.buf.toNat (bs.take len) s.host.cfg.relaxed)
       exec (.rxFrameDeliver k d) s = .next (((t.setPuntQueue k rest).descDone k 0 (min len bs.length)
         (decide (len < bs.length)) false d.word1).release r.frame 0x11))) ∧
    (s.ringReady k 3 d.word1 = true → descBad 3 d.request = false →
      (let addr := bitsOf d.request 55 16
       let len := if bitsOf d.request 15 0 = 0 then 65536 else bitsOf d.request 15 0
       (∀ data e, s.ddrMapped addr len = false →
         exec (.dmaCopy k d data e) s = .next (s.descDone k 8 0 false false d.word1)) ∧
       (∀ data e, s.ddrMapped addr len = true → bitOf d.request 56 = false → len ≤ data.length →
         exec (.dmaCopy k d data e) s =
           .next ((s.ddrWrite 4 addr (data.take len) e).descDone k 0 len false false d.word1)) ∧
       (∀ data e b bs ok t, s.ddrMapped addr len = true → bitOf d.request 56 = true →
         s.ddrReadTo 4 addr len e = (b :: bs, ok, t) →
         exec (.dmaCopy k d data e) s =
           .next ((t.emit (.hostWrite d.buf.toNat (b :: bs) s.host.cfg.relaxed)).descDone k (if ok then 0 else 9)
             (bs.length + 1) false false d.word1)) ∧
       (∀ data e t, s.ddrMapped addr len = true → bitOf d.request 56 = true →
         s.ddrReadTo 4 addr len e = ([], false, t) →
         exec (.dmaCopy k d data e) s = .next (t.descDone k 9 0 false false d.word1)))) ∧
    (s.streams k = [] → ∀ w, exec (.rxStreamDeliver k d w) s = .next s) ∧
    (∀ b bs rest, s.streams k = (b :: bs) :: rest → s.ringReady k 2 d.word1 = true → descBad 2 d.request = false →
      0 < bitsOf d.request 15 0 →
      (exec (.rxStreamDeliver k d (some 0)) s = .next ((s.setStreams k rest).descDone k 1 0 false false d.word1)) ∧
      (∀ n : BitVec 16, 0 < n.toNat →
        let now := (b :: bs).take (min n.toNat (bitsOf d.request 15 0))
        exec (.rxStreamDeliver k d (some n)) s = .next (((s.emit (.hostWrite d.buf.toNat now
          s.host.cfg.relaxed)).setStreams k rest).descDone k 1 now.length false false d.word1)) ∧
      ((b :: bs).length ≤ bitsOf d.request 15 0 → exec (.rxStreamDeliver k d none) s =
        .next (((s.emit (.hostWrite d.buf.toNat (b :: bs) s.host.cfg.relaxed)).setStreams k rest).descDone k 0 (b :: bs).length false true
          d.word1)) ∧
      (bitsOf d.request 15 0 < (b :: bs).length → exec (.rxStreamDeliver k d none) s =
        .next (((s.emit (.hostWrite d.buf.toNat ((b :: bs).take (bitsOf d.request 15 0)) s.host.cfg.relaxed)).setStreams k
          ((b :: bs).drop (bitsOf d.request 15 0) :: rest)).descDone k 0 (bitsOf d.request 15 0) false false d.word1)))

/-- R304, R329, R330: a reset of the endpoint leaves the formes, the tables, the waybills, DDR, the start machine and
the time base as they are; PERST_N, a hot reset and a link that goes down take the link down, and a Function Level
Reset keeps it as it is; D3hot and a cleared Bus Master Enable abort the channels; a link comes up unless PERST_N is
low. -/
def Obligations.LinkAndResets : Prop :=
  ∀ (s : State),
    (∃ t, exec .perstNFall s = .next t ∧ t.host.linkUp = false ∧ t.boot = { s.boot with perstLow := true } ∧
      t.forme = s.forme ∧ t.ledger = s.ledger ∧ t.wbl = s.wbl ∧ t.ddr = s.ddr ∧ t.time = s.time) ∧
    exec .perstNRise s = .next { s with boot := { s.boot with perstLow := false } } ∧
    (∃ t, exec .hotReset s = .next t ∧ exec .pcieLinkDown s = .next t ∧ t.host.linkUp = false ∧ t.host.bme = false ∧
      t.boot = s.boot ∧ t.forme = s.forme ∧ t.ledger = s.ledger ∧ t.wbl = s.wbl ∧ t.ddr = s.ddr ∧ t.time = s.time) ∧
    (∃ t, exec .flr s = .next t ∧ t.host.linkUp = s.host.linkUp ∧ t.host.bme = false ∧
      t.boot = s.boot ∧ t.forme = s.forme ∧ t.ledger = s.ledger ∧ t.wbl = s.wbl ∧ t.ddr = s.ddr ∧ t.time = s.time) ∧
    exec .d3hotEntry s = .next { s.abortAll 2 with host := { (s.abortAll 2).host with d3hot := true } } ∧
    exec .d0Return s = .next ({ s with host := { s.host with d3hot := false } } : State).flushPba ∧
    (let t := { s.abortAll 2 with host := { (s.abortAll 2).host with bme := false } }
     exec .bmeClear s = .next (if s.host.bme then t.raiseG 43 1 else t)) ∧
    (∀ cfg, exec (.bmeSet cfg) s = .next ({ s with host := { s.host with bme := true, cfg := cfg } } : State).flushPba) ∧
    (∀ (speed : Fin 5) (width : Fin 9), s.boot.perstLow = false → s.held = false →
      ∃ t, exec (.pcieLinkUp speed width) s = .next t ∧ t.host.linkUp = true ∧ t.host.bme = s.host.bme ∧
        t.forme = s.forme ∧ t.boot = s.boot) ∧
    (∀ (speed : Fin 5) (width : Fin 9), s.boot.perstLow = true → exec (.pcieLinkUp speed width) s = .next s)

/-- R328, R331 to R334: a marked uncorrectable error is recorded in the AER status and freezes the host interface with
its cause, and an unmarked one does not; a release while a marked error's status stands is refused; the end of a hold
sends the message that waited; an unmasked vector sends its pending message; a late completion counts while its tag is
in quarantine. -/
def Obligations.FreezeAndMessages : Prop :=
  ∀ (s : State),
    (∀ (bit : BitVec 5) (header : BitVec 128), freezing bit.toNat = true →
      let a := s.host.aer
      let t : State := { s with host := { s.host with aer := { a with
        uncorrectable := a.uncorrectable ||| BitVec.ofNat 32 (2 ^ bit.toNat)
        header := if a.uncorrectable = 0 then header else a.header } } }
      (s.flag F.HST_STATUS_FROZEN = false → exec (.freezingError bit header) s =
        .next (((((t.abortAll 5).setFlag F.HST_STATUS_FROZEN true).count R.HST_C_FREEZES).raiseG 43 0).setFld
          F.HST_FREEZE_CAUSE bit.toNat)) ∧
      (s.flag F.HST_STATUS_FROZEN = true → exec (.freezingError bit header) s = .next t)) ∧
    (∀ (bit : BitVec 5) header, freezing bit.toNat = false → exec (.freezingError bit header) s = .next s) ∧
    (s.barOpen R.HST_FREEZE = true → s.flag F.HST_STATUS_FROZEN = true → s.freezeHeld = false → ∀ v : BitVec 32,
      let left := s.host.aer.uncorrectable &&& ~~~ v
      let t : State := { s with host := { s.host with aer := { s.host.aer with uncorrectable := left } } }
      ((∀ b < 32, freezing b = true → bitOf left b = false) →
        exec (.freezeRelease v) s = .next (t.setFlag F.HST_STATUS_FROZEN false).flushPba) ∧
      ((∃ b < 32, freezing b = true ∧ bitOf left b = true) →
        exec (.freezeRelease v) s = .next (t.setFlag F.HST_FREEZE_REL_REFUSED true))) ∧
    (∀ k : Ring, s.host.holdRun.contains k.val = true →
      (let t := { s with host := { s.host with holdRun := s.host.holdRun.filter (· != k.val)
                                               holdPend := s.host.holdPend.filter (· != k.val) } }
       (s.host.holdPend.contains k.val = false → exec (.irqHoldExpiry k) s = .next t) ∧
       (s.host.holdPend.contains k.val = true → exec (.irqHoldExpiry k) s = .next (t.ringSignal k)))) ∧
    (∀ k : Ring, s.host.holdRun.contains k.val = false → exec (.irqHoldExpiry k) s = .next s) ∧
    (∀ v : Fin 64, s.barOpen (R.MSIX_CTRL v) = true → s.fld F.CMD_ROLE_HOST_ROLE = 2 →
      exec (.msixUnmask v) s = .next (s.setFlag (F.MSIX_CTRL_MASK v) false).flushPba) ∧
    (∀ tag : BitVec 10, exec (.lateCompletion tag) s =
      .next (if bitOf s.host.quarantine tag.toNat then s.count R.HST_C_LATE_CPL else s)) ∧
    (∀ tag : BitVec 10, ∃ t, exec (.tagQuarantineEnd tag) s = .next t ∧ bitOf t.host.quarantine tag.toNat = false ∧
      (∀ n, n ≠ tag.toNat → bitOf t.host.quarantine n = bitOf s.host.quarantine n) ∧
      t = { s with host := { s.host with quarantine := t.host.quarantine } }) ∧
    (∀ bit : BitVec 5, exec (.correctableError bit) s = .next ((({ s with host := { s.host with aer := { s.host.aer with
      correctable := s.host.aer.correctable ||| BitVec.ofNat 32 (2 ^ bit.toNat) } } } : State).count
      R.HST_C_CORR_ERRS).raiseG 43 9))

/-- R339, R342, R343, R346 to R348: a request to an unmapped address does nothing; a write to mapped, sound bursts
stores its bytes and leaves every other byte; a read answers the bytes stored; an uncorrectable codeword is answered
poisoned and reported. R346, R348, R349: GO with a valid, trained set other than the one in use starts the change, and
at its end that set is the active one; GO with an untrained set, or during a change, is refused; a request waits for
the change's end; a bank index that is blocked twice running is refreshed by force; a scrub step that reads a clean
burst moves on and ends its pass at the top of the memory. -/
def Obligations.DramRequestsAndUpkeep : Prop :=
  (
  ∀ (s : State) (rq : BitVec 6) (addr : BitVec 40) (len : Fin 4097),
    (s.ddrMapped addr.toNat len.val = false → ∀ w data e, exec (.ddrRequest rq w addr len data e) s = .next s) ∧
    (s.ddrMapped addr.toNat len.val = true → (∀ b ∈ burstsOf (addr.toNat - ddrBase) len.val, b ∉ s.ddr.bad) →
      (let o := addr.toNat - ddrBase
       let u := s.changeWait
       (∀ data : List Byte, data.length = len.val → ∃ t, exec (.ddrRequest rq true addr len data []) s = .next t ∧
         t = { u with ddr := t.ddr } ∧ t.ddr.bad = s.ddr.bad ∧ (Inv s → ∀ a, Memory.read 0 t.ddr.mem a =
           if o ≤ a ∧ a < o + len.val then data.getD (a - o) 0 else Memory.read 0 s.ddr.mem a)) ∧
       (∀ data, ∃ t, exec (.ddrRequest rq false addr len data []) s = .next t ∧ t.ddr.mem = s.ddr.mem ∧
         t.out = u.out ++ [.readData ((List.range len.val).map fun k => Memory.read 0 s.ddr.mem (o + k)) false]) ∧
       (∀ data, 0 < len.val → ∃ t bs, exec (.ddrRequest rq false addr len data [(0, .uncorrectable)]) s = .next t ∧
         t = { t with out := (t.out.dropLast) ++ [.readData bs true] } ∧ t.ddr.mem = s.ddr.mem ∧
         o / 64 ∈ t.ddr.bad))) ∧
    (∀ (sub : Fin 4) (rank : Fin 2) hot, ∃ t, exec (.ddrTempReport sub rank hot) s = .next t ∧
      t.ddr = { s.ddr with hot := t.ddr.hot } ∧ bitOf t.ddr.hot (2 * sub.val + rank.val) = hot ∧
      (∀ j, j ≠ 2 * sub.val + rank.val → bitOf t.ddr.hot j = bitOf s.ddr.hot j) ∧ (Inv s → ∀ i : Fin 4,
        Nat.testBit (t.fld F.DDR_STATUS_THERM_2X) i.val =
          (bitOf t.ddr.hot (2 * i.val) || bitOf t.ddr.hot (2 * i.val + 1)))) ∧
    (∀ rank : Fin 4, s.ddrReady = true → (∃ t, exec (.rankSelfRefresh rank) s = .next t ∧
      t = { s with ddr := { s.ddr with rankMode := t.ddr.rankMode } } ∧ tget (fun _ => 0) t.ddr.rankMode rank.val = 2) ∧
      (tget (fun _ => 0) s.ddr.rankMode rank.val = 0 → ∃ t, exec (.rankPowerDown rank) s = .next t ∧
        t = { s with ddr := { s.ddr with rankMode := t.ddr.rankMode } } ∧ tget (fun _ => 0) t.ddr.rankMode rank.val = 1))) ∧
  (
  ∀ (s : State),
    (∀ set : Fin 2, s.barOpen R.DDR_FREQ_CTRL = true → s.fld F.CMD_ROLE_HOST_ROLE = 2 →
      let u := s.setFld F.DDR_FREQ_CTRL_SET set.val
      (Inv s → s.ddrReady = true → s.flag (F.DDR_TSET_VALID set.val) = true → bitOf s.ddr.trained set.val = true →
        s.ddr.change = none → s.fld F.DDR_STATUS_SET_ACTIVE ≠ set.val → exec (.ddrFreqChange set) s =
          .next { u with ddr := { (u.setRanks 2).ddr with change := some (set.val, s.time.cycles) } }) ∧
      (bitOf s.ddr.trained set.val = false ∨ s.ddr.change ≠ none → exec (.ddrFreqChange set) s =
        .next (u.raiseG 44 5))) ∧
    (∀ (set : Fin 2) at_, s.ddr.change = some (set.val, at_) → Inv s → s.changeWait.ddr.change = none ∧
      s.changeWait.fld F.DDR_STATUS_SET_ACTIVE = set.val ∧
      s.changeWait.reg R.DDR_C_FREQ_CHANGES = w64 ((s.reg R.DDR_C_FREQ_CHANGES).toNat + 1)) ∧
    (s.ddrReady = true → ∀ rank : Fin 4,
      (∃ t, exec (.refreshInterval rank 0) s = .next t ∧ t = { s with ddr := { s.ddr with lag := t.ddr.lag } }) ∧
      (∀ i : Fin 4, (∀ j : Fin 4, tget (fun _ => 0) s.ddr.lag (4 * rank.val + j.val) = if j = i then 1 else 0) →
        ∃ t, exec (.refreshInterval rank (BitVec.ofNat 4 (2 ^ i.val))) s = .next t ∧
          t = { s.count R.DDR_C_REFSB_FORCED with ddr := { s.ddr with lag := t.ddr.lag } })) ∧
    (s.ddrReady = false → ∀ rank b, exec (.refreshInterval rank b) s = .next s) ∧
    (s.ddrReady = true → s.flag F.DDR_SCRUB_CFG_SCRUB_EN = true → s.ddr.bad.contains s.ddr.scrubAt = false → ∀ o,
      (64 * (s.ddr.scrubAt + 1) < s.ddrCapacity → exec (.scrubStep .clean o) s =
        .next { s with ddr := { s.ddr with scrubAt := s.ddr.scrubAt + 1 } }) ∧
      (s.ddrCapacity ≤ 64 * (s.ddr.scrubAt + 1) → exec (.scrubStep .clean o) s =
        .next (({ s with ddr := { s.ddr with scrubAt := 0, ceRows := [] } } : State).raiseG 44 6))) ∧
    (s.flag F.DDR_SCRUB_CFG_SCRUB_EN = false → ∀ e o, exec (.scrubStep e o) s = .next s))

/-- R354, R355, R359: the capture request at the head is served only when its frame is complete; a record that its
bucket does not admit, or whose record cell the pool refuses, becomes a gap; a TRIG_IN edge triggers while PIN_EN is
set, at most once a millisecond, and a trigger that finds the Archive off is counted and ignored. -/
def Obligations.CapturesAndTriggers : Prop :=
  ∀ (s : State),
    (s.arc.queue = [] → ∀ e fs, exec (.captureServe e fs) s = .next s) ∧
    (∀ q rest f e fs, s.arc.queue = q :: rest → s.frame q.frame = some f →
      (f.complete = false → f.bad = false → exec (.captureServe e fs) s = .next s) ∧
      (f.complete = true →
        (let r := s.capCharge q.sel (48 + ceilDiv (s.capLen q.sel f.len) 8 * 8)
         (r.1 = false → exec (.captureServe e fs) s = .next (r.2.loseRecord 3 q.sel (s.rebuiltStamp f.stamp)).capPop) ∧
         (∀ c, r.1 = true → r.2.arc.recCell = some c → exec (.captureServe e fs) s = .next (r.2.capWrite q f e fs)) ∧
         (∀ w fl u, r.1 = true → r.2.arc.recCell = none → r.2.request 0x10 false false [] = (.none, w, fl, u) →
           exec (.captureServe e fs) s = .next u.capNone) ∧
         (∀ c w fl u, r.1 = true → r.2.arc.recCell = none → r.2.request 0x10 false false [] = (.cell c, w, fl, u) →
           exec (.captureServe e fs) s =
             .next (({ u with arc := { u.arc with recCell := some c } } : State).capWrite q f e fs))))) ∧
    (s.flag F.ARC_TRIG_CFG2_PIN_EN = false → exec .trigInEdge s = .next s) ∧
    (s.flag F.ARC_TRIG_CFG2_PIN_EN = true → (∀ c, s.arc.pinAt = some c → c + 625000 ≤ s.time.cycles) →
      (let t := { s with arc := { s.arc with pinAt := some s.time.cycles } }
       exec .trigInEdge s = .next (t.trigger 3 (s.fld F.ARC_TRIG_CFG2_PIN_CAUSE) s.stamp) ∧
       (s.arcOff = true → exec .trigInEdge s = .next ((t.count R.ARC_C_TRIG_IGNORED).raiseG 45 12)))) ∧
    (∀ c, s.arc.pinAt = some c → s.time.cycles < c + 625000 → exec .trigInEdge s = .next s)

/-- R361, R368: EN starts the recovery of a formatted store whose memory and dies are usable, and finds it unavailable
otherwise; FORMAT acts only in DISABLED; the end of a format empties the store and leaves it DISABLED; a recovery that
finds no event ends in READY, above the frontier that it found; a checkpoint goes to a root block and records the
frontier and the event table. -/
def Obligations.ArchiveControl : Prop :=
  ∀ (s : State), Inv s →
    (s.barOpen R.ARC_CTRL = true → s.fld F.CMD_ROLE_HOST_ROLE = 2 →
      (∀ dies, s.arcState = 0 → s.ddrReady = true → s.arc.deadDies = [] →
        (∃ d < s.dieRoom, bitOf (s.agreeing dies) d = true) →
        ∃ t, exec (.arcEnable true dies) s = .next t ∧ t.arcState = 2 ∧ t.arc.formatted = true ∧ t.arc.reach = s.stamp ∧
          t.arc.events = s.arc.events ∧ t.arc.dies = s.agreeing dies) ∧
      (∀ f dies, s.arcState = 0 → s.ddrReady = false → ∃ t, exec (.arcEnable f dies) s = .next t ∧ t.arcState = 5) ∧
      (∀ f dies, s.arcState ≠ 0 → exec (.arcEnable f dies) s = .next (s.setFlag F.ARC_CTRL_EN true)) ∧
      (∃ t, exec .arcDisable s = .next t ∧ t.arcState = 0 ∧ t.flag F.ARC_CTRL_EN = false) ∧
      (s.arcState = 0 → exec .arcFormat s = .next (s.setFld F.ARC_STATUS_STATE 1)) ∧
      (s.arcState ≠ 0 → exec .arcFormat s = .next s)) ∧
    (∀ dies, s.arcState = 1 → s.arc.deadDies = [] → (∃ d < s.dieRoom, bitOf (s.agreeing dies) d = true) →
      ∃ t c, exec (.formatDone [] dies) s = .next t ∧ t.arcState = 0 ∧ t.arc.events = [] ∧ t.arc.pages = [] ∧
        t.arc.formatted = true ∧ t.arc.rootA = some c ∧ c.first = 0 ∧ c.events = [] ∧ c.formats = s.arc.formats + 1) ∧
    (∀ b dies, s.arcState ≠ 1 → exec (.formatDone b dies) s = .next s) ∧
    (∀ bad reads rereads, s.arcState = 2 → s.arc.events = [] → s.arc.held = none → s.arc.resume = true →
      let root := s.arc.newestRoot bad
      let run := s.arc.run reads (s.fld F.ARC_GEOM1_RETRY) (s.arc.pages.length + s.arc.failed.length + 3)
        ((root.map fun c => c.frontier + 1).getD 0) 0
      let f := s.pairReads rereads run.1
      let above := (s.arc.pages.filter fun p => decide (f < p.pseq)).length
      ∃ t, exec (.arcRecoveryDone bad reads rereads) s = .next t ∧ t.arcState = 3 ∧ f < t.arc.pseq ∧
        t.reg R.ARC_RECOVERY = w64 (f * 2 ^ 16 + min 65535 above) ∧ t.arc.resume = false) ∧
    (∀ bad reads rereads, s.arcState ≠ 2 → exec (.arcRecoveryDone bad reads rereads) s = .next s) ∧
    (∀ finds, s.arc.sinceCheckpoint = 0 → exec (.checkpointTimer finds) s = .next s) ∧
    (∀ finds, s.arc.sinceCheckpoint ≠ 0 → ∃ t c, exec (.checkpointTimer finds) s = .next t ∧
      t.arc.sinceCheckpoint = 0 ∧ (t.arc.rootA = some c ∨ t.arc.rootB = some c) ∧ c.events = t.arc.events ∧
      c.frontier + 1 = t.arc.pseq ∧ c.nextEvent = t.arc.nextEvent)

/-- R360, R361, R366, R367, R369: an event whose end has passed stops taking records and closes once it has drained;
KEEP is set on the event that ARC_KEEP names and refused where none has that number; a block that fails to erase is
retired, and one that is erased counts; a patrol read that is uncorrectable is counted. -/
def Obligations.ArchiveStore : Prop :=
  ∀ (s : State),
    (s.arc.openEvent = none → exec .eventClose s = .next s ∧
      (∀ ok fs, exec (.pageProgramDone ok fs) s = .next s.keepAllErased)) ∧
    exec .eventEndPass s = .next { s with arc := { s.arc with
      events := s.arc.events.map fun e => if e.isOpen then s.endPosition e else e
      pendingEvent := s.arc.pendingEvent.map s.endPosition } } ∧
    (∀ e, e.stop = none → (∀ r ∈ s.arc.ring, r.at_ ≤ e.tEnd) → (s.endPosition e).stop = some s.arc.rseq) ∧
    (∀ e, s.arc.openEvent = some e →
      (s.arcState = 4 → (e.skipTo s.arc).atEnd = true → (e.skipTo s.arc).buf = [] →
        exec .eventClose s = .next s.closeEvent) ∧
      (s.arcState = 4 → (e.skipTo s.arc).atEnd = false → exec .eventClose s = .next s) ∧
      (∀ ok fs, exec (.pageProgramDone ok fs) s = .next (s.drainPage ok false fs).keepAllErased)) ∧
    (∀ b ok, (s.nandBlock b).dirty = false → exec (.blockEraseDone b ok) s = .next s) ∧
    (∀ b, (s.nandBlock b).dirty = true → exec (.blockEraseDone b false) s = .next (s.retireBlock b true) ∧
      (∃ t, exec (.blockEraseDone b true) s = .next t)) ∧
    (s.arcOff = true → ∀ r, exec (.nandPatrolRead r) s = .next s) ∧
    (∀ p n, s.arcOff = false → s.arc.pages.find? (fun p => decide (s.arc.patrolAt ≤ p.pseq)) = some p →
      (let t := { s with arc := { s.arc with patrolAt := p.pseq + 1 } }
       ∀ r : NandRead, let o := r.outcome (s.fld F.ARC_GEOM1_RETRY)
       (o = .hard n → n ≤ s.fld F.ARC_PATROL_CFG_REFRESH_BITS → exec (.nandPatrolRead r) s = .next t) ∧
       (o = .hard n → s.fld F.ARC_PATROL_CFG_REFRESH_BITS < n →
         exec (.nandPatrolRead r) s = .next (t.relocateBlock p.block [])) ∧
       (o = .retry → exec (.nandPatrolRead r) s = .next (t.relocateBlock p.block [])) ∧
       (o = .soft → exec (.nandPatrolRead r) s = .next ((t.count R.ARC_C_SOFT_DECODES).relocateBlock p.block [])) ∧
       (o = .uncorrectable → exec (.nandPatrolRead r) s =
         .next (((t.count R.ARC_C_UNCORRECTABLE).raiseG 45 5).relocateBlock p.block [p.pseq])))) ∧
    (s.barOpen R.ARC_KEEP_CTRL = true → s.fld F.CMD_ROLE_HOST_ROLE = 2 → ∀ k,
      (let n := bitsOf (s.reg R.ARC_KEEP) 31 0
       ((∀ e ∈ s.arc.events, e.num ≠ n) → exec (.keepSet k) s = .next (s.raiseG 45 9)) ∧
       ((∃ e ∈ s.arc.events, e.num = n) → exec (.keepSet false) s =
         .next { s with arc := { s.arc with events := s.arc.events.map fun x =>
           if x.num = n then { x with keep := false } else x } })))

/-- R376 to R382, R388: an idle case that may sleep is asked to sleep; an idle case falls to its lower limit; a raise
takes the rail's confirmation and is given up after the third refusal; a negative margin raises TRIM by 5 mV up to +25
mV and is then reported; a hot case above its lower limit gives up one point; a lost crystal and a lost PLL are
reported. That a second CASE_SLEEP ends the entry to sleep is the model's choice (log entry 33). -/
def Obligations.CasesAndRails : Prop :=
  ∀ (s : State),
    (∀ k : Case, s.effSleep k = true → s.caseFenced k = false → s.caseBusy k = false →
      (s.fld (F.PWR_CASE_STATE k) = 0 → exec (.caseSleep k) s = .next (s.setFld (F.PWR_CASE_STATE k) 1)) ∧
      (s.fld (F.PWR_CASE_STATE k) = 1 → exec (.caseSleep k) s = .next (s.setFld (F.PWR_CASE_STATE k) 2))) ∧
    (∀ k : Case, s.effSleep k = false → exec (.caseSleep k) s = .next s) ∧
    (∀ k : Case, (s.caseFenced k = true → exec (.casePointIdle k) s = .next s) ∧
      (s.caseFenced k = false → exec (.casePointIdle k) s =
        .next ((s.setCase k { s.caseOf k with active := false, raise := none }).setPoint k (s.lowerLimit k)))) ∧
    (∀ k : Case, (∀ ok, (s.caseOf k).raise = none → exec (.railConfirm k ok) s = .next s) ∧
      (∀ p n, (s.caseOf k).raise = some (p, n) →
        (let rest := { s.caseOf k with raise := none }
         let again := { s.caseOf k with raise := some (p, n + 1) }
         exec (.railConfirm k true) s = .next (((s.setCase k rest).setRail (k.val / 2)
           (max p (s.railPoint (k.val / 2)))).switchPoint k p) ∧
         (n < 2 → exec (.railConfirm k false) s = .next ((s.setCase k again).writeRail (k.val / 2) p)) ∧
         (2 ≤ n → exec (.railConfirm k false) s = .next ((s.setCase k rest).raiseG 46 6))))) ∧
    (∀ (r : Region) (m : Int), (s.flag F.PWR_AVS_CFG_AVS_EN = false → exec (.avsTick r m) s = .next s) ∧
      (s.flag F.PWR_AVS_CFG_AVS_EN = true → bitOf s.pwr.avsShort r.val = false →
        (let trim := signed 8 (s.fld (F.PWR_REGION_TRIM r))
         (0 ≤ m → m < 5 → Inv s → ∃ t, exec (.avsTick r m) s = .next t ∧ t.regs = s.regs ∧ t.out = s.out) ∧
         (m < 0 → -25 ≤ trim → trim < 25 → Inv s → ∃ t, exec (.avsTick r m) s = .next t ∧
           signed 8 (t.fld (F.PWR_REGION_TRIM r)) = trim + 5) ∧
         (m < 0 → 25 ≤ trim → ∃ u : State, u = { s with pwr := u.pwr } ∧ bitOf u.pwr.avsShort r.val = true ∧
           exec (.avsTick r m) s = .next ((u.raiseG 46 5).fault (0x580 + r.val) 0x68 0 false).refitAll)))) ∧
    (∀ k : Case, (s.caseHot k = false → exec (.throttleStep k) s = .next s) ∧
      (s.caseHot k = true → s.lowerLimit k < s.casePoint k →
        (let goal := s.casePoint k - 1
         exec (.throttleStep k) s = .next (((s.setHeatCut k (s.upperLimit k - s.capCut k - goal)).setPoint k
           goal).raiseRegion (k.val / 2) 4)))) ∧
    exec .crystalLoss s =
      .next (({ s with pwr := { s.pwr with oscillator := true } } : State).faultAt 0x611 0x60 5 0 false) ∧
    (∀ r : Region, exec (.pllLockLoss (.region r)) s = .next (s.faultAt (0x580 + r.val) 0x61 4 0 false)) ∧
    exec (.pllLockLoss .chip) s = .next (s.faultAt 0x611 0x61 5 0 false)

/-- R385 to R387, R389, R390: each estimate is shown, and the average over the window decides whether the cap binds; a
cap below the guaranteed power is refused and one above the variant's maximum is taken as that; the governor takes one
step while the cap binds or a sensor is at 112 °C, and withdraws one after; the DDR set changes down under the cap; two
samples at 125 °C stop the device. -/
def Obligations.CapAndShedding : Prop :=
  ∀ (s : State),
    (∀ v : BitVec 16,
      let seen := (v.toNat :: s.pwr.samples).take (10 * max 1 (s.fld F.PWR_CAP_CFG_WINDOW))
      ∃ t, exec (.powerEstimate v) s = .next t ∧ (Inv s → t.fld F.PWR_EST_ESTIMATE = v.toNat ∧ t.pwr.samples = seen ∧
        t.pwr.capBinds = (s.flag F.PWR_CAP_CAP_EN &&
          decide (s.fld F.PWR_CAP_CAP * seen.length < seen.foldl (· + ·) 0)))) ∧
    (∀ vouts (v : BitVec 16), ∃ t, exec (.powerRecalibrate vouts v) s = .next t ∧
      (Inv s → t.fld F.PWR_EST_ESTIMATE = v.toNat ∧ t.pwr.samples =
        (v.toNat :: s.pwr.samples.drop 1).take (10 * max 1 (s.fld F.PWR_CAP_CFG_WINDOW)))) ∧
    (s.barOpen R.PWR_CAP = true → s.fld F.CMD_ROLE_HOST_ROLE = 2 → ∀ v : W32,
      (let cap := min (bitsOf v 15 0) s.maxPower
       (s.inForce ≠ [] → 100 * cap < s.guaranteedMw s.inForce → exec (.capWrite v) s = .next (s.raiseG 46 4)) ∧
       (s.inForce = [] ∨ s.guaranteedMw s.inForce ≤ 100 * cap → exec (.capWrite v) s =
         .next ((s.setFlag F.PWR_CAP_CAP_EN (bitOf v 31)).setFld F.PWR_CAP_CAP cap)))) ∧
    (s.pwr.capBinds = false → s.pwr.shedOn = 0 → exec .shedStep s = .next s ∧
      (s.pwr.step = 0 → exec .shedWithdraw s = .next s) ∧
      (s.pwr.step = 1 → exec .shedWithdraw s = .next (s.setStep 0).refitAll) ∧
      (3 ≤ s.pwr.step → exec .shedWithdraw s = .next (s.setStep (s.pwr.step - 1)))) ∧
    (s.pwr.capBinds = true → exec .shedWithdraw s = .next s ∧
      (s.pwr.step = 0 → exec .shedStep s = .next (State.shedEvent s (s.setStep 1).refitAll)) ∧
      (∀ n, s.pwr.step = n + 3 → n < 10 → exec .shedStep s = .next (State.shedEvent s (s.setStep (n + 4)))) ∧
      (13 ≤ s.pwr.step → exec .shedStep s =
        .next (State.shedEvent s ((s.setFlag F.PWR_STATUS_CAP_UNMET true).raiseG 46 3)))) ∧
    (s.flag F.PWR_CAP_CFG_DDR_LOW_EN = false → ∀ l, exec (.ddrLowSwitch l) s = .next s) ∧
    (let now := s.fld F.DDR_STATUS_SET_ACTIVE
     s.flag F.PWR_CAP_CFG_DDR_LOW_EN = true → s.flag (F.DDR_TSET_VALID (1 - now)) = true →
      bitOf s.ddr.trained (1 - now) = true → s.flag F.PWR_STATUS_CAP_ACTIVE = true →
      s.fld (F.DDR_TSET_RATE (1 - now)) < s.fld (F.DDR_TSET_RATE now) →
      exec (.ddrLowSwitch true) s = .next (s.ddrFreqGo (1 - now))) ∧
    (∀ (i : Fin 24) (v : BitVec 8), ∃ t, exec (.sensorSample i v false) s = .next t ∧
      t.pwr.temp0 = tput (fun _ => 0) s.pwr.temp0 i.val (tget (fun _ => 0) s.pwr.temp i.val) ∧
      t.pwr.temp = tput (fun _ => 0) s.pwr.temp i.val v.toInt ∧
      (bitOf s.pwr.failed i.val = false → 125 ≤ v.toInt → 125 ≤ tget (fun _ => 0) s.pwr.temp i.val →
        t.boot.mode = .stopped ∧ t.pwr.tstop = true))

/-- R395 to R397, R399 to R401: an error pair, a wire fault and a coded message each record a fault of the class's base
level with the unit's source, where that unit may report the class, and do nothing where it may not. -/
def Obligations.FaultReports : Prop :=
  ∀ (s : State),
    (∀ (src : BitVec 12) (k : BitVec 8), pairReports src.toNat k.toNat = true → k.toNat ≠ 0x61 → k.toNat ≠ 0x13 →
      exec (.dualRailError src k) s = .next (s.faultAt src.toNat k.toNat (baseLevel k.toNat) 0 false)) ∧
    (∀ (src : BitVec 12) (k : BitVec 8), pairReports src.toNat k.toNat = false →
      exec (.dualRailError src k) s = .next s) ∧
    (∀ src : BitVec 12, sourceValid src.toNat = true → src.toNat < 0x601 ∨ 0x605 < src.toNat →
      exec (.wireFault src) s = .next (s.faultAt src.toNat 0x01 2 0 false)) ∧
    (∀ src : BitVec 12, sourceValid src.toNat = false → exec (.wireFault src) s = .next s) ∧
    (∀ (src : BitVec 12) (k : BitVec 8) (a : BitVec 40), codedReports src.toNat k.toNat = true →
      exec (.codedMessage src k a) s = .next (s.faultAt src.toNat k.toNat (baseLevel k.toNat) a.toNat true)) ∧
    (∀ src k a, codedReports src.toNat k.toNat = false → exec (.codedMessage src k a) s = .next s)

/-- R403, R408, R410 to R412: a fence that completes fences its unit; the recheck shows the records that no longer hold;
an acknowledge sets ACK of a record and a clear sets CLEARED where ACK is set; an unfence starts the unit's self-test,
whose pass lifts the fence and whose failure records a BIST fault. -/
def Obligations.FaultLogAndFences : Prop :=
  ∀ (s : State),
    (∀ src : BitVec 12, s.flt.fencing.find? (fun x => x.1 == src.toNat) = none →
      exec (.fenceComplete src) s = .next s) ∧
    (∀ (src : BitVec 12) l, s.flt.fencing.find? (fun x => x.1 == src.toNat) = some (src.toNat, l) →
      exec (.fenceComplete src) s = .next (s.fenceDone src.toNat l)) ∧
    (s.flt.recheck = false → exec .recheckDone s = .next s) ∧
    (s.flt.recheck = true →
      (let t := ({ s with flt := { s.flt with recheck := false } } : State).setFlag F.FLT_RECHECK_BUSY false
       (s.activeTag = none → exec .recheckDone s = .next t) ∧
       (∀ a, s.activeTag = some a →
         (let bad := (s.admission a ⟨0, (s.image a).info⟩ true).failing
          exec .recheckDone s = .next ((t.setReg R.FLT_RECHECK
            (w64 (2 ^ 31 + a * 2 ^ 28 + bad.headD 0 * 2 ^ 16 + bad.length))).raiseG 47 5))))) ∧
    (s.barOpen R.FLT_ACK = true → s.fld F.CMD_ROLE_HOST_ROLE = 2 →
      (∀ k : Fin 256, exec (.faultAck k) s = .next (s.ackRecord k)) ∧
      exec .faultAckAll s = .next ((List.range 256).foldl State.ackRecord s)) ∧
    (s.barOpen R.FLT_CLEAR = true → s.fld F.CMD_ROLE_HOST_ROLE = 2 →
      (∀ k : Fin 256, bitOf (s.logWord0 k) 62 = false → exec (.faultClear k) s = .next s) ∧
      (∀ k : Fin 256, bitOf (s.logWord0 k) 62 = true → exec (.faultClear k) s = .next (s.markRecord k 61)) ∧
      exec .faultClearAll s = .next ((List.range 256).foldl State.clearRecord s)) ∧
    (s.barOpen R.FLT_UNFENCE = true → s.fld F.CMD_ROLE_HOST_ROLE = 2 → ∀ src : BitVec 12,
      (s.fencedSrc src.toNat = false ∨ liftable src.toNat = false ∨ s.flt.unfencing ≠ none →
        exec (.unfence src) s = .next (s.setFld F.FLT_UNFENCE_STATUS_RESULT 2)) ∧
      (s.fencedSrc src.toNat = true → liftable src.toNat = true → s.flt.unfencing = none →
        s.unclearedOf (src.toNat :: membersOf src.toNat) = false → (∀ r, regionOf src.toNat = some r → s.regionFenced r = false) →
        exec (.unfence src) s = .next ((({ s with flt := { s.flt with unfencing := some src.toNat } } : State).setFlag
          F.FLT_UNFENCE_STATUS_BUSY true).setFld F.FLT_UNFENCE_STATUS_RESULT 0))) ∧
    (∀ pass, s.flt.unfencing = none → exec (.bistDone pass) s = .next s) ∧
    (∀ src, s.flt.unfencing = some src →
      (let t := ({ s with flt := { s.flt with unfencing := none } } : State).setFlag F.FLT_UNFENCE_STATUS_BUSY false
       let l := tget (fun _ => 0) s.flt.fenceLevel src
       exec (.bistDone false) s = .next ((((t.setFld F.FLT_UNFENCE_STATUS_RESULT 3).count R.FLT_C_FAULTS).writeRecord src
         0x70 l l 0 false false).raiseG 47 6) ∧
       (∃ u, exec (.bistDone true) s = .next u ∧ u.flt.unfencing = none ∧ u.flt.fenced = s.flt.fenced.filter (· != src))))

/-- R411: an acknowledge sets ACK in one record or in every record; a clear sets CLEARED in one record or in every
record, where ACK is 1; neither changes anything else of the log, nor any fence. -/
def Obligations.FaultRecordsAckAndClear : Prop :=
  ∀ (s : State), Inv s → s.fld F.CMD_ROLE_HOST_ROLE = 2 →
    (s.barOpen R.FLT_ACK = true →
      (∀ k : Fin 256, ∃ t, exec (.faultAck k) s = .next t ∧ t = { s with regs := t.regs } ∧
        (∀ o, o ≠ R.FLT_LOG k 0 → t.reg o = s.reg o) ∧
        (bitOf (s.logWord0 k) 63 = true → t.logWord0 k = s.logWord0 k ||| w64 (2 ^ 62))) ∧
      (∃ t, exec .faultAckAll s = .next t ∧ t = { s with regs := t.regs } ∧ ∀ k < 256,
        bitOf (s.logWord0 k) 63 = true → t.logWord0 k = s.logWord0 k ||| w64 (2 ^ 62))) ∧
    (s.barOpen R.FLT_CLEAR = true →
      (∀ k : Fin 256, ∃ t, exec (.faultClear k) s = .next t ∧ t = { s with regs := t.regs } ∧
        (∀ o, o ≠ R.FLT_LOG k 0 → t.reg o = s.reg o) ∧
        (bitOf (s.logWord0 k) 62 = false → t = s) ∧
        (bitOf (s.logWord0 k) 63 = true → bitOf (s.logWord0 k) 62 = true →
          t.logWord0 k = s.logWord0 k ||| w64 (2 ^ 61))) ∧
      (∃ t, exec .faultClearAll s = .next t ∧ t = { s with regs := t.regs } ∧ ∀ k < 256,
        (bitOf (s.logWord0 k) 62 = false → t.logWord0 k = s.logWord0 k) ∧
        (bitOf (s.logWord0 k) 63 = true → bitOf (s.logWord0 k) 62 = true →
          t.logWord0 k = s.logWord0 k ||| w64 (2 ^ 61))))

/-- R414: an injection creates a fault of class INJECTED with the source and level written, on which the device acts as
on any other; level 5 (and the levels above it that the field can hold) or a reserved source is ignored. -/
def Obligations.InjectedFaults : Prop :=
  ∀ (s : State), s.barOpen R.FLT_INJECT = true → s.fld F.CMD_ROLE_HOST_ROLE = 2 →
    ∀ (l : BitVec 3) (src : BitVec 12),
      (l.toNat ≤ 4 → sourceValid src.toNat = true →
        exec (.faultInject l src) s = .next (s.faultAt src.toNat 0x02 l.toNat 0 false)) ∧
      (5 ≤ l.toNat ∨ sourceValid src.toNat = false → exec (.faultInject l src) s = .next s)

/-- R419, R420, R422, R430, R470: power-on clears the Watch domain's own state and holds the device in reset; RESET_N
low resets the device and keeps the fault log; a release starts it cold; BOOT_RESTART without its key, or during a
start, is ignored; a warm request starts cold while FORCE_COLD is set or WARM_FAILS is 2; CLR_FAILS clears WARM_FAILS.
-/
def Obligations.Starts : Prop :=
  ∀ (s : State),
    (∃ t, exec .powerOn s = .next t ∧ t.boot.resetLow = true ∧ t.boot.railFault = false ∧ t.boot.mode = .cold ∧
      t.time.now = 0 ∧ t.frames = [] ∧ t.images = [] ∧ t.ddr = DdrUnit.init ∧ t.boot.otp = s.boot.otp ∧
      t.boot.qspi = s.boot.qspi ∧ t.flt.seq = 0 ∧ t.pending = s.pending) ∧
    (∃ t, exec .resetNAssert s = .next t ∧ t.boot.resetLow = true ∧ t.boot.railFault = s.boot.railFault ∧
      t.boot.mode = .cold ∧ t.time.now = 0 ∧ t.frames = [] ∧ t.images = [] ∧ t.boot.otp = s.boot.otp ∧
      t.boot.qspi = s.boot.qspi ∧ t.flt.seq = s.flt.seq ∧
      (Inv s → ∀ k < 256, ∀ j < 4, t.reg (R.FLT_LOG k j) = s.reg (R.FLT_LOG k j))) ∧
    (∃ t, exec .railUndervolt s = .next t ∧ t.boot.railFault = true ∧ t.boot.mode = .cold ∧ t.time.now = 0 ∧
      t.flt.seq = s.flt.seq) ∧
    (∃ t, exec .watchRailLoss s = .next t ∧ t.flt.seq = 0 ∧ t.frames = s.frames ∧ t.boot.mode = s.boot.mode) ∧
    (∀ facts, (s.boot.resetLow = false → exec (.resetNRelease facts) s = .next s) ∧
      (s.boot.railFault = false → exec (.railRestoreRelease facts) s = .next s) ∧
      (s.boot.resetLow = true → s.boot.railFault = false → exec (.resetNRelease facts) s =
        .next (({ s with boot := { s.boot with resetLow := false } } : State).releaseStart facts)) ∧
      (s.boot.resetLow = false → s.boot.railFault = true → exec (.railRestoreRelease facts) s =
        .next (({ s with boot := { s.boot with railFault := false } } : State).releaseStart facts))) ∧
    (s.barOpen R.BOOT_RESTART = true → s.fld F.CMD_ROLE_HOST_ROLE = 2 →
      (∀ (key : BitVec 16) facts, key.toNat ≠ 0x5245 → exec (.restartCold key facts) s = .next s ∧
        exec (.restartWarm key facts) s = .next s ∧ exec (.clrFails key) s = .next s) ∧
      (∀ facts, s.boot.starting = true → exec (.restartCold 0x5245 facts) s = .next s ∧
        exec (.restartWarm 0x5245 facts) s = .next s) ∧
      (∀ facts, s.boot.starting = false → s.boot.mode = .running →
        exec (.restartCold 0x5245 facts) s = .next (s.coldStart facts) ∧
        exec (.clrFails 0x5245) s = .next (s.setFld F.BOOT_STATUS_WARM_FAILS 0) ∧
        (s.flag F.BOOT_STATUS_FORCE_COLD = true ∨ s.fld F.BOOT_STATUS_WARM_FAILS = 2 →
          exec (.restartWarm 0x5245 facts) s = .next ((s.coldStart facts).raiseG 47 18)) ∧
        (s.flag F.BOOT_STATUS_FORCE_COLD = false → s.fld F.BOOT_STATUS_WARM_FAILS ≠ 2 → facts.startUs ≤ 200000 →
          ∀ u, s.warmBegin.warmStages facts = (none, u) → exec (.restartWarm 0x5245 facts) s = .next u))) ∧
    (s.boot.facts = none → exec .startWatchdog s = .next s) ∧
    (∀ facts, s.boot.facts = some facts → s.boot.starting = true →
      (let f : StartFail := ⟨0x0B, 0, s.fld F.BOOT_STATUS_STEP⟩
       (s.boot.mode = .warm → exec .startWatchdog s = .next (s.warmFailed facts f)) ∧
       (s.boot.mode = .cold → s.fld F.BOOT_STATUS_COLD_FAILS ≤ 1 → exec .startWatchdog s =
         .next (((s.startFailed false f).setFld F.BOOT_STATUS_COLD_FAILS
           (s.fld F.BOOT_STATUS_COLD_FAILS + 1)).coldStart facts))))

/-- R437, R445 to R447, R449: a flash operation waits for its end and then has its effect, and one out of range is
refused; an erase leaves its 64 KiB block 0xFF; a key operation needs its confirmation and a slot that allows it; GO
samples the measurement once, and its end delivers the report; the forme hash is delivered for the active tag. -/
def Obligations.FlashKeysAndAttestation : Prop :=
  ∀ (s : State),
    (s.barOpen R.BOOT_QSPI_CTRL = true → s.fld F.CMD_ROLE_HOST_ROLE = 2 → s.boot.starting = false →
      (∀ op, s.boot.qspiOp = some op → ∀ len, exec (.qspiRead len) s = .next s ∧ exec (.qspiProgram len) s = .next s ∧
        exec .qspiErase s = .next s) ∧
      (s.boot.qspiOp = none →
        (let a := s.fld F.BOOT_QSPI_ADDR_ADDR
         let starts := fun (op len : Nat) => ({ s.setFld F.BOOT_QSPI_CTRL_RESULT 0 with
           boot := { s.boot with qspiOp := some (op, len, a) } } : State)
         let refused := (s.setFld F.BOOT_QSPI_CTRL_RESULT 3).raiseG 47 21
         (∀ len : BitVec 9, 0 < len.toNat → len.toNat ≤ 256 → a + len.toNat ≤ qspiSize →
           exec (.qspiRead len) s = .next (starts 0 len.toNat) ∧
           (a % 256 + len.toNat ≤ 256 → exec (.qspiProgram len) s = .next (starts 1 len.toNat)) ∧
           (256 < a % 256 + len.toNat → exec (.qspiProgram len) s = .next refused)) ∧
         (∀ len : BitVec 9, len.toNat = 0 ∨ 256 < len.toNat ∨ qspiSize < a + len.toNat →
           exec (.qspiRead len) s = .next refused ∧ exec (.qspiProgram len) s = .next refused) ∧
         (a % 65536 = 0 → a + 65536 ≤ qspiSize → exec .qspiErase s = .next (starts 2 0)) ∧
         (a % 65536 ≠ 0 ∨ qspiSize < a + 65536 → exec .qspiErase s = .next refused)))) ∧
    (s.boot.qspiOp = none → ∀ e, exec (.qspiDone e) s = .next s) ∧
    (∀ op len a e, s.boot.qspiOp = some (op, len, a) →
      (let t := s.qspiEffect op len a e
       exec (.qspiDone e) s = .next ((({ t with boot := { t.boot with qspiOp := none } } : State).setFld
         F.BOOT_QSPI_CTRL_RESULT (if e then 2 else 1)).raiseG 47 21))) ∧
    (∀ a, s.boot.qspiOp = some (2, 0, a) → a % 65536 = 0 → a + 65536 ≤ qspiSize → Inv s →
      ∃ t, exec (.qspiDone false) s = .next t ∧ t.boot.qspiOp = none ∧ t.fld F.BOOT_QSPI_CTRL_RESULT = 1 ∧
        ∀ k, Memory.read 0xFF t.boot.qspi k =
          if a ≤ k ∧ k < a + 65536 then 0xFF else Memory.read 0xFF s.boot.qspi k) ∧
    (s.barOpen R.SEC_KEY_CTRL = true → s.fld F.CMD_ROLE_HOST_ROLE = 2 → s.boot.keyOp = none → ∀ k : Fin 4,
      (let refused := (s.setFld F.SEC_KEY_CTRL_RESULT 2).raiseG 47 22
       let starts := fun (op : Nat) => ({ s.setFld F.SEC_KEY_CTRL_RESULT 0 with
         boot := { s.boot with keyOp := some (op, k.val) } } : State)
       (∀ c : BitVec 16, c.toNat ≠ 0xA5C3 → exec (.keyProgram k c) s = .next refused ∧
         exec (.keyRevoke k c) s = .next refused) ∧
       ((s.keySlot k).programmed = true → exec (.keyProgram k 0xA5C3) s = .next refused) ∧
       ((s.keySlot k).programmed = false → exec (.keyProgram k 0xA5C3) s = .next (starts 1)) ∧
       ((s.keySlot k).programmed = false → exec (.keyRevoke k 0xA5C3) s = .next refused) ∧
       (∀ j : Fin 4, (s.keySlot k).programmed = true → (∀ r, s.boot.run = some r → r.keySlot ≠ k.val) → j ≠ k →
         (s.keySlot j).programmed = true → (s.keySlot j).revoked = false →
         exec (.keyRevoke k 0xA5C3) s = .next (starts 2)))) ∧
    (s.boot.keyOp = none → ∀ ok, exec (.keyOpDone ok) s = .next s) ∧
    (Inv s → ∀ k, k < 4 →
      (s.boot.keyOp = some (1, k) → ∃ t, exec (.keyOpDone true) s = .next t ∧ t.boot.keyOp = none ∧
        (t.keySlot k).programmed = true ∧ (t.keySlot k).hash = beNat (s.windowBytes (R.SEC_KEY_DATA 0) 8)) ∧
      (s.boot.keyOp = some (2, k) → ∃ t, exec (.keyOpDone true) s = .next t ∧ t.boot.keyOp = none ∧
        (t.keySlot k).revoked = true ∧ (t.keySlot k).hash = (s.keySlot k).hash) ∧
      (∀ op, s.boot.keyOp = some (op, k) → ∃ t, exec (.keyOpDone false) s = .next t ∧ t.boot.keyOp = none ∧
        t.boot.otp = s.boot.otp)) ∧
    (s.barOpen R.SEC_ATTEST_CTRL = true → s.fld F.CMD_ROLE_HOST_ROLE = 2 →
      (∀ r, s.boot.attest = some r → exec .attestGo s = .next s) ∧
      (s.boot.attest = none → s.fencedSrc 0x605 = false → ∃ t, exec .attestGo s = .next t ∧
        t.boot.attest = some s.measure.1 ∧ (Inv s → t.flag F.SEC_ATTEST_CTRL_VALID = false))) ∧
    (s.boot.attest = none → exec .attestDone s = .next s) ∧
    (∀ r, s.boot.attest = some r → s.fencedSrc 0x605 = false → ∃ t, exec .attestDone s = .next t ∧ t.boot.attest = none ∧
      (Inv s → t.flag F.SEC_ATTEST_CTRL_VALID = true)) ∧
    (s.activeTag = none → exec .formeHashDone s = .next s) ∧
    (∀ a, s.activeTag = some a → s.boot.formeHashBusy = true → exec .formeHashDone s =
      .next (({ s with boot := { s.boot with formeHash := some (s.formeDigest a), formeHashBusy := false } } :
        State).raiseG 47 24))

/-- Every command completes: for each of the 257 constructors, in every state and for all operands that meet the spec's
conditions for its normal execution (`Runs`: not refused, not ignored, not made to wait, no bad word read), the command
answers the next state that the spec's rules for it leave (`effect`), whatever waits in the queue. The conditions are
on the state and the operands alone. -/
def Obligations.EveryCommandCompletes : Prop :=
  ∀ (i : Instr) (s : State), Runs i s → exec i s = .next (effect i s)
end

