-- ==== Sys2Proof/Laws/Table.lean ====
section
/-! SUPPORT. Sparse tables and memories: a read after a write, and the canonical form under every operation. -/

namespace Sys2Proof.Machine

variable {α : Type} [DecidableEq α]

/-- A write at one key leaves the read at every other, canonical form or not. -/
theorem tget_tput_ne (d : Nat → α) : ∀ (t : Tbl α) (k : Nat) (v : α) (j : Nat), j ≠ k →
    tget d (tput d t k v) j = tget d t j
  | [], k, v, j, h => by
    simp only [tput]
    split <;> simp [tget, h.symm]
  | (i, w) :: t, k, v, j, h => by
    have ih := tget_tput_ne d t k v j h
    simp only [tput]
    split
    · simp only [tget, ih]
    · split
      · rename_i e
        subst e
        split <;> simp [tget, h.symm]
      · split <;> simp [tget, h.symm]

/-- A value that is not the default reads back, canonical form or not. -/
theorem tget_tput_listed (d : Nat → α) : ∀ (t : Tbl α) (k : Nat) (v : α), v ≠ d k → tget d (tput d t k v) k = v
  | [], k, v, h => by simp [tput, tget, h]
  | (i, w) :: t, k, v, h => by
    have ih := tget_tput_listed d t k v h
    simp only [tput]
    split
    · rename_i e
      simp [tget, ih, show i ≠ k by omega]
    · split
      · simp [tget]
      · simp [tget]

/-- A read after a write: the value written at its key, the old one elsewhere. -/
theorem tget_tput (d : Nat → α) (t : Tbl α) (h : twf d t = true) (k : Nat) (v : α) (j : Nat) :
    tget d (tput d t k v) j = if j = k then v else tget d t j := by
  suffices ∀ (t : Tbl α) (b : Option Nat), twfFrom d b t = true →
      tget d (tput d t k v) j = if j = k then v else tget d t j from this t none h
  intro t
  induction t with
  | nil =>
    intro b _
    by_cases hv : v = d k
    · by_cases hj : j = k <;> simp [tput, tget, hv, hj]
    · by_cases hj : j = k
      · simp [tput, tget, hv, hj]
      · simp [tput, tget, hv, hj, Ne.symm hj]
  | cons x t ih =>
    obtain ⟨i, w⟩ := x
    intro b hb
    simp only [twfFrom, Bool.and_eq_true] at hb
    have hrest := hb.2
    have low : ∀ (t : Tbl α) (m n : Nat), n ≤ m → twfFrom d (some m) t = true → tget d t n = d n := by
      intro t
      induction t with
      | nil => intros; rfl
      | cons y t ih2 =>
        obtain ⟨a, c⟩ := y
        intro m n hn hy
        simp only [twfFrom, Bool.and_eq_true, decide_eq_true_eq] at hy
        have : a ≠ n := by omega
        simp only [tget, this, if_false]
        exact ih2 a n (by omega) hy.2
    by_cases h1 : i < k
    · simp only [tput, h1, if_true, tget]
      by_cases h2 : i = j
      · have : j ≠ k := by omega
        simp [h2, this]
      · simp only [h2, if_false]
        exact ih (some i) hrest
    · by_cases h2 : i = k
      · subst h2
        by_cases hv : v = d i
        · simp only [tput, Nat.lt_irrefl, if_false, if_true, hv, tget]
          by_cases hj : j = i
          · subst hj; simp [low t j j (Nat.le_refl _) hrest]
          · simp [hj, Ne.symm hj]
        · simp only [tput, Nat.lt_irrefl, if_false, if_true, hv, tget]
          by_cases hj : j = i
          · simp [hj]
          · simp [hj, Ne.symm hj]
      · have hk : k < i := by omega
        by_cases hv : v = d k
        · simp only [tput, h1, if_false, h2, hv, if_true]
          by_cases hj : j = k
          · subst hj
            have : i ≠ j := by omega
            simp [tget, this, low t i j (by omega) hrest]
          · simp [hj]
        · simp only [tput, h1, if_false, h2, hv]
          by_cases hj : j = k
          · simp [tget, hj]
          · simp [tget, hj, Ne.symm hj]

/-- Lowering the bound keeps the form. -/
theorem twfFrom_mono (d : Nat → α) : ∀ (t : Tbl α) (a b : Option Nat),
    (∀ x, a = some x → ∃ y, b = some y ∧ x ≤ y) → twfFrom d b t = true → twfFrom d a t = true
  | [], _, _, _, _ => rfl
  | (j, v) :: t, a, b, hab, h => by
    simp only [twfFrom, Bool.and_eq_true] at h ⊢
    refine ⟨⟨?_, h.1.2⟩, h.2⟩
    cases a with
    | none => rfl
    | some x =>
      obtain ⟨y, rfl, hxy⟩ := hab x rfl
      have := h.1.1
      simp only [decide_eq_true_eq] at this ⊢
      omega

/-- A write keeps the canonical form above any bound below its key. -/
theorem twfFrom_tput (d : Nat → α) (k : Nat) (v : α) : ∀ (t : Tbl α) (b : Option Nat),
    (∀ x, b = some x → x < k) → twfFrom d b t = true → twfFrom d b (tput d t k v) = true
  | [], b, hb, _ => by
    by_cases hv : v = d k
    · simp [tput, hv, twfFrom]
    · cases b with
      | none => simp [tput, hv, twfFrom]
      | some x => simp [tput, hv, twfFrom, hb x rfl]
  | (j, w) :: t, b, hb, h => by
    simp only [twfFrom, Bool.and_eq_true] at h
    by_cases h1 : j < k
    · simp only [tput, h1, if_true, twfFrom, Bool.and_eq_true]
      exact ⟨h.1, twfFrom_tput d k v t (some j) (by intro x hx; cases hx; exact h1) h.2⟩
    · by_cases h2 : j = k
      · subst h2
        by_cases hv : v = d j
        · simp only [tput, Nat.lt_irrefl, if_false, if_true, hv]
          refine twfFrom_mono d t b (some j) ?_ h.2
          intro x hx
          exact ⟨j, rfl, Nat.le_of_lt (hb x hx)⟩
        · simp only [tput, Nat.lt_irrefl, if_false, if_true, hv, twfFrom, Bool.and_eq_true]
          exact ⟨⟨h.1.1, by simpa using hv⟩, h.2⟩
      · by_cases hv : v = d k
        · simp only [tput, h1, if_false, h2, hv, if_true, twfFrom, Bool.and_eq_true]
          exact h
        · simp only [tput, h1, if_false, h2, hv, twfFrom, Bool.and_eq_true]
          refine ⟨⟨?_, by simpa using hv⟩, ⟨by simp; omega, h.1.2⟩, h.2⟩
          cases b with
          | none => rfl
          | some x => simpa using hb x rfl

/-- A write keeps the canonical form. -/
theorem twf_tput (d : Nat → α) (t : Tbl α) (h : twf d t = true) (k : Nat) (v : α) : twf d (tput d t k v) = true :=
  twfFrom_tput d k v t none (by intro x hx; cases hx) h

/-- Dropping entries keeps the canonical form. -/
theorem twfFrom_filter (d : Nat → α) (p : Nat × α → Bool) : ∀ (t : Tbl α) (b : Option Nat),
    twfFrom d b t = true → twfFrom d b (t.filter p) = true
  | [], _, _ => rfl
  | (j, v) :: t, b, h => by
    simp only [twfFrom, Bool.and_eq_true] at h
    by_cases hp : p (j, v) = true
    · simp only [List.filter_cons_of_pos hp, twfFrom, Bool.and_eq_true]
      exact ⟨h.1, twfFrom_filter d p t (some j) h.2⟩
    · rw [List.filter_cons_of_neg hp]
      refine twfFrom_filter d p t b (twfFrom_mono d t b (some j) ?_ h.2)
      intro x hx
      subst hx
      have := h.1.1
      simp only [decide_eq_true_eq] at this
      exact ⟨j, rfl, Nat.le_of_lt this⟩

theorem twf_filter (d : Nat → α) (p : Nat × α → Bool) (t : Tbl α) (h : twf d t = true) : twf d (t.filter p) = true :=
  twfFrom_filter d p t none h

/-- Changing values and then dropping those equal to the default gives the canonical form. -/
theorem twfFrom_map (d : Nat → α) (g : Nat × α → α) : ∀ (t : Tbl α) (b : Option Nat), twfFrom d b t = true →
    twfFrom d b ((t.map fun x => (x.1, g x)).filter fun x => decide (x.2 ≠ d x.1)) = true
  | [], _, _ => rfl
  | (j, v) :: t, b, h => by
    simp only [twfFrom, Bool.and_eq_true] at h
    by_cases hv : g (j, v) = d j
    · simp only [List.map_cons, List.filter_cons, hv, ne_eq, not_true_eq_false, decide_false, Bool.false_eq_true, if_false]
      refine twfFrom_map d g t b (twfFrom_mono d t b (some j) ?_ h.2)
      intro x hx
      subst hx
      have := h.1.1
      simp only [decide_eq_true_eq] at this
      exact ⟨j, rfl, Nat.le_of_lt this⟩
    · simp only [List.map_cons, List.filter_cons, ne_eq, hv, not_false_eq_true, decide_true, if_true, twfFrom,
        Bool.and_eq_true]
      exact ⟨⟨h.1.1, trivial⟩, twfFrom_map d g t (some j) h.2⟩

theorem twf_map (d : Nat → α) (g : Nat × α → α) (t : Tbl α) (h : twf d t = true) :
    twf d ((t.map fun x => (x.1, g x)).filter fun x => decide (x.2 ≠ d x.1)) = true := twfFrom_map d g t none h

/-- Two tables in canonical form that read the same are the same data. -/
theorem twf_ext (d : Nat → α) : ∀ (s t : Tbl α), twf d s = true → twf d t = true →
    (∀ k, tget d s k = tget d t k) → s = t := by
  have low : ∀ (t : Tbl α) (m n : Nat), n ≤ m → twfFrom d (some m) t = true → tget d t n = d n := by
    intro t
    induction t with
    | nil => intros; rfl
    | cons y t ih2 =>
      obtain ⟨a, c⟩ := y
      intro m n hn hy
      simp only [twfFrom, Bool.and_eq_true, decide_eq_true_eq] at hy
      have : a ≠ n := by omega
      simp only [tget, this, if_false]
      exact ih2 a n (by omega) hy.2
  suffices ∀ (s t : Tbl α) (b c : Option Nat), twfFrom d b s = true → twfFrom d c t = true →
      (∀ k, tget d s k = tget d t k) → s = t from fun s t hs ht h => this s t none none hs ht h
  intro s
  induction s with
  | nil =>
    intro t b c _ ht h
    cases t with
    | nil => rfl
    | cons y t =>
      obtain ⟨j, v⟩ := y
      simp only [twfFrom, Bool.and_eq_true, decide_eq_true_eq] at ht
      have := h j
      simp only [tget, if_true] at this
      exact absurd this.symm ht.1.2
  | cons x s ih =>
    obtain ⟨i, w⟩ := x
    intro t b c hs ht h
    simp only [twfFrom, Bool.and_eq_true, decide_eq_true_eq] at hs
    cases t with
    | nil =>
      have := h i
      simp only [tget, if_true] at this
      exact absurd this hs.1.2
    | cons y t =>
      obtain ⟨j, v⟩ := y
      simp only [twfFrom, Bool.and_eq_true, decide_eq_true_eq] at ht
      have hi := h i
      have hj := h j
      simp only [tget, if_true] at hi hj
      by_cases hij : i = j
      · subst hij
        simp only [if_true] at hi
        subst hi
        refine congrArg _ (ih t (some i) (some i) hs.2 ht.2 fun k => ?_)
        by_cases hk : i = k
        · subst hk
          rw [low s i i (Nat.le_refl _) hs.2, low t i i (Nat.le_refl _) ht.2]
        · have := h k
          simpa [tget, hk] using this
      · rcases Nat.lt_or_gt_of_ne hij with hlt | hgt
        · have : j ≠ i := by omega
          simp only [this, if_false] at hi
          rw [low t j i (by omega) ht.2] at hi
          exact absurd hi hs.1.2
        · simp only [hij, if_false] at hj
          rw [low s i j (by omega) hs.2] at hj
          exact absurd hj.symm ht.1.2

/-! ### Byte memories -/

/-- One byte after a write of one byte. -/
theorem Memory.read_write (fill : Byte) (m : Memory) (h : Memory.wf fill m = true) (a : Nat) (b : Byte) (x : Nat) :
    Memory.read fill (Memory.write fill m a b) x = if x = a then b else Memory.read fill m x :=
  tget_tput _ m h a b x

/-- A write of one byte keeps the canonical form. -/
theorem Memory.wf_write (fill : Byte) (m : Memory) (h : Memory.wf fill m = true) (a : Nat) (b : Byte) :
    Memory.wf fill (Memory.write fill m a b) = true := twf_tput _ m h a b

/-- A write of bytes keeps the canonical form. -/
theorem Memory.wf_writeN (fill : Byte) : ∀ (bs : List Byte) (m : Memory) (a : Nat), Memory.wf fill m = true →
    Memory.wf fill (Memory.writeN fill m a bs) = true
  | [], _, _, h => h
  | b :: bs, m, a, h => Memory.wf_writeN fill bs _ (a + 1) (Memory.wf_write fill m h a b)

/-- One byte after a write of bytes: the byte written where the write reaches, the old one elsewhere. -/
theorem Memory.read_writeN (fill : Byte) : ∀ (bs : List Byte) (m : Memory) (a x : Nat), Memory.wf fill m = true →
    Memory.read fill (Memory.writeN fill m a bs) x =
      if a ≤ x ∧ x < a + bs.length then bs.getD (x - a) 0 else Memory.read fill m x
  | [], m, a, x, _ => by
    have : ¬ (a ≤ x ∧ x < a + ([] : List Byte).length) := by simp
    simp only [Memory.writeN, this, if_false]
  | b :: bs, m, a, x, h => by
    rw [Memory.writeN, Memory.read_writeN fill bs _ (a + 1) x (Memory.wf_write fill m h a b), Memory.read_write fill m h]
    simp only [List.length_cons]
    by_cases h1 : x = a
    · subst h1
      have n1 : ¬ (x + 1 ≤ x ∧ x < x + 1 + bs.length) := by omega
      have y1 : x ≤ x ∧ x < x + (bs.length + 1) := by omega
      simp [n1]
    · by_cases h2 : a + 1 ≤ x ∧ x < a + 1 + bs.length
      · have y2 : a ≤ x ∧ x < a + (bs.length + 1) := by omega
        obtain ⟨n, hn⟩ : ∃ n, x - a = n + 1 := ⟨x - a - 1, by omega⟩
        have hn' : x - (a + 1) = n := by omega
        simp only [h2, y2, and_self, if_true, hn, hn', List.getD_cons_succ]
      · have n2 : ¬ (a ≤ x ∧ x < a + (bs.length + 1)) := by omega
        simp only [h2, n2, h1, if_false]

end Sys2Proof.Machine
end

