-- ==== Sys2Proof/Laws/Regs.lean ====
section
/-! SUPPORT. What the operations on registers, fields and counters do, said once: a write changes one register, a field
write changes that field alone. -/

namespace Sys2Proof.Machine

/-! ### Bit fields -/

/-- A word splits into the bits below a field, the field, and the bits above it. -/
theorem split_bits {w : Nat} (v : BitVec w) (hi lo : Nat) (h : lo ≤ hi) :
    v.toNat = v.toNat % 2 ^ lo + bitsOf v hi lo * 2 ^ lo + v.toNat / 2 ^ (hi + 1) * 2 ^ (hi + 1) := by
  have e : 2 ^ (hi + 1) = 2 ^ (hi + 1 - lo) * 2 ^ lo := by rw [← Nat.pow_add]; congr 1; omega
  have d : v.toNat / 2 ^ (hi + 1) = v.toNat / 2 ^ lo / 2 ^ (hi + 1 - lo) := by
    rw [Nat.div_div_eq_div_mul, ← Nat.pow_add]; congr 2; omega
  have a := Nat.div_add_mod v.toNat (2 ^ lo)
  have b := Nat.div_add_mod (v.toNat / 2 ^ lo) (2 ^ (hi + 1 - lo))
  rw [d]
  simp only [bitsOf, e]
  generalize v.toNat / 2 ^ lo / 2 ^ (hi + 1 - lo) = q at *
  generalize v.toNat / 2 ^ lo % 2 ^ (hi + 1 - lo) = r at *
  rw [← a, ← b, Nat.mul_add_mod_self_left, Nat.mod_mod, Nat.mul_add]
  have : 2 ^ lo * (2 ^ (hi + 1 - lo) * q) = q * (2 ^ (hi + 1 - lo) * 2 ^ lo) := by
    rw [Nat.mul_comm, Nat.mul_right_comm, Nat.mul_comm (_ * _) q]
  rw [this, Nat.mul_comm (2 ^ lo) r]
  omega

/-- A word after a field write, as a number. -/
theorem toNat_setBits {w : Nat} (v : BitVec w) (hi lo n : Nat) (h : lo ≤ hi) (hw : hi < w) :
    (setBits v hi lo n).toNat =
      v.toNat % 2 ^ lo + n % 2 ^ (hi + 1 - lo) * 2 ^ lo + v.toNat / 2 ^ (hi + 1) * 2 ^ (hi + 1) := by
  have s := split_bits v hi lo h
  have e : 2 ^ (hi + 1) = 2 ^ (hi + 1 - lo) * 2 ^ lo := by rw [← Nat.pow_add]; congr 1; omega
  have lt1 : v.toNat % 2 ^ lo < 2 ^ lo := Nat.mod_lt _ (Nat.two_pow_pos _)
  have lt2 : n % 2 ^ (hi + 1 - lo) < 2 ^ (hi + 1 - lo) := Nat.mod_lt _ (Nat.two_pow_pos _)
  have low : v.toNat % 2 ^ lo + n % 2 ^ (hi + 1 - lo) * 2 ^ lo < 2 ^ (hi + 1) := by
    rw [e]
    have : (n % 2 ^ (hi + 1 - lo) + 1) * 2 ^ lo ≤ 2 ^ (hi + 1 - lo) * 2 ^ lo := Nat.mul_le_mul_right _ lt2
    rw [Nat.add_mul] at this
    omega
  have top : (v.toNat / 2 ^ (hi + 1) + 1) * 2 ^ (hi + 1) ≤ 2 ^ w := by
    have : 2 ^ w = 2 ^ (w - (hi + 1)) * 2 ^ (hi + 1) := by rw [← Nat.pow_add]; congr 1; omega
    rw [this]
    refine Nat.mul_le_mul_right _ ?_
    have hv := v.isLt
    rw [this] at hv
    exact Nat.div_lt_of_lt_mul (by rw [Nat.mul_comm]; exact hv)
  rw [Nat.add_mul] at top
  simp only [setBits, BitVec.toNat_ofNat]
  rw [Nat.mod_eq_of_lt (by omega)]
  omega

/-- A field reads what was written to it. -/
theorem bitsOf_setBits_same {w : Nat} (v : BitVec w) (hi lo n : Nat) (h : lo ≤ hi) (hw : hi < w) :
    bitsOf (setBits v hi lo n) hi lo = n % 2 ^ (hi + 1 - lo) := by
  have e : 2 ^ (hi + 1) = 2 ^ (hi + 1 - lo) * 2 ^ lo := by rw [← Nat.pow_add]; congr 1; omega
  have lt1 : v.toNat % 2 ^ lo < 2 ^ lo := Nat.mod_lt _ (Nat.two_pow_pos _)
  simp only [bitsOf]
  rw [toNat_setBits v hi lo n h hw, e]
  rw [show v.toNat % 2 ^ lo + n % 2 ^ (hi + 1 - lo) * 2 ^ lo +
      v.toNat / (2 ^ (hi + 1 - lo) * 2 ^ lo) * (2 ^ (hi + 1 - lo) * 2 ^ lo) =
      v.toNat % 2 ^ lo + (n % 2 ^ (hi + 1 - lo) + v.toNat / (2 ^ (hi + 1 - lo) * 2 ^ lo) * 2 ^ (hi + 1 - lo)) * 2 ^ lo
      from by rw [Nat.add_mul, Nat.mul_assoc]; omega]
  rw [Nat.add_mul_div_right _ _ (Nat.two_pow_pos _), Nat.div_eq_of_lt lt1, Nat.zero_add, Nat.add_mul_mod_self_right,
    Nat.mod_mod]

/-- A bit after a field write. -/
theorem bitOf_setBits {w : Nat} (v : BitVec w) (hi lo n i : Nat) (h : lo ≤ hi) (hw : hi < w) :
    bitOf (setBits v hi lo n) i = if lo ≤ i ∧ i ≤ hi then n.testBit (i - lo) else bitOf v i := by
  have lt1 : v.toNat % 2 ^ lo < 2 ^ lo := Nat.mod_lt _ (Nat.two_pow_pos _)
  have lt2 : n % 2 ^ (hi + 1 - lo) < 2 ^ (hi + 1 - lo) := Nat.mod_lt _ (Nat.two_pow_pos _)
  have e : 2 ^ (hi + 1) = 2 ^ (hi + 1 - lo) * 2 ^ lo := by rw [← Nat.pow_add]; congr 1; omega
  simp only [bitOf, BitVec.getLsbD]
  rw [toNat_setBits v hi lo n h hw]
  have low : v.toNat % 2 ^ lo + n % 2 ^ (hi + 1 - lo) * 2 ^ lo < 2 ^ (hi + 1) := by
    rw [e]
    have : (n % 2 ^ (hi + 1 - lo) + 1) * 2 ^ lo ≤ 2 ^ (hi + 1 - lo) * 2 ^ lo := Nat.mul_le_mul_right _ lt2
    rw [Nat.add_mul] at this
    omega
  rw [Nat.add_comm (_ + _), Nat.mul_comm _ (2 ^ (hi + 1)), Nat.testBit_two_pow_mul_add _ low]
  by_cases h1 : i < hi + 1
  · rw [if_pos h1, Nat.add_comm (v.toNat % _), Nat.mul_comm _ (2 ^ lo), Nat.testBit_two_pow_mul_add _ lt1]
    by_cases h2 : i < lo
    · rw [if_pos h2, if_neg (by omega), Nat.testBit_mod_two_pow]; simp [h2]
    · rw [if_neg h2, if_pos (by omega), Nat.testBit_mod_two_pow]
      simp only [Bool.and_eq_right_iff_imp, decide_eq_true_eq]
      intro _; omega
  · rw [if_neg h1, if_neg (by omega), Nat.testBit_div_two_pow]
    congr 1; omega

/-- A bit of a field, as a bit of the word. -/
theorem testBit_bitsOf {w : Nat} (v : BitVec w) (hi lo i : Nat) :
    (bitsOf v hi lo).testBit i = (decide (i < hi + 1 - lo) && bitOf v (i + lo)) := by
  simp only [bitsOf, Nat.testBit_mod_two_pow, Nat.testBit_div_two_pow, bitOf, BitVec.getLsbD]

/-- A write to a field leaves a field that shares no bit with it. -/
theorem bitsOf_setBits_other {w : Nat} (v : BitVec w) (hi lo n hi' lo' : Nat) (h : lo ≤ hi) (hw : hi < w)
    (hd : hi' < lo ∨ hi < lo') : bitsOf (setBits v hi lo n) hi' lo' = bitsOf v hi' lo' := by
  refine Nat.eq_of_testBit_eq fun i => ?_
  rw [testBit_bitsOf, testBit_bitsOf, bitOf_setBits v hi lo n _ h hw]
  by_cases hi'' : i < hi' + 1 - lo'
  · rw [if_neg (by omega)]
  · simp [hi'']

/-! ### Registers -/

/-- A write to one register leaves every other, in any state. -/
theorem State.reg_setReg_ne (s : State) {o o' : Nat} (v : W64) (h : o' ≠ o) : (s.setReg o v).reg o' = s.reg o' :=
  tget_tput_ne regReset s.regs o v o' h

/-- A register reads what was written to it, and every other register what it held. -/
theorem State.reg_setReg (s : State) (h : twf regReset s.regs = true) (o o' : Nat) (v : W64) :
    (s.setReg o v).reg o' = if o' = o then v else s.reg o' := by
  simp only [State.reg, State.setReg]
  rw [tget_tput regReset s.regs h]

/-- The register file keeps its canonical form. -/
theorem State.twf_setReg (s : State) (h : twf regReset s.regs = true) (o : Nat) (v : W64) :
    twf regReset (s.setReg o v).regs = true := twf_tput regReset s.regs h o v

theorem State.twf_setFld (s : State) (h : twf regReset s.regs = true) (f : Fld) (n : Nat) :
    twf regReset (s.setFld f n).regs = true := s.twf_setReg h _ _

theorem State.twf_setFlag (s : State) (h : twf regReset s.regs = true) (f : Fld) (b : Bool) :
    twf regReset (s.setFlag f b).regs = true := s.twf_setReg h _ _

theorem State.twf_countN (s : State) (h : twf regReset s.regs = true) (o n : Nat) :
    twf regReset (s.countN o n).regs = true := s.twf_setReg h _ _

/-- A field write leaves every other register, in any state. -/
theorem State.reg_setFld_ne (s : State) (f : Fld) (n : Nat) {o : Nat} (h : o ≠ f.off) : (s.setFld f n).reg o = s.reg o :=
  s.reg_setReg_ne _ h

theorem State.reg_setFlag_ne (s : State) (f : Fld) (b : Bool) {o : Nat} (h : o ≠ f.off) :
    (s.setFlag f b).reg o = s.reg o := s.reg_setReg_ne _ h

theorem State.reg_countN_ne (s : State) {o o' : Nat} (n : Nat) (h : o' ≠ o) : (s.countN o n).reg o' = s.reg o' :=
  s.reg_setReg_ne _ h

theorem State.reg_count_ne (s : State) {o o' : Nat} (h : o' ≠ o) : (s.count o).reg o' = s.reg o' :=
  s.reg_setReg_ne _ h

/-- A field reads what was written to it. -/
theorem State.fld_setFld_same (s : State) (h : twf regReset s.regs = true) (f : Fld) (n : Nat) (hl : f.lo ≤ f.hi)
    (hw : f.hi < 64) : (s.setFld f n).fld f = n % 2 ^ (f.hi + 1 - f.lo) := by
  simp only [State.fld, State.setFld, s.reg_setReg h, if_true]
  exact bitsOf_setBits_same _ _ _ _ hl hw

/-- A field write leaves a field of another register, or one that shares no bit with it. -/
theorem State.fld_setFld_other (s : State) (h : twf regReset s.regs = true) (f g : Fld) (n : Nat) (hl : f.lo ≤ f.hi)
    (hw : f.hi < 64) (hd : g.off ≠ f.off ∨ g.hi < f.lo ∨ f.hi < g.lo) : (s.setFld f n).fld g = s.fld g := by
  simp only [State.fld, State.setFld, s.reg_setReg h]
  by_cases ho : g.off = f.off
  · rw [if_pos ho, ho]
    exact bitsOf_setBits_other _ _ _ _ _ _ hl hw (by omega)
  · rw [if_neg ho]

/-- A flag reads what was written to it. -/
theorem State.flag_setFlag_same (s : State) (h : twf regReset s.regs = true) (f : Fld) (b : Bool) (hl : f.lo = f.hi)
    (hw : f.hi < 64) : (s.setFlag f b).flag f = b := by
  simp only [State.flag, State.setFlag]
  rw [s.fld_setFld_same h f _ (by omega) hw, show f.hi + 1 - f.lo = 1 by omega]
  cases b <;> rfl

/-- A flag write leaves every other field. -/
theorem State.fld_setFlag_other (s : State) (h : twf regReset s.regs = true) (f g : Fld) (b : Bool) (hl : f.lo ≤ f.hi)
    (hw : f.hi < 64) (hd : g.off ≠ f.off ∨ g.hi < f.lo ∨ f.hi < g.lo) : (s.setFlag f b).fld g = s.fld g :=
  s.fld_setFld_other h f g _ hl hw hd

theorem State.flag_setFlag_other (s : State) (h : twf regReset s.regs = true) (f g : Fld) (b : Bool) (hl : f.lo ≤ f.hi)
    (hw : f.hi < 64) (hd : g.off ≠ f.off ∨ g.hi < f.lo ∨ f.hi < g.lo) : (s.setFlag f b).flag g = s.flag g := by
  simp only [State.flag, s.fld_setFlag_other h f g b hl hw hd]

/-- A counter counts. -/
theorem State.reg_countN (s : State) (h : twf regReset s.regs = true) (o n : Nat) :
    (s.countN o n).reg o = s.reg o + w64 n := by
  simp only [State.countN, s.reg_setReg h, if_true]

end Sys2Proof.Machine
end

