-- ==== Sys2Proof/Laws/Events.lean ====
section
/-! SUPPORT. What raising an event source and recording in a first-recorded log do (R460, R464): the frame of each. -/

namespace Sys2Proof.Machine

/-- A vector's signal touches the PBA and the outbox alone (R460, R332). -/
theorem State.signalVec_frame (s : State) (v : Nat) :
    s.signalVec v = { s with regs := (s.signalVec v).regs, out := (s.signalVec v).out } := by
  unfold State.signalVec
  split <;> rfl

theorem State.reg_signalVec_ne (s : State) (v : Nat) {o : Nat} (h : o ≠ R.MSIX_PBA) :
    (s.signalVec v).reg o = s.reg o := by
  unfold State.signalVec
  split
  · rfl
  · exact s.reg_setReg_ne _ h

theorem State.twf_signalVec (s : State) (h : twf regReset s.regs = true) (v : Nat) :
    twf regReset (s.signalVec v).regs = true := by
  unfold State.signalVec
  split
  · exact h
  · exact s.twf_setReg h _ _

/-- Raising a source touches its LATCH, the PBA and the outbox alone (R460, R464). -/
theorem State.raise_frame (s : State) (n : Nat) :
    s.raise n = { s with regs := (s.raise n).regs, out := (s.raise n).out } := by
  unfold State.raise
  dsimp only
  split
  · split
    · rfl
    · rw [State.signalVec_frame]; rfl
  · rfl

theorem State.reg_raise_ne (s : State) (n : Nat) {o : Nat} (h : o ≠ R.EVT_LATCH (n / 32)) (h' : o ≠ R.MSIX_PBA) :
    (s.raise n).reg o = s.reg o := by
  unfold State.raise
  dsimp only
  split
  · split
    · exact s.reg_setReg_ne _ h
    · rw [State.reg_signalVec_ne _ _ h']; exact s.reg_setReg_ne _ h
  · exact s.reg_setReg_ne _ h

theorem State.twf_raise (s : State) (h : twf regReset s.regs = true) (n : Nat) :
    twf regReset (s.raise n).regs = true := by
  unfold State.raise
  dsimp only
  split
  · split
    · exact s.twf_setReg h _ _
    · exact State.twf_signalVec _ (s.twf_setReg h _ _) _
  · exact s.twf_setReg h _ _

/-- Raising a source sets its LATCH bit and keeps the group's other bits. -/
theorem State.latch_raise (s : State) (h : twf regReset s.regs = true) (n : Nat) (hn : n < 1536) :
    (s.raise n).reg (R.EVT_LATCH (n / 32)) = s.reg (R.EVT_LATCH (n / 32)) ||| w64 (2 ^ (n % 32)) := by
  unfold State.raise
  dsimp only
  split
  · split
    · rw [s.reg_setReg h, if_pos rfl]
    · have : R.EVT_LATCH (n / 32) ≠ R.MSIX_PBA := by
        simp only [R.EVT_LATCH, R.MSIX_PBA]
        omega
      rw [State.reg_signalVec_ne _ _ this, s.reg_setReg h, if_pos rfl]
  · rw [s.reg_setReg h, if_pos rfl]

end Sys2Proof.Machine
end

