-- ==== Sys2Proof/Laws/Keeps.lean ====
section
/-! SUPPORT. What every operation of the block keeps, said once: the queue, the time base below its wrap, the canonical
form of the stored tables, and the order of the key slots. -/

namespace Sys2Proof.Machine

/-- `t` follows from `s` by operations that leave the command queue alone, keep each clause of the invariant, and move
the key slots forward only. -/
structure Keeps (s t : State) : Prop where
  pending : t.pending = s.pending
  time : s.time.now < tbWrap → t.time.now < tbWrap
  regs : twf regReset s.regs = true → twf regReset t.regs = true
  cells : twf (fun _ => cellByte 0 0x3F) s.gal.cell = true → twf (fun _ => cellByte 0 0x3F) t.gal.cell = true
  mem : Memory.wf 0 s.ddr.mem = true → Memory.wf 0 t.ddr.mem = true
  flash : Memory.wf 0xFF s.boot.qspi = true → Memory.wf 0xFF t.boot.qspi = true
  keys : s.keyOpOk = true → t.keyOpOk = true ∧ KeysForward s t
  slots : t.boot.otp.keys.length = s.boot.otp.keys.length

theorem KeysForward.refl (s : State) : KeysForward s s := fun _ => ⟨fun h => ⟨h, rfl⟩, fun h => h⟩

theorem KeysForward.trans {s t u : State} (h : KeysForward s t) (g : KeysForward t u) : KeysForward s u := fun k =>
  ⟨fun p => ⟨((g k).1 ((h k).1 p).1).1, (((g k).1 ((h k).1 p).1).2).trans ((h k).1 p).2⟩, fun r => (g k).2 ((h k).2 r)⟩

theorem Keeps.refl (s : State) : Keeps s s := ⟨rfl, id, id, id, id, id, fun h => ⟨h, KeysForward.refl s⟩, rfl⟩

theorem Keeps.trans {s t u : State} (h : Keeps s t) (g : Keeps t u) : Keeps s u :=
  ⟨g.pending.trans h.pending, fun x => g.time (h.time x), fun x => g.regs (h.regs x), fun x => g.cells (h.cells x),
    fun x => g.mem (h.mem x), fun x => g.flash (h.flash x), fun x =>
      ⟨(g.keys (h.keys x).1).1, (h.keys x).2.trans (g.keys (h.keys x).1).2⟩, g.slots.trans h.slots⟩

/-- A state that agrees with a kept one in the kept parts is kept. -/
theorem Keeps.same {s t u : State} (h : Keeps s t) (h1 : u.pending = t.pending) (h2 : u.time.now = t.time.now)
    (h3 : u.regs = t.regs) (h4 : u.gal.cell = t.gal.cell) (h5 : u.ddr.mem = t.ddr.mem) (h6 : u.boot.qspi = t.boot.qspi)
    (h7 : u.boot.keyOp = t.boot.keyOp) (h8 : u.boot.otp.keys = t.boot.otp.keys) : Keeps s u := by
  have hk : ∀ k, u.keySlot k = t.keySlot k := fun k => by simp only [State.keySlot, h8]
  refine h.trans ⟨h1, fun x => h2 ▸ x, fun x => h3 ▸ x, fun x => h4 ▸ x, fun x => h5 ▸ x, fun x => h6 ▸ x, fun x => ?_, by rw [h8]⟩
  refine ⟨?_, fun k => by rw [hk]; exact KeysForward.refl t k⟩
  simp only [State.keyOpOk, h7, hk] at x ⊢
  exact x

/-- The invariant holds after every kept change. -/
theorem Keeps.inv {s t : State} (h : Keeps s t) (i : Inv s) : Inv t :=
  ⟨h.time i.time, h.regs i.regs, h.cells i.cells, h.mem i.mem, h.flash i.flash, (h.keys i.keys).1, h.slots.trans i.slots⟩

/-- A fold of kept changes is kept. -/
theorem Keeps.foldl {β : Type} {s : State} (g : State → β → State) (hg : ∀ u x, Keeps s u → Keeps s (g u x)) :
    ∀ (l : List β) (t : State), Keeps s t → Keeps s (l.foldl g t)
  | [], _, h => h
  | x :: l, t, h => Keeps.foldl g hg l _ (hg t x h)

/-- A fold that carries more than the state. -/
theorem Keeps.foldlP {α β : Type} (P : α → Prop) (g : α → β → α) (hg : ∀ a x, P a → P (g a x)) :
    ∀ (l : List β) (a : α), P a → P (l.foldl g a)
  | [], _, h => h
  | x :: l, a, h => Keeps.foldlP P g hg l _ (hg a x h)

/-- The next state of an outcome, where there is one, is kept. -/
def KeepsOut (s : State) (o : Out State) : Prop := ∀ t, o = .next t → Keeps s t

theorem Keeps.out {s t : State} (h : Keeps s t) : KeepsOut s (.next t) := fun _ e => by cases e; exact h

end Sys2Proof.Machine
end

