-- ==== Sys2Proof/WellFormed.lean ====
section
/-! DEFINITION. Which commands an agent of the block can send: the operands fit each other and the access rules of the bus,
the ring and the program verifier. The machine gives every command a meaning, well-formed or not. -/

namespace Sys2Proof

/-- An access of 4 or 8 bytes, naturally aligned, whose data fits it (R305). -/
def accessOk (addr : Nat) (wide : Bool) (data : Nat) : Bool :=
  if wide then addr % 8 == 0 else addr % 4 == 0 && decide (data < 2 ^ 32)

/-- The bytes of such an access. -/
def accessBytes (wide : Bool) : Nat := if wide then 8 else 4

/-- COUNT and LEN of a loop that the verifier passes (R88, R95). -/
def loopOk (count len : Nat) : Bool := decide (1 ≤ count) && decide (count ≤ 64) && decide (1 ≤ len)

/-- The operands of a command fit each other: one request of each requester in a cycle (R46); a FUNC, a special
register, a loop, a field or a port form that the verifier passes (R78, R82, R83, R95, R104 to R123); aligned bus
accesses (R202, R305); a request that crosses no 4 KiB boundary (R306); a block of 2 to 512 words (R283); transfers no
longer than their descriptors can name (R312 to R318); a mailbox of 4 KiB (R292); distinct bad blocks and dies (R361,
R362); one reading per region rail (R385). -/
def Instr.wf : Instr → Bool
  | .cellRequest reqs => decide (reqs.map (·.1)).Nodup
  | .alu _ func _ _ _ => decide (func.toNat ≤ 0x12) && func.toNat != 9
  | .alui _ func _ _ _ => decide (func.toNat ≤ 0x0F) && func.toNat != 9
  | .mfs _ _ spec => decide (spec.toNat ≤ 25) && spec.toNat != 15
  | .mts _ spec _ => [6, 9, 10, 11, 18, 22].contains spec.toNat
  | .loop _ count len => loopOk count.toNat len.toNat
  | .loopr _ _ count len => loopOk count.toNat len.toNat
  | .hini _ alg _ seed => !alg || seed == 0
  | .berx _ _ any btag _ _ => !any || btag == 0
  | .asdu _ _ fld rs2 _ => decide (fld.toNat ≤ 9) && (fld.toNat == 7 || rs2.val == 0)
  | .dlvFwd _ imm port rs1 => if imm then rs1.val == 0 else port == 0
  | .qsel _ imm qoff rs1 => if imm then rs1.val == 0 else qoff == 0
  | .editPrpAdd _ _ lan => lan == 0xA || lan == 0xB
  | .wblHostWrite _ size data _ => decide (1 ≤ size.val) && decide (data.toNat < 2 ^ (8 * size.val))
  | .wblHostRead addr wide _ => accessOk addr.toNat wide 0
  | .perTagTableWrite off wide data => accessOk off.toNat wide data.toNat
  | .ttDataWrite off wide data => accessOk off.toNat wide data.toNat
  | .ringBlockFetched words => decide (2 ≤ words.length) && decide (words.length ≤ 512)
  | .i2cGo words => decide (words.length ≤ 1024)
  | .twrite _ _ _ _ data _ => decide (data.length ≤ 510)
  | .tdelete _ _ _ _ data _ => decide (data.length ≤ 510)
  | .tsearch _ _ key _ => decide (key.length ≤ 510)
  | .caparm _ _ data => decide (data.length ≤ 510)
  | .bar2Request write off size data _ => decide (1 ≤ size.val) && decide (off.toNat % 4096 + size.val ≤ 4096) &&
    data.length == (if write then size.val else 0)
  | .winEntryWrite _ wide data => accessOk 0 wide data.toNat
  | .barResize log2 => decide (24 ≤ log2.val)
  | .txFrameInject _ _ data => decide (data.length ≤ 9724)
  | .dmaCopy _ _ data _ => decide (data.length ≤ 65536)
  | .ddrRequest _ write _ len data _ => decide (1 ≤ len.val) && data.length == (if write then len.val else 0)
  | .arcEnable _ dies => decide (dies.map (·.1)).Nodup
  | .formatDone badBlocks dies => decide badBlocks.Nodup && decide (dies.map (·.1)).Nodup
  | .powerRecalibrate vouts _ => vouts.length == 8
  | .qspiRead len => decide (1 ≤ len.toNat) && decide (len.toNat ≤ 256)
  | .qspiProgram len => decide (1 ≤ len.toNat) && decide (len.toNat ≤ 256)
  | .registerWrite off wide data => accessOk off.toNat wide data.toNat
  | .frameBytesArrive _ bytes => decide (1 ≤ bytes.length) && decide (bytes.length ≤ 9728)
  | .pcieLinkUp speed width => decide (1 ≤ speed.val) && decide (1 ≤ width.val)
  | .frameStart .. | .frameEnd .. | .pdelayResponse .. | .pcsLockLoss .. | .pcsLockGain .. | .linkDown ..
  | .linkUp .. | .holdTimeExpiry .. | .prtModeWrite .. | .laneModeInForce .. | .mergeVerifyTimer ..
  | .mergeRespond .. | .regionTrainingStart .. | .dispatch .. | .sweepDone .. | .dmaPoolRetry .. | .cellFree ..
  | .galleyCommit .. | .residueTimeout .. | .recircOffer .. | .movhi .. | .mul .. | .ext .. | .ins .. | .setc ..
  | .advc .. | .br .. | .bri .. | .jmp .. | .jtab .. | .end_ .. | .pmRepairDone .. | .watchdog .. | .lkiL2dst ..
  | .lkiL2src .. | .lkiIpv4 .. | .lkiIpv6 .. | .lkiRule .. | .lkiFork .. | .lkiWatch .. | .lookupComplete ..
  | .lkw .. | .hacc .. | .hacf .. | .hfin .. | .wbopRead .. | .wbopAdd .. | .dupchk .. | .svchk .. | .gschk ..
  | .meter .. | .wbind .. | .dlvDrop .. | .dlvMcast .. | .dlvFork .. | .dlvPunt .. | .dlvSecond .. | .sideMirror ..
  | .sideCapmark .. | .sideCaptrig .. | .sideTstamp .. | .editVpush .. | .editVpop .. | .editVswap ..
  | .editHsrIns .. | .editHsrRem .. | .editPrpStrip .. | .editMacDa .. | .editMacSa .. | .editTtlDec ..
  | .editPtpCf .. | .learnRequest .. | .ageingStep .. | .parityInvalidate .. | .scanStart | .scanDone ..
  | .maintWrite .. | .wchPatrolStep .. | .wchRepair .. | .wblPatrolVisit .. | .wblStateRepair .. | .wblSnapshot ..
  | .stickyClear .. | .clrBlocked .. | .clrQual .. | .meterClr .. | .evlogPop | .egressPick ..
  | .ageDecisionTick .. | .frameTxStart .. | .frameTxEnd .. | .ttEntryChange .. | .ttOperationalBase ..
  | .queueFlush .. | .queuePause .. | .fstage .. | .fdiscard | .fcommit | .fverify | .fload .. | .drainComplete
  | .drainTimeout | .tagReleaseDone .. | .freqTrim .. | .slew | .timeStep | .timeSet | .slewEnd | .ppsOutRise
  | .ppsOutFall | .ppsInEdge | .timeNowLatch | .txtsPop | .ringDoorbell .. | .blockExecute .. | .tread ..
  | .tnext .. | .tflush .. | .nop | .snapshot .. | .captrig .. | .role .. | .arcread .. | .resultHeaderRead ..
  | .bar0BadAccess .. | .winEntryRead .. | .dmaChStart .. | .dmaChStop .. | .ringEnable .. | .ringDisable ..
  | .dmaRingDb .. | .descWord1Read .. | .rxFrameDeliver .. | .rxStreamDeliver .. | .perstNFall | .perstNRise
  | .hotReset | .pcieLinkDown | .flr | .d3hotEntry | .d0Return | .bmeClear | .bmeSet .. | .freezingError ..
  | .freezeRelease .. | .irqHoldExpiry .. | .msixUnmask .. | .lateCompletion .. | .tagQuarantineEnd ..
  | .ddrFreqChange .. | .refreshInterval .. | .scrubStep .. | .ddrTempReport .. | .rankPowerDown ..
  | .rankSelfRefresh .. | .captureServe .. | .trigInEdge | .eventEndPass | .eventClose | .arcDisable | .arcFormat
  | .arcRecoveryDone .. | .checkpointTimer .. | .pageProgramDone .. | .blockEraseDone .. | .nandPatrolRead ..
  | .keepSet .. | .caseSleep .. | .casePointIdle .. | .railConfirm .. | .avsTick .. | .powerEstimate ..
  | .ddrLowSwitch .. | .shedStep | .shedWithdraw | .sensorSample .. | .capWrite .. | .crystalLoss | .pllLockLoss ..
  | .dualRailError .. | .wireFault .. | .codedMessage .. | .fenceComplete .. | .recheckDone | .faultAck ..
  | .faultAckAll | .faultClear .. | .faultClearAll | .unfence .. | .bistDone .. | .faultInject .. | .powerOn
  | .resetNAssert | .resetNRelease .. | .restartCold .. | .restartWarm .. | .clrFails .. | .startWatchdog
  | .watchRailLoss | .railUndervolt | .railRestoreRelease .. | .qspiErase | .qspiDone .. | .keyProgram ..
  | .keyRevoke .. | .keyOpDone .. | .attestGo | .attestDone | .formeHashDone | .evtLatchClear .. | .evtSet ..
  | .evtEnableWrite .. | .evtTargetWrite .. | .evtVecAck .. | .hiBerChange .. | .fecCodeword ..
  | .correctableError .. | .caseBacklog .. | .watchlistEngineSleep .. | .throttleStep .. => true

/-- The bytes that a command carries into the block. -/
def Instr.payload : Instr → Nat
  | .wblHostWrite _ size _ _ => size.val
  | .perTagTableWrite _ wide _ => accessBytes wide
  | .ttDataWrite _ wide _ => accessBytes wide
  | .ringBlockFetched words => 8 * words.length
  | .i2cGo words => 4 * words.length
  | .twrite _ _ _ _ data _ => 8 * data.length
  | .tdelete _ _ _ _ data _ => 8 * data.length
  | .tsearch _ _ key _ => 8 * key.length
  | .caparm _ _ data => 8 * data.length
  | .bar2Request _ _ _ data _ => data.length
  | .winEntryWrite _ wide _ => accessBytes wide
  | .txFrameInject _ _ data => data.length
  | .dmaCopy _ _ data _ => data.length
  | .ddrRequest _ _ _ _ data _ => data.length
  | .powerRecalibrate vouts _ => 2 * vouts.length
  | .registerWrite _ wide _ => accessBytes wide
  | .frameBytesArrive _ bytes => bytes.length
  | .frameStart .. | .frameEnd .. | .pdelayResponse .. | .pcsLockLoss .. | .pcsLockGain .. | .linkDown ..
  | .linkUp .. | .holdTimeExpiry .. | .prtModeWrite .. | .laneModeInForce .. | .mergeVerifyTimer ..
  | .mergeRespond .. | .regionTrainingStart .. | .dispatch .. | .cellRequest .. | .sweepDone .. | .dmaPoolRetry ..
  | .cellFree .. | .galleyCommit .. | .residueTimeout .. | .recircOffer .. | .alu .. | .alui .. | .movhi ..
  | .mfs .. | .mts .. | .mul .. | .ext .. | .ins .. | .setc .. | .advc .. | .br .. | .bri .. | .jmp .. | .jtab ..
  | .loop .. | .loopr .. | .end_ .. | .pmRepairDone .. | .watchdog .. | .lkiL2dst .. | .lkiL2src .. | .lkiIpv4 ..
  | .lkiIpv6 .. | .lkiRule .. | .lkiFork .. | .lkiWatch .. | .lookupComplete .. | .lkw .. | .hini .. | .hacc ..
  | .hacf .. | .hfin .. | .berx .. | .asdu .. | .wbopRead .. | .wbopAdd .. | .dupchk .. | .svchk .. | .gschk ..
  | .meter .. | .wbind .. | .dlvDrop .. | .dlvFwd .. | .dlvMcast .. | .dlvFork .. | .dlvPunt .. | .dlvSecond ..
  | .qsel .. | .sideMirror .. | .sideCapmark .. | .sideCaptrig .. | .sideTstamp .. | .editVpush .. | .editVpop ..
  | .editVswap .. | .editHsrIns .. | .editHsrRem .. | .editPrpAdd .. | .editPrpStrip .. | .editMacDa ..
  | .editMacSa .. | .editTtlDec .. | .editPtpCf .. | .learnRequest .. | .ageingStep .. | .parityInvalidate ..
  | .scanStart | .scanDone .. | .maintWrite .. | .wchPatrolStep .. | .wchRepair .. | .wblHostRead ..
  | .wblPatrolVisit .. | .wblStateRepair .. | .wblSnapshot .. | .stickyClear .. | .clrBlocked .. | .clrQual ..
  | .meterClr .. | .evlogPop | .egressPick .. | .ageDecisionTick .. | .frameTxStart .. | .frameTxEnd ..
  | .ttEntryChange .. | .ttOperationalBase .. | .queueFlush .. | .queuePause .. | .fstage .. | .fdiscard | .fcommit
  | .fverify | .fload .. | .drainComplete | .drainTimeout | .tagReleaseDone .. | .freqTrim .. | .slew | .timeStep
  | .timeSet | .slewEnd | .ppsOutRise | .ppsOutFall | .ppsInEdge | .timeNowLatch | .txtsPop | .ringDoorbell ..
  | .blockExecute .. | .tread .. | .tnext .. | .tflush .. | .nop | .snapshot .. | .captrig .. | .role ..
  | .arcread .. | .resultHeaderRead .. | .bar0BadAccess .. | .winEntryRead .. | .barResize .. | .dmaChStart ..
  | .dmaChStop .. | .ringEnable .. | .ringDisable .. | .dmaRingDb .. | .descWord1Read .. | .rxFrameDeliver ..
  | .rxStreamDeliver .. | .perstNFall | .perstNRise | .hotReset | .pcieLinkDown | .flr | .d3hotEntry | .d0Return
  | .bmeClear | .bmeSet .. | .freezingError .. | .freezeRelease .. | .irqHoldExpiry .. | .msixUnmask ..
  | .lateCompletion .. | .tagQuarantineEnd .. | .ddrFreqChange .. | .refreshInterval .. | .scrubStep ..
  | .ddrTempReport .. | .rankPowerDown .. | .rankSelfRefresh .. | .captureServe .. | .trigInEdge | .eventEndPass
  | .eventClose | .arcEnable .. | .arcDisable | .arcFormat | .formatDone .. | .arcRecoveryDone ..
  | .checkpointTimer .. | .pageProgramDone .. | .blockEraseDone .. | .nandPatrolRead .. | .keepSet ..
  | .caseSleep .. | .casePointIdle .. | .railConfirm .. | .avsTick .. | .powerEstimate .. | .ddrLowSwitch ..
  | .shedStep | .shedWithdraw | .sensorSample .. | .capWrite .. | .crystalLoss | .pllLockLoss ..
  | .dualRailError .. | .wireFault .. | .codedMessage .. | .fenceComplete .. | .recheckDone | .faultAck ..
  | .faultAckAll | .faultClear .. | .faultClearAll | .unfence .. | .bistDone .. | .faultInject .. | .powerOn
  | .resetNAssert | .resetNRelease .. | .restartCold .. | .restartWarm .. | .clrFails .. | .startWatchdog
  | .watchRailLoss | .railUndervolt | .railRestoreRelease .. | .qspiRead .. | .qspiProgram .. | .qspiErase
  | .qspiDone .. | .keyProgram .. | .keyRevoke .. | .keyOpDone .. | .attestGo | .attestDone | .formeHashDone
  | .evtLatchClear .. | .evtSet .. | .evtEnableWrite .. | .evtTargetWrite .. | .evtVecAck .. | .hiBerChange ..
  | .fecCodeword .. | .pcieLinkUp .. | .correctableError .. | .caseBacklog .. | .watchlistEngineSleep ..
  | .throttleStep .. => 0

end Sys2Proof
end

