-- ==== Sys2Proof/Laws/PerInstr.lean ====
section
/-! SUPPORT. Per command: the bytes that a well-formed command carries are no more than a transfer can name. -/

namespace Sys2Proof.Laws.Payload

set_option Elab.async false

/-- A well-formed command carries at most 65,536 bytes: the longest is a COPY (R313). -/
def Statement (i : Instr) : Prop := i.wf = true → i.payload ≤ 65536

/-- A command that carries no bytes. -/
theorem of_zero {i : Instr} (h : i.payload = 0) : Statement i := fun _ => by rw [h]; exact Nat.zero_le _

theorem frameStart (p : Port) : Statement (.frameStart p) := of_zero rfl

theorem frameEnd (p : Port) (fragments : Nat) (smdErrs : Nat) (assemblyErr : Bool) : Statement (.frameEnd p fragments smdErrs assemblyErr) := of_zero rfl

theorem pdelayResponse (p : Port) : Statement (.pdelayResponse p) := of_zero rfl

theorem pcsLockLoss (p : Port) (lock : Bool) (localFault : Bool) (remoteFault : Bool) : Statement (.pcsLockLoss p lock localFault remoteFault) := of_zero rfl

theorem pcsLockGain (p : Port) : Statement (.pcsLockGain p) := of_zero rfl

theorem linkDown (p : Port) : Statement (.linkDown p) := of_zero rfl

theorem linkUp (p : Port) : Statement (.linkUp p) := of_zero rfl

theorem holdTimeExpiry (p : Port) : Statement (.holdTimeExpiry p) := of_zero rfl

theorem prtModeWrite (p : Port) (v : W32) : Statement (.prtModeWrite p v) := of_zero rfl

theorem laneModeInForce (p : Port) : Statement (.laneModeInForce p) := of_zero rfl

theorem mergeVerifyTimer (p : Port) : Statement (.mergeVerifyTimer p) := of_zero rfl

theorem mergeRespond (p : Port) : Statement (.mergeRespond p) := of_zero rfl

theorem regionTrainingStart (r : Region) : Statement (.regionTrainingStart r) := of_zero rfl

theorem dispatch (p : Port) : Statement (.dispatch p) := of_zero rfl

theorem cellRequest (reqs : List (CellReq × Bool)) : Statement (.cellRequest reqs) := of_zero rfl

theorem sweepDone (b : Fin 32) : Statement (.sweepDone b) := of_zero rfl

theorem dmaPoolRetry (k : Ring) : Statement (.dmaPoolRetry k) := of_zero rfl

theorem cellFree (requester : BitVec 6) (byAddress : Bool) (x : BitVec 40) : Statement (.cellFree requester byAddress x) := of_zero rfl

theorem galleyCommit (p : Port) (forkParityBad : Bool) : Statement (.galleyCommit p forkParityBad) := of_zero rfl

theorem residueTimeout (i : Fin 16384) : Statement (.residueTimeout i) := of_zero rfl

theorem recircOffer (r : Region) (ecc : EccRead) : Statement (.recircOffer r ecc) := of_zero rfl

theorem alu (f : Fetch) (func : BitVec 5) (rd : GReg) (rs1 : GReg) (rs2 : GReg) : Statement (.alu f func rd rs1 rs2) := of_zero rfl

theorem alui (f : Fetch) (func : BitVec 5) (rd : GReg) (rs1 : GReg) (imm : BitVec 38) : Statement (.alui f func rd rs1 imm) := of_zero rfl

theorem movhi (f : Fetch) (rd : GReg) (rs1 : GReg) (imm : BitVec 32) : Statement (.movhi f rd rs1 imm) := of_zero rfl

theorem mfs (f : Fetch) (rd : GReg) (spec : BitVec 5) : Statement (.mfs f rd spec) := of_zero rfl

theorem mts (f : Fetch) (spec : BitVec 5) (rs1 : GReg) : Statement (.mts f spec rs1) := of_zero rfl

theorem mul (f : Fetch) (rd : GReg) (rs1 : GReg) (rs2 : GReg) : Statement (.mul f rd rs1 rs2) := of_zero rfl

theorem ext (f : Fetch) (rd : GReg) (rs1 : GReg) (scratch : Bool) (off : BitVec 14) (bit : BitVec 3) (wm1 : BitVec 6) (sx : Bool) : Statement (.ext f rd rs1 scratch off bit wm1 sx) := of_zero rfl

theorem ins (f : Fetch) (rs1 : GReg) (rs2 : GReg) (off : BitVec 14) (bit : BitVec 3) (wm1 : BitVec 6) : Statement (.ins f rs1 rs2 off bit wm1) := of_zero rfl

theorem setc (f : Fetch) (rs1 : GReg) (imm : BitVec 14) : Statement (.setc f rs1 imm) := of_zero rfl

theorem advc (f : Fetch) (rs1 : GReg) (imm : BitVec 14) : Statement (.advc f rs1 imm) := of_zero rfl

theorem br (f : Fetch) (cond : BitVec 3) (rs1 : GReg) (rs2 : GReg) (disp : BitVec 14) : Statement (.br f cond rs1 rs2 disp) := of_zero rfl

theorem bri (f : Fetch) (cond : BitVec 3) (rs1 : GReg) (imm : BitVec 16) (disp : BitVec 14) : Statement (.bri f cond rs1 imm disp) := of_zero rfl

theorem jmp (f : Fetch) (disp : BitVec 14) : Statement (.jmp f disp) := of_zero rfl

theorem jtab (f : Fetch) (rs1 : GReg) (nmax : BitVec 8) (disp : BitVec 14) : Statement (.jtab f rs1 nmax disp) := of_zero rfl

theorem loop (f : Fetch) (count : BitVec 7) (len : BitVec 14) : Statement (.loop f count len) := of_zero rfl

theorem loopr (f : Fetch) (rs1 : GReg) (count : BitVec 7) (len : BitVec 14) : Statement (.loopr f rs1 count len) := of_zero rfl

theorem end_ (f : Fetch) : Statement (.end_ f) := of_zero rfl

theorem pmRepairDone (s : Case) : Statement (.pmRepairDone s) := of_zero rfl

theorem watchdog (c : Comp) : Statement (.watchdog c) := of_zero rfl

theorem lkiL2dst (f : Fetch) (tag : BitVec 3) (rs1 : GReg) : Statement (.lkiL2dst f tag rs1) := of_zero rfl

theorem lkiL2src (f : Fetch) (tag : BitVec 3) (rs1 : GReg) : Statement (.lkiL2src f tag rs1) := of_zero rfl

theorem lkiIpv4 (f : Fetch) (tag : BitVec 3) (rs1 : GReg) : Statement (.lkiIpv4 f tag rs1) := of_zero rfl

theorem lkiIpv6 (f : Fetch) (tag : BitVec 3) (rs1 : GReg) (rs2 : GReg) : Statement (.lkiIpv6 f tag rs1 rs2) := of_zero rfl

theorem lkiRule (f : Fetch) (tag : BitVec 3) (rs1 : GReg) (arg : BitVec 11) : Statement (.lkiRule f tag rs1 arg) := of_zero rfl

theorem lkiFork (f : Fetch) (tag : BitVec 3) (rs1 : GReg) (table : BitVec 6) : Statement (.lkiFork f tag rs1 table) := of_zero rfl

theorem lkiWatch (f : Fetch) (tag : BitVec 3) (rs2 : GReg) (set : BitVec 8) : Statement (.lkiWatch f tag rs2 set) := of_zero rfl

theorem lookupComplete (c : Comp) (tag : BitVec 3) (parityBad : Bool) : Statement (.lookupComplete c tag parityBad) := of_zero rfl

theorem lkw (f : Fetch) (rd : GReg) (tag : BitVec 3) (bm : Bool) (disp : BitVec 14) : Statement (.lkw f rd tag bm disp) := of_zero rfl

theorem hini (f : Fetch) (alg : Bool) (key : BitVec 2) (seed : BitVec 32) : Statement (.hini f alg key seed) := of_zero rfl

theorem hacc (f : Fetch) (rs1 : GReg) (nm1 : BitVec 3) : Statement (.hacc f rs1 nm1) := of_zero rfl

theorem hacf (f : Fetch) (rs1 : GReg) (off : BitVec 14) (nm1 : BitVec 6) : Statement (.hacf f rs1 off nm1) := of_zero rfl

theorem hfin (f : Fetch) (rd : GReg) : Statement (.hfin f rd) := of_zero rfl

theorem berx (f : Fetch) (rd : GReg) (any : Bool) (btag : BitVec 8) (disp : BitVec 14) (skip : Bool) : Statement (.berx f rd any btag disp skip) := of_zero rfl

theorem asdu (f : Fetch) (rd : GReg) (fld : BitVec 4) (rs2 : GReg) (disp : BitVec 14) : Statement (.asdu f rd fld rs2 disp) := of_zero rfl

theorem wbopRead (f : Fetch) (tag : BitVec 3) (rs1 : GReg) (word : Fin 8) (bad : Option (Fin 16)) : Statement (.wbopRead f tag rs1 word bad) := of_zero rfl

theorem wbopAdd (f : Fetch) (tag : BitVec 3) (rs1 : GReg) (rs2 : GReg) (word : Fin 8) (bad : Option (Fin 16)) : Statement (.wbopAdd f tag rs1 rs2 word bad) := of_zero rfl

theorem dupchk (f : Fetch) (tag : BitVec 3) (rs1 : GReg) (rs2 : GReg) (bad : Option (Fin 16)) : Statement (.dupchk f tag rs1 rs2 bad) := of_zero rfl

theorem svchk (f : Fetch) (tag : BitVec 3) (rs1 : GReg) (rs2 : GReg) (bad : Option (Fin 16)) : Statement (.svchk f tag rs1 rs2 bad) := of_zero rfl

theorem gschk (f : Fetch) (tag : BitVec 3) (rs1 : GReg) (rs2 : GReg) (bad : Option (Fin 16)) : Statement (.gschk f tag rs1 rs2 bad) := of_zero rfl

theorem meter (f : Fetch) (tag : BitVec 3) (rs1 : GReg) (rs2 : GReg) (bad : Option (Fin 16)) : Statement (.meter f tag rs1 rs2 bad) := of_zero rfl

theorem wbind (f : Fetch) (rs1 : GReg) : Statement (.wbind f rs1) := of_zero rfl

theorem dlvDrop (f : Fetch) : Statement (.dlvDrop f) := of_zero rfl

theorem dlvFwd (f : Fetch) (imm : Bool) (port : BitVec 7) (rs1 : GReg) : Statement (.dlvFwd f imm port rs1) := of_zero rfl

theorem dlvMcast (f : Fetch) (rs1 : GReg) (rs2 : GReg) (excl : Bool) : Statement (.dlvMcast f rs1 rs2 excl) := of_zero rfl

theorem dlvFork (f : Fetch) (table : BitVec 6) (rs1 : GReg) : Statement (.dlvFork f table rs1) := of_zero rfl

theorem dlvPunt (f : Fetch) (reason : BitVec 8) : Statement (.dlvPunt f reason) := of_zero rfl

theorem dlvSecond (f : Fetch) (entry : BitVec 6) : Statement (.dlvSecond f entry) := of_zero rfl

theorem qsel (f : Fetch) (imm : Bool) (qoff : BitVec 7) (rs1 : GReg) : Statement (.qsel f imm qoff rs1) := of_zero rfl

theorem sideMirror (f : Fetch) (session : BitVec 4) : Statement (.sideMirror f session) := of_zero rfl

theorem sideCapmark (f : Fetch) (selector : BitVec 8) : Statement (.sideCapmark f selector) := of_zero rfl

theorem sideCaptrig (f : Fetch) (cause : BitVec 8) : Statement (.sideCaptrig f cause) := of_zero rfl

theorem sideTstamp (f : Fetch) (ident : BitVec 8) : Statement (.sideTstamp f ident) := of_zero rfl

theorem editVpush (f : Fetch) (rs1 : GReg) : Statement (.editVpush f rs1) := of_zero rfl

theorem editVpop (f : Fetch) : Statement (.editVpop f) := of_zero rfl

theorem editVswap (f : Fetch) (rs1 : GReg) : Statement (.editVswap f rs1) := of_zero rfl

theorem editHsrIns (f : Fetch) (rs1 : GReg) (path : BitVec 4) : Statement (.editHsrIns f rs1 path) := of_zero rfl

theorem editHsrRem (f : Fetch) : Statement (.editHsrRem f) := of_zero rfl

theorem editPrpAdd (f : Fetch) (rs1 : GReg) (lan : BitVec 14) : Statement (.editPrpAdd f rs1 lan) := of_zero rfl

theorem editPrpStrip (f : Fetch) : Statement (.editPrpStrip f) := of_zero rfl

theorem editMacDa (f : Fetch) (rs1 : GReg) : Statement (.editMacDa f rs1) := of_zero rfl

theorem editMacSa (f : Fetch) (rs1 : GReg) : Statement (.editMacSa f rs1) := of_zero rfl

theorem editTtlDec (f : Fetch) (off : BitVec 14) : Statement (.editTtlDec f off) := of_zero rfl

theorem editPtpCf (f : Fetch) (off : BitVec 14) : Statement (.editPtpCf f off) := of_zero rfl

theorem learnRequest (bad : ParityBad) : Statement (.learnRequest bad) := of_zero rfl

theorem ageingStep (bad : ParityBad) : Statement (.ageingStep bad) := of_zero rfl

theorem parityInvalidate (table : Fin 6) (addr : BitVec 18) : Statement (.parityInvalidate table addr) := of_zero rfl

theorem scanStart : Statement (.scanStart) := of_zero rfl

theorem scanDone (engine : Fin 42) (badLine : Option (BitVec 17)) : Statement (.scanDone engine badLine) := of_zero rfl

theorem maintWrite (shadow : EccRead) : Statement (.maintWrite shadow) := of_zero rfl

theorem wchPatrolStep (differs : Bool) (shadow : EccRead) : Statement (.wchPatrolStep differs shadow) := of_zero rfl

theorem wchRepair (line : BitVec 17) (shadow : EccRead) : Statement (.wchRepair line shadow) := of_zero rfl

theorem wblHostWrite (addr : BitVec 22) (size : Fin 17) (data : W64) (bad : Bool) : Statement (.wblHostWrite addr size data bad) := by
  intro h; simp [Instr.wf, Instr.payload] at h ⊢; omega

theorem wblHostRead (addr : BitVec 22) (wide : Bool) (bad : Bool) : Statement (.wblHostRead addr wide bad) := of_zero rfl

theorem wblPatrolVisit (bad : Option (Fin 8)) : Statement (.wblPatrolVisit bad) := of_zero rfl

theorem wblStateRepair (w : Fin 32768) : Statement (.wblStateRepair w) := of_zero rfl

theorem wblSnapshot (v : W32) (bad : Option (Fin 16)) : Statement (.wblSnapshot v bad) := of_zero rfl

theorem stickyClear (w : Fin 32768) (mask : BitVec 8) (bad : Option (Fin 16)) : Statement (.stickyClear w mask bad) := of_zero rfl

theorem clrBlocked (w : Fin 32768) (bad : Option (Fin 16)) : Statement (.clrBlocked w bad) := of_zero rfl

theorem clrQual (w : Fin 32768) (bad : Option (Fin 16)) : Statement (.clrQual w bad) := of_zero rfl

theorem meterClr (m : Fin 4096) : Statement (.meterClr m) := of_zero rfl

theorem evlogPop : Statement (.evlogPop) := of_zero rfl

theorem perTagTableWrite (off : BitVec 26) (wide : Bool) (data : W64) : Statement (.perTagTableWrite off wide data) := by
  intro _; simp only [Instr.payload, accessBytes]; split <;> omega

theorem egressPick (p : Port) : Statement (.egressPick p) := of_zero rfl

theorem ageDecisionTick (p : Port) : Statement (.ageDecisionTick p) := of_zero rfl

theorem frameTxStart (p : Port) (ecc : EccRead) : Statement (.frameTxStart p ecc) := of_zero rfl

theorem frameTxEnd (p : Port) (badCell : Option Nat) : Statement (.frameTxEnd p badCell) := of_zero rfl

theorem ttEntryChange (p : Port) (t : Tag) : Statement (.ttEntryChange p t) := of_zero rfl

theorem ttOperationalBase (p : Port) (t : Tag) : Statement (.ttOperationalBase p t) := of_zero rfl

theorem queueFlush (q : QNum) : Statement (.queueFlush q) := of_zero rfl

theorem queuePause (q : QNum) (on : Bool) : Statement (.queuePause q on) := of_zero rfl

theorem ttDataWrite (off : BitVec 26) (wide : Bool) (data : W64) : Statement (.ttDataWrite off wide data) := by
  intro _; simp only [Instr.payload, accessBytes]; split <;> omega

theorem fstage (inherit : Bool) (seed : BitVec 32) (bad : ParityBad) : Statement (.fstage inherit seed bad) := of_zero rfl

theorem fdiscard : Statement (.fdiscard) := of_zero rfl

theorem fcommit : Statement (.fcommit) := of_zero rfl

theorem fverify : Statement (.fverify) := of_zero rfl

theorem fload (addr : BitVec 40) (finds : EccFinds) : Statement (.fload addr finds) := of_zero rfl

theorem drainComplete : Statement (.drainComplete) := of_zero rfl

theorem drainTimeout : Statement (.drainTimeout) := of_zero rfl

theorem tagReleaseDone (bad : ParityBad) : Statement (.tagReleaseDone bad) := of_zero rfl

theorem freqTrim (v : W32) : Statement (.freqTrim v) := of_zero rfl

theorem slew : Statement (.slew) := of_zero rfl

theorem timeStep : Statement (.timeStep) := of_zero rfl

theorem timeSet : Statement (.timeSet) := of_zero rfl

theorem slewEnd : Statement (.slewEnd) := of_zero rfl

theorem ppsOutRise : Statement (.ppsOutRise) := of_zero rfl

theorem ppsOutFall : Statement (.ppsOutFall) := of_zero rfl

theorem ppsInEdge : Statement (.ppsInEdge) := of_zero rfl

theorem timeNowLatch : Statement (.timeNowLatch) := of_zero rfl

theorem txtsPop : Statement (.txtsPop) := of_zero rfl

theorem ringDoorbell (pi : BitVec 16) : Statement (.ringDoorbell pi) := of_zero rfl

theorem ringBlockFetched (words : List W64) : Statement (.ringBlockFetched words) := by
  intro h; simp [Instr.wf, Instr.payload] at h ⊢; omega

theorem i2cGo (words : List W32) : Statement (.i2cGo words) := by
  intro h; simp [Instr.wf, Instr.payload] at h ⊢; omega

theorem blockExecute (found : List Found) : Statement (.blockExecute found) := of_zero rfl

theorem twrite (table : BitVec 4) (tag : Tag) (dir : Bool) (index : BitVec 18) (data : List W64) (bad : ParityBad) : Statement (.twrite table tag dir index data bad) := by
  intro h; simp [Instr.wf, Instr.payload] at h ⊢; omega

theorem tdelete (table : BitVec 4) (tag : Tag) (dir : Bool) (index : BitVec 18) (data : List W64) (bad : ParityBad) : Statement (.tdelete table tag dir index data bad) := by
  intro h; simp [Instr.wf, Instr.payload] at h ⊢; omega

theorem tread (table : BitVec 4) (dir : Bool) (addr : BitVec 18) (bad : ParityBad) : Statement (.tread table dir addr bad) := of_zero rfl

theorem tsearch (table : BitVec 4) (tag : Tag) (key : List W64) (bad : ParityBad) : Statement (.tsearch table tag key bad) := by
  intro h; simp [Instr.wf, Instr.payload] at h ⊢; omega

theorem tnext (table : BitVec 4) (tag : Tag) (start : BitVec 18) (filter : W64) (bad : ParityBad) : Statement (.tnext table tag start filter bad) := of_zero rfl

theorem tflush (fidV : Bool) (fid : BitVec 12) (port : Port) (bad : ParityBad) : Statement (.tflush fidV fid port bad) := of_zero rfl

theorem nop : Statement (.nop) := of_zero rfl

theorem snapshot (units : BitVec 26) (addr : BitVec 40) (finds : EccFinds) : Statement (.snapshot units addr finds) := of_zero rfl

theorem caparm (selector : BitVec 8) (arm : Bool) (data : List W64) : Statement (.caparm selector arm data) := by
  intro h; simp [Instr.wf, Instr.payload] at h ⊢; omega

theorem captrig (cause : BitVec 8) : Statement (.captrig cause) := of_zero rfl

theorem role (source : BitVec 8) (r : BitVec 2) : Statement (.role source r) := of_zero rfl

theorem arcread (word0 : W64) (word1 : W64) (reads : List NandRead) : Statement (.arcread word0 word1 reads) := of_zero rfl

theorem resultHeaderRead (source : Fin 130) : Statement (.resultHeaderRead source) := of_zero rfl

theorem bar0BadAccess (read : Bool) (off : BitVec 26) : Statement (.bar0BadAccess read off) := of_zero rfl

theorem bar2Request (write : Bool) (off : BitVec 36) (size : Fin 4097) (data : List Byte) (finds : EccFinds) : Statement (.bar2Request write off size data finds) := by
  intro h; simp [Instr.wf, Instr.payload] at h ⊢; split at h <;> omega

theorem winEntryWrite (w : Fin 16) (wide : Bool) (data : W64) : Statement (.winEntryWrite w wide data) := by
  intro _; simp only [Instr.payload, accessBytes]; split <;> omega

theorem winEntryRead (w : Fin 16) : Statement (.winEntryRead w) := of_zero rfl

theorem barResize (log2 : Fin 37) : Statement (.barResize log2) := of_zero rfl

theorem dmaChStart (c : Chan) : Statement (.dmaChStart c) := of_zero rfl

theorem dmaChStop (c : Chan) : Statement (.dmaChStop c) := of_zero rfl

theorem ringEnable (k : Ring) : Statement (.ringEnable k) := of_zero rfl

theorem ringDisable (k : Ring) : Statement (.ringDisable k) := of_zero rfl

theorem dmaRingDb (k : Ring) : Statement (.dmaRingDb k) := of_zero rfl

theorem descWord1Read (k : Ring) (w : W64) : Statement (.descWord1Read k w) := of_zero rfl

theorem txFrameInject (k : Ring) (d : Desc) (data : List Byte) : Statement (.txFrameInject k d data) := by
  intro h; simp [Instr.wf, Instr.payload] at h ⊢; omega

theorem rxFrameDeliver (k : Ring) (d : Desc) : Statement (.rxFrameDeliver k d) := of_zero rfl

theorem dmaCopy (k : Ring) (d : Desc) (data : List Byte) (finds : EccFinds) : Statement (.dmaCopy k d data finds) := by
  intro h; simp [Instr.wf, Instr.payload] at h ⊢; omega

theorem rxStreamDeliver (k : Ring) (d : Desc) (withdraw : Option (BitVec 16)) : Statement (.rxStreamDeliver k d withdraw) := of_zero rfl

theorem perstNFall : Statement (.perstNFall) := of_zero rfl

theorem perstNRise : Statement (.perstNRise) := of_zero rfl

theorem hotReset : Statement (.hotReset) := of_zero rfl

theorem pcieLinkDown : Statement (.pcieLinkDown) := of_zero rfl

theorem flr : Statement (.flr) := of_zero rfl

theorem d3hotEntry : Statement (.d3hotEntry) := of_zero rfl

theorem d0Return : Statement (.d0Return) := of_zero rfl

theorem bmeClear : Statement (.bmeClear) := of_zero rfl

theorem bmeSet (cfg : PcieConfig) : Statement (.bmeSet cfg) := of_zero rfl

theorem freezingError (bit : BitVec 5) (header : BitVec 128) : Statement (.freezingError bit header) := of_zero rfl

theorem freezeRelease (cleared : W32) : Statement (.freezeRelease cleared) := of_zero rfl

theorem irqHoldExpiry (k : Ring) : Statement (.irqHoldExpiry k) := of_zero rfl

theorem msixUnmask (v : Fin 64) : Statement (.msixUnmask v) := of_zero rfl

theorem lateCompletion (tag : BitVec 10) : Statement (.lateCompletion tag) := of_zero rfl

theorem tagQuarantineEnd (tag : BitVec 10) : Statement (.tagQuarantineEnd tag) := of_zero rfl

theorem ddrRequest (requester : BitVec 6) (write : Bool) (addr : BitVec 40) (len : Fin 4097) (data : List Byte) (finds : EccFinds) : Statement (.ddrRequest requester write addr len data finds) := by
  intro h; simp [Instr.wf, Instr.payload] at h ⊢; split at h <;> omega

theorem ddrFreqChange (set : Fin 2) : Statement (.ddrFreqChange set) := of_zero rfl

theorem refreshInterval (rank : Fin 4) (blocked : BitVec 4) : Statement (.refreshInterval rank blocked) := of_zero rfl

theorem scrubStep (ecc : EccRead) (overtaken : Bool) : Statement (.scrubStep ecc overtaken) := of_zero rfl

theorem ddrTempReport (sub : Fin 4) (rank : Fin 2) (hot : Bool) : Statement (.ddrTempReport sub rank hot) := of_zero rfl

theorem rankPowerDown (rank : Fin 4) : Statement (.rankPowerDown rank) := of_zero rfl

theorem rankSelfRefresh (rank : Fin 4) : Statement (.rankSelfRefresh rank) := of_zero rfl

theorem captureServe (ecc : EccRead) (finds : EccFinds) : Statement (.captureServe ecc finds) := of_zero rfl

theorem trigInEdge : Statement (.trigInEdge) := of_zero rfl

theorem eventEndPass : Statement (.eventEndPass) := of_zero rfl

theorem eventClose : Statement (.eventClose) := of_zero rfl

theorem arcEnable (formatted : Bool) (dies : List (Fin 128 × DieParams)) : Statement (.arcEnable formatted dies) := of_zero rfl

theorem arcDisable : Statement (.arcDisable) := of_zero rfl

theorem arcFormat : Statement (.arcFormat) := of_zero rfl

theorem formatDone (badBlocks : List Nat) (dies : List (Fin 128 × DieParams)) : Statement (.formatDone badBlocks dies) := of_zero rfl

theorem arcRecoveryDone (rootBad : BitVec 2) (reads : List (Nat × NandRead)) (rereads : List (Nat × NandRead)) : Statement (.arcRecoveryDone rootBad reads rereads) := of_zero rfl

theorem checkpointTimer (finds : EccFinds) : Statement (.checkpointTimer finds) := of_zero rfl

theorem pageProgramDone (ok : Bool) (finds : EccFinds) : Statement (.pageProgramDone ok finds) := of_zero rfl

theorem blockEraseDone (block : Nat) (ok : Bool) : Statement (.blockEraseDone block ok) := of_zero rfl

theorem nandPatrolRead (r : NandRead) : Statement (.nandPatrolRead r) := of_zero rfl

theorem keepSet (keep : Bool) : Statement (.keepSet keep) := of_zero rfl

theorem caseSleep (s : Case) : Statement (.caseSleep s) := of_zero rfl

theorem casePointIdle (s : Case) : Statement (.casePointIdle s) := of_zero rfl

theorem railConfirm (s : Case) (ok : Bool) : Statement (.railConfirm s ok) := of_zero rfl

theorem avsTick (r : Region) (marginMv : Int) : Statement (.avsTick r marginMv) := of_zero rfl

theorem powerEstimate (tenths : BitVec 16) : Statement (.powerEstimate tenths) := of_zero rfl

theorem powerRecalibrate (vouts : List (BitVec 16)) (tenths : BitVec 16) : Statement (.powerRecalibrate vouts tenths) := by
  intro h; simp [Instr.wf, Instr.payload] at h ⊢; omega

theorem ddrLowSwitch (lower : Bool) : Statement (.ddrLowSwitch lower) := of_zero rfl

theorem shedStep : Statement (.shedStep) := of_zero rfl

theorem shedWithdraw : Statement (.shedWithdraw) := of_zero rfl

theorem sensorSample (i : Fin 24) (temp : BitVec 8) (frozen : Bool) : Statement (.sensorSample i temp frozen) := of_zero rfl

theorem capWrite (v : W32) : Statement (.capWrite v) := of_zero rfl

theorem crystalLoss : Statement (.crystalLoss) := of_zero rfl

theorem pllLockLoss (serves : PllServes) : Statement (.pllLockLoss serves) := of_zero rfl

theorem dualRailError (source : BitVec 12) (kind : BitVec 8) : Statement (.dualRailError source kind) := of_zero rfl

theorem wireFault (source : BitVec 12) : Statement (.wireFault source) := of_zero rfl

theorem codedMessage (source : BitVec 12) (kind : BitVec 8) (addr : BitVec 40) : Statement (.codedMessage source kind addr) := of_zero rfl

theorem fenceComplete (source : BitVec 12) : Statement (.fenceComplete source) := of_zero rfl

theorem recheckDone : Statement (.recheckDone) := of_zero rfl

theorem faultAck (slot : Fin 256) : Statement (.faultAck slot) := of_zero rfl

theorem faultAckAll : Statement (.faultAckAll) := of_zero rfl

theorem faultClear (slot : Fin 256) : Statement (.faultClear slot) := of_zero rfl

theorem faultClearAll : Statement (.faultClearAll) := of_zero rfl

theorem unfence (source : BitVec 12) : Statement (.unfence source) := of_zero rfl

theorem bistDone (pass : Bool) : Statement (.bistDone pass) := of_zero rfl

theorem faultInject (level : BitVec 3) (source : BitVec 12) : Statement (.faultInject level source) := of_zero rfl

theorem powerOn : Statement (.powerOn) := of_zero rfl

theorem resetNAssert : Statement (.resetNAssert) := of_zero rfl

theorem resetNRelease (facts : StartFacts) : Statement (.resetNRelease facts) := of_zero rfl

theorem restartCold (key : BitVec 16) (facts : StartFacts) : Statement (.restartCold key facts) := of_zero rfl

theorem restartWarm (key : BitVec 16) (facts : StartFacts) : Statement (.restartWarm key facts) := of_zero rfl

theorem clrFails (key : BitVec 16) : Statement (.clrFails key) := of_zero rfl

theorem startWatchdog : Statement (.startWatchdog) := of_zero rfl

theorem watchRailLoss : Statement (.watchRailLoss) := of_zero rfl

theorem railUndervolt : Statement (.railUndervolt) := of_zero rfl

theorem railRestoreRelease (facts : StartFacts) : Statement (.railRestoreRelease facts) := of_zero rfl

theorem qspiRead (len : BitVec 9) : Statement (.qspiRead len) := of_zero rfl

theorem qspiProgram (len : BitVec 9) : Statement (.qspiProgram len) := of_zero rfl

theorem qspiErase : Statement (.qspiErase) := of_zero rfl

theorem qspiDone (error : Bool) : Statement (.qspiDone error) := of_zero rfl

theorem keyProgram (slot : Fin 4) (confirm : BitVec 16) : Statement (.keyProgram slot confirm) := of_zero rfl

theorem keyRevoke (slot : Fin 4) (confirm : BitVec 16) : Statement (.keyRevoke slot confirm) := of_zero rfl

theorem keyOpDone (ok : Bool) : Statement (.keyOpDone ok) := of_zero rfl

theorem attestGo : Statement (.attestGo) := of_zero rfl

theorem attestDone : Statement (.attestDone) := of_zero rfl

theorem formeHashDone : Statement (.formeHashDone) := of_zero rfl

theorem evtLatchClear (g : Fin 48) (mask : W32) (setNow : W32) : Statement (.evtLatchClear g mask setNow) := of_zero rfl

theorem evtSet (g : Fin 48) (mask : W32) : Statement (.evtSet g mask) := of_zero rfl

theorem evtEnableWrite (g : Fin 48) (v : W32) : Statement (.evtEnableWrite g v) := of_zero rfl

theorem evtTargetWrite (n : Fin 1536) (v : W32) : Statement (.evtTargetWrite n v) := of_zero rfl

theorem evtVecAck (v : Fin 64) : Statement (.evtVecAck v) := of_zero rfl

theorem registerWrite (off : BitVec 26) (wide : Bool) (data : W64) : Statement (.registerWrite off wide data) := by
  intro _; simp only [Instr.payload, accessBytes]; split <;> omega

theorem frameBytesArrive (p : Port) (bytes : List Byte) : Statement (.frameBytesArrive p bytes) := by
  intro h; simp [Instr.wf, Instr.payload] at h ⊢; omega

theorem hiBerChange (p : Port) (on : Bool) : Statement (.hiBerChange p on) := of_zero rfl

theorem fecCodeword (p : Port) (corrected : Bool) : Statement (.fecCodeword p corrected) := of_zero rfl

theorem pcieLinkUp (speed : Fin 5) (width : Fin 9) : Statement (.pcieLinkUp speed width) := of_zero rfl

theorem correctableError (bit : BitVec 5) : Statement (.correctableError bit) := of_zero rfl

theorem caseBacklog (s : Case) : Statement (.caseBacklog s) := of_zero rfl

theorem watchlistEngineSleep (engine : Fin 42) : Statement (.watchlistEngineSleep engine) := of_zero rfl

theorem throttleStep (s : Case) : Statement (.throttleStep s) := of_zero rfl

end Sys2Proof.Laws.Payload
end

