-- ==== Sys2Proof/Laws/Shared.lean ====
section
/-! SUPPORT. What the shared operations do, said once: register writes by an agent, the issue of an instruction, an
instruction of the command unit, and the small operations that the meanings call. -/

namespace Sys2Proof.Machine

/-! ### Writes through BAR0 (R278, R305, R422, R431) -/

/-- A register whose role is exempt is written whenever its block is open. -/
theorem State.byHost_exempt {s : State} {off : Nat} {f : State → State} (h : s.barOpen off = true)
    (h2 : roleExempt off = true) : s.byHost off f = f s := by
  simp [State.byHost, h, h2]

/-- A host of role FULL writes every open register. -/
theorem State.byHost_full {s : State} {off : Nat} {f : State → State} (h : s.barOpen off = true)
    (h2 : s.fld F.CMD_ROLE_HOST_ROLE = 2) : s.byHost off f = f s := by
  simp [State.byHost, h, h2]

/-- A write to a closed block does nothing. -/
theorem State.byHost_shut {s : State} {off : Nat} {f : State → State} (h : s.barOpen off = false) :
    s.byHost off f = s := by
  simp [State.byHost, h]

/-- A write that the host may make is made. -/
theorem State.byHost_may {s : State} {off : Nat} {f : State → State} (h : s.hostMay off) : s.byHost off f = f s := by
  rcases h with ⟨h1, h2 | h2⟩
  · exact State.byHost_exempt h1 h2
  · exact State.byHost_full h1 h2

/-- A host of a lesser role only counts the write it tried. -/
theorem State.byHost_dropped {s : State} {off : Nat} {f : State → State} (h : s.barOpen off = true)
    (h1 : roleExempt off = false) (h2 : s.fld F.CMD_ROLE_HOST_ROLE ≠ 2) :
    s.byHost off f = (s.count R.CMD_C_ROLE_DROP_HOST).raiseG 41 3 := by
  simp [State.byHost, h, h1, h2]

/-- A write through BAR0 has its effect, leaves the block alone, or is dropped and counted. -/
theorem State.byHost_cases (s : State) (off : Nat) (f : State → State) :
    s.byHost off f = f s ∨ s.byHost off f = s ∨ s.byHost off f = (s.count R.CMD_C_ROLE_DROP_HOST).raiseG 41 3 := by
  unfold State.byHost
  split
  · exact .inr (.inl rfl)
  · split
    · exact .inl rfl
    · exact .inr (.inr rfl)

/-! ### The issue of an instruction (R71, R86, R93) -/

/-- What a compositor sees of its frame carries the frame's tag (R127). -/
theorem State.frameView_tag (s : State) (cs : CompState) (fr : Frame) : (s.frameView cs fr).tag = fr.tag := by
  simp only [State.frameView]
  split <;> rfl

/-- An instruction that can issue runs its body on the compositor and frame, and then stalls, waits, or counts its
cycles and moves on. -/
theorem State.issueOn_eq {s : State} {f : Fetch} {cs : CompState} {fr : Frame} (h : Issues s f cs fr)
    (body : State → CompState → Frame → Issue) :
    s.issueOn f body = (let r := body s cs fr
      match r.flow with
      | .stall a => s.setComp f.comp.val { cs with stall := some (cs.stall.getD (s.time.cycles, a)) }
      | .wait tag => s.setComp f.comp.val { cs with lwait := some tag }
      | flow => s.issuedOn r.st f r.cycles (r.cs.advance flow)) := by
  obtain ⟨h1, h2, h3, h4⟩ := h
  subst h1
  obtain ⟨fr0, h5, rfl⟩ := Option.map_eq_some_iff.mp h2
  rw [State.frameView_tag] at h4
  simp only [State.issueOn, h5, h3, h4, Bool.or_self, Bool.false_eq_true, if_false]
  rfl

/-- What an instruction leaves that runs to its end, on the compositor and frame that it issues with. -/
theorem State.ranOn_eq {s : State} {f : Fetch} {cs : CompState} {fr : Frame} (h : Issues s f cs fr) (n : Nat)
    (g : CompState → Frame → Flow × CompState × State) :
    s.ranOn f n g = s.issuedOn (g cs fr).2.2 f n ((g cs fr).2.1.advance (g cs fr).1) := by
  obtain ⟨h1, h2, _, _⟩ := h
  subst h1
  simp only [State.ranOn, h2]

/-- An instruction that goes on to the next word. -/
theorem State.issueSeq_eq {s : State} {f : Fetch} {cs : CompState} {fr : Frame} (h : Issues s f cs fr) (n : Nat)
    (g : CompState → Frame → CompState) :
    s.issueSeq f n g = .next (s.issued f n ((g cs fr).advance .seq)) := by
  have := h.comp
  subst this
  simp only [State.issueSeq, State.issue, State.issueOn_eq h]
  rfl

/-- An instruction whose flow is to the next word. -/
theorem State.issue_seq {s : State} {f : Fetch} {cs : CompState} {fr : Frame} (h : Issues s f cs fr) (n : Nat)
    (g : CompState → Frame → Flow × CompState) (hg : (g cs fr).1 = .seq) :
    s.issue f n g = .next (s.issued f n ((g cs fr).2.advance .seq)) := by
  have := h.comp
  subst this
  simp only [State.issue, State.issueOn_eq h, hg]
  rfl

/-- An instruction whose flow is to word `t`. -/
theorem State.issue_goto {s : State} {f : Fetch} {cs : CompState} {fr : Frame} (h : Issues s f cs fr) (n : Nat)
    (g : CompState → Frame → Flow × CompState) (t : Nat) (hg : (g cs fr).1 = .goto t) :
    s.issue f n g = .next (s.issued f n ((g cs fr).2.advance (.goto t))) := by
  have := h.comp
  subst this
  simp only [State.issue, State.issueOn_eq h, hg]
  rfl

/-! ### An instruction of the command unit (R280, R290) -/

/-- In RUNNING an instruction that comes by itself answers its result. -/
theorem State.ctrlAlone_running {s : State} (h : s.boot.mode = .running) (f : State → KRes × State) :
    s.ctrlAlone f = (f s).2.answered (f s).1.1 (f s).1.2.1 (f s).1.2.2 := by
  simp [State.ctrlAlone, State.cmdOpen, h, State.ctrlDone, State.answered, ctrlRecord]

/-- An instruction that comes by itself and answers OK leaves its effect and its result. -/
theorem State.ctrlAlone_ok {s : State} {f : State → KRes × State} (h : s.ctrlOk (f s)) :
    (s.ctrlAlone fun s => s.ctrlGate f) = State.did (f s) := by
  obtain ⟨h1, h2, _⟩ := h
  have hg : s.ctrlGate f = f s := by simp [State.ctrlGate, h2]
  simp only [State.ctrlAlone, if_pos h1, hg]
  simp [State.ctrlDone, State.did, State.answered, ctrlRecord]

/-- In RUNNING the safe-hold gate of the command unit is open. -/
theorem State.ctrlGate_running {s : State} (h : s.boot.mode = .running) (f : State → KRes × State) :
    s.ctrlGate f = f s := by
  simp [State.ctrlGate, h]

/-! ### Small operations -/

@[simp] theorem State.frame_setFrame (s : State) (i : Nat) (f : Frame) : (s.setFrame i f).frame i = some f := by
  simp only [State.frame, State.setFrame]
  exact tget_tput_listed _ _ _ _ (by simp)

theorem State.endStall_none (s : State) (i : Nat) (h : s.runner i = none) : s.endStall i = s := by
  simp only [State.endStall, h]

theorem State.cellRam_setCellRam_ne (s : State) {i j : Nat} (v : BitVec 8) (h : j ≠ i) :
    (s.setCellRam i v).cellRam j = s.cellRam j := tget_tput_ne _ _ _ _ _ h

/-- A channel stops at a boundary at once when none of its rings has a frame in the making (R325). -/
theorem State.stopAtBoundary_idle (s : State) (c code : Nat) (hc : s.fld (F.DMA_CH_STATUS_STATE c) = 1)
    (h : ∀ k ∈ chanRings c, s.injecting k = none) :
    s.stopAtBoundary c code =
      ((s.modHost fun h => { h with stopping := tput (fun _ => none) h.stopping c (some code) }).setFld
        (F.DMA_CH_STATUS_STATE c) 2).chanSettle c := by
  have key : ∀ l : List Nat, (∀ k ∈ l, s.injecting k = none) → l.foldl State.poolBoundary s = s := by
    intro l
    induction l with
    | nil => intro; rfl
    | cons a l ih =>
      intro h
      have ha : s.poolBoundary a = s := by simp only [State.poolBoundary, h a (by simp)]
      rw [List.foldl_cons, ha]
      exact ih fun k hk => h k (by simp [hk])
  simp only [State.stopAtBoundary, if_neg (fun hn : s.fld (F.DMA_CH_STATUS_STATE c) ≠ 1 => hn hc), key _ h]

/-- A rejected free is recorded and raised, and touches nothing else (R49). -/
theorem State.rejectFree_frame (s : State) (k r c a : Nat) :
    s.rejectFree k r c a = { s with regs := (s.rejectFree k r c a).regs, out := (s.rejectFree k r c a).out } := by
  simp only [State.rejectFree, State.logFirst]
  split <;> split <;> simp only [State.raiseG] <;> (rw [State.raise_frame]; rfl)

/-- A first-recorded log writes its own register alone (R49, R309). -/
theorem State.reg_logFirst_ne (s : State) (off vbit r : Nat) {o : Nat} (h : o ≠ off) :
    (s.logFirst off vbit r).reg o = s.reg o := by
  unfold State.logFirst
  split <;> exact s.reg_setReg_ne _ h

end Sys2Proof.Machine
end

