-- ==== Sys2Proof/Laws/State.lean ====
section
/-! SUPPORT. What each named update of the state leaves in each field, true by unfolding. -/

namespace Sys2Proof.Machine

set_option Elab.async false

/-! ### `State.setReg` -/

@[simp] theorem State.setReg_regs (s : State) (o : Nat) (v : W64) :
    (s.setReg o v).regs = tput regReset s.regs o v := rfl
@[simp] theorem State.setReg_time (s : State) (o : Nat) (v : W64) : (s.setReg o v).time = s.time := rfl
@[simp] theorem State.setReg_ports (s : State) (o : Nat) (v : W64) : (s.setReg o v).ports = s.ports := rfl
@[simp] theorem State.setReg_frames (s : State) (o : Nat) (v : W64) : (s.setReg o v).frames = s.frames := rfl
@[simp] theorem State.setReg_nextFrame (s : State) (o : Nat) (v : W64) : (s.setReg o v).nextFrame = s.nextFrame := rfl
@[simp] theorem State.setReg_gal (s : State) (o : Nat) (v : W64) : (s.setReg o v).gal = s.gal := rfl
@[simp] theorem State.setReg_comps (s : State) (o : Nat) (v : W64) : (s.setReg o v).comps = s.comps := rfl
@[simp] theorem State.setReg_cases (s : State) (o : Nat) (v : W64) : (s.setReg o v).cases = s.cases := rfl
@[simp] theorem State.setReg_recirc (s : State) (o : Nat) (v : W64) : (s.setReg o v).recirc = s.recirc := rfl
@[simp] theorem State.setReg_recircWait (s : State) (o : Nat) (v : W64) : (s.setReg o v).recircWait = s.recircWait := rfl
@[simp] theorem State.setReg_images (s : State) (o : Nat) (v : W64) : (s.setReg o v).images = s.images := rfl
@[simp] theorem State.setReg_queues (s : State) (o : Nat) (v : W64) : (s.setReg o v).queues = s.queues := rfl
@[simp] theorem State.setReg_egr (s : State) (o : Nat) (v : W64) : (s.setReg o v).egr = s.egr := rfl
@[simp] theorem State.setReg_ttWords (s : State) (o : Nat) (v : W64) : (s.setReg o v).ttWords = s.ttWords := rfl
@[simp] theorem State.setReg_ledger (s : State) (o : Nat) (v : W64) : (s.setReg o v).ledger = s.ledger := rfl
@[simp] theorem State.setReg_watch (s : State) (o : Nat) (v : W64) : (s.setReg o v).watch = s.watch := rfl
@[simp] theorem State.setReg_ddr (s : State) (o : Nat) (v : W64) : (s.setReg o v).ddr = s.ddr := rfl
@[simp] theorem State.setReg_arc (s : State) (o : Nat) (v : W64) : (s.setReg o v).arc = s.arc := rfl
@[simp] theorem State.setReg_wbl (s : State) (o : Nat) (v : W64) : (s.setReg o v).wbl = s.wbl := rfl
@[simp] theorem State.setReg_forme (s : State) (o : Nat) (v : W64) : (s.setReg o v).forme = s.forme := rfl
@[simp] theorem State.setReg_host (s : State) (o : Nat) (v : W64) : (s.setReg o v).host = s.host := rfl
@[simp] theorem State.setReg_cmd (s : State) (o : Nat) (v : W64) : (s.setReg o v).cmd = s.cmd := rfl
@[simp] theorem State.setReg_flt (s : State) (o : Nat) (v : W64) : (s.setReg o v).flt = s.flt := rfl
@[simp] theorem State.setReg_pwr (s : State) (o : Nat) (v : W64) : (s.setReg o v).pwr = s.pwr := rfl
@[simp] theorem State.setReg_boot (s : State) (o : Nat) (v : W64) : (s.setReg o v).boot = s.boot := rfl
@[simp] theorem State.setReg_out (s : State) (o : Nat) (v : W64) : (s.setReg o v).out = s.out := rfl
@[simp] theorem State.setReg_free (s : State) (o : Nat) (v : W64) : (s.setReg o v).free = s.free := rfl
@[simp] theorem State.setReg_pending (s : State) (o : Nat) (v : W64) : (s.setReg o v).pending = s.pending := rfl

/-! ### `State.setFld` -/

@[simp] theorem State.setFld_time (s : State) (f : Fld) (n : Nat) : (s.setFld f n).time = s.time := rfl
@[simp] theorem State.setFld_ports (s : State) (f : Fld) (n : Nat) : (s.setFld f n).ports = s.ports := rfl
@[simp] theorem State.setFld_frames (s : State) (f : Fld) (n : Nat) : (s.setFld f n).frames = s.frames := rfl
@[simp] theorem State.setFld_nextFrame (s : State) (f : Fld) (n : Nat) : (s.setFld f n).nextFrame = s.nextFrame := rfl
@[simp] theorem State.setFld_gal (s : State) (f : Fld) (n : Nat) : (s.setFld f n).gal = s.gal := rfl
@[simp] theorem State.setFld_comps (s : State) (f : Fld) (n : Nat) : (s.setFld f n).comps = s.comps := rfl
@[simp] theorem State.setFld_cases (s : State) (f : Fld) (n : Nat) : (s.setFld f n).cases = s.cases := rfl
@[simp] theorem State.setFld_recirc (s : State) (f : Fld) (n : Nat) : (s.setFld f n).recirc = s.recirc := rfl
@[simp] theorem State.setFld_recircWait (s : State) (f : Fld) (n : Nat) : (s.setFld f n).recircWait = s.recircWait := rfl
@[simp] theorem State.setFld_images (s : State) (f : Fld) (n : Nat) : (s.setFld f n).images = s.images := rfl
@[simp] theorem State.setFld_queues (s : State) (f : Fld) (n : Nat) : (s.setFld f n).queues = s.queues := rfl
@[simp] theorem State.setFld_egr (s : State) (f : Fld) (n : Nat) : (s.setFld f n).egr = s.egr := rfl
@[simp] theorem State.setFld_ttWords (s : State) (f : Fld) (n : Nat) : (s.setFld f n).ttWords = s.ttWords := rfl
@[simp] theorem State.setFld_ledger (s : State) (f : Fld) (n : Nat) : (s.setFld f n).ledger = s.ledger := rfl
@[simp] theorem State.setFld_watch (s : State) (f : Fld) (n : Nat) : (s.setFld f n).watch = s.watch := rfl
@[simp] theorem State.setFld_ddr (s : State) (f : Fld) (n : Nat) : (s.setFld f n).ddr = s.ddr := rfl
@[simp] theorem State.setFld_arc (s : State) (f : Fld) (n : Nat) : (s.setFld f n).arc = s.arc := rfl
@[simp] theorem State.setFld_wbl (s : State) (f : Fld) (n : Nat) : (s.setFld f n).wbl = s.wbl := rfl
@[simp] theorem State.setFld_forme (s : State) (f : Fld) (n : Nat) : (s.setFld f n).forme = s.forme := rfl
@[simp] theorem State.setFld_host (s : State) (f : Fld) (n : Nat) : (s.setFld f n).host = s.host := rfl
@[simp] theorem State.setFld_cmd (s : State) (f : Fld) (n : Nat) : (s.setFld f n).cmd = s.cmd := rfl
@[simp] theorem State.setFld_flt (s : State) (f : Fld) (n : Nat) : (s.setFld f n).flt = s.flt := rfl
@[simp] theorem State.setFld_pwr (s : State) (f : Fld) (n : Nat) : (s.setFld f n).pwr = s.pwr := rfl
@[simp] theorem State.setFld_boot (s : State) (f : Fld) (n : Nat) : (s.setFld f n).boot = s.boot := rfl
@[simp] theorem State.setFld_out (s : State) (f : Fld) (n : Nat) : (s.setFld f n).out = s.out := rfl
@[simp] theorem State.setFld_free (s : State) (f : Fld) (n : Nat) : (s.setFld f n).free = s.free := rfl
@[simp] theorem State.setFld_pending (s : State) (f : Fld) (n : Nat) : (s.setFld f n).pending = s.pending := rfl

/-! ### `State.setFlag` -/

@[simp] theorem State.setFlag_time (s : State) (f : Fld) (b : Bool) : (s.setFlag f b).time = s.time := rfl
@[simp] theorem State.setFlag_ports (s : State) (f : Fld) (b : Bool) : (s.setFlag f b).ports = s.ports := rfl
@[simp] theorem State.setFlag_frames (s : State) (f : Fld) (b : Bool) : (s.setFlag f b).frames = s.frames := rfl
@[simp] theorem State.setFlag_nextFrame (s : State) (f : Fld) (b : Bool) : (s.setFlag f b).nextFrame = s.nextFrame := rfl
@[simp] theorem State.setFlag_gal (s : State) (f : Fld) (b : Bool) : (s.setFlag f b).gal = s.gal := rfl
@[simp] theorem State.setFlag_comps (s : State) (f : Fld) (b : Bool) : (s.setFlag f b).comps = s.comps := rfl
@[simp] theorem State.setFlag_cases (s : State) (f : Fld) (b : Bool) : (s.setFlag f b).cases = s.cases := rfl
@[simp] theorem State.setFlag_recirc (s : State) (f : Fld) (b : Bool) : (s.setFlag f b).recirc = s.recirc := rfl
@[simp] theorem State.setFlag_recircWait (s : State) (f : Fld) (b : Bool) : (s.setFlag f b).recircWait = s.recircWait := rfl
@[simp] theorem State.setFlag_images (s : State) (f : Fld) (b : Bool) : (s.setFlag f b).images = s.images := rfl
@[simp] theorem State.setFlag_queues (s : State) (f : Fld) (b : Bool) : (s.setFlag f b).queues = s.queues := rfl
@[simp] theorem State.setFlag_egr (s : State) (f : Fld) (b : Bool) : (s.setFlag f b).egr = s.egr := rfl
@[simp] theorem State.setFlag_ttWords (s : State) (f : Fld) (b : Bool) : (s.setFlag f b).ttWords = s.ttWords := rfl
@[simp] theorem State.setFlag_ledger (s : State) (f : Fld) (b : Bool) : (s.setFlag f b).ledger = s.ledger := rfl
@[simp] theorem State.setFlag_watch (s : State) (f : Fld) (b : Bool) : (s.setFlag f b).watch = s.watch := rfl
@[simp] theorem State.setFlag_ddr (s : State) (f : Fld) (b : Bool) : (s.setFlag f b).ddr = s.ddr := rfl
@[simp] theorem State.setFlag_arc (s : State) (f : Fld) (b : Bool) : (s.setFlag f b).arc = s.arc := rfl
@[simp] theorem State.setFlag_wbl (s : State) (f : Fld) (b : Bool) : (s.setFlag f b).wbl = s.wbl := rfl
@[simp] theorem State.setFlag_forme (s : State) (f : Fld) (b : Bool) : (s.setFlag f b).forme = s.forme := rfl
@[simp] theorem State.setFlag_host (s : State) (f : Fld) (b : Bool) : (s.setFlag f b).host = s.host := rfl
@[simp] theorem State.setFlag_cmd (s : State) (f : Fld) (b : Bool) : (s.setFlag f b).cmd = s.cmd := rfl
@[simp] theorem State.setFlag_flt (s : State) (f : Fld) (b : Bool) : (s.setFlag f b).flt = s.flt := rfl
@[simp] theorem State.setFlag_pwr (s : State) (f : Fld) (b : Bool) : (s.setFlag f b).pwr = s.pwr := rfl
@[simp] theorem State.setFlag_boot (s : State) (f : Fld) (b : Bool) : (s.setFlag f b).boot = s.boot := rfl
@[simp] theorem State.setFlag_out (s : State) (f : Fld) (b : Bool) : (s.setFlag f b).out = s.out := rfl
@[simp] theorem State.setFlag_free (s : State) (f : Fld) (b : Bool) : (s.setFlag f b).free = s.free := rfl
@[simp] theorem State.setFlag_pending (s : State) (f : Fld) (b : Bool) : (s.setFlag f b).pending = s.pending := rfl

/-! ### `State.countN` -/

@[simp] theorem State.countN_time (s : State) (o n : Nat) : (s.countN o n).time = s.time := rfl
@[simp] theorem State.countN_ports (s : State) (o n : Nat) : (s.countN o n).ports = s.ports := rfl
@[simp] theorem State.countN_frames (s : State) (o n : Nat) : (s.countN o n).frames = s.frames := rfl
@[simp] theorem State.countN_nextFrame (s : State) (o n : Nat) : (s.countN o n).nextFrame = s.nextFrame := rfl
@[simp] theorem State.countN_gal (s : State) (o n : Nat) : (s.countN o n).gal = s.gal := rfl
@[simp] theorem State.countN_comps (s : State) (o n : Nat) : (s.countN o n).comps = s.comps := rfl
@[simp] theorem State.countN_cases (s : State) (o n : Nat) : (s.countN o n).cases = s.cases := rfl
@[simp] theorem State.countN_recirc (s : State) (o n : Nat) : (s.countN o n).recirc = s.recirc := rfl
@[simp] theorem State.countN_recircWait (s : State) (o n : Nat) : (s.countN o n).recircWait = s.recircWait := rfl
@[simp] theorem State.countN_images (s : State) (o n : Nat) : (s.countN o n).images = s.images := rfl
@[simp] theorem State.countN_queues (s : State) (o n : Nat) : (s.countN o n).queues = s.queues := rfl
@[simp] theorem State.countN_egr (s : State) (o n : Nat) : (s.countN o n).egr = s.egr := rfl
@[simp] theorem State.countN_ttWords (s : State) (o n : Nat) : (s.countN o n).ttWords = s.ttWords := rfl
@[simp] theorem State.countN_ledger (s : State) (o n : Nat) : (s.countN o n).ledger = s.ledger := rfl
@[simp] theorem State.countN_watch (s : State) (o n : Nat) : (s.countN o n).watch = s.watch := rfl
@[simp] theorem State.countN_ddr (s : State) (o n : Nat) : (s.countN o n).ddr = s.ddr := rfl
@[simp] theorem State.countN_arc (s : State) (o n : Nat) : (s.countN o n).arc = s.arc := rfl
@[simp] theorem State.countN_wbl (s : State) (o n : Nat) : (s.countN o n).wbl = s.wbl := rfl
@[simp] theorem State.countN_forme (s : State) (o n : Nat) : (s.countN o n).forme = s.forme := rfl
@[simp] theorem State.countN_host (s : State) (o n : Nat) : (s.countN o n).host = s.host := rfl
@[simp] theorem State.countN_cmd (s : State) (o n : Nat) : (s.countN o n).cmd = s.cmd := rfl
@[simp] theorem State.countN_flt (s : State) (o n : Nat) : (s.countN o n).flt = s.flt := rfl
@[simp] theorem State.countN_pwr (s : State) (o n : Nat) : (s.countN o n).pwr = s.pwr := rfl
@[simp] theorem State.countN_boot (s : State) (o n : Nat) : (s.countN o n).boot = s.boot := rfl
@[simp] theorem State.countN_out (s : State) (o n : Nat) : (s.countN o n).out = s.out := rfl
@[simp] theorem State.countN_free (s : State) (o n : Nat) : (s.countN o n).free = s.free := rfl
@[simp] theorem State.countN_pending (s : State) (o n : Nat) : (s.countN o n).pending = s.pending := rfl

/-! ### `State.count` -/

@[simp] theorem State.count_time (s : State) (o : Nat) : (s.count o).time = s.time := rfl
@[simp] theorem State.count_ports (s : State) (o : Nat) : (s.count o).ports = s.ports := rfl
@[simp] theorem State.count_frames (s : State) (o : Nat) : (s.count o).frames = s.frames := rfl
@[simp] theorem State.count_nextFrame (s : State) (o : Nat) : (s.count o).nextFrame = s.nextFrame := rfl
@[simp] theorem State.count_gal (s : State) (o : Nat) : (s.count o).gal = s.gal := rfl
@[simp] theorem State.count_comps (s : State) (o : Nat) : (s.count o).comps = s.comps := rfl
@[simp] theorem State.count_cases (s : State) (o : Nat) : (s.count o).cases = s.cases := rfl
@[simp] theorem State.count_recirc (s : State) (o : Nat) : (s.count o).recirc = s.recirc := rfl
@[simp] theorem State.count_recircWait (s : State) (o : Nat) : (s.count o).recircWait = s.recircWait := rfl
@[simp] theorem State.count_images (s : State) (o : Nat) : (s.count o).images = s.images := rfl
@[simp] theorem State.count_queues (s : State) (o : Nat) : (s.count o).queues = s.queues := rfl
@[simp] theorem State.count_egr (s : State) (o : Nat) : (s.count o).egr = s.egr := rfl
@[simp] theorem State.count_ttWords (s : State) (o : Nat) : (s.count o).ttWords = s.ttWords := rfl
@[simp] theorem State.count_ledger (s : State) (o : Nat) : (s.count o).ledger = s.ledger := rfl
@[simp] theorem State.count_watch (s : State) (o : Nat) : (s.count o).watch = s.watch := rfl
@[simp] theorem State.count_ddr (s : State) (o : Nat) : (s.count o).ddr = s.ddr := rfl
@[simp] theorem State.count_arc (s : State) (o : Nat) : (s.count o).arc = s.arc := rfl
@[simp] theorem State.count_wbl (s : State) (o : Nat) : (s.count o).wbl = s.wbl := rfl
@[simp] theorem State.count_forme (s : State) (o : Nat) : (s.count o).forme = s.forme := rfl
@[simp] theorem State.count_host (s : State) (o : Nat) : (s.count o).host = s.host := rfl
@[simp] theorem State.count_cmd (s : State) (o : Nat) : (s.count o).cmd = s.cmd := rfl
@[simp] theorem State.count_flt (s : State) (o : Nat) : (s.count o).flt = s.flt := rfl
@[simp] theorem State.count_pwr (s : State) (o : Nat) : (s.count o).pwr = s.pwr := rfl
@[simp] theorem State.count_boot (s : State) (o : Nat) : (s.count o).boot = s.boot := rfl
@[simp] theorem State.count_out (s : State) (o : Nat) : (s.count o).out = s.out := rfl
@[simp] theorem State.count_free (s : State) (o : Nat) : (s.count o).free = s.free := rfl
@[simp] theorem State.count_pending (s : State) (o : Nat) : (s.count o).pending = s.pending := rfl

/-! ### `State.setTagState` -/

@[simp] theorem State.setTagState_time (s : State) (t n : Nat) : (s.setTagState t n).time = s.time := rfl
@[simp] theorem State.setTagState_ports (s : State) (t n : Nat) : (s.setTagState t n).ports = s.ports := rfl
@[simp] theorem State.setTagState_frames (s : State) (t n : Nat) : (s.setTagState t n).frames = s.frames := rfl
@[simp] theorem State.setTagState_nextFrame (s : State) (t n : Nat) : (s.setTagState t n).nextFrame = s.nextFrame := rfl
@[simp] theorem State.setTagState_gal (s : State) (t n : Nat) : (s.setTagState t n).gal = s.gal := rfl
@[simp] theorem State.setTagState_comps (s : State) (t n : Nat) : (s.setTagState t n).comps = s.comps := rfl
@[simp] theorem State.setTagState_cases (s : State) (t n : Nat) : (s.setTagState t n).cases = s.cases := rfl
@[simp] theorem State.setTagState_recirc (s : State) (t n : Nat) : (s.setTagState t n).recirc = s.recirc := rfl
@[simp] theorem State.setTagState_recircWait (s : State) (t n : Nat) : (s.setTagState t n).recircWait = s.recircWait := rfl
@[simp] theorem State.setTagState_images (s : State) (t n : Nat) : (s.setTagState t n).images = s.images := rfl
@[simp] theorem State.setTagState_queues (s : State) (t n : Nat) : (s.setTagState t n).queues = s.queues := rfl
@[simp] theorem State.setTagState_egr (s : State) (t n : Nat) : (s.setTagState t n).egr = s.egr := rfl
@[simp] theorem State.setTagState_ttWords (s : State) (t n : Nat) : (s.setTagState t n).ttWords = s.ttWords := rfl
@[simp] theorem State.setTagState_ledger (s : State) (t n : Nat) : (s.setTagState t n).ledger = s.ledger := rfl
@[simp] theorem State.setTagState_watch (s : State) (t n : Nat) : (s.setTagState t n).watch = s.watch := rfl
@[simp] theorem State.setTagState_ddr (s : State) (t n : Nat) : (s.setTagState t n).ddr = s.ddr := rfl
@[simp] theorem State.setTagState_arc (s : State) (t n : Nat) : (s.setTagState t n).arc = s.arc := rfl
@[simp] theorem State.setTagState_wbl (s : State) (t n : Nat) : (s.setTagState t n).wbl = s.wbl := rfl
@[simp] theorem State.setTagState_forme (s : State) (t n : Nat) : (s.setTagState t n).forme = s.forme := rfl
@[simp] theorem State.setTagState_host (s : State) (t n : Nat) : (s.setTagState t n).host = s.host := rfl
@[simp] theorem State.setTagState_cmd (s : State) (t n : Nat) : (s.setTagState t n).cmd = s.cmd := rfl
@[simp] theorem State.setTagState_flt (s : State) (t n : Nat) : (s.setTagState t n).flt = s.flt := rfl
@[simp] theorem State.setTagState_pwr (s : State) (t n : Nat) : (s.setTagState t n).pwr = s.pwr := rfl
@[simp] theorem State.setTagState_boot (s : State) (t n : Nat) : (s.setTagState t n).boot = s.boot := rfl
@[simp] theorem State.setTagState_out (s : State) (t n : Nat) : (s.setTagState t n).out = s.out := rfl
@[simp] theorem State.setTagState_free (s : State) (t n : Nat) : (s.setTagState t n).free = s.free := rfl
@[simp] theorem State.setTagState_pending (s : State) (t n : Nat) : (s.setTagState t n).pending = s.pending := rfl

/-! ### `State.emit` -/

@[simp] theorem State.emit_regs (s : State) (e : Emission) : (s.emit e).regs = s.regs := rfl
@[simp] theorem State.emit_time (s : State) (e : Emission) : (s.emit e).time = s.time := rfl
@[simp] theorem State.emit_ports (s : State) (e : Emission) : (s.emit e).ports = s.ports := rfl
@[simp] theorem State.emit_frames (s : State) (e : Emission) : (s.emit e).frames = s.frames := rfl
@[simp] theorem State.emit_nextFrame (s : State) (e : Emission) : (s.emit e).nextFrame = s.nextFrame := rfl
@[simp] theorem State.emit_gal (s : State) (e : Emission) : (s.emit e).gal = s.gal := rfl
@[simp] theorem State.emit_comps (s : State) (e : Emission) : (s.emit e).comps = s.comps := rfl
@[simp] theorem State.emit_cases (s : State) (e : Emission) : (s.emit e).cases = s.cases := rfl
@[simp] theorem State.emit_recirc (s : State) (e : Emission) : (s.emit e).recirc = s.recirc := rfl
@[simp] theorem State.emit_recircWait (s : State) (e : Emission) : (s.emit e).recircWait = s.recircWait := rfl
@[simp] theorem State.emit_images (s : State) (e : Emission) : (s.emit e).images = s.images := rfl
@[simp] theorem State.emit_queues (s : State) (e : Emission) : (s.emit e).queues = s.queues := rfl
@[simp] theorem State.emit_egr (s : State) (e : Emission) : (s.emit e).egr = s.egr := rfl
@[simp] theorem State.emit_ttWords (s : State) (e : Emission) : (s.emit e).ttWords = s.ttWords := rfl
@[simp] theorem State.emit_ledger (s : State) (e : Emission) : (s.emit e).ledger = s.ledger := rfl
@[simp] theorem State.emit_watch (s : State) (e : Emission) : (s.emit e).watch = s.watch := rfl
@[simp] theorem State.emit_ddr (s : State) (e : Emission) : (s.emit e).ddr = s.ddr := rfl
@[simp] theorem State.emit_arc (s : State) (e : Emission) : (s.emit e).arc = s.arc := rfl
@[simp] theorem State.emit_wbl (s : State) (e : Emission) : (s.emit e).wbl = s.wbl := rfl
@[simp] theorem State.emit_forme (s : State) (e : Emission) : (s.emit e).forme = s.forme := rfl
@[simp] theorem State.emit_host (s : State) (e : Emission) : (s.emit e).host = s.host := rfl
@[simp] theorem State.emit_cmd (s : State) (e : Emission) : (s.emit e).cmd = s.cmd := rfl
@[simp] theorem State.emit_flt (s : State) (e : Emission) : (s.emit e).flt = s.flt := rfl
@[simp] theorem State.emit_pwr (s : State) (e : Emission) : (s.emit e).pwr = s.pwr := rfl
@[simp] theorem State.emit_boot (s : State) (e : Emission) : (s.emit e).boot = s.boot := rfl
@[simp] theorem State.emit_out (s : State) (e : Emission) :
    (s.emit e).out = s.out ++ [e] := rfl
@[simp] theorem State.emit_free (s : State) (e : Emission) : (s.emit e).free = s.free := rfl
@[simp] theorem State.emit_pending (s : State) (e : Emission) : (s.emit e).pending = s.pending := rfl

/-! ### `State.setPort` -/

@[simp] theorem State.setPort_regs (s : State) (p : Nat) (v : PortState) : (s.setPort p v).regs = s.regs := rfl
@[simp] theorem State.setPort_time (s : State) (p : Nat) (v : PortState) : (s.setPort p v).time = s.time := rfl
@[simp] theorem State.setPort_ports (s : State) (p : Nat) (v : PortState) :
    (s.setPort p v).ports = tput (fun _ => PortState.init) s.ports p v := rfl
@[simp] theorem State.setPort_frames (s : State) (p : Nat) (v : PortState) : (s.setPort p v).frames = s.frames := rfl
@[simp] theorem State.setPort_nextFrame (s : State) (p : Nat) (v : PortState) : (s.setPort p v).nextFrame = s.nextFrame := rfl
@[simp] theorem State.setPort_gal (s : State) (p : Nat) (v : PortState) : (s.setPort p v).gal = s.gal := rfl
@[simp] theorem State.setPort_comps (s : State) (p : Nat) (v : PortState) : (s.setPort p v).comps = s.comps := rfl
@[simp] theorem State.setPort_cases (s : State) (p : Nat) (v : PortState) : (s.setPort p v).cases = s.cases := rfl
@[simp] theorem State.setPort_recirc (s : State) (p : Nat) (v : PortState) : (s.setPort p v).recirc = s.recirc := rfl
@[simp] theorem State.setPort_recircWait (s : State) (p : Nat) (v : PortState) : (s.setPort p v).recircWait = s.recircWait := rfl
@[simp] theorem State.setPort_images (s : State) (p : Nat) (v : PortState) : (s.setPort p v).images = s.images := rfl
@[simp] theorem State.setPort_queues (s : State) (p : Nat) (v : PortState) : (s.setPort p v).queues = s.queues := rfl
@[simp] theorem State.setPort_egr (s : State) (p : Nat) (v : PortState) : (s.setPort p v).egr = s.egr := rfl
@[simp] theorem State.setPort_ttWords (s : State) (p : Nat) (v : PortState) : (s.setPort p v).ttWords = s.ttWords := rfl
@[simp] theorem State.setPort_ledger (s : State) (p : Nat) (v : PortState) : (s.setPort p v).ledger = s.ledger := rfl
@[simp] theorem State.setPort_watch (s : State) (p : Nat) (v : PortState) : (s.setPort p v).watch = s.watch := rfl
@[simp] theorem State.setPort_ddr (s : State) (p : Nat) (v : PortState) : (s.setPort p v).ddr = s.ddr := rfl
@[simp] theorem State.setPort_arc (s : State) (p : Nat) (v : PortState) : (s.setPort p v).arc = s.arc := rfl
@[simp] theorem State.setPort_wbl (s : State) (p : Nat) (v : PortState) : (s.setPort p v).wbl = s.wbl := rfl
@[simp] theorem State.setPort_forme (s : State) (p : Nat) (v : PortState) : (s.setPort p v).forme = s.forme := rfl
@[simp] theorem State.setPort_host (s : State) (p : Nat) (v : PortState) : (s.setPort p v).host = s.host := rfl
@[simp] theorem State.setPort_cmd (s : State) (p : Nat) (v : PortState) : (s.setPort p v).cmd = s.cmd := rfl
@[simp] theorem State.setPort_flt (s : State) (p : Nat) (v : PortState) : (s.setPort p v).flt = s.flt := rfl
@[simp] theorem State.setPort_pwr (s : State) (p : Nat) (v : PortState) : (s.setPort p v).pwr = s.pwr := rfl
@[simp] theorem State.setPort_boot (s : State) (p : Nat) (v : PortState) : (s.setPort p v).boot = s.boot := rfl
@[simp] theorem State.setPort_out (s : State) (p : Nat) (v : PortState) : (s.setPort p v).out = s.out := rfl
@[simp] theorem State.setPort_free (s : State) (p : Nat) (v : PortState) : (s.setPort p v).free = s.free := rfl
@[simp] theorem State.setPort_pending (s : State) (p : Nat) (v : PortState) : (s.setPort p v).pending = s.pending := rfl

/-! ### `State.setFrame` -/

@[simp] theorem State.setFrame_regs (s : State) (i : Nat) (f : Frame) : (s.setFrame i f).regs = s.regs := rfl
@[simp] theorem State.setFrame_time (s : State) (i : Nat) (f : Frame) : (s.setFrame i f).time = s.time := rfl
@[simp] theorem State.setFrame_ports (s : State) (i : Nat) (f : Frame) : (s.setFrame i f).ports = s.ports := rfl
@[simp] theorem State.setFrame_frames (s : State) (i : Nat) (f : Frame) :
    (s.setFrame i f).frames = tput (fun _ => none) s.frames i (some f) := rfl
@[simp] theorem State.setFrame_nextFrame (s : State) (i : Nat) (f : Frame) : (s.setFrame i f).nextFrame = s.nextFrame := rfl
@[simp] theorem State.setFrame_gal (s : State) (i : Nat) (f : Frame) : (s.setFrame i f).gal = s.gal := rfl
@[simp] theorem State.setFrame_comps (s : State) (i : Nat) (f : Frame) : (s.setFrame i f).comps = s.comps := rfl
@[simp] theorem State.setFrame_cases (s : State) (i : Nat) (f : Frame) : (s.setFrame i f).cases = s.cases := rfl
@[simp] theorem State.setFrame_recirc (s : State) (i : Nat) (f : Frame) : (s.setFrame i f).recirc = s.recirc := rfl
@[simp] theorem State.setFrame_recircWait (s : State) (i : Nat) (f : Frame) : (s.setFrame i f).recircWait = s.recircWait := rfl
@[simp] theorem State.setFrame_images (s : State) (i : Nat) (f : Frame) : (s.setFrame i f).images = s.images := rfl
@[simp] theorem State.setFrame_queues (s : State) (i : Nat) (f : Frame) : (s.setFrame i f).queues = s.queues := rfl
@[simp] theorem State.setFrame_egr (s : State) (i : Nat) (f : Frame) : (s.setFrame i f).egr = s.egr := rfl
@[simp] theorem State.setFrame_ttWords (s : State) (i : Nat) (f : Frame) : (s.setFrame i f).ttWords = s.ttWords := rfl
@[simp] theorem State.setFrame_ledger (s : State) (i : Nat) (f : Frame) : (s.setFrame i f).ledger = s.ledger := rfl
@[simp] theorem State.setFrame_watch (s : State) (i : Nat) (f : Frame) : (s.setFrame i f).watch = s.watch := rfl
@[simp] theorem State.setFrame_ddr (s : State) (i : Nat) (f : Frame) : (s.setFrame i f).ddr = s.ddr := rfl
@[simp] theorem State.setFrame_arc (s : State) (i : Nat) (f : Frame) : (s.setFrame i f).arc = s.arc := rfl
@[simp] theorem State.setFrame_wbl (s : State) (i : Nat) (f : Frame) : (s.setFrame i f).wbl = s.wbl := rfl
@[simp] theorem State.setFrame_forme (s : State) (i : Nat) (f : Frame) : (s.setFrame i f).forme = s.forme := rfl
@[simp] theorem State.setFrame_host (s : State) (i : Nat) (f : Frame) : (s.setFrame i f).host = s.host := rfl
@[simp] theorem State.setFrame_cmd (s : State) (i : Nat) (f : Frame) : (s.setFrame i f).cmd = s.cmd := rfl
@[simp] theorem State.setFrame_flt (s : State) (i : Nat) (f : Frame) : (s.setFrame i f).flt = s.flt := rfl
@[simp] theorem State.setFrame_pwr (s : State) (i : Nat) (f : Frame) : (s.setFrame i f).pwr = s.pwr := rfl
@[simp] theorem State.setFrame_boot (s : State) (i : Nat) (f : Frame) : (s.setFrame i f).boot = s.boot := rfl
@[simp] theorem State.setFrame_out (s : State) (i : Nat) (f : Frame) : (s.setFrame i f).out = s.out := rfl
@[simp] theorem State.setFrame_free (s : State) (i : Nat) (f : Frame) : (s.setFrame i f).free = s.free := rfl
@[simp] theorem State.setFrame_pending (s : State) (i : Nat) (f : Frame) : (s.setFrame i f).pending = s.pending := rfl

/-! ### `State.dropFrame` -/

@[simp] theorem State.dropFrame_regs (s : State) (i : Nat) : (s.dropFrame i).regs = s.regs := rfl
@[simp] theorem State.dropFrame_time (s : State) (i : Nat) : (s.dropFrame i).time = s.time := rfl
@[simp] theorem State.dropFrame_ports (s : State) (i : Nat) : (s.dropFrame i).ports = s.ports := rfl
@[simp] theorem State.dropFrame_frames (s : State) (i : Nat) :
    (s.dropFrame i).frames = tput (fun _ => none) s.frames i none := rfl
@[simp] theorem State.dropFrame_nextFrame (s : State) (i : Nat) : (s.dropFrame i).nextFrame = s.nextFrame := rfl
@[simp] theorem State.dropFrame_gal (s : State) (i : Nat) : (s.dropFrame i).gal = s.gal := rfl
@[simp] theorem State.dropFrame_comps (s : State) (i : Nat) : (s.dropFrame i).comps = s.comps := rfl
@[simp] theorem State.dropFrame_cases (s : State) (i : Nat) : (s.dropFrame i).cases = s.cases := rfl
@[simp] theorem State.dropFrame_recirc (s : State) (i : Nat) : (s.dropFrame i).recirc = s.recirc := rfl
@[simp] theorem State.dropFrame_recircWait (s : State) (i : Nat) : (s.dropFrame i).recircWait = s.recircWait := rfl
@[simp] theorem State.dropFrame_images (s : State) (i : Nat) : (s.dropFrame i).images = s.images := rfl
@[simp] theorem State.dropFrame_queues (s : State) (i : Nat) : (s.dropFrame i).queues = s.queues := rfl
@[simp] theorem State.dropFrame_egr (s : State) (i : Nat) : (s.dropFrame i).egr = s.egr := rfl
@[simp] theorem State.dropFrame_ttWords (s : State) (i : Nat) : (s.dropFrame i).ttWords = s.ttWords := rfl
@[simp] theorem State.dropFrame_ledger (s : State) (i : Nat) : (s.dropFrame i).ledger = s.ledger := rfl
@[simp] theorem State.dropFrame_watch (s : State) (i : Nat) : (s.dropFrame i).watch = s.watch := rfl
@[simp] theorem State.dropFrame_ddr (s : State) (i : Nat) : (s.dropFrame i).ddr = s.ddr := rfl
@[simp] theorem State.dropFrame_arc (s : State) (i : Nat) : (s.dropFrame i).arc = s.arc := rfl
@[simp] theorem State.dropFrame_wbl (s : State) (i : Nat) : (s.dropFrame i).wbl = s.wbl := rfl
@[simp] theorem State.dropFrame_forme (s : State) (i : Nat) : (s.dropFrame i).forme = s.forme := rfl
@[simp] theorem State.dropFrame_host (s : State) (i : Nat) : (s.dropFrame i).host = s.host := rfl
@[simp] theorem State.dropFrame_cmd (s : State) (i : Nat) : (s.dropFrame i).cmd = s.cmd := rfl
@[simp] theorem State.dropFrame_flt (s : State) (i : Nat) : (s.dropFrame i).flt = s.flt := rfl
@[simp] theorem State.dropFrame_pwr (s : State) (i : Nat) : (s.dropFrame i).pwr = s.pwr := rfl
@[simp] theorem State.dropFrame_boot (s : State) (i : Nat) : (s.dropFrame i).boot = s.boot := rfl
@[simp] theorem State.dropFrame_out (s : State) (i : Nat) : (s.dropFrame i).out = s.out := rfl
@[simp] theorem State.dropFrame_free (s : State) (i : Nat) : (s.dropFrame i).free = s.free := rfl
@[simp] theorem State.dropFrame_pending (s : State) (i : Nat) : (s.dropFrame i).pending = s.pending := rfl

/-! ### `State.setComp` -/

@[simp] theorem State.setComp_regs (s : State) (c : Nat) (v : CompState) : (s.setComp c v).regs = s.regs := rfl
@[simp] theorem State.setComp_time (s : State) (c : Nat) (v : CompState) : (s.setComp c v).time = s.time := rfl
@[simp] theorem State.setComp_ports (s : State) (c : Nat) (v : CompState) : (s.setComp c v).ports = s.ports := rfl
@[simp] theorem State.setComp_frames (s : State) (c : Nat) (v : CompState) : (s.setComp c v).frames = s.frames := rfl
@[simp] theorem State.setComp_nextFrame (s : State) (c : Nat) (v : CompState) : (s.setComp c v).nextFrame = s.nextFrame := rfl
@[simp] theorem State.setComp_gal (s : State) (c : Nat) (v : CompState) : (s.setComp c v).gal = s.gal := rfl
@[simp] theorem State.setComp_comps (s : State) (c : Nat) (v : CompState) :
    (s.setComp c v).comps = tput (fun _ => CompState.init) s.comps c v := rfl
@[simp] theorem State.setComp_cases (s : State) (c : Nat) (v : CompState) : (s.setComp c v).cases = s.cases := rfl
@[simp] theorem State.setComp_recirc (s : State) (c : Nat) (v : CompState) : (s.setComp c v).recirc = s.recirc := rfl
@[simp] theorem State.setComp_recircWait (s : State) (c : Nat) (v : CompState) : (s.setComp c v).recircWait = s.recircWait := rfl
@[simp] theorem State.setComp_images (s : State) (c : Nat) (v : CompState) : (s.setComp c v).images = s.images := rfl
@[simp] theorem State.setComp_queues (s : State) (c : Nat) (v : CompState) : (s.setComp c v).queues = s.queues := rfl
@[simp] theorem State.setComp_egr (s : State) (c : Nat) (v : CompState) : (s.setComp c v).egr = s.egr := rfl
@[simp] theorem State.setComp_ttWords (s : State) (c : Nat) (v : CompState) : (s.setComp c v).ttWords = s.ttWords := rfl
@[simp] theorem State.setComp_ledger (s : State) (c : Nat) (v : CompState) : (s.setComp c v).ledger = s.ledger := rfl
@[simp] theorem State.setComp_watch (s : State) (c : Nat) (v : CompState) : (s.setComp c v).watch = s.watch := rfl
@[simp] theorem State.setComp_ddr (s : State) (c : Nat) (v : CompState) : (s.setComp c v).ddr = s.ddr := rfl
@[simp] theorem State.setComp_arc (s : State) (c : Nat) (v : CompState) : (s.setComp c v).arc = s.arc := rfl
@[simp] theorem State.setComp_wbl (s : State) (c : Nat) (v : CompState) : (s.setComp c v).wbl = s.wbl := rfl
@[simp] theorem State.setComp_forme (s : State) (c : Nat) (v : CompState) : (s.setComp c v).forme = s.forme := rfl
@[simp] theorem State.setComp_host (s : State) (c : Nat) (v : CompState) : (s.setComp c v).host = s.host := rfl
@[simp] theorem State.setComp_cmd (s : State) (c : Nat) (v : CompState) : (s.setComp c v).cmd = s.cmd := rfl
@[simp] theorem State.setComp_flt (s : State) (c : Nat) (v : CompState) : (s.setComp c v).flt = s.flt := rfl
@[simp] theorem State.setComp_pwr (s : State) (c : Nat) (v : CompState) : (s.setComp c v).pwr = s.pwr := rfl
@[simp] theorem State.setComp_boot (s : State) (c : Nat) (v : CompState) : (s.setComp c v).boot = s.boot := rfl
@[simp] theorem State.setComp_out (s : State) (c : Nat) (v : CompState) : (s.setComp c v).out = s.out := rfl
@[simp] theorem State.setComp_free (s : State) (c : Nat) (v : CompState) : (s.setComp c v).free = s.free := rfl
@[simp] theorem State.setComp_pending (s : State) (c : Nat) (v : CompState) : (s.setComp c v).pending = s.pending := rfl

/-! ### `State.setCase` -/

@[simp] theorem State.setCase_regs (s : State) (c : Nat) (v : CaseState) : (s.setCase c v).regs = s.regs := rfl
@[simp] theorem State.setCase_time (s : State) (c : Nat) (v : CaseState) : (s.setCase c v).time = s.time := rfl
@[simp] theorem State.setCase_ports (s : State) (c : Nat) (v : CaseState) : (s.setCase c v).ports = s.ports := rfl
@[simp] theorem State.setCase_frames (s : State) (c : Nat) (v : CaseState) : (s.setCase c v).frames = s.frames := rfl
@[simp] theorem State.setCase_nextFrame (s : State) (c : Nat) (v : CaseState) : (s.setCase c v).nextFrame = s.nextFrame := rfl
@[simp] theorem State.setCase_gal (s : State) (c : Nat) (v : CaseState) : (s.setCase c v).gal = s.gal := rfl
@[simp] theorem State.setCase_comps (s : State) (c : Nat) (v : CaseState) : (s.setCase c v).comps = s.comps := rfl
@[simp] theorem State.setCase_cases (s : State) (c : Nat) (v : CaseState) :
    (s.setCase c v).cases = tput (fun _ => CaseState.init) s.cases c v := rfl
@[simp] theorem State.setCase_recirc (s : State) (c : Nat) (v : CaseState) : (s.setCase c v).recirc = s.recirc := rfl
@[simp] theorem State.setCase_recircWait (s : State) (c : Nat) (v : CaseState) : (s.setCase c v).recircWait = s.recircWait := rfl
@[simp] theorem State.setCase_images (s : State) (c : Nat) (v : CaseState) : (s.setCase c v).images = s.images := rfl
@[simp] theorem State.setCase_queues (s : State) (c : Nat) (v : CaseState) : (s.setCase c v).queues = s.queues := rfl
@[simp] theorem State.setCase_egr (s : State) (c : Nat) (v : CaseState) : (s.setCase c v).egr = s.egr := rfl
@[simp] theorem State.setCase_ttWords (s : State) (c : Nat) (v : CaseState) : (s.setCase c v).ttWords = s.ttWords := rfl
@[simp] theorem State.setCase_ledger (s : State) (c : Nat) (v : CaseState) : (s.setCase c v).ledger = s.ledger := rfl
@[simp] theorem State.setCase_watch (s : State) (c : Nat) (v : CaseState) : (s.setCase c v).watch = s.watch := rfl
@[simp] theorem State.setCase_ddr (s : State) (c : Nat) (v : CaseState) : (s.setCase c v).ddr = s.ddr := rfl
@[simp] theorem State.setCase_arc (s : State) (c : Nat) (v : CaseState) : (s.setCase c v).arc = s.arc := rfl
@[simp] theorem State.setCase_wbl (s : State) (c : Nat) (v : CaseState) : (s.setCase c v).wbl = s.wbl := rfl
@[simp] theorem State.setCase_forme (s : State) (c : Nat) (v : CaseState) : (s.setCase c v).forme = s.forme := rfl
@[simp] theorem State.setCase_host (s : State) (c : Nat) (v : CaseState) : (s.setCase c v).host = s.host := rfl
@[simp] theorem State.setCase_cmd (s : State) (c : Nat) (v : CaseState) : (s.setCase c v).cmd = s.cmd := rfl
@[simp] theorem State.setCase_flt (s : State) (c : Nat) (v : CaseState) : (s.setCase c v).flt = s.flt := rfl
@[simp] theorem State.setCase_pwr (s : State) (c : Nat) (v : CaseState) : (s.setCase c v).pwr = s.pwr := rfl
@[simp] theorem State.setCase_boot (s : State) (c : Nat) (v : CaseState) : (s.setCase c v).boot = s.boot := rfl
@[simp] theorem State.setCase_out (s : State) (c : Nat) (v : CaseState) : (s.setCase c v).out = s.out := rfl
@[simp] theorem State.setCase_free (s : State) (c : Nat) (v : CaseState) : (s.setCase c v).free = s.free := rfl
@[simp] theorem State.setCase_pending (s : State) (c : Nat) (v : CaseState) : (s.setCase c v).pending = s.pending := rfl

/-! ### `State.setPath` -/

@[simp] theorem State.setPath_regs (s : State) (r : Nat) (v : List Nat) : (s.setPath r v).regs = s.regs := rfl
@[simp] theorem State.setPath_time (s : State) (r : Nat) (v : List Nat) : (s.setPath r v).time = s.time := rfl
@[simp] theorem State.setPath_ports (s : State) (r : Nat) (v : List Nat) : (s.setPath r v).ports = s.ports := rfl
@[simp] theorem State.setPath_frames (s : State) (r : Nat) (v : List Nat) : (s.setPath r v).frames = s.frames := rfl
@[simp] theorem State.setPath_nextFrame (s : State) (r : Nat) (v : List Nat) : (s.setPath r v).nextFrame = s.nextFrame := rfl
@[simp] theorem State.setPath_gal (s : State) (r : Nat) (v : List Nat) : (s.setPath r v).gal = s.gal := rfl
@[simp] theorem State.setPath_comps (s : State) (r : Nat) (v : List Nat) : (s.setPath r v).comps = s.comps := rfl
@[simp] theorem State.setPath_cases (s : State) (r : Nat) (v : List Nat) : (s.setPath r v).cases = s.cases := rfl
@[simp] theorem State.setPath_recirc (s : State) (r : Nat) (v : List Nat) :
    (s.setPath r v).recirc = tput (fun _ => []) s.recirc r v := rfl
@[simp] theorem State.setPath_recircWait (s : State) (r : Nat) (v : List Nat) : (s.setPath r v).recircWait = s.recircWait := rfl
@[simp] theorem State.setPath_images (s : State) (r : Nat) (v : List Nat) : (s.setPath r v).images = s.images := rfl
@[simp] theorem State.setPath_queues (s : State) (r : Nat) (v : List Nat) : (s.setPath r v).queues = s.queues := rfl
@[simp] theorem State.setPath_egr (s : State) (r : Nat) (v : List Nat) : (s.setPath r v).egr = s.egr := rfl
@[simp] theorem State.setPath_ttWords (s : State) (r : Nat) (v : List Nat) : (s.setPath r v).ttWords = s.ttWords := rfl
@[simp] theorem State.setPath_ledger (s : State) (r : Nat) (v : List Nat) : (s.setPath r v).ledger = s.ledger := rfl
@[simp] theorem State.setPath_watch (s : State) (r : Nat) (v : List Nat) : (s.setPath r v).watch = s.watch := rfl
@[simp] theorem State.setPath_ddr (s : State) (r : Nat) (v : List Nat) : (s.setPath r v).ddr = s.ddr := rfl
@[simp] theorem State.setPath_arc (s : State) (r : Nat) (v : List Nat) : (s.setPath r v).arc = s.arc := rfl
@[simp] theorem State.setPath_wbl (s : State) (r : Nat) (v : List Nat) : (s.setPath r v).wbl = s.wbl := rfl
@[simp] theorem State.setPath_forme (s : State) (r : Nat) (v : List Nat) : (s.setPath r v).forme = s.forme := rfl
@[simp] theorem State.setPath_host (s : State) (r : Nat) (v : List Nat) : (s.setPath r v).host = s.host := rfl
@[simp] theorem State.setPath_cmd (s : State) (r : Nat) (v : List Nat) : (s.setPath r v).cmd = s.cmd := rfl
@[simp] theorem State.setPath_flt (s : State) (r : Nat) (v : List Nat) : (s.setPath r v).flt = s.flt := rfl
@[simp] theorem State.setPath_pwr (s : State) (r : Nat) (v : List Nat) : (s.setPath r v).pwr = s.pwr := rfl
@[simp] theorem State.setPath_boot (s : State) (r : Nat) (v : List Nat) : (s.setPath r v).boot = s.boot := rfl
@[simp] theorem State.setPath_out (s : State) (r : Nat) (v : List Nat) : (s.setPath r v).out = s.out := rfl
@[simp] theorem State.setPath_free (s : State) (r : Nat) (v : List Nat) : (s.setPath r v).free = s.free := rfl
@[simp] theorem State.setPath_pending (s : State) (r : Nat) (v : List Nat) : (s.setPath r v).pending = s.pending := rfl

/-! ### `State.setWaitPass` -/

@[simp] theorem State.setWaitPass_regs (s : State) (r : Nat) (v : List Nat) : (s.setWaitPass r v).regs = s.regs := rfl
@[simp] theorem State.setWaitPass_time (s : State) (r : Nat) (v : List Nat) : (s.setWaitPass r v).time = s.time := rfl
@[simp] theorem State.setWaitPass_ports (s : State) (r : Nat) (v : List Nat) : (s.setWaitPass r v).ports = s.ports := rfl
@[simp] theorem State.setWaitPass_frames (s : State) (r : Nat) (v : List Nat) : (s.setWaitPass r v).frames = s.frames := rfl
@[simp] theorem State.setWaitPass_nextFrame (s : State) (r : Nat) (v : List Nat) : (s.setWaitPass r v).nextFrame = s.nextFrame := rfl
@[simp] theorem State.setWaitPass_gal (s : State) (r : Nat) (v : List Nat) : (s.setWaitPass r v).gal = s.gal := rfl
@[simp] theorem State.setWaitPass_comps (s : State) (r : Nat) (v : List Nat) : (s.setWaitPass r v).comps = s.comps := rfl
@[simp] theorem State.setWaitPass_cases (s : State) (r : Nat) (v : List Nat) : (s.setWaitPass r v).cases = s.cases := rfl
@[simp] theorem State.setWaitPass_recirc (s : State) (r : Nat) (v : List Nat) : (s.setWaitPass r v).recirc = s.recirc := rfl
@[simp] theorem State.setWaitPass_recircWait (s : State) (r : Nat) (v : List Nat) :
    (s.setWaitPass r v).recircWait = tput (fun _ => []) s.recircWait r v := rfl
@[simp] theorem State.setWaitPass_images (s : State) (r : Nat) (v : List Nat) : (s.setWaitPass r v).images = s.images := rfl
@[simp] theorem State.setWaitPass_queues (s : State) (r : Nat) (v : List Nat) : (s.setWaitPass r v).queues = s.queues := rfl
@[simp] theorem State.setWaitPass_egr (s : State) (r : Nat) (v : List Nat) : (s.setWaitPass r v).egr = s.egr := rfl
@[simp] theorem State.setWaitPass_ttWords (s : State) (r : Nat) (v : List Nat) : (s.setWaitPass r v).ttWords = s.ttWords := rfl
@[simp] theorem State.setWaitPass_ledger (s : State) (r : Nat) (v : List Nat) : (s.setWaitPass r v).ledger = s.ledger := rfl
@[simp] theorem State.setWaitPass_watch (s : State) (r : Nat) (v : List Nat) : (s.setWaitPass r v).watch = s.watch := rfl
@[simp] theorem State.setWaitPass_ddr (s : State) (r : Nat) (v : List Nat) : (s.setWaitPass r v).ddr = s.ddr := rfl
@[simp] theorem State.setWaitPass_arc (s : State) (r : Nat) (v : List Nat) : (s.setWaitPass r v).arc = s.arc := rfl
@[simp] theorem State.setWaitPass_wbl (s : State) (r : Nat) (v : List Nat) : (s.setWaitPass r v).wbl = s.wbl := rfl
@[simp] theorem State.setWaitPass_forme (s : State) (r : Nat) (v : List Nat) : (s.setWaitPass r v).forme = s.forme := rfl
@[simp] theorem State.setWaitPass_host (s : State) (r : Nat) (v : List Nat) : (s.setWaitPass r v).host = s.host := rfl
@[simp] theorem State.setWaitPass_cmd (s : State) (r : Nat) (v : List Nat) : (s.setWaitPass r v).cmd = s.cmd := rfl
@[simp] theorem State.setWaitPass_flt (s : State) (r : Nat) (v : List Nat) : (s.setWaitPass r v).flt = s.flt := rfl
@[simp] theorem State.setWaitPass_pwr (s : State) (r : Nat) (v : List Nat) : (s.setWaitPass r v).pwr = s.pwr := rfl
@[simp] theorem State.setWaitPass_boot (s : State) (r : Nat) (v : List Nat) : (s.setWaitPass r v).boot = s.boot := rfl
@[simp] theorem State.setWaitPass_out (s : State) (r : Nat) (v : List Nat) : (s.setWaitPass r v).out = s.out := rfl
@[simp] theorem State.setWaitPass_free (s : State) (r : Nat) (v : List Nat) : (s.setWaitPass r v).free = s.free := rfl
@[simp] theorem State.setWaitPass_pending (s : State) (r : Nat) (v : List Nat) : (s.setWaitPass r v).pending = s.pending := rfl

/-! ### `State.setImage` -/

@[simp] theorem State.setImage_regs (s : State) (t : Nat) (v : Image) : (s.setImage t v).regs = s.regs := rfl
@[simp] theorem State.setImage_time (s : State) (t : Nat) (v : Image) : (s.setImage t v).time = s.time := rfl
@[simp] theorem State.setImage_ports (s : State) (t : Nat) (v : Image) : (s.setImage t v).ports = s.ports := rfl
@[simp] theorem State.setImage_frames (s : State) (t : Nat) (v : Image) : (s.setImage t v).frames = s.frames := rfl
@[simp] theorem State.setImage_nextFrame (s : State) (t : Nat) (v : Image) : (s.setImage t v).nextFrame = s.nextFrame := rfl
@[simp] theorem State.setImage_gal (s : State) (t : Nat) (v : Image) : (s.setImage t v).gal = s.gal := rfl
@[simp] theorem State.setImage_comps (s : State) (t : Nat) (v : Image) : (s.setImage t v).comps = s.comps := rfl
@[simp] theorem State.setImage_cases (s : State) (t : Nat) (v : Image) : (s.setImage t v).cases = s.cases := rfl
@[simp] theorem State.setImage_recirc (s : State) (t : Nat) (v : Image) : (s.setImage t v).recirc = s.recirc := rfl
@[simp] theorem State.setImage_recircWait (s : State) (t : Nat) (v : Image) : (s.setImage t v).recircWait = s.recircWait := rfl
@[simp] theorem State.setImage_images (s : State) (t : Nat) (v : Image) :
    (s.setImage t v).images = tput (fun _ => Image.init) s.images t v := rfl
@[simp] theorem State.setImage_queues (s : State) (t : Nat) (v : Image) : (s.setImage t v).queues = s.queues := rfl
@[simp] theorem State.setImage_egr (s : State) (t : Nat) (v : Image) : (s.setImage t v).egr = s.egr := rfl
@[simp] theorem State.setImage_ttWords (s : State) (t : Nat) (v : Image) : (s.setImage t v).ttWords = s.ttWords := rfl
@[simp] theorem State.setImage_ledger (s : State) (t : Nat) (v : Image) : (s.setImage t v).ledger = s.ledger := rfl
@[simp] theorem State.setImage_watch (s : State) (t : Nat) (v : Image) : (s.setImage t v).watch = s.watch := rfl
@[simp] theorem State.setImage_ddr (s : State) (t : Nat) (v : Image) : (s.setImage t v).ddr = s.ddr := rfl
@[simp] theorem State.setImage_arc (s : State) (t : Nat) (v : Image) : (s.setImage t v).arc = s.arc := rfl
@[simp] theorem State.setImage_wbl (s : State) (t : Nat) (v : Image) : (s.setImage t v).wbl = s.wbl := rfl
@[simp] theorem State.setImage_forme (s : State) (t : Nat) (v : Image) : (s.setImage t v).forme = s.forme := rfl
@[simp] theorem State.setImage_host (s : State) (t : Nat) (v : Image) : (s.setImage t v).host = s.host := rfl
@[simp] theorem State.setImage_cmd (s : State) (t : Nat) (v : Image) : (s.setImage t v).cmd = s.cmd := rfl
@[simp] theorem State.setImage_flt (s : State) (t : Nat) (v : Image) : (s.setImage t v).flt = s.flt := rfl
@[simp] theorem State.setImage_pwr (s : State) (t : Nat) (v : Image) : (s.setImage t v).pwr = s.pwr := rfl
@[simp] theorem State.setImage_boot (s : State) (t : Nat) (v : Image) : (s.setImage t v).boot = s.boot := rfl
@[simp] theorem State.setImage_out (s : State) (t : Nat) (v : Image) : (s.setImage t v).out = s.out := rfl
@[simp] theorem State.setImage_free (s : State) (t : Nat) (v : Image) : (s.setImage t v).free = s.free := rfl
@[simp] theorem State.setImage_pending (s : State) (t : Nat) (v : Image) : (s.setImage t v).pending = s.pending := rfl

/-! ### `State.setQueue` -/

@[simp] theorem State.setQueue_regs (s : State) (q : Nat) (v : EgrQueue) : (s.setQueue q v).regs = s.regs := rfl
@[simp] theorem State.setQueue_time (s : State) (q : Nat) (v : EgrQueue) : (s.setQueue q v).time = s.time := rfl
@[simp] theorem State.setQueue_ports (s : State) (q : Nat) (v : EgrQueue) : (s.setQueue q v).ports = s.ports := rfl
@[simp] theorem State.setQueue_frames (s : State) (q : Nat) (v : EgrQueue) : (s.setQueue q v).frames = s.frames := rfl
@[simp] theorem State.setQueue_nextFrame (s : State) (q : Nat) (v : EgrQueue) : (s.setQueue q v).nextFrame = s.nextFrame := rfl
@[simp] theorem State.setQueue_gal (s : State) (q : Nat) (v : EgrQueue) : (s.setQueue q v).gal = s.gal := rfl
@[simp] theorem State.setQueue_comps (s : State) (q : Nat) (v : EgrQueue) : (s.setQueue q v).comps = s.comps := rfl
@[simp] theorem State.setQueue_cases (s : State) (q : Nat) (v : EgrQueue) : (s.setQueue q v).cases = s.cases := rfl
@[simp] theorem State.setQueue_recirc (s : State) (q : Nat) (v : EgrQueue) : (s.setQueue q v).recirc = s.recirc := rfl
@[simp] theorem State.setQueue_recircWait (s : State) (q : Nat) (v : EgrQueue) : (s.setQueue q v).recircWait = s.recircWait := rfl
@[simp] theorem State.setQueue_images (s : State) (q : Nat) (v : EgrQueue) : (s.setQueue q v).images = s.images := rfl
@[simp] theorem State.setQueue_queues (s : State) (q : Nat) (v : EgrQueue) :
    (s.setQueue q v).queues = tput (fun _ => EgrQueue.init) s.queues q v := rfl
@[simp] theorem State.setQueue_egr (s : State) (q : Nat) (v : EgrQueue) : (s.setQueue q v).egr = s.egr := rfl
@[simp] theorem State.setQueue_ttWords (s : State) (q : Nat) (v : EgrQueue) : (s.setQueue q v).ttWords = s.ttWords := rfl
@[simp] theorem State.setQueue_ledger (s : State) (q : Nat) (v : EgrQueue) : (s.setQueue q v).ledger = s.ledger := rfl
@[simp] theorem State.setQueue_watch (s : State) (q : Nat) (v : EgrQueue) : (s.setQueue q v).watch = s.watch := rfl
@[simp] theorem State.setQueue_ddr (s : State) (q : Nat) (v : EgrQueue) : (s.setQueue q v).ddr = s.ddr := rfl
@[simp] theorem State.setQueue_arc (s : State) (q : Nat) (v : EgrQueue) : (s.setQueue q v).arc = s.arc := rfl
@[simp] theorem State.setQueue_wbl (s : State) (q : Nat) (v : EgrQueue) : (s.setQueue q v).wbl = s.wbl := rfl
@[simp] theorem State.setQueue_forme (s : State) (q : Nat) (v : EgrQueue) : (s.setQueue q v).forme = s.forme := rfl
@[simp] theorem State.setQueue_host (s : State) (q : Nat) (v : EgrQueue) : (s.setQueue q v).host = s.host := rfl
@[simp] theorem State.setQueue_cmd (s : State) (q : Nat) (v : EgrQueue) : (s.setQueue q v).cmd = s.cmd := rfl
@[simp] theorem State.setQueue_flt (s : State) (q : Nat) (v : EgrQueue) : (s.setQueue q v).flt = s.flt := rfl
@[simp] theorem State.setQueue_pwr (s : State) (q : Nat) (v : EgrQueue) : (s.setQueue q v).pwr = s.pwr := rfl
@[simp] theorem State.setQueue_boot (s : State) (q : Nat) (v : EgrQueue) : (s.setQueue q v).boot = s.boot := rfl
@[simp] theorem State.setQueue_out (s : State) (q : Nat) (v : EgrQueue) : (s.setQueue q v).out = s.out := rfl
@[simp] theorem State.setQueue_free (s : State) (q : Nat) (v : EgrQueue) : (s.setQueue q v).free = s.free := rfl
@[simp] theorem State.setQueue_pending (s : State) (q : Nat) (v : EgrQueue) : (s.setQueue q v).pending = s.pending := rfl

/-! ### `State.setEgr` -/

@[simp] theorem State.setEgr_regs (s : State) (p : Nat) (v : EgrPort) : (s.setEgr p v).regs = s.regs := rfl
@[simp] theorem State.setEgr_time (s : State) (p : Nat) (v : EgrPort) : (s.setEgr p v).time = s.time := rfl
@[simp] theorem State.setEgr_ports (s : State) (p : Nat) (v : EgrPort) : (s.setEgr p v).ports = s.ports := rfl
@[simp] theorem State.setEgr_frames (s : State) (p : Nat) (v : EgrPort) : (s.setEgr p v).frames = s.frames := rfl
@[simp] theorem State.setEgr_nextFrame (s : State) (p : Nat) (v : EgrPort) : (s.setEgr p v).nextFrame = s.nextFrame := rfl
@[simp] theorem State.setEgr_gal (s : State) (p : Nat) (v : EgrPort) : (s.setEgr p v).gal = s.gal := rfl
@[simp] theorem State.setEgr_comps (s : State) (p : Nat) (v : EgrPort) : (s.setEgr p v).comps = s.comps := rfl
@[simp] theorem State.setEgr_cases (s : State) (p : Nat) (v : EgrPort) : (s.setEgr p v).cases = s.cases := rfl
@[simp] theorem State.setEgr_recirc (s : State) (p : Nat) (v : EgrPort) : (s.setEgr p v).recirc = s.recirc := rfl
@[simp] theorem State.setEgr_recircWait (s : State) (p : Nat) (v : EgrPort) : (s.setEgr p v).recircWait = s.recircWait := rfl
@[simp] theorem State.setEgr_images (s : State) (p : Nat) (v : EgrPort) : (s.setEgr p v).images = s.images := rfl
@[simp] theorem State.setEgr_queues (s : State) (p : Nat) (v : EgrPort) : (s.setEgr p v).queues = s.queues := rfl
@[simp] theorem State.setEgr_egr (s : State) (p : Nat) (v : EgrPort) :
    (s.setEgr p v).egr = tput (fun _ => EgrPort.init) s.egr p v := rfl
@[simp] theorem State.setEgr_ttWords (s : State) (p : Nat) (v : EgrPort) : (s.setEgr p v).ttWords = s.ttWords := rfl
@[simp] theorem State.setEgr_ledger (s : State) (p : Nat) (v : EgrPort) : (s.setEgr p v).ledger = s.ledger := rfl
@[simp] theorem State.setEgr_watch (s : State) (p : Nat) (v : EgrPort) : (s.setEgr p v).watch = s.watch := rfl
@[simp] theorem State.setEgr_ddr (s : State) (p : Nat) (v : EgrPort) : (s.setEgr p v).ddr = s.ddr := rfl
@[simp] theorem State.setEgr_arc (s : State) (p : Nat) (v : EgrPort) : (s.setEgr p v).arc = s.arc := rfl
@[simp] theorem State.setEgr_wbl (s : State) (p : Nat) (v : EgrPort) : (s.setEgr p v).wbl = s.wbl := rfl
@[simp] theorem State.setEgr_forme (s : State) (p : Nat) (v : EgrPort) : (s.setEgr p v).forme = s.forme := rfl
@[simp] theorem State.setEgr_host (s : State) (p : Nat) (v : EgrPort) : (s.setEgr p v).host = s.host := rfl
@[simp] theorem State.setEgr_cmd (s : State) (p : Nat) (v : EgrPort) : (s.setEgr p v).cmd = s.cmd := rfl
@[simp] theorem State.setEgr_flt (s : State) (p : Nat) (v : EgrPort) : (s.setEgr p v).flt = s.flt := rfl
@[simp] theorem State.setEgr_pwr (s : State) (p : Nat) (v : EgrPort) : (s.setEgr p v).pwr = s.pwr := rfl
@[simp] theorem State.setEgr_boot (s : State) (p : Nat) (v : EgrPort) : (s.setEgr p v).boot = s.boot := rfl
@[simp] theorem State.setEgr_out (s : State) (p : Nat) (v : EgrPort) : (s.setEgr p v).out = s.out := rfl
@[simp] theorem State.setEgr_free (s : State) (p : Nat) (v : EgrPort) : (s.setEgr p v).free = s.free := rfl
@[simp] theorem State.setEgr_pending (s : State) (p : Nat) (v : EgrPort) : (s.setEgr p v).pending = s.pending := rfl

/-! ### `State.setTtWord` -/

@[simp] theorem State.setTtWord_regs (s : State) (p t e : Nat) (v : W64) : (s.setTtWord p t e v).regs = s.regs := rfl
@[simp] theorem State.setTtWord_time (s : State) (p t e : Nat) (v : W64) : (s.setTtWord p t e v).time = s.time := rfl
@[simp] theorem State.setTtWord_ports (s : State) (p t e : Nat) (v : W64) : (s.setTtWord p t e v).ports = s.ports := rfl
@[simp] theorem State.setTtWord_frames (s : State) (p t e : Nat) (v : W64) : (s.setTtWord p t e v).frames = s.frames := rfl
@[simp] theorem State.setTtWord_nextFrame (s : State) (p t e : Nat) (v : W64) : (s.setTtWord p t e v).nextFrame = s.nextFrame := rfl
@[simp] theorem State.setTtWord_gal (s : State) (p t e : Nat) (v : W64) : (s.setTtWord p t e v).gal = s.gal := rfl
@[simp] theorem State.setTtWord_comps (s : State) (p t e : Nat) (v : W64) : (s.setTtWord p t e v).comps = s.comps := rfl
@[simp] theorem State.setTtWord_cases (s : State) (p t e : Nat) (v : W64) : (s.setTtWord p t e v).cases = s.cases := rfl
@[simp] theorem State.setTtWord_recirc (s : State) (p t e : Nat) (v : W64) : (s.setTtWord p t e v).recirc = s.recirc := rfl
@[simp] theorem State.setTtWord_recircWait (s : State) (p t e : Nat) (v : W64) : (s.setTtWord p t e v).recircWait = s.recircWait := rfl
@[simp] theorem State.setTtWord_images (s : State) (p t e : Nat) (v : W64) : (s.setTtWord p t e v).images = s.images := rfl
@[simp] theorem State.setTtWord_queues (s : State) (p t e : Nat) (v : W64) : (s.setTtWord p t e v).queues = s.queues := rfl
@[simp] theorem State.setTtWord_egr (s : State) (p t e : Nat) (v : W64) : (s.setTtWord p t e v).egr = s.egr := rfl
@[simp] theorem State.setTtWord_ledger (s : State) (p t e : Nat) (v : W64) : (s.setTtWord p t e v).ledger = s.ledger := rfl
@[simp] theorem State.setTtWord_watch (s : State) (p t e : Nat) (v : W64) : (s.setTtWord p t e v).watch = s.watch := rfl
@[simp] theorem State.setTtWord_ddr (s : State) (p t e : Nat) (v : W64) : (s.setTtWord p t e v).ddr = s.ddr := rfl
@[simp] theorem State.setTtWord_arc (s : State) (p t e : Nat) (v : W64) : (s.setTtWord p t e v).arc = s.arc := rfl
@[simp] theorem State.setTtWord_wbl (s : State) (p t e : Nat) (v : W64) : (s.setTtWord p t e v).wbl = s.wbl := rfl
@[simp] theorem State.setTtWord_forme (s : State) (p t e : Nat) (v : W64) : (s.setTtWord p t e v).forme = s.forme := rfl
@[simp] theorem State.setTtWord_host (s : State) (p t e : Nat) (v : W64) : (s.setTtWord p t e v).host = s.host := rfl
@[simp] theorem State.setTtWord_cmd (s : State) (p t e : Nat) (v : W64) : (s.setTtWord p t e v).cmd = s.cmd := rfl
@[simp] theorem State.setTtWord_flt (s : State) (p t e : Nat) (v : W64) : (s.setTtWord p t e v).flt = s.flt := rfl
@[simp] theorem State.setTtWord_pwr (s : State) (p t e : Nat) (v : W64) : (s.setTtWord p t e v).pwr = s.pwr := rfl
@[simp] theorem State.setTtWord_boot (s : State) (p t e : Nat) (v : W64) : (s.setTtWord p t e v).boot = s.boot := rfl
@[simp] theorem State.setTtWord_out (s : State) (p t e : Nat) (v : W64) : (s.setTtWord p t e v).out = s.out := rfl
@[simp] theorem State.setTtWord_free (s : State) (p t e : Nat) (v : W64) : (s.setTtWord p t e v).free = s.free := rfl
@[simp] theorem State.setTtWord_pending (s : State) (p t e : Nat) (v : W64) : (s.setTtWord p t e v).pending = s.pending := rfl

/-! ### `State.setCellRam` -/

@[simp] theorem State.setCellRam_regs (s : State) (i : Nat) (v : BitVec 8) : (s.setCellRam i v).regs = s.regs := rfl
@[simp] theorem State.setCellRam_time (s : State) (i : Nat) (v : BitVec 8) : (s.setCellRam i v).time = s.time := rfl
@[simp] theorem State.setCellRam_ports (s : State) (i : Nat) (v : BitVec 8) : (s.setCellRam i v).ports = s.ports := rfl
@[simp] theorem State.setCellRam_frames (s : State) (i : Nat) (v : BitVec 8) : (s.setCellRam i v).frames = s.frames := rfl
@[simp] theorem State.setCellRam_nextFrame (s : State) (i : Nat) (v : BitVec 8) : (s.setCellRam i v).nextFrame = s.nextFrame := rfl
@[simp] theorem State.setCellRam_comps (s : State) (i : Nat) (v : BitVec 8) : (s.setCellRam i v).comps = s.comps := rfl
@[simp] theorem State.setCellRam_cases (s : State) (i : Nat) (v : BitVec 8) : (s.setCellRam i v).cases = s.cases := rfl
@[simp] theorem State.setCellRam_recirc (s : State) (i : Nat) (v : BitVec 8) : (s.setCellRam i v).recirc = s.recirc := rfl
@[simp] theorem State.setCellRam_recircWait (s : State) (i : Nat) (v : BitVec 8) : (s.setCellRam i v).recircWait = s.recircWait := rfl
@[simp] theorem State.setCellRam_images (s : State) (i : Nat) (v : BitVec 8) : (s.setCellRam i v).images = s.images := rfl
@[simp] theorem State.setCellRam_queues (s : State) (i : Nat) (v : BitVec 8) : (s.setCellRam i v).queues = s.queues := rfl
@[simp] theorem State.setCellRam_egr (s : State) (i : Nat) (v : BitVec 8) : (s.setCellRam i v).egr = s.egr := rfl
@[simp] theorem State.setCellRam_ttWords (s : State) (i : Nat) (v : BitVec 8) : (s.setCellRam i v).ttWords = s.ttWords := rfl
@[simp] theorem State.setCellRam_ledger (s : State) (i : Nat) (v : BitVec 8) : (s.setCellRam i v).ledger = s.ledger := rfl
@[simp] theorem State.setCellRam_watch (s : State) (i : Nat) (v : BitVec 8) : (s.setCellRam i v).watch = s.watch := rfl
@[simp] theorem State.setCellRam_ddr (s : State) (i : Nat) (v : BitVec 8) : (s.setCellRam i v).ddr = s.ddr := rfl
@[simp] theorem State.setCellRam_arc (s : State) (i : Nat) (v : BitVec 8) : (s.setCellRam i v).arc = s.arc := rfl
@[simp] theorem State.setCellRam_wbl (s : State) (i : Nat) (v : BitVec 8) : (s.setCellRam i v).wbl = s.wbl := rfl
@[simp] theorem State.setCellRam_forme (s : State) (i : Nat) (v : BitVec 8) : (s.setCellRam i v).forme = s.forme := rfl
@[simp] theorem State.setCellRam_host (s : State) (i : Nat) (v : BitVec 8) : (s.setCellRam i v).host = s.host := rfl
@[simp] theorem State.setCellRam_cmd (s : State) (i : Nat) (v : BitVec 8) : (s.setCellRam i v).cmd = s.cmd := rfl
@[simp] theorem State.setCellRam_flt (s : State) (i : Nat) (v : BitVec 8) : (s.setCellRam i v).flt = s.flt := rfl
@[simp] theorem State.setCellRam_pwr (s : State) (i : Nat) (v : BitVec 8) : (s.setCellRam i v).pwr = s.pwr := rfl
@[simp] theorem State.setCellRam_boot (s : State) (i : Nat) (v : BitVec 8) : (s.setCellRam i v).boot = s.boot := rfl
@[simp] theorem State.setCellRam_out (s : State) (i : Nat) (v : BitVec 8) : (s.setCellRam i v).out = s.out := rfl
@[simp] theorem State.setCellRam_free (s : State) (i : Nat) (v : BitVec 8) : (s.setCellRam i v).free = s.free := rfl
@[simp] theorem State.setCellRam_pending (s : State) (i : Nat) (v : BitVec 8) : (s.setCellRam i v).pending = s.pending := rfl

/-! ### `State.setLinkRam` -/

@[simp] theorem State.setLinkRam_regs (s : State) (i : Nat) (v : BitVec 20) : (s.setLinkRam i v).regs = s.regs := rfl
@[simp] theorem State.setLinkRam_time (s : State) (i : Nat) (v : BitVec 20) : (s.setLinkRam i v).time = s.time := rfl
@[simp] theorem State.setLinkRam_ports (s : State) (i : Nat) (v : BitVec 20) : (s.setLinkRam i v).ports = s.ports := rfl
@[simp] theorem State.setLinkRam_frames (s : State) (i : Nat) (v : BitVec 20) : (s.setLinkRam i v).frames = s.frames := rfl
@[simp] theorem State.setLinkRam_nextFrame (s : State) (i : Nat) (v : BitVec 20) : (s.setLinkRam i v).nextFrame = s.nextFrame := rfl
@[simp] theorem State.setLinkRam_comps (s : State) (i : Nat) (v : BitVec 20) : (s.setLinkRam i v).comps = s.comps := rfl
@[simp] theorem State.setLinkRam_cases (s : State) (i : Nat) (v : BitVec 20) : (s.setLinkRam i v).cases = s.cases := rfl
@[simp] theorem State.setLinkRam_recirc (s : State) (i : Nat) (v : BitVec 20) : (s.setLinkRam i v).recirc = s.recirc := rfl
@[simp] theorem State.setLinkRam_recircWait (s : State) (i : Nat) (v : BitVec 20) : (s.setLinkRam i v).recircWait = s.recircWait := rfl
@[simp] theorem State.setLinkRam_images (s : State) (i : Nat) (v : BitVec 20) : (s.setLinkRam i v).images = s.images := rfl
@[simp] theorem State.setLinkRam_queues (s : State) (i : Nat) (v : BitVec 20) : (s.setLinkRam i v).queues = s.queues := rfl
@[simp] theorem State.setLinkRam_egr (s : State) (i : Nat) (v : BitVec 20) : (s.setLinkRam i v).egr = s.egr := rfl
@[simp] theorem State.setLinkRam_ttWords (s : State) (i : Nat) (v : BitVec 20) : (s.setLinkRam i v).ttWords = s.ttWords := rfl
@[simp] theorem State.setLinkRam_ledger (s : State) (i : Nat) (v : BitVec 20) : (s.setLinkRam i v).ledger = s.ledger := rfl
@[simp] theorem State.setLinkRam_watch (s : State) (i : Nat) (v : BitVec 20) : (s.setLinkRam i v).watch = s.watch := rfl
@[simp] theorem State.setLinkRam_ddr (s : State) (i : Nat) (v : BitVec 20) : (s.setLinkRam i v).ddr = s.ddr := rfl
@[simp] theorem State.setLinkRam_arc (s : State) (i : Nat) (v : BitVec 20) : (s.setLinkRam i v).arc = s.arc := rfl
@[simp] theorem State.setLinkRam_wbl (s : State) (i : Nat) (v : BitVec 20) : (s.setLinkRam i v).wbl = s.wbl := rfl
@[simp] theorem State.setLinkRam_forme (s : State) (i : Nat) (v : BitVec 20) : (s.setLinkRam i v).forme = s.forme := rfl
@[simp] theorem State.setLinkRam_host (s : State) (i : Nat) (v : BitVec 20) : (s.setLinkRam i v).host = s.host := rfl
@[simp] theorem State.setLinkRam_cmd (s : State) (i : Nat) (v : BitVec 20) : (s.setLinkRam i v).cmd = s.cmd := rfl
@[simp] theorem State.setLinkRam_flt (s : State) (i : Nat) (v : BitVec 20) : (s.setLinkRam i v).flt = s.flt := rfl
@[simp] theorem State.setLinkRam_pwr (s : State) (i : Nat) (v : BitVec 20) : (s.setLinkRam i v).pwr = s.pwr := rfl
@[simp] theorem State.setLinkRam_boot (s : State) (i : Nat) (v : BitVec 20) : (s.setLinkRam i v).boot = s.boot := rfl
@[simp] theorem State.setLinkRam_out (s : State) (i : Nat) (v : BitVec 20) : (s.setLinkRam i v).out = s.out := rfl
@[simp] theorem State.setLinkRam_free (s : State) (i : Nat) (v : BitVec 20) : (s.setLinkRam i v).free = s.free := rfl
@[simp] theorem State.setLinkRam_pending (s : State) (i : Nat) (v : BitVec 20) : (s.setLinkRam i v).pending = s.pending := rfl

/-! ### `State.setBankList` -/

@[simp] theorem State.setBankList_regs (s : State) (b : Nat) (l : List (Nat × Nat)) : (s.setBankList b l).regs = s.regs := rfl
@[simp] theorem State.setBankList_time (s : State) (b : Nat) (l : List (Nat × Nat)) : (s.setBankList b l).time = s.time := rfl
@[simp] theorem State.setBankList_ports (s : State) (b : Nat) (l : List (Nat × Nat)) : (s.setBankList b l).ports = s.ports := rfl
@[simp] theorem State.setBankList_frames (s : State) (b : Nat) (l : List (Nat × Nat)) : (s.setBankList b l).frames = s.frames := rfl
@[simp] theorem State.setBankList_nextFrame (s : State) (b : Nat) (l : List (Nat × Nat)) : (s.setBankList b l).nextFrame = s.nextFrame := rfl
@[simp] theorem State.setBankList_comps (s : State) (b : Nat) (l : List (Nat × Nat)) : (s.setBankList b l).comps = s.comps := rfl
@[simp] theorem State.setBankList_cases (s : State) (b : Nat) (l : List (Nat × Nat)) : (s.setBankList b l).cases = s.cases := rfl
@[simp] theorem State.setBankList_recirc (s : State) (b : Nat) (l : List (Nat × Nat)) : (s.setBankList b l).recirc = s.recirc := rfl
@[simp] theorem State.setBankList_recircWait (s : State) (b : Nat) (l : List (Nat × Nat)) : (s.setBankList b l).recircWait = s.recircWait := rfl
@[simp] theorem State.setBankList_images (s : State) (b : Nat) (l : List (Nat × Nat)) : (s.setBankList b l).images = s.images := rfl
@[simp] theorem State.setBankList_queues (s : State) (b : Nat) (l : List (Nat × Nat)) : (s.setBankList b l).queues = s.queues := rfl
@[simp] theorem State.setBankList_egr (s : State) (b : Nat) (l : List (Nat × Nat)) : (s.setBankList b l).egr = s.egr := rfl
@[simp] theorem State.setBankList_ttWords (s : State) (b : Nat) (l : List (Nat × Nat)) : (s.setBankList b l).ttWords = s.ttWords := rfl
@[simp] theorem State.setBankList_ledger (s : State) (b : Nat) (l : List (Nat × Nat)) : (s.setBankList b l).ledger = s.ledger := rfl
@[simp] theorem State.setBankList_watch (s : State) (b : Nat) (l : List (Nat × Nat)) : (s.setBankList b l).watch = s.watch := rfl
@[simp] theorem State.setBankList_ddr (s : State) (b : Nat) (l : List (Nat × Nat)) : (s.setBankList b l).ddr = s.ddr := rfl
@[simp] theorem State.setBankList_arc (s : State) (b : Nat) (l : List (Nat × Nat)) : (s.setBankList b l).arc = s.arc := rfl
@[simp] theorem State.setBankList_wbl (s : State) (b : Nat) (l : List (Nat × Nat)) : (s.setBankList b l).wbl = s.wbl := rfl
@[simp] theorem State.setBankList_forme (s : State) (b : Nat) (l : List (Nat × Nat)) : (s.setBankList b l).forme = s.forme := rfl
@[simp] theorem State.setBankList_host (s : State) (b : Nat) (l : List (Nat × Nat)) : (s.setBankList b l).host = s.host := rfl
@[simp] theorem State.setBankList_cmd (s : State) (b : Nat) (l : List (Nat × Nat)) : (s.setBankList b l).cmd = s.cmd := rfl
@[simp] theorem State.setBankList_flt (s : State) (b : Nat) (l : List (Nat × Nat)) : (s.setBankList b l).flt = s.flt := rfl
@[simp] theorem State.setBankList_pwr (s : State) (b : Nat) (l : List (Nat × Nat)) : (s.setBankList b l).pwr = s.pwr := rfl
@[simp] theorem State.setBankList_boot (s : State) (b : Nat) (l : List (Nat × Nat)) : (s.setBankList b l).boot = s.boot := rfl
@[simp] theorem State.setBankList_out (s : State) (b : Nat) (l : List (Nat × Nat)) : (s.setBankList b l).out = s.out := rfl
@[simp] theorem State.setBankList_free (s : State) (b : Nat) (l : List (Nat × Nat)) : (s.setBankList b l).free = s.free := rfl
@[simp] theorem State.setBankList_pending (s : State) (b : Nat) (l : List (Nat × Nat)) : (s.setBankList b l).pending = s.pending := rfl

/-! ### `State.modArc` -/

@[simp] theorem State.modArc_regs (s : State) (g : ArcUnit → ArcUnit) : (s.modArc g).regs = s.regs := rfl
@[simp] theorem State.modArc_time (s : State) (g : ArcUnit → ArcUnit) : (s.modArc g).time = s.time := rfl
@[simp] theorem State.modArc_ports (s : State) (g : ArcUnit → ArcUnit) : (s.modArc g).ports = s.ports := rfl
@[simp] theorem State.modArc_frames (s : State) (g : ArcUnit → ArcUnit) : (s.modArc g).frames = s.frames := rfl
@[simp] theorem State.modArc_nextFrame (s : State) (g : ArcUnit → ArcUnit) : (s.modArc g).nextFrame = s.nextFrame := rfl
@[simp] theorem State.modArc_gal (s : State) (g : ArcUnit → ArcUnit) : (s.modArc g).gal = s.gal := rfl
@[simp] theorem State.modArc_comps (s : State) (g : ArcUnit → ArcUnit) : (s.modArc g).comps = s.comps := rfl
@[simp] theorem State.modArc_cases (s : State) (g : ArcUnit → ArcUnit) : (s.modArc g).cases = s.cases := rfl
@[simp] theorem State.modArc_recirc (s : State) (g : ArcUnit → ArcUnit) : (s.modArc g).recirc = s.recirc := rfl
@[simp] theorem State.modArc_recircWait (s : State) (g : ArcUnit → ArcUnit) : (s.modArc g).recircWait = s.recircWait := rfl
@[simp] theorem State.modArc_images (s : State) (g : ArcUnit → ArcUnit) : (s.modArc g).images = s.images := rfl
@[simp] theorem State.modArc_queues (s : State) (g : ArcUnit → ArcUnit) : (s.modArc g).queues = s.queues := rfl
@[simp] theorem State.modArc_egr (s : State) (g : ArcUnit → ArcUnit) : (s.modArc g).egr = s.egr := rfl
@[simp] theorem State.modArc_ttWords (s : State) (g : ArcUnit → ArcUnit) : (s.modArc g).ttWords = s.ttWords := rfl
@[simp] theorem State.modArc_ledger (s : State) (g : ArcUnit → ArcUnit) : (s.modArc g).ledger = s.ledger := rfl
@[simp] theorem State.modArc_watch (s : State) (g : ArcUnit → ArcUnit) : (s.modArc g).watch = s.watch := rfl
@[simp] theorem State.modArc_ddr (s : State) (g : ArcUnit → ArcUnit) : (s.modArc g).ddr = s.ddr := rfl
@[simp] theorem State.modArc_arc (s : State) (g : ArcUnit → ArcUnit) :
    (s.modArc g).arc = g s.arc := rfl
@[simp] theorem State.modArc_wbl (s : State) (g : ArcUnit → ArcUnit) : (s.modArc g).wbl = s.wbl := rfl
@[simp] theorem State.modArc_forme (s : State) (g : ArcUnit → ArcUnit) : (s.modArc g).forme = s.forme := rfl
@[simp] theorem State.modArc_host (s : State) (g : ArcUnit → ArcUnit) : (s.modArc g).host = s.host := rfl
@[simp] theorem State.modArc_cmd (s : State) (g : ArcUnit → ArcUnit) : (s.modArc g).cmd = s.cmd := rfl
@[simp] theorem State.modArc_flt (s : State) (g : ArcUnit → ArcUnit) : (s.modArc g).flt = s.flt := rfl
@[simp] theorem State.modArc_pwr (s : State) (g : ArcUnit → ArcUnit) : (s.modArc g).pwr = s.pwr := rfl
@[simp] theorem State.modArc_boot (s : State) (g : ArcUnit → ArcUnit) : (s.modArc g).boot = s.boot := rfl
@[simp] theorem State.modArc_out (s : State) (g : ArcUnit → ArcUnit) : (s.modArc g).out = s.out := rfl
@[simp] theorem State.modArc_free (s : State) (g : ArcUnit → ArcUnit) : (s.modArc g).free = s.free := rfl
@[simp] theorem State.modArc_pending (s : State) (g : ArcUnit → ArcUnit) : (s.modArc g).pending = s.pending := rfl

/-! ### `State.modHost` -/

@[simp] theorem State.modHost_regs (s : State) (g : HostUnit → HostUnit) : (s.modHost g).regs = s.regs := rfl
@[simp] theorem State.modHost_time (s : State) (g : HostUnit → HostUnit) : (s.modHost g).time = s.time := rfl
@[simp] theorem State.modHost_ports (s : State) (g : HostUnit → HostUnit) : (s.modHost g).ports = s.ports := rfl
@[simp] theorem State.modHost_frames (s : State) (g : HostUnit → HostUnit) : (s.modHost g).frames = s.frames := rfl
@[simp] theorem State.modHost_nextFrame (s : State) (g : HostUnit → HostUnit) : (s.modHost g).nextFrame = s.nextFrame := rfl
@[simp] theorem State.modHost_gal (s : State) (g : HostUnit → HostUnit) : (s.modHost g).gal = s.gal := rfl
@[simp] theorem State.modHost_comps (s : State) (g : HostUnit → HostUnit) : (s.modHost g).comps = s.comps := rfl
@[simp] theorem State.modHost_cases (s : State) (g : HostUnit → HostUnit) : (s.modHost g).cases = s.cases := rfl
@[simp] theorem State.modHost_recirc (s : State) (g : HostUnit → HostUnit) : (s.modHost g).recirc = s.recirc := rfl
@[simp] theorem State.modHost_recircWait (s : State) (g : HostUnit → HostUnit) : (s.modHost g).recircWait = s.recircWait := rfl
@[simp] theorem State.modHost_images (s : State) (g : HostUnit → HostUnit) : (s.modHost g).images = s.images := rfl
@[simp] theorem State.modHost_queues (s : State) (g : HostUnit → HostUnit) : (s.modHost g).queues = s.queues := rfl
@[simp] theorem State.modHost_egr (s : State) (g : HostUnit → HostUnit) : (s.modHost g).egr = s.egr := rfl
@[simp] theorem State.modHost_ttWords (s : State) (g : HostUnit → HostUnit) : (s.modHost g).ttWords = s.ttWords := rfl
@[simp] theorem State.modHost_ledger (s : State) (g : HostUnit → HostUnit) : (s.modHost g).ledger = s.ledger := rfl
@[simp] theorem State.modHost_watch (s : State) (g : HostUnit → HostUnit) : (s.modHost g).watch = s.watch := rfl
@[simp] theorem State.modHost_ddr (s : State) (g : HostUnit → HostUnit) : (s.modHost g).ddr = s.ddr := rfl
@[simp] theorem State.modHost_arc (s : State) (g : HostUnit → HostUnit) : (s.modHost g).arc = s.arc := rfl
@[simp] theorem State.modHost_wbl (s : State) (g : HostUnit → HostUnit) : (s.modHost g).wbl = s.wbl := rfl
@[simp] theorem State.modHost_forme (s : State) (g : HostUnit → HostUnit) : (s.modHost g).forme = s.forme := rfl
@[simp] theorem State.modHost_host (s : State) (g : HostUnit → HostUnit) :
    (s.modHost g).host = g s.host := rfl
@[simp] theorem State.modHost_cmd (s : State) (g : HostUnit → HostUnit) : (s.modHost g).cmd = s.cmd := rfl
@[simp] theorem State.modHost_flt (s : State) (g : HostUnit → HostUnit) : (s.modHost g).flt = s.flt := rfl
@[simp] theorem State.modHost_pwr (s : State) (g : HostUnit → HostUnit) : (s.modHost g).pwr = s.pwr := rfl
@[simp] theorem State.modHost_boot (s : State) (g : HostUnit → HostUnit) : (s.modHost g).boot = s.boot := rfl
@[simp] theorem State.modHost_out (s : State) (g : HostUnit → HostUnit) : (s.modHost g).out = s.out := rfl
@[simp] theorem State.modHost_free (s : State) (g : HostUnit → HostUnit) : (s.modHost g).free = s.free := rfl
@[simp] theorem State.modHost_pending (s : State) (g : HostUnit → HostUnit) : (s.modHost g).pending = s.pending := rfl

/-! ### `State.modLedger` -/

@[simp] theorem State.modLedger_regs (s : State) (g : LedgerUnit → LedgerUnit) : (s.modLedger g).regs = s.regs := rfl
@[simp] theorem State.modLedger_time (s : State) (g : LedgerUnit → LedgerUnit) : (s.modLedger g).time = s.time := rfl
@[simp] theorem State.modLedger_ports (s : State) (g : LedgerUnit → LedgerUnit) : (s.modLedger g).ports = s.ports := rfl
@[simp] theorem State.modLedger_frames (s : State) (g : LedgerUnit → LedgerUnit) : (s.modLedger g).frames = s.frames := rfl
@[simp] theorem State.modLedger_nextFrame (s : State) (g : LedgerUnit → LedgerUnit) : (s.modLedger g).nextFrame = s.nextFrame := rfl
@[simp] theorem State.modLedger_gal (s : State) (g : LedgerUnit → LedgerUnit) : (s.modLedger g).gal = s.gal := rfl
@[simp] theorem State.modLedger_comps (s : State) (g : LedgerUnit → LedgerUnit) : (s.modLedger g).comps = s.comps := rfl
@[simp] theorem State.modLedger_cases (s : State) (g : LedgerUnit → LedgerUnit) : (s.modLedger g).cases = s.cases := rfl
@[simp] theorem State.modLedger_recirc (s : State) (g : LedgerUnit → LedgerUnit) : (s.modLedger g).recirc = s.recirc := rfl
@[simp] theorem State.modLedger_recircWait (s : State) (g : LedgerUnit → LedgerUnit) : (s.modLedger g).recircWait = s.recircWait := rfl
@[simp] theorem State.modLedger_images (s : State) (g : LedgerUnit → LedgerUnit) : (s.modLedger g).images = s.images := rfl
@[simp] theorem State.modLedger_queues (s : State) (g : LedgerUnit → LedgerUnit) : (s.modLedger g).queues = s.queues := rfl
@[simp] theorem State.modLedger_egr (s : State) (g : LedgerUnit → LedgerUnit) : (s.modLedger g).egr = s.egr := rfl
@[simp] theorem State.modLedger_ttWords (s : State) (g : LedgerUnit → LedgerUnit) : (s.modLedger g).ttWords = s.ttWords := rfl
@[simp] theorem State.modLedger_ledger (s : State) (g : LedgerUnit → LedgerUnit) :
    (s.modLedger g).ledger = g s.ledger := rfl
@[simp] theorem State.modLedger_watch (s : State) (g : LedgerUnit → LedgerUnit) : (s.modLedger g).watch = s.watch := rfl
@[simp] theorem State.modLedger_ddr (s : State) (g : LedgerUnit → LedgerUnit) : (s.modLedger g).ddr = s.ddr := rfl
@[simp] theorem State.modLedger_arc (s : State) (g : LedgerUnit → LedgerUnit) : (s.modLedger g).arc = s.arc := rfl
@[simp] theorem State.modLedger_wbl (s : State) (g : LedgerUnit → LedgerUnit) : (s.modLedger g).wbl = s.wbl := rfl
@[simp] theorem State.modLedger_forme (s : State) (g : LedgerUnit → LedgerUnit) : (s.modLedger g).forme = s.forme := rfl
@[simp] theorem State.modLedger_host (s : State) (g : LedgerUnit → LedgerUnit) : (s.modLedger g).host = s.host := rfl
@[simp] theorem State.modLedger_cmd (s : State) (g : LedgerUnit → LedgerUnit) : (s.modLedger g).cmd = s.cmd := rfl
@[simp] theorem State.modLedger_flt (s : State) (g : LedgerUnit → LedgerUnit) : (s.modLedger g).flt = s.flt := rfl
@[simp] theorem State.modLedger_pwr (s : State) (g : LedgerUnit → LedgerUnit) : (s.modLedger g).pwr = s.pwr := rfl
@[simp] theorem State.modLedger_boot (s : State) (g : LedgerUnit → LedgerUnit) : (s.modLedger g).boot = s.boot := rfl
@[simp] theorem State.modLedger_out (s : State) (g : LedgerUnit → LedgerUnit) : (s.modLedger g).out = s.out := rfl
@[simp] theorem State.modLedger_free (s : State) (g : LedgerUnit → LedgerUnit) : (s.modLedger g).free = s.free := rfl
@[simp] theorem State.modLedger_pending (s : State) (g : LedgerUnit → LedgerUnit) : (s.modLedger g).pending = s.pending := rfl

/-! ### `State.modPwr` -/

@[simp] theorem State.modPwr_regs (s : State) (g : PowerUnit → PowerUnit) : (s.modPwr g).regs = s.regs := rfl
@[simp] theorem State.modPwr_time (s : State) (g : PowerUnit → PowerUnit) : (s.modPwr g).time = s.time := rfl
@[simp] theorem State.modPwr_ports (s : State) (g : PowerUnit → PowerUnit) : (s.modPwr g).ports = s.ports := rfl
@[simp] theorem State.modPwr_frames (s : State) (g : PowerUnit → PowerUnit) : (s.modPwr g).frames = s.frames := rfl
@[simp] theorem State.modPwr_nextFrame (s : State) (g : PowerUnit → PowerUnit) : (s.modPwr g).nextFrame = s.nextFrame := rfl
@[simp] theorem State.modPwr_gal (s : State) (g : PowerUnit → PowerUnit) : (s.modPwr g).gal = s.gal := rfl
@[simp] theorem State.modPwr_comps (s : State) (g : PowerUnit → PowerUnit) : (s.modPwr g).comps = s.comps := rfl
@[simp] theorem State.modPwr_cases (s : State) (g : PowerUnit → PowerUnit) : (s.modPwr g).cases = s.cases := rfl
@[simp] theorem State.modPwr_recirc (s : State) (g : PowerUnit → PowerUnit) : (s.modPwr g).recirc = s.recirc := rfl
@[simp] theorem State.modPwr_recircWait (s : State) (g : PowerUnit → PowerUnit) : (s.modPwr g).recircWait = s.recircWait := rfl
@[simp] theorem State.modPwr_images (s : State) (g : PowerUnit → PowerUnit) : (s.modPwr g).images = s.images := rfl
@[simp] theorem State.modPwr_queues (s : State) (g : PowerUnit → PowerUnit) : (s.modPwr g).queues = s.queues := rfl
@[simp] theorem State.modPwr_egr (s : State) (g : PowerUnit → PowerUnit) : (s.modPwr g).egr = s.egr := rfl
@[simp] theorem State.modPwr_ttWords (s : State) (g : PowerUnit → PowerUnit) : (s.modPwr g).ttWords = s.ttWords := rfl
@[simp] theorem State.modPwr_ledger (s : State) (g : PowerUnit → PowerUnit) : (s.modPwr g).ledger = s.ledger := rfl
@[simp] theorem State.modPwr_watch (s : State) (g : PowerUnit → PowerUnit) : (s.modPwr g).watch = s.watch := rfl
@[simp] theorem State.modPwr_ddr (s : State) (g : PowerUnit → PowerUnit) : (s.modPwr g).ddr = s.ddr := rfl
@[simp] theorem State.modPwr_arc (s : State) (g : PowerUnit → PowerUnit) : (s.modPwr g).arc = s.arc := rfl
@[simp] theorem State.modPwr_wbl (s : State) (g : PowerUnit → PowerUnit) : (s.modPwr g).wbl = s.wbl := rfl
@[simp] theorem State.modPwr_forme (s : State) (g : PowerUnit → PowerUnit) : (s.modPwr g).forme = s.forme := rfl
@[simp] theorem State.modPwr_host (s : State) (g : PowerUnit → PowerUnit) : (s.modPwr g).host = s.host := rfl
@[simp] theorem State.modPwr_cmd (s : State) (g : PowerUnit → PowerUnit) : (s.modPwr g).cmd = s.cmd := rfl
@[simp] theorem State.modPwr_flt (s : State) (g : PowerUnit → PowerUnit) : (s.modPwr g).flt = s.flt := rfl
@[simp] theorem State.modPwr_pwr (s : State) (g : PowerUnit → PowerUnit) :
    (s.modPwr g).pwr = g s.pwr := rfl
@[simp] theorem State.modPwr_boot (s : State) (g : PowerUnit → PowerUnit) : (s.modPwr g).boot = s.boot := rfl
@[simp] theorem State.modPwr_out (s : State) (g : PowerUnit → PowerUnit) : (s.modPwr g).out = s.out := rfl
@[simp] theorem State.modPwr_free (s : State) (g : PowerUnit → PowerUnit) : (s.modPwr g).free = s.free := rfl
@[simp] theorem State.modPwr_pending (s : State) (g : PowerUnit → PowerUnit) : (s.modPwr g).pending = s.pending := rfl

/-! ### `State.modBoot` -/

@[simp] theorem State.modBoot_regs (s : State) (g : BootUnit → BootUnit) : (s.modBoot g).regs = s.regs := rfl
@[simp] theorem State.modBoot_time (s : State) (g : BootUnit → BootUnit) : (s.modBoot g).time = s.time := rfl
@[simp] theorem State.modBoot_ports (s : State) (g : BootUnit → BootUnit) : (s.modBoot g).ports = s.ports := rfl
@[simp] theorem State.modBoot_frames (s : State) (g : BootUnit → BootUnit) : (s.modBoot g).frames = s.frames := rfl
@[simp] theorem State.modBoot_nextFrame (s : State) (g : BootUnit → BootUnit) : (s.modBoot g).nextFrame = s.nextFrame := rfl
@[simp] theorem State.modBoot_gal (s : State) (g : BootUnit → BootUnit) : (s.modBoot g).gal = s.gal := rfl
@[simp] theorem State.modBoot_comps (s : State) (g : BootUnit → BootUnit) : (s.modBoot g).comps = s.comps := rfl
@[simp] theorem State.modBoot_cases (s : State) (g : BootUnit → BootUnit) : (s.modBoot g).cases = s.cases := rfl
@[simp] theorem State.modBoot_recirc (s : State) (g : BootUnit → BootUnit) : (s.modBoot g).recirc = s.recirc := rfl
@[simp] theorem State.modBoot_recircWait (s : State) (g : BootUnit → BootUnit) : (s.modBoot g).recircWait = s.recircWait := rfl
@[simp] theorem State.modBoot_images (s : State) (g : BootUnit → BootUnit) : (s.modBoot g).images = s.images := rfl
@[simp] theorem State.modBoot_queues (s : State) (g : BootUnit → BootUnit) : (s.modBoot g).queues = s.queues := rfl
@[simp] theorem State.modBoot_egr (s : State) (g : BootUnit → BootUnit) : (s.modBoot g).egr = s.egr := rfl
@[simp] theorem State.modBoot_ttWords (s : State) (g : BootUnit → BootUnit) : (s.modBoot g).ttWords = s.ttWords := rfl
@[simp] theorem State.modBoot_ledger (s : State) (g : BootUnit → BootUnit) : (s.modBoot g).ledger = s.ledger := rfl
@[simp] theorem State.modBoot_watch (s : State) (g : BootUnit → BootUnit) : (s.modBoot g).watch = s.watch := rfl
@[simp] theorem State.modBoot_ddr (s : State) (g : BootUnit → BootUnit) : (s.modBoot g).ddr = s.ddr := rfl
@[simp] theorem State.modBoot_arc (s : State) (g : BootUnit → BootUnit) : (s.modBoot g).arc = s.arc := rfl
@[simp] theorem State.modBoot_wbl (s : State) (g : BootUnit → BootUnit) : (s.modBoot g).wbl = s.wbl := rfl
@[simp] theorem State.modBoot_forme (s : State) (g : BootUnit → BootUnit) : (s.modBoot g).forme = s.forme := rfl
@[simp] theorem State.modBoot_host (s : State) (g : BootUnit → BootUnit) : (s.modBoot g).host = s.host := rfl
@[simp] theorem State.modBoot_cmd (s : State) (g : BootUnit → BootUnit) : (s.modBoot g).cmd = s.cmd := rfl
@[simp] theorem State.modBoot_flt (s : State) (g : BootUnit → BootUnit) : (s.modBoot g).flt = s.flt := rfl
@[simp] theorem State.modBoot_pwr (s : State) (g : BootUnit → BootUnit) : (s.modBoot g).pwr = s.pwr := rfl
@[simp] theorem State.modBoot_boot (s : State) (g : BootUnit → BootUnit) :
    (s.modBoot g).boot = g s.boot := rfl
@[simp] theorem State.modBoot_out (s : State) (g : BootUnit → BootUnit) : (s.modBoot g).out = s.out := rfl
@[simp] theorem State.modBoot_free (s : State) (g : BootUnit → BootUnit) : (s.modBoot g).free = s.free := rfl
@[simp] theorem State.modBoot_pending (s : State) (g : BootUnit → BootUnit) : (s.modBoot g).pending = s.pending := rfl

/-! ### `State.modWatch` -/

@[simp] theorem State.modWatch_regs (s : State) (g : WatchUnit → WatchUnit) : (s.modWatch g).regs = s.regs := rfl
@[simp] theorem State.modWatch_time (s : State) (g : WatchUnit → WatchUnit) : (s.modWatch g).time = s.time := rfl
@[simp] theorem State.modWatch_ports (s : State) (g : WatchUnit → WatchUnit) : (s.modWatch g).ports = s.ports := rfl
@[simp] theorem State.modWatch_frames (s : State) (g : WatchUnit → WatchUnit) : (s.modWatch g).frames = s.frames := rfl
@[simp] theorem State.modWatch_nextFrame (s : State) (g : WatchUnit → WatchUnit) : (s.modWatch g).nextFrame = s.nextFrame := rfl
@[simp] theorem State.modWatch_gal (s : State) (g : WatchUnit → WatchUnit) : (s.modWatch g).gal = s.gal := rfl
@[simp] theorem State.modWatch_comps (s : State) (g : WatchUnit → WatchUnit) : (s.modWatch g).comps = s.comps := rfl
@[simp] theorem State.modWatch_cases (s : State) (g : WatchUnit → WatchUnit) : (s.modWatch g).cases = s.cases := rfl
@[simp] theorem State.modWatch_recirc (s : State) (g : WatchUnit → WatchUnit) : (s.modWatch g).recirc = s.recirc := rfl
@[simp] theorem State.modWatch_recircWait (s : State) (g : WatchUnit → WatchUnit) : (s.modWatch g).recircWait = s.recircWait := rfl
@[simp] theorem State.modWatch_images (s : State) (g : WatchUnit → WatchUnit) : (s.modWatch g).images = s.images := rfl
@[simp] theorem State.modWatch_queues (s : State) (g : WatchUnit → WatchUnit) : (s.modWatch g).queues = s.queues := rfl
@[simp] theorem State.modWatch_egr (s : State) (g : WatchUnit → WatchUnit) : (s.modWatch g).egr = s.egr := rfl
@[simp] theorem State.modWatch_ttWords (s : State) (g : WatchUnit → WatchUnit) : (s.modWatch g).ttWords = s.ttWords := rfl
@[simp] theorem State.modWatch_ledger (s : State) (g : WatchUnit → WatchUnit) : (s.modWatch g).ledger = s.ledger := rfl
@[simp] theorem State.modWatch_watch (s : State) (g : WatchUnit → WatchUnit) :
    (s.modWatch g).watch = g s.watch := rfl
@[simp] theorem State.modWatch_ddr (s : State) (g : WatchUnit → WatchUnit) : (s.modWatch g).ddr = s.ddr := rfl
@[simp] theorem State.modWatch_arc (s : State) (g : WatchUnit → WatchUnit) : (s.modWatch g).arc = s.arc := rfl
@[simp] theorem State.modWatch_wbl (s : State) (g : WatchUnit → WatchUnit) : (s.modWatch g).wbl = s.wbl := rfl
@[simp] theorem State.modWatch_forme (s : State) (g : WatchUnit → WatchUnit) : (s.modWatch g).forme = s.forme := rfl
@[simp] theorem State.modWatch_host (s : State) (g : WatchUnit → WatchUnit) : (s.modWatch g).host = s.host := rfl
@[simp] theorem State.modWatch_cmd (s : State) (g : WatchUnit → WatchUnit) : (s.modWatch g).cmd = s.cmd := rfl
@[simp] theorem State.modWatch_flt (s : State) (g : WatchUnit → WatchUnit) : (s.modWatch g).flt = s.flt := rfl
@[simp] theorem State.modWatch_pwr (s : State) (g : WatchUnit → WatchUnit) : (s.modWatch g).pwr = s.pwr := rfl
@[simp] theorem State.modWatch_boot (s : State) (g : WatchUnit → WatchUnit) : (s.modWatch g).boot = s.boot := rfl
@[simp] theorem State.modWatch_out (s : State) (g : WatchUnit → WatchUnit) : (s.modWatch g).out = s.out := rfl
@[simp] theorem State.modWatch_free (s : State) (g : WatchUnit → WatchUnit) : (s.modWatch g).free = s.free := rfl
@[simp] theorem State.modWatch_pending (s : State) (g : WatchUnit → WatchUnit) : (s.modWatch g).pending = s.pending := rfl

/-! ### `State.modWbl` -/

@[simp] theorem State.modWbl_regs (s : State) (g : WblUnit → WblUnit) : (s.modWbl g).regs = s.regs := rfl
@[simp] theorem State.modWbl_time (s : State) (g : WblUnit → WblUnit) : (s.modWbl g).time = s.time := rfl
@[simp] theorem State.modWbl_ports (s : State) (g : WblUnit → WblUnit) : (s.modWbl g).ports = s.ports := rfl
@[simp] theorem State.modWbl_frames (s : State) (g : WblUnit → WblUnit) : (s.modWbl g).frames = s.frames := rfl
@[simp] theorem State.modWbl_nextFrame (s : State) (g : WblUnit → WblUnit) : (s.modWbl g).nextFrame = s.nextFrame := rfl
@[simp] theorem State.modWbl_gal (s : State) (g : WblUnit → WblUnit) : (s.modWbl g).gal = s.gal := rfl
@[simp] theorem State.modWbl_comps (s : State) (g : WblUnit → WblUnit) : (s.modWbl g).comps = s.comps := rfl
@[simp] theorem State.modWbl_cases (s : State) (g : WblUnit → WblUnit) : (s.modWbl g).cases = s.cases := rfl
@[simp] theorem State.modWbl_recirc (s : State) (g : WblUnit → WblUnit) : (s.modWbl g).recirc = s.recirc := rfl
@[simp] theorem State.modWbl_recircWait (s : State) (g : WblUnit → WblUnit) : (s.modWbl g).recircWait = s.recircWait := rfl
@[simp] theorem State.modWbl_images (s : State) (g : WblUnit → WblUnit) : (s.modWbl g).images = s.images := rfl
@[simp] theorem State.modWbl_queues (s : State) (g : WblUnit → WblUnit) : (s.modWbl g).queues = s.queues := rfl
@[simp] theorem State.modWbl_egr (s : State) (g : WblUnit → WblUnit) : (s.modWbl g).egr = s.egr := rfl
@[simp] theorem State.modWbl_ttWords (s : State) (g : WblUnit → WblUnit) : (s.modWbl g).ttWords = s.ttWords := rfl
@[simp] theorem State.modWbl_ledger (s : State) (g : WblUnit → WblUnit) : (s.modWbl g).ledger = s.ledger := rfl
@[simp] theorem State.modWbl_watch (s : State) (g : WblUnit → WblUnit) : (s.modWbl g).watch = s.watch := rfl
@[simp] theorem State.modWbl_ddr (s : State) (g : WblUnit → WblUnit) : (s.modWbl g).ddr = s.ddr := rfl
@[simp] theorem State.modWbl_arc (s : State) (g : WblUnit → WblUnit) : (s.modWbl g).arc = s.arc := rfl
@[simp] theorem State.modWbl_wbl (s : State) (g : WblUnit → WblUnit) :
    (s.modWbl g).wbl = g s.wbl := rfl
@[simp] theorem State.modWbl_forme (s : State) (g : WblUnit → WblUnit) : (s.modWbl g).forme = s.forme := rfl
@[simp] theorem State.modWbl_host (s : State) (g : WblUnit → WblUnit) : (s.modWbl g).host = s.host := rfl
@[simp] theorem State.modWbl_cmd (s : State) (g : WblUnit → WblUnit) : (s.modWbl g).cmd = s.cmd := rfl
@[simp] theorem State.modWbl_flt (s : State) (g : WblUnit → WblUnit) : (s.modWbl g).flt = s.flt := rfl
@[simp] theorem State.modWbl_pwr (s : State) (g : WblUnit → WblUnit) : (s.modWbl g).pwr = s.pwr := rfl
@[simp] theorem State.modWbl_boot (s : State) (g : WblUnit → WblUnit) : (s.modWbl g).boot = s.boot := rfl
@[simp] theorem State.modWbl_out (s : State) (g : WblUnit → WblUnit) : (s.modWbl g).out = s.out := rfl
@[simp] theorem State.modWbl_free (s : State) (g : WblUnit → WblUnit) : (s.modWbl g).free = s.free := rfl
@[simp] theorem State.modWbl_pending (s : State) (g : WblUnit → WblUnit) : (s.modWbl g).pending = s.pending := rfl

end Sys2Proof.Machine
end

