-- ==== Sys2Proof/Tests/Slice0.lean ====
section
/-! SUPPORT. Tests: for every statement with hypotheses a state and operands that meet them, ill-formed commands that
`Instr.wf` refuses, and results that the spec gives in its text. -/

namespace Sys2Proof.Tests

open Sys2Proof Sys2Proof.Machine

set_option Elab.async false
set_option maxRecDepth 8000

/-! ### States -/

/-- A running block whose host has the role FULL. -/
def base : State :=
  ({ State.reset with boot := { State.reset.boot with mode := .running, resetLow := false, perstLow := false } } :
    State).setFld F.CMD_ROLE_HOST_ROLE 2

/-- The state after a command, where it answers one. -/
def after (c : Instr) (s : State) : State := match exec c s with
  | .next t => t
  | _ => s

/-- A field of the base state set. -/
def with1 (f : Fld) (n : Nat) : State := base.setFld f n

/-- A frame of 64 bytes from port 3. -/
def frame : Frame := { Frame.start (.port 3) 0 0 false 0 0 with bytes := List.replicate 64 0x31 }

/-- Compositor 24 (case 3) runs `f` with its own state `cs`. -/
def runs (f : Frame) (cs : CompState) : State := (base.setFrame 0 f).setComp 24 { cs with frame := some 0 }

def fetch : Fetch := ⟨24, false⟩

/-- The base state with the link of port 3 up. -/
def up3 : State := with1 (F.PRT_STATUS_LINK_UP 3) 1

/-! ### Witnesses: steps, events and ports -/

theorem witness_step : ({ base with pending := [.nop, .slew] } : State).pending = [.nop, .slew] := rfl

theorem witness_invariant : Inv base ∧ base.clocked = true ∧ base.pending = [] ∧ base.time.slew = none ∧
    State.reset.clocked = false :=
  ⟨by constructor <;> decide, by decide⟩

theorem witness_events : base.barOpen (R.EVT_LATCH 47) = true ∧ base.barOpen (R.EVT_SET 0) = true ∧
    base.barOpen (R.EVT_ENABLE 47) = true ∧ base.barOpen (R.EVT_TARGET 1535) = true ∧ base.barOpen R.EVT_VEC_ACK = true ∧
    base.vecLevel 5 = false ∧ ((with1 ⟨R.EVT_LATCH 47, 0, 0⟩ 1)).vecLevel 47 = true := by decide

theorem witness_registerWrite : base.fld F.CMD_ROLE_HOST_ROLE = 2 ∧ base.barOpen R.TIM_FREQ = true ∧
    regParts R.TIM_FREQ false 7 = some [(R.TIM_FREQ, 7)] ∧ regParts 2 false 7 = none ∧ base.barOpen 2 = true ∧
    State.reset.barOpen R.TIM_FREQ = false ∧ roleExempt R.TIM_FREQ = false ∧
    (with1 F.CMD_ROLE_HOST_ROLE 1).fld F.CMD_ROLE_HOST_ROLE ≠ 2 ∧
    (with1 F.CMD_ROLE_HOST_ROLE 1).barOpen R.TIM_FREQ = true := by decide

theorem witness_linkDebounces : (with1 (F.PRT_STATUS_ACTIVE_MODE 3) 1).fld (F.PRT_STATUS_ACTIVE_MODE 3) ≠ 0 ∧
    ((with1 (F.PRT_STATUS_PCS_LOCK 3) 1).setPort 3 { PortState.init with upDeb := true }).laneFenced 3 = false ∧
    ((with1 (F.PRT_STATUS_PCS_LOCK 3) 1).setPort 3 { PortState.init with upDeb := true }).flag (F.PRT_STATUS_PCS_LOCK 3) = true ∧
    ((up3.setPort 3 { PortState.init with downDeb := true }).port 3).downDeb = true ∧
    (up3.setPort 3 { PortState.init with downDeb := true }).flag (F.PRT_STATUS_LINK_UP 3) = true ∧
    (with1 (F.PRT_STATUS_HOLDING 127) 1).flag (F.PRT_STATUS_HOLDING 127) = true := by decide

theorem witness_laneModes : base.barOpen (R.PRT_MODE 127) = true ∧ base.modeRefusal 3 7 ≠ 0 ∧ base.modeRefusal 3 0 = 0 ∧
    bitsOf (0 : W32) 2 0 = base.fld (F.PRT_MODE_MODE 3) ∧ bitsOf (0 : W32) 5 4 = base.fld (F.PRT_MODE_FEC 3) ∧
    base.modeRefusal 3 1 = 0 ∧ bitsOf (1 : W32) 2 0 ≠ base.fld (F.PRT_MODE_MODE 3) ∧
    ((base.setPort 3 { PortState.init with modePending := true }).port 3).modePending = true ∧
    base.flag (F.PRT_STATUS_HI_BER 3) = false := by decide

theorem witness_merge : ((with1 (F.PRT_MERGE_STATUS_VERIFY_STATE 3) 1).setFlag (F.PRT_STATUS_LINK_UP 3) true).fld
      (F.PRT_MERGE_STATUS_VERIFY_STATE 3) = 1 ∧
    ((with1 (F.PRT_MERGE_STATUS_VERIFY_STATE 3) 1).setFlag (F.PRT_STATUS_LINK_UP 3) true).flag (F.PRT_STATUS_LINK_UP 3) =
      true ∧ (base.port 3).verifyTries < 3 ∧
    3 ≤ ((base.setPort 3 { PortState.init with verifyTries := 3 }).port 3).verifyTries := by decide

theorem witness_regionTraining : (with1 (F.PRT_MODE_MODE 127) 2).fld (F.PRT_MODE_MODE (16 * 7 + 15)) ≠ 0 ∧
    (with1 (F.PRT_MODE_MODE 127) 2).laneFenced (16 * 7 + 15) = false := by decide

/-- Port 3 up with reception on, receiving frame 0. -/
def rx3 (f : Frame) : State :=
  ((up3.setFlag (F.PRT_MAC_CFG_RX_EN 3) true).setFrame 0 f).setPort 3 { PortState.init with rx := some 0 }

theorem witness_frameStart : (up3.setFlag (F.PRT_MAC_CFG_RX_EN 3) true).flag (F.PRT_STATUS_LINK_UP 3) = true ∧
    (up3.setFlag (F.PRT_MAC_CFG_RX_EN 3) true).flag (F.PRT_MAC_CFG_RX_EN 3) = true ∧ (base.port 3).rx = none ∧
    up3.loop 3 ≠ 1 ∧ (with1 (F.PRT_MODE_LOOP 3) 1).loop 3 = 1 ∧ up3.stagingBytes 3 < 20480 := by decide

/-- Port 3's ingress staging holds one frame of `n` bytes. -/
def staged3 (n : Nat) : State :=
  (up3.setFrame 0 { frame with bytes := List.replicate n 0 }).setPort 3 { PortState.init with staging := [0] }

theorem witness_stagingFull : (staged3 20480).stagingBytes 3 = 20480 ∧ (staged3 20481).stagingBytes 3 = 20481 := by
  decide +kernel

theorem witness_frameEnd : ((rx3 frame).port 3).rx = some 0 ∧ (rx3 frame).frame 0 = some frame ∧
    (rx3 frame).runner 0 = none ∧ { frame with stage := .ended }.stage ≠ .staged ∧
    ({ frame with bytes := List.replicate 63 0 } : Frame).bytes.length < 64 ∧ 64 ≤ frame.bytes.length ∧
    frame.bytes.length ≤ (rx3 frame).maxFrame 3 ∧ fcsCheck frame.bytes = .bad ∧
    fcsCheck (frame.bytes ++ fcsOf frame.bytes) = .good ∧
    fcsCheck (frame.bytes ++ (fcsOf frame.bytes).map (~~~ ·)) = .stomped ∧
    ((rx3 frame).setFld (F.PRT_MAC_CFG_MAX_FRAME 3) 63).maxFrame 3 < frame.bytes.length := by decide

theorem witness_pdelay : (base.port 3).pdelayReq = none ∧
    ((base.setPort 3 { PortState.init with pdelayReq := some (List.replicate 68 1, 5) }).port 3).pdelayReq =
      some (List.replicate 68 1, 5) := by decide

/-! ### Witnesses: frames, cells and programs -/

/-- A staged frame of port 3, complete, with a forme. -/
def offer3 : State := (base.setFrame 0 { frame with complete := true }).setPort 3 { PortState.init with staging := [0] }

theorem witness_dispatch : base.offered 3 = none ∧ offer3.offered 3 = some (0, { frame with complete := true }) ∧
    (offer3.wakesEnd (eligible 0)).choose 0 false ((offer3.wakesEnd (eligible 0)).defClass frame) = .comp 0 ∧
    (offer3.wakesEnd (eligible 0)).accepts (0 / 8) 0 false = true := by decide

/-- Every case of the eligible six asleep: a best-effort frame waits, and is dropped at step 6 of the shedding. -/
def asleep : State := (eligible 0).foldl (fun t c => t.setFld (F.PWR_CASE_STATE c) 2) offer3

theorem witness_dispatch_wait : asleep.offered 3 = some (0, { frame with complete := true }) ∧
    (asleep.wakesEnd (eligible 0)).choose 0 false ((asleep.wakesEnd (eligible 0)).defClass frame) = .wait ∧
    ((asleep.modPwr fun w => { w with step := 6 }).wakesEnd (eligible 0)).choose 0 false
      (((asleep.modPwr fun w => { w with step := 6 }).wakesEnd (eligible 0)).defClass frame) = .drop := by decide

/-- Region 1's path holds frame 0, which takes a second impression at entry point 5. -/
def path1 : State := (base.setFrame 0 { frame with complete := true, stage := .committed, act := { frame.act with
  dlv := some (.second 5) } }).setPath 1 [0]

theorem witness_recirc : base.path 1 = [] ∧ path1.path 1 = [0] ∧ (path1.readFrame [] .clean).1 = false ∧
    (({ path1 with gal := { base.gal with fenced := 0x80 } } : State).readFrame [7] .clean).1 = true ∧
    ((path1.wakesEnd (eligible 1)).choose 1 false ((path1.wakesEnd (eligible 1)).defClass frame) = .comp 16) ∧
    (path1.wakesEnd (eligible 1)).accepts (16 / 8) 1 false = true := by decide

theorem witness_caseBacklog : ∃ s : State, ((List.range 8).map fun i => 8 * 3 + i).filter (fun k => !s.compFenced k) ≠ [] ∧
    ∀ k ∈ ((List.range 8).map fun i => 8 * 3 + i).filter (fun k => !s.compFenced k), (s.comp k).frame.isSome = true :=
  ⟨(List.range 8).foldl (fun t i => t.setComp (24 + i) { CompState.init with frame := some i }) base, by decide⟩

theorem witness_cellFree : freePermitted ((base.setCellRam 393215 (cellByte 1 0x0B)).cellOwner 393215) 0x0B = true ∧
    (base.setCellRam 393215 (cellByte 1 0x0B)).cellState 393215 = 1 ∧ base.bankFenced (393215 % 32) = false ∧
    bitOf base.gal.sweeping (393215 % 32) = false ∧ (base.setCellRam 0 (cellByte 2 0x0B)).cellState 0 = 2 ∧
    freePermitted ((base.setCellRam 0 (cellByte 2 0x0B)).cellOwner 0) 0x0B = true ∧
    ({ base with gal := { base.gal with fenced := 1 } } : State).bankFenced (0 % 32) = true ∧
    base.gal.residue = [] ∧ base.cellState 5 = 0 ∧ freePermitted ((base.setCellRam 5 (cellByte 1 0x0B)).cellOwner 5) 0x0C = false := by decide

theorem witness_cellRequest : base.gal.kinds.count (reqKind (.recirc 7)).1 = 1 ∧
    base.gal.recircOrder.count (reqKind (.recirc 7)).2 = 1 ∧ base.gal.ingressOrder.count (reqKind (.ingress 127)).2 = 1 ∧
    base.gal.kinds.count 1 = 1 ∧ base.arc.recCell = none ∧ (base.modArc fun a => { a with queue := [⟨0, 0⟩] }).arc.queue ≠ [] :=
  by decide

theorem witness_capture_cell : ∃ c u ch t, base.request 0x10 false false [] = (.cell c, u, ch, t) :=
  ⟨_, _, _, _, rfl⟩

theorem witness_sweep : bitOf ({ base with gal := { base.gal with sweeping := 0x80000000 } } : State).gal.sweeping 31 = true := by
  decide

/-- Ring 511 injects frame 0, which holds no cell yet. -/
def inject511 (f : Frame) : State := (base.setFrame 0 f).setInjecting 511 (some (.frame 0 60 false))

theorem witness_poolRetry : ((inject511 frame).injectNeeds 511).1 = true ∧
    (({ inject511 frame with gal := { base.gal with free := 0 } } : State).request 0x11 false false []).1 = .none ∧
    (∃ c, ((inject511 frame).request 0x11 false false []).1 = .cell c) ∧
    (inject511 { frame with cells := [9] }).injecting 511 = some (.frame 0 60 false) ∧
    (inject511 { frame with cells := [9] }).frame 0 = some { frame with cells := [9] } ∧
    (((inject511 { frame with cells := [9] }).injectNeeds 511).1 ||
      ((inject511 { frame with cells := [9] }).injectNeeds 511).2) = false :=
  ⟨by decide, by decide, ⟨_, rfl⟩, by decide⟩

/-- Frame 0, ended and complete in cell 9, at the head of port 3's reorder buffer. -/
def ended : Frame := { frame with complete := true, stage := .ended, cells := [9], act := { frame.act with dlv := some (.fwd 4) } }
def commit3 (f : Frame) : State := (base.setFrame 0 f).setPort 3 { PortState.init with reorder := [0] }

theorem witness_commit : (commit3 ended).nextCommit 3 = [(0, ended)] ∧
    (commit3 ended).commitReady 0 ended ((commit3 ended).resolveDelivery ended false).1
      ((commit3 ended).resolveDelivery ended false).2.1 = true ∧
    (commit3 { ended with cells := [] }).commitReady 0 { ended with cells := [] } (.fwd 4) 0 = false ∧
    (commit3 { ended with cells := [] }).nextCommit 3 = [(0, { ended with cells := [] })] ∧ base.nextCommit 3 = [] := by decide

theorem witness_residue : tget (fun _ => none) ({ base with gal := { base.gal with residue := [(16383, some
      ⟨0, 1, 0, 0, 100, 0⟩)] } } : State).gal.residue 16383 = some (⟨0, 1, 0, 0, 100, 0⟩ : Residue) ∧
    tget (fun _ => none) base.gal.residue 16383 = none ∧ (commit3 ended).frame 0 = some ended := by decide

theorem witness_issues : Issues (runs frame CompState.init) fetch { CompState.init with frame := some 0 } frame := by
  constructor <;> decide

theorem witness_fields : frame.complete = false ∧ ({ frame with complete := true } : Frame).complete = true ∧
    frame.readBytes 60 4 = .ok ([0x31, 0x31, 0x31, 0x31], false) ∧ frame.readBytes 61 4 = .error 64 ∧
    CompState.init.qoff < 128 ∧ CompState.init.edits.length < 8 := ⟨rfl, rfl, rfl, rfl, by decide, by decide⟩

theorem witness_loops : (0 : Nat) < (64 : BitVec 7).toNat ∧ 0 < (1 : BitVec 14).toNat ∧
    0 < min (({ CompState.init with g := [(5, 1)] } : CompState).greg 5).toNat (64 : BitVec 7).toNat ∧
    CompState.init.greg 5 = 0 ∧ CompState.init.loops = [] := by decide

theorem witness_programEnds : (runs frame CompState.init).comp 24 = { CompState.init with frame := some 0 } ∧
    (runs frame CompState.init).frame 0 = some frame ∧
    (runs frame { CompState.init with cyc := 1 }).worstPath 0 0 < ((runs frame { CompState.init with cyc := 1 }).comp 24).cyc ∧
    ((runs frame CompState.init).comp 24).cyc ≤ (runs frame CompState.init).worstPath 0 0 ∧
    (({ fetch with parityBad := true } : Fetch).parityBad = true) ∧
    (frame.tag, 0) ∉ ((runs frame CompState.init).caseOf (24 / 8)).repair ∧
    (frame.tag, 0) ∈ (((runs frame CompState.init).setCase 3 { CaseState.init with repair := [(1, 5), (0, 0)] }).caseOf
      (24 / 8)).repair ∧
    (runs { frame with stage := .dropped } CompState.init).frame 0 = some { frame with stage := .dropped } := by decide

/-! ### Witnesses: lookups, waybills and tables -/

/-- A set of the Watchlist directory with VALID and, where asked, BROKEN. -/
def dirSet (broken : Bool) : State :=
  (runs frame CompState.init).setReg (R.WCH_DIR 0 255 0) (if broken then 0xC000000000000000 else 0x8000000000000000)

theorem witness_lkiWatch : dirValid ((runs frame CompState.init).wchDir (256 * 0 + 255)) = false ∧
    dirValid ((dirSet false).wchDir (256 * 0 + 255)) = true ∧ bitOf ((dirSet false).wchDir (256 * 0 + 255)).1 62 = false ∧
    bitOf ((dirSet true).wchDir (256 * 0 + 255)).1 62 = true ∧ (dirSet false).waitingBe < 256 ∧
    0 ≤ (CompState.init.greg 5).toInt + (1988 : BitVec 11).toNat ∧
    (CompState.init.greg 5).toInt + (1988 : BitVec 11).toNat + 60 ≤ 2048 := by decide

theorem witness_lookups : (CompState.init.setSlot 7 (.waiting (.ipv4 5))).slot (7 : BitVec 3).toNat = .waiting (.ipv4 5) ∧
    CompState.init.slot (7 : BitVec 3).toNat = .idle ∧
    (CompState.init.setSlot 7 (.ready 1 2 3)).slot (7 : BitVec 3).toNat = .ready 1 2 3 ∧
    (CompState.init.setSlot 0 (.waiting (.waybill 1 2))).slot (0 : BitVec 3).toNat = .waiting (.waybill 1 2) ∧
    (runs frame CompState.init).findEntry 0 (.ipv4 5) = none := by decide

theorem witness_hash : CompState.init.hash.toeplitz = false ∧
    ({ CompState.init with hash := ⟨true, 0, 0, 0⟩ } : CompState).hash.toeplitz = true ∧
    frame.readBytes (CompState.init.cur + (CompState.init.greg 0).toInt + (0 : BitVec 14).toInt) (63 + 1) =
      .ok (List.replicate 64 0x31, false) ∧
    frame.readBytes (CompState.init.cur + (CompState.init.greg 0).toInt + (1 : BitVec 14).toInt) (63 + 1) = .error 64 :=
  ⟨rfl, rfl, rfl, rfl⟩

/-- A frame that begins with the bytes `l`. -/
def bytesFrame (l : List Byte) : Frame := { frame with bytes := l, complete := true }

theorem witness_berx : (bytesFrame [0x1F, 0]).readBytes CompState.init.cur 2 = .ok ([0x1F, 0], false) ∧
    (0x1F : Byte).toNat % 32 = 31 ∧ (bytesFrame [0x30, 0x7F]).readBytes CompState.init.cur 2 = .ok ([0x30, 0x7F], false) ∧
    (0x30 : Byte).toNat % 32 ≠ 31 ∧ (0x7F : Byte).toNat < 0x80 ∧
    (bytesFrame [0x30, 0x80]).readBytes CompState.init.cur 2 = .ok ([0x30, 0x80], false) ∧
    (bytesFrame [0x30, 0x84]).readBytes CompState.init.cur 2 = .ok ([0x30, 0x84], false) ∧ 0x84 ≤ (0x84 : Byte).toNat ∧
    (0x31 : Byte).toNat ≠ 0x30 ∧ (7 : BitVec 4).toNat ≤ 9 ∧
    (bytesFrame [0x30, 3, 0x80, 1, 9]).asduFind 0 0 = .ok (4, 1) ∧
    (bytesFrame [0x30, 3, 0x80, 1, 9]).walkByte 0 (4 + 1 - 1) = .ok 9 :=
  ⟨rfl, by decide, rfl, by decide, by decide, rfl, rfl, by decide, by decide, by decide, rfl, rfl⟩

/-- Waybill 32,767 with the words listed. -/
def wb (l : List (Nat × W64)) : State := l.foldl (fun t x => t.setWword 32767 x.1 x.2) (runs frame CompState.init)

theorem witness_waybills : ((0 : W64).toNat < 32768) ∧ 32768 ≤ (32768 : W64).toNat ∧
    32767 ∈ ((wb []).modWbl fun w => { w with poisoned := [32767] }).wbl.poisoned ∧ 32767 ∉ (wb []).wbl.poisoned ∧
    32767 ∉ (wb []).wbl.repairs ∧ bitOf ((wb []).wword 32767 0) 63 = false ∧
    bitOf ((wb [(0, 0x8000000000000000)]).wword 32767 0) 63 = true ∧
    bitOf ((wb [(0, 0x8000000000000000)]).wword 32767 0) 62 = false ∧
    bitsOf ((wb [(0, 0x8000000000000000)]).wword 32767 0) 59 58 = 0 ∧
    bitOf ((wb [(0, 0x8000000000000000)]).wword 32767 0) 57 = false ∧
    bitOf ((wb [(0, 0x8000000000000000)]).wword 32767 0) 56 = false ∧
    bitsOf ((wb [(0, 0x8000000000000000)]).wword 32767 0) 30 17 = 0 ∧ 3 ≤ (7 : Fin 8).val := by decide

theorem witness_waybillKinds : bitOf ((wb [(0, 0xD000000000000000), (7, 4)]).wword 32767 0) 62 = true ∧
    bitsOf ((wb [(0, 0xD000000000000000), (7, 4)]).wword 32767 0) 61 60 ≠ 0 ∧
    bitOf ((wb [(0, 0xD000000000000000), (7, 4)]).wword 32767 7) 2 = true ∧
    (wb [(0, 0xD000000000000000), (7, 4)]).pairOf 0 3 = none ∧ bitsOf (0 : W64) 19 16 % 2 = 0 ∧
    bitsOf ((wb [(0, 0x8400000000000000), (7, 8)]).wword 32767 0) 59 58 = 1 ∧
    bitOf ((wb [(0, 0x8400000000000000), (7, 8)]).wword 32767 7) 3 = true ∧
    bitsOf ((wb [(0, 0x8800000000000000), (7, 8)]).wword 32767 0) 59 58 = 2 ∧
    bitOf ((wb [(0, 0x8800000000000000), (7, 8)]).wword 32767 7) 3 = true := by decide

theorem witness_sideActions : ((runs frame CompState.init).setFlag (F.FRM_MIRROR_VALID 0 15) true).flag
      (F.FRM_MIRROR_VALID frame.tag (15 : BitVec 4).toNat) = true ∧ (15 : BitVec 4).toNat ∉ CompState.init.act.mirrors ∧
    CompState.init.act.mirrors.length < 2 ∧ 2 ≤ ({ CompState.init.act with mirrors := [1, 2] } : PassAction).mirrors.length ∧
    (15 : BitVec 4).toNat ∉ ({ CompState.init.act with mirrors := [1, 2] } : PassAction).mirrors ∧
    (runs frame CompState.init).flag (F.FRM_MIRROR_VALID frame.tag (15 : BitVec 4).toNat) = false ∧
    (127 : W64).toNat < 128 ∧ 128 ≤ (128 : W64).toNat := by decide

/-- The Keeper with an input, and with an entry of table 0 at address 262,143. -/
def keeper (l : List KprInput) : State := base.modLedger fun x => { x with input := l }
def l2At (a : Nat) (e : TblEntry) : State := (base.setEntry 0 a e).modLedger fun x => { x with ageAt := a }

theorem witness_keeper : (keeper []).ledger.input = [] ∧
    (keeper [.learn ⟨5, 3, 0⟩]).ledger.input = [.learn ⟨5, 3, 0⟩] ∧
    (keeper [.invalidate 0 262143]).ledger.input = [.invalidate 0 (262143 : BitVec 18).toNat] ∧
    KprInput.invalidate 0 262143 ∉ (keeper [.learn ⟨5, 3, 0⟩]).ledger.input ∧ (keeper []).keeperHalted = false ∧ base.l2Seeds = [0] ∧
    ((base.setFlag F.LDG_AGE_CFG_AGE_EN true).flag F.LDG_AGE_CFG_AGE_EN = true) ∧
    entryValid 0 ((l2At 262143 [0, 0]).entry 0 262143) = false ∧
    ParityBad.has [(0, 262143)] 0 262143 = true ∧ ParityBad.has [] 0 262143 = false ∧
    ({ base with flt := { base.flt with fenced := [0x601] } } : State).keeperHalted = true := by decide

/-! ### Witnesses: engines, waybill host access and egress -/

/-- A learned entry of table 0, seen and not seen. -/
theorem witness_ageing : entryValid 0 ((l2At 0 [0x9000000000000000, 0]).entry 0 0) = true ∧
    isLearned ((l2At 0 [0x9000000000000000, 0]).entry 0 0) = true ∧ base.activity 0 = false ∧
    (base.setActivity 0 true).activity 0 = true ∧
    (l2At 0 [0x9000000000000000, 0]).l2Match 0 (l2Key [0x9000000000000000, 0]) isLearned = [] ∧
    (let a := (l2Cands 0 5).headD 0
     let s := base.setEntry 0 a [0x9000000000000005, 0]
     s.l2Match 0 (l2Key (s.entry 0 a)) isLearned = [a] ∧ s.placements (l2Key (s.entry 0 a)) = [a] ∧
       s.activity a = false ∧ (s.setActivity a true).placements (l2Key ((s.setActivity a true).entry 0 a)) = [a] ∧
       (s.setActivity a true).activity a = true) ∧
    isLearned ((l2At 0 [0x8000000000000000, 0]).entry 0 0) = false ∧
    (let a := (l2Cands 0 5).headD 0
     (base.setEntry 0 a [0x8000000000000005, 0]).l2Match 0 5 (fun x => !isLearned x) = [a]) := by decide

def scan : Scan := ⟨some (24, 7), 0, [], 0, 255, 0, some 8, true⟩

theorem witness_scans : ((base.modWatch fun w => { w with waiting := [scan] }).watch.waiting.find? fun x => x.admitted) =
      some scan ∧ (List.range 42).find? (fun e => (base.engine e).isNone) = some 0 ∧ base.watch.waiting = [] ∧
    (((base.setFrame 0 frame).setEngine 41 (some scan)).engine 41 = some scan) ∧
    ((base.setFrame 0 frame).setEngine 41 (some scan)).scanBytes scan = some (List.replicate 8 0x31) ∧
    scan.owner = some (24, 7) ∧ base.scanBytes { scan with owner := none, kept := [1, 2] } = some [1, 2] ∧
    (base.modWatch fun w => { w with writes := [.dir 0 1 2] }).watch.writes = [.dir 0 1 2] ∧
    base.fld F.WCH_ENGINES_ADM ≤ (41 : Fin 42).val ∧ base.engine 41 = none ∧
    (0 : Nat) < (with1 F.WCH_ENGINES_ADM 8).fld F.WCH_ENGINES_ADM := by decide

/-- DDR of 64 MiB answers, with the shadow and its patrol on. -/
def ddrOn : State := ((base.setFlag F.DDR_STATUS_READY true).setFlag F.DDR_CFG_PRESENT true)
def shadow (at_ : Nat) (failed : List Nat) : State :=
  ((ddrOn.setFlag F.WCH_SHADOW_CFG_SHADOW_EN true).setFlag F.WCH_SHADOW_CFG_PATROL_EN true).modWatch fun w =>
    { w with patrolAt := at_, failed := failed }

theorem witness_patrol : base.shadowOn = false ∧ (shadow 5 []).shadowOn = true ∧
    (shadow 5 []).flag F.WCH_SHADOW_CFG_PATROL_EN = true ∧ 5 ∉ (shadow 5 []).watch.failed ∧
    (shadow 66047 [66047]).watch.patrolAt ∈ (shadow 66047 [66047]).watch.failed ∧
    (base.modWatch fun w => { w with repairs := [(65535, 1)] }).watch.repairs = [((65535 : BitVec 17).toNat, 1)] := by decide

theorem witness_repair : (ddrOn.ddrRead 2 (ddrOn.shadowAddr 0) 64 [(0, .clean)]).1 = some (List.replicate 64 0) ∧
    (ddrOn.ddrRead 2 (ddrOn.shadowAddr 0) 64 [(0, .uncorrectable)]).1 = none ∧
    ddrOn.ddrMapped (ddrOn.shadowAddr 0) 64 = true := by decide

theorem witness_waybillHost : (8 : Fin 17).val = 8 ∧ (2 ^ 21 - 8 : BitVec 22).toNat % 8 = 0 ∧
    (2 ^ 21 - 8 : BitVec 22).toNat < 2 ^ 21 ∧ 2 ^ 21 ≤ (2 ^ 21 : BitVec 22).toNat ∧ (4 : Fin 17).val ≠ 8 ∧
    bitOf ((base.setWword 0 0 0x8000000000000000).wword 0 0) 63 = true ∧ bitOf (base.wword 0 0) 63 = false ∧
    bitsOf ((base.setWword 0 0 0x8000000000000000).wword 0 0) 62 58 ≠ bitsOf (0xC000000000000000 : W64) 62 58 ∧
    bitOf (0xC000000000000000 : W64) 63 = true ∧ bitOf (0xC000000000000000 : W64) 16 = false ∧ 0 ∉ base.wbl.repairs ∧
    bitOf (((base.count R.WBL_C_OPS).wparity 0 0).wword 0 0) 63 = false ∧ base.host.d3hot = false := by
  decide

theorem witness_waybillControls : base.wbl.repairs = [] ∧ base.wbl.log = [] ∧
    (base.modWbl fun w => { w with log := [5] }).wbl.log = [5] ∧ base.barOpen R.WBL_SNAP_CTRL = true ∧
    base.barOpen R.WBL_STICKY_CLR = true ∧ base.barOpen R.WBL_METER_CLR = true ∧ wPlain (base.wword 32767 0) = true ∧
    wPlain ((base.setWword 32767 0 0x8400000000000000).wword 32767 0) = false ∧
    bitsOf ((base.setWword 32767 0 0x8400000000000000).wword 32767 0) 59 58 = 1 := by decide

theorem witness_waybillPatrol : base.wbl.patrolAt ∉ base.wbl.poisoned ∧ base.wbl.patrolAt < 32767 ∧
    (base.modWbl fun w => { w with patrolAt := 32767 }).wbl.patrolAt = 32767 ∧
    wPlain ((base.modWbl fun w => { w with patrolAt := 32767 }).wword 32767 0) = true ∧ base.wbl.hold = 0 ∧
    (base.modWbl fun w => { w with hold := 2 }).wbl.hold ≠ 0 ∧
    wPlain ((base.setWword 0 0 0x8400000000000000).wword 0 0) = false ∧
    bitOf ((base.setWword 0 0 0x8400000000000000).wword 0 0) 63 = true ∧
    regParts 0x14021FC false 5 = some [(0x14021FC, w64 ((5 : W64).toNat % 2 ^ 32))] ∧ base.barOpen 0x14021FC = true ∧
    (0x14021FC - 0x1402000) / 256 = 1 ∧ (base.setTagState 1 1).tagState 1 = 1 ∧ base.tagState 1 ≠ 1 ∧
    (base.setTagState 1 1).pairClash 1 (0x14021FC % 256 / 4) (w64 ((5 : W64).toNat % 2 ^ 32)) = false := by decide

def tx (q : Nat) (pre : Bool) : TxFrame := ⟨q, ⟨0, false, false⟩, pre, 0, [], false, false, false, 0, 0, ⟨0, 0, 0⟩⟩

/-- Frame 0, complete in cell 9, alone in queue 511 (class group 7, queue 15) of port 3, whose link is up. -/
def sends (f : Frame) : State :=
  ((((up3.setFld (F.PRT_MODE_MODE 3) 1).setFlag (F.PRT_MAC_CFG_TX_EN 3) true).setFrame 0 f).setQueue 511
    { EgrQueue.init with refs := [⟨0, false, false⟩] })

def heldFrame : Frame := { frame with complete := true, stage := .committed, cells := [9], refcnt := 1, qoff := 127 }

theorem witness_pick : (((sends heldFrame).busyQueues 3).foldl State.bringCredit ((sends heldFrame).testHeads 3)).eligibleHead
      (128 * (3 : Port).val + 16 * 7 + 15) = some (⟨0, false, false⟩, false) ∧
    ((((sends heldFrame).busyQueues 3).foldl State.bringCredit ((sends heldFrame).testHeads 3)).egrPort 3).picked = none ∧
    base.portCond 3 ≠ .up := by decide

theorem witness_frameTx : ((base.setEgr 3 { EgrPort.init with picked := some (tx 511 false) }).egrPort 3).picked =
      some (tx 511 false) ∧
    ((base.setEgr 3 { EgrPort.init with picked := some (tx 511 false) }).egrPort 3).wire = none ∧
    ((base.setEgr 3 { EgrPort.init with wire := some (tx 511 true) }).egrPort 3).wire = some (tx 511 true) ∧
    (sends heldFrame).frame 0 = some heldFrame ∧ heldFrame.complete = true ∧ heldFrame.cells = [9] ∧
    ((sends heldFrame).wireUe heldFrame none).1 = false ∧
    (base.egrPort 3).preempted = none ∧ base.isPre 3 (tx 511 false) = false ∧
    (with1 (F.PRT_MERGE_STATUS_VERIFY_STATE 3) 2).isPre 3 (tx 511 true) = true ∧ base.isPre 3 (tx 511 true) = false ∧
    ((base.setEgr 3 { EgrPort.init with preempted := some (tx 511 true) }).egrPort 3).preempted = some (tx 511 true) ∧
    ({ heldFrame with complete := false } : Frame).complete = false ∧
    ({ tx 511 false with stomp := true } : TxFrame).stomp = true := by decide

/-- A preemptable pick under hold, and a timetable that runs. -/
def timed (tt : TtState) : State :=
  (base.setFlag (F.EGR_TT_CTRL_EN 3 0) true).setEgr 3 { EgrPort.init with picked := some (tx 384 true), tt0 := tt }

theorem witness_timetable : (timed ⟨true, 0, true, 0, true⟩).holdOn 3 = true ∧
    (timed ⟨true, 0, true, 0, false⟩).ttOn 3 0 = true ∧ (((timed ⟨true, 0, true, 0, false⟩).egrPort 3).tt 0).running = true ∧
    ((timed ⟨true, 0, true, 0, false⟩).ttNow 3 0).1 = 0 ∧ ((timed ⟨true, 0, true, 1, false⟩).ttNow 3 0).1 ≠ 1 ∧
    (((timed ⟨true, 0, false, 0, false⟩).egrPort 3).tt 0).running = false ∧
    (((timed ⟨true, 0, false, 0, false⟩).egrPort 3).tt 0).base ≤ (timed ⟨true, 0, false, 0, false⟩).nowNs ∧
    (timed ⟨true, 5, false, 0, false⟩).nowNs < (((timed ⟨true, 5, false, 0, false⟩).egrPort 3).tt 0).base ∧
    base.barOpen (R.EGR_Q_CTRL 16383) = true ∧ (base.queue 16383).refs = [] ∧ base.barOpen (R.EGR_TT_DATA 127) = true ∧
    (base.setTagState 0 1).tagState (bitsOf ((base.setTagState 0 1).reg (R.EGR_TT_INDEX 127)) 10 10) = 1 ∧
    base.tagState (bitsOf (base.reg (R.EGR_TT_INDEX 127)) 10 10) ≠ 1 := by decide

/-- Frame 0, of 512 bytes, goes out from queue 384 as a preemptable frame of which 64 bytes have gone. -/
def cuts : State :=
  let s := (sends { heldFrame with bytes := List.replicate 512 0x31 }).setFld (F.PRT_MERGE_STATUS_VERIFY_STATE 3) 2
  s.setEgr 3 { EgrPort.init with wire := some { tx 384 true with sent := 64 }, picked := some (tx 511 false) }

theorem witness_preempt : (cuts.egrPort 3).wire = some { tx 384 true with sent := 64 } ∧
    (cuts.egrPort 3).picked = some (tx 511 false) ∧ cuts.isPre 3 { tx 384 true with sent := 64 } = true ∧
    cuts.isPre 3 (tx 511 false) = false ∧ cuts.canCut 3 { tx 384 true with sent := 64 } = true := by decide +kernel

/-! ### Witnesses: formes, time and the command unit -/

/-- The base state with tag `t` in state `x`. -/
def tagged (t x : Nat) : State := base.setTagState t x

/-- The base state with the source `n` fenced. -/
def fencedAt (n : Nat) : State := { base with flt := { base.flt with fenced := [n] } }

theorem inv_base : Inv base := witness_invariant.1

theorem witness_staging : base.boot.mode = .running ∧ base.keeperHalted = false ∧
    base.flag F.FRM_STATUS_VALID = false ∧ base.tagState 0 = 0 ∧ base.tagState 1 = 0 ∧ (tagged 0 1).tagState 0 ≠ 0 ∧
    (tagged 0 1).flag F.FRM_STATUS_VALID = false ∧ (fencedAt 0x601).keeperHalted = true ∧
    (fencedAt 0x601).boot.mode = .running ∧ base.stagedTag = none ∧ (tagged 1 1).stagedTag = some 1 ∧
    (tagged 0 1).stagedTag = some 0 ∧ (tagged 1 1).keeperHalted = false ∧ (tagged 1 1).fencedSrc 0x605 = false ∧
    base.ledger.sweep ≠ some 0 ∧ (base.modLedger fun x => { x with sweep := some 0 }).ledger.sweep = some 0 := by
  decide

/-- DDR that answers, with tag 0 staged. -/
def loads : State := ddrOn.setTagState 0 1

theorem witness_fload : loads.stagedTag = some 0 ∧ ((2 ^ 36 + 4096 : BitVec 40).toNat % 4096 = 0) ∧
    (2 ^ 36 + 1 : BitVec 40).toNat % 4096 ≠ 0 ∧ loads.boot.mode = .running ∧ loads.keeperHalted = false ∧
    loads.fencedSrc 0x605 = false ∧ loads.ddrMapped (2 ^ 36) 64 = true ∧
    (loads.ddrRead 5 (2 ^ 36) 64 []).1 = some (List.replicate 64 0) ∧ loads.ddrMapped 0 64 = false ∧ beAt (List.replicate 64 0) 8 4 ≤ slotRoom 0 ∧
    (match imageCheck loads.boot.otp 3 (slotRoom 0) 0 (List.replicate 64 0) with
      | .error _ => true
      | .ok _ => false) = true := by decide

theorem witness_lockUp : (tagged 1 1).stagedTag = some 1 ∧ (tagged 1 4).drainingTag = some 1 ∧
    (tagged 1 4).aliveFrames 1 = [] ∧
    ((tagged 1 4).setFrame 0 { frame with tag := 1 }).aliveFrames 1 ≠ [] ∧
    ((tagged 1 4).setFrame 0 { frame with tag := 1 }).drainingTag = some 1 ∧ (tagged 1 5).releasingTag = some 1 ∧
    (tagged 0 5).releasingTag = some 0 ∧ (tagged 0 5).activeTag = none ∧
    ((tagged 1 1).admission 1 ((tagged 1 1).verifyTag 1) false).fails = [] ∧
    (let s := (tagged 1 1).setFld (F.FRM_PARAM_CLS_ADM_CLASSES 1) 1
     s.stagedTag = some 1 ∧ (s.admission 1 (s.verifyTag 1) false).fails ≠ []) := by decide

theorem witness_timeBase : base.time.slew = none ∧ base.barOpen R.TIM_FREQ = true ∧ base.barOpen R.TIM_ADJ_CMD = true ∧
    base.barOpen R.TIM_SET_CMD = true ∧ base.fld F.CMD_ROLE_HOST_ROLE = 2 ∧ base.fld F.TIM_FREQ_FREQ = 0 ∧
    (-(8 * 2 ^ 30) : Int).natAbs = 8 * 2 ^ 30 := by decide

/-- PPS_OUT is high since the cycle 0, with its WIDTH of 10 µs, at cycle `n`. -/
def pulse (n : Nat) : State :=
  { with1 F.TIM_PPS_OUT_CFG_WIDTH 10 with time := { base.time with ppsOut := true, ppsAt := 0, cycles := n } }

theorem witness_ppsOut : base.atSecond = true ∧ base.time.ppsOut = false ∧
    ({ base with time := { base.time with now := 5 * tbSecond / 10 } } : State).atSecond = false ∧
    (pulse 6250).time.ppsOut = true ∧
    (pulse 6250).time.ppsAt + 625 * (pulse 6250).fld F.TIM_PPS_OUT_CFG_WIDTH ≤ (pulse 6250).time.cycles ∧
    (pulse 6249).time.cycles < (pulse 6249).time.ppsAt + 625 * (pulse 6249).fld F.TIM_PPS_OUT_CFG_WIDTH := by decide

theorem witness_pps : (with1 F.TIM_PPS_OUT_CFG_PPS_OUT_EN 1).flag F.TIM_PPS_OUT_CFG_PPS_OUT_EN = true ∧
    base.host.d3hot = false ∧ ({ base.host with d3hot := true } : HostUnit).d3hot = true ∧
    (({ base with time := { base.time with reports := [⟨3, 7, 0⟩] } } : State).time.reports = [⟨3, 7, 0⟩]) ∧
    base.flag F.TIM_PPS_OUT_CFG_PPS_OUT_EN = false ∧ base.flag F.TIM_PPS_IN_CFG_PPS_IN_EN = false ∧
    (let s := with1 F.TIM_PPS_IN_CFG_PPS_IN_EN 1
     s.flag F.TIM_PPS_IN_CFG_PPS_IN_EN = true ∧ s.flag F.TIM_PPS_IN_CFG_LOAD = false ∧
     s.flag F.TIM_PPS_IN_TS_VALID = false ∧ s.flag F.TIM_PPS_IN_TS_OVF = false ∧
     (s.setFlag F.TIM_PPS_IN_CFG_LOAD true).flag F.TIM_PPS_IN_CFG_LOAD = true ∧
     (s.setFlag F.TIM_PPS_IN_CFG_LOAD true).flag F.TIM_PPS_IN_CFG_PPS_IN_EN = true) ∧
    base.time.reports = [] := by decide

/-- A block of one NOP, without a CRC. -/
def nopBlock : List W64 := [w64 (2 ^ 56 + 3 * 2 ^ 30), 0, w64 (0x3E * 2 ^ 58)]

/-- The block `b` of the host, with the role `r`, waits. -/
def waits (r : Nat) : State := { base with cmd := { base.cmd with queue := [⟨0, nopBlock, r, 0, none, false⟩] } }

/-- Bus mastering on a link that is up. -/
def master (s : State) : State := { s with host := { s.host with linkUp := true, bme := true } }

def rings : State := master (((with1 F.CMD_RING_CFG_EN 1).setFld F.CMD_RING_PI_PI 1))

theorem witness_blocks : base.barOpen R.CMD_RING_PI = true ∧ base.ringSlots = 2 ∧
    (2 + 65536 - base.fld F.CMD_RING_CI_CI) % 65536 ≤ base.ringSlots ∧
    base.ringSlots < (3 + 65536 - base.fld F.CMD_RING_CI_CI) % 65536 ∧ rings.dmaBlocked = false ∧
    rings.flag F.CMD_RING_CFG_EN = true ∧ rings.fld F.CMD_RING_PI_PI ≠ rings.fld F.CMD_RING_CI_CI ∧
    rings.cmdFull = false ∧ blockBad 0 nopBlock = false ∧ blockBad 0 [0, 0] = true ∧
    (⟨0, nopBlock, 2, 0, none, false⟩ : CmdBlock).forbidden = false ∧
    (⟨0, [w64 (2 ^ 56 + 3 * 2 ^ 30), 0, w64 (0x3D * 2 ^ 58)], 0, 0, none, false⟩ : CmdBlock).forbidden = true ∧
    base.dmaBlocked = true ∧ State.reset.cmdFull = true := by decide

/-- The block of one NOP with its CRC-32C, as an I2C master writes it into the mailbox. -/
def mailWords : List W32 :=
  let words := nopBlock.set 0 (w64 (2 ^ 56 + 3 * 2 ^ 30 + 2 ^ 28))
  let words := words.set 1 (w64 (blockCrc words))
  let bytes := words.flatMap fun w => (toLE 8 w.toNat).reverse
  (List.range 6).map fun i => BitVec.ofNat 32 (leNat ((bytes.drop (4 * i)).take 4))

/-- That block in the mailbox of an I2C master of the role FULL. -/
def mailed : State := (with1 F.CMD_ROLE_I2C_ROLE 2).mailboxWrite mailWords

theorem witness_mailbox : base.held = false ∧ State.reset.held = true ∧ mailed.cmdFull = false ∧
    mailed.fld F.CMD_ROLE_I2C_ROLE = 2 ∧ blockBad 1 mailed.mailbox = false ∧
    ((blockInstrs mailed.mailbox).getD []).length = 1 ∧ roleMay 2 0x3E 0 = true ∧
    (State.reset.mailboxWrite mailWords).cmdFull = true := by decide +kernel

theorem witness_blockRun : base.cmd.queue = [] ∧ (waits 2).cmdOpen = true ∧ (waits 2).boot.mode = .running ∧
    blockInstrs nopBlock = some [(w64 (0x3E * 2 ^ 58), [])] ∧ ctrlOp (w64 (0x3E * 2 ^ 58)) = 0x3E ∧
    ctrlFunc (w64 (0x3E * 2 ^ 58)) = 0 ∧ (∃ b ∈ (waits 2).cmd.queue, b.source = 0) ∧
    bitOf ((base.setReg (R.CMD_RESULT 129 0) (resultHeader 0 0 1 2)).reg (R.CMD_RESULT 129 0)) 63 = true := by decide

theorem witness_tables : (base.drainLearn []).tagRefusal 0 ≠ none ∧ ((tagged 1 1).drainLearn []).tagRefusal 1 = none ∧
    (2 ^ 14 - 1 : BitVec 18).toNat < 2 ^ 14 ∧ entryBad 5 [w64 0xFFFFFFFF] = false ∧
    ((tagged 1 1).drainLearn []).bankOut 5 (2 ^ 14 + (2 ^ 14 - 1)) = false ∧ writeWords 5 false ≠ some ([] : List W64).length ∧
    (1 : BitVec 4).toNat < 6 ∧ (2 ^ 18 - 1 : BitVec 18).toNat < tblSize 0 ∧ tblOf 1 = 0 ∧ tblOf 5 ≠ 6 ∧
    ParityBad.has [(0, 2 ^ 18 - 1)] 0 (2 ^ 18 - 1 : BitVec 18).toNat = true ∧ deleteWords 5 = some ([] : List W64).length ∧
    writeWords 5 false = some [(0 : W64)].length ∧ tblSize 5 ≤ (2 ^ 15 : BitVec 18).toNat ∧ searchWords 3 = some [(0 : W64), 0, 0].length ∧
    searchWords 5 ≠ some ([] : List W64).length := by decide

theorem witness_units : ((2 ^ 20 : BitVec 40).toNat % 2 ^ 20 = 0) ∧ (1 : BitVec 40).toNat % 2 ^ 20 ≠ 0 ∧
    ddrOn.ddrMapped (2 ^ 36 : BitVec 40).toNat 1 = true ∧ (2 ^ 36 : BitVec 40).toNat % 2 ^ 20 = 0 ∧
    base.ddrMapped (2 ^ 20 : BitVec 40).toNat 1 = false ∧ (2 : BitVec 2) ≠ 3 ∧ 2 ≤ (129 : BitVec 8).toNat ∧ 129 < (130 : BitVec 8).toNat ∧
    base.arcState ≠ 3 ∧ base.arcState ≠ 4 ∧ (with1 F.ARC_STATUS_STATE 3).arcState = 3 ∧
    bitsOf (w64 (2 ^ 40 - 1)) 39 0 = 0xFFFFFFFFFF ∧
    ((with1 F.ARC_STATUS_STATE 3).arcPages true 1 0 0 []).isSome = true := by decide

/-! ### Witnesses: the host interface -/

theorem witness_windows : base.barOpen (R.HST_WIN 15) = true ∧ base.fld F.CMD_ROLE_HOST_ROLE = 2 ∧ 24 ≤ (24 : Fin 37).val ∧
    24 ≤ (36 : Fin 37).val := by decide

/-- The link up, and window 15 onto the address `a`, for reads and for writes as told. -/
def window (a rw : Nat) : State := (master base).setReg (R.HST_WIN 15) (w64 (2 ^ 63 + rw * 2 ^ 61 + a))

/-- The first offset of window 15 of a BAR2 of 1 GiB. -/
def win15 : BitVec 36 := 15 * 2 ^ 26

theorem witness_bar2 : (window 0 0).host.linkUp = true ∧ (window 0 0).host.d3hot = false ∧
    (window 0 0).flag F.HST_STATUS_FROZEN = false ∧ win15.toNat < 2 ^ (window 0 0).host.bar2Log ∧
    ((2 ^ 30 - 1 : BitVec 36).toNat < 2 ^ (window 0 0).host.bar2Log) ∧
    (2 ^ 30 - 1 : BitVec 36).toNat / (2 ^ 30 / 16) = 15 ∧
    (let e := (window 0x4000000 1).reg (R.HST_WIN 15)
     bitOf e 63 = true ∧ bitOf e 61 = true ∧ bitOf e 62 = false ∧ bitsOf e 39 12 * 4096 = 0x4000000) ∧
    base.target 0x4000000 8 = .unmapped ∧ base.target 0x80000000 8 = .galley ∧ base.target 0x200000000 8 = .ledger ∧
    base.target 0x25FFFFFFF 1 = .ledger ∧ base.target 0x260000000 1 = .unmapped ∧ ddrOn.target ddrBase 8 = .ddr ∧
    (window 0x80000000 2).host.bar2Log = 30 ∧ bitOf ((window 0x80000000 2).reg (R.HST_WIN 15)) 62 = true ∧
    ((window 0 0).setFlag F.HST_STATUS_FROZEN true).flag F.HST_STATUS_FROZEN = true := by decide

theorem witness_channels : base.barOpen (R.DMA_CH_CTRL 3) = true ∧ (master base).dmaBlocked = false ∧
    (master base).fld (F.DMA_CH_STATUS_STATE 3) = 0 ∧ base.dmaBlocked = true ∧
    (with1 (F.DMA_CH_STATUS_STATE 3) 1).fld (F.DMA_CH_STATUS_STATE 3) = 1 ∧
    (∀ k ∈ chanRings 3, (with1 (F.DMA_CH_STATUS_STATE 3) 1).injecting k = none) := by decide

/-- Ring 63 in state `x`, on a running channel with its bus master, of kind `kind`. -/
def ring (x kind : Nat) (s : State) : State :=
  ((((master s).setFld (F.DMA_CH_STATUS_STATE 3) 1).setFld (F.DMA_RING_CFG_KIND 63) kind).setRingState 63 x)

/-- The same ring injects frame 0, which has its cells or not, and was refused one or not. -/
def injecting (x : Nat) (cells : List Nat) (refused : Bool) : State :=
  ((ring x 1 base).setFrame 0 { frame with complete := true, cells := cells }).setInjecting 63 (some (.frame 0 60 refused))

theorem witness_stopping : (injecting 1 [] false).fld (F.DMA_CH_STATUS_STATE 3) = 1 ∧
    (injecting 1 [] false).injecting 63 = some (.frame 0 60 false) ∧ 63 ∈ chanRings 3 ∧
    (∀ k ∈ chanRings 3, k ≠ 63 → (injecting 1 [] false).injecting k = none) ∧
    (injecting 1 [9] false).dmaBlocked = false ∧ ((injecting 1 [9] false).frame 0).isSome = true ∧
    ((injecting 1 [9] false).injectNeeds 63).1 = false ∧ ((injecting 1 [9] false).injectNeeds 63).2 = false ∧
    (injecting 1 [] false).ringState 63 = 1 ∧ (injecting 3 [] false).ringState 63 = 3 := by decide

theorem witness_stoppingInv : Inv (injecting 1 [] false) ∧ Inv (injecting 3 [] false) ∧
    Inv (with1 (F.DMA_CH_STATUS_STATE 3) 1) :=
  ⟨by constructor <;> decide, by constructor <;> decide, by constructor <;> decide⟩

def reread (x : Nat) : State :=
  let s := ring x 0 base
  { s with host := { s.host with reread := [63] } }

theorem witness_rings : base.barOpen (R.DMA_RING_CFG 63) = true ∧ base.ringState 63 = 0 ∧ (ring 1 0 base).ringState 63 = 1 ∧
    (ring 2 0 base).ringState 63 = 2 ∧ (ring 2 0 base).injecting 63 = none ∧ base.barOpen (R.DMA_RING_DB 63) = true ∧
    (ring 2 0 base).host.reread.contains 63 = false ∧ (reread 2).host.reread.contains 63 = true ∧
    (reread 2).dmaBlocked = false ∧ (reread 2).ringState 63 = 2 ∧ bitOf (0x20 : W64) 0 = false ∧ bitOf (1 : W64) 0 = true :=
  by decide

theorem witness_disable : Inv (ring 2 0 base) ∧ (ring 2 0 base).ringState 63 ≠ 3 ∧
    (ring 2 0 base).barOpen (R.DMA_RING_CFG 63) = true :=
  ⟨by constructor <;> decide, by decide⟩

/-- A descriptor at 0x1000 with the request word `r`. -/
def desc (r : W64) : Desc := { buf := 0x1000, word1 := 0x20, request := r }

/-- A request to inject `len` bytes into queue 0 of port 3. -/
def injectReq (len : Nat) : W64 := w64 (3 * 2 ^ 16 + len)

/-- Ring 63 takes descriptors of kind 1, with port 3 in mode 1. -/
def injects : State := ring 1 1 (with1 (F.PRT_MODE_MODE 3) 1)

theorem witness_inject : injects.ringReady 63 1 0x20 = true ∧ descBad 1 (injectReq 60) = false ∧
    descBad 1 (w64 (2 ^ 63)) = true ∧ injects.fld (F.PRT_MODE_MODE 3) ≠ 0 ∧
    injects.flag (F.PRT_STATUS_FUSED_SUB 3) = false ∧ injects.activeTag = none ∧
    (ring 1 1 base).fld (F.PRT_MODE_MODE 3) = 0 ∧ 60 ≤ bitsOf (injectReq 60) 15 0 ∧ bitsOf (injectReq 59) 15 0 < 60 ∧
    bitsOf (injectReq 9724) 15 0 ≤ 9724 ∧ 9724 < bitsOf (injectReq 9725) 15 0 := by decide

/-- The forme of tag 0 is in force and admits class 7. -/
def admits : State :=
  ((injects.setFlag F.FRM_STATUS_VALID true).setFld F.FRM_STATUS_ACTIVE_TAG 0).setFld (F.FRM_PARAM_CLS_ADM_CLASSES 0) 0x80

theorem witness_injectAdmitted : admits.activeTag = some 0 ∧ admits.admClass 0 (bitsOf (w64 (112 * 2 ^ 23 + 60)) 29 23 / 16) = true ∧
    admits.ringReady 63 1 0x20 = true := by decide

/-- Ring 63 delivers punted frames: frame 0 waits. -/
def punts : State := (ring 1 0 (base.setFrame 0 frame)).setPuntQueue 63 [⟨0, 1⟩]

/-- Ring 63 delivers a stream of the bytes `bs`. -/
def streamed (bs : List Byte) : State := (ring 1 2 base).setStreams 63 [bs]

theorem witness_deliver : punts.puntQueue 63 = [⟨0, 1⟩] ∧ punts.ringReady 63 0 0x20 = true ∧ descBad 0 96 = false ∧
    descBad 0 95 = true ∧ punts.frame 0 = some frame ∧ base.puntQueue 63 = [] ∧ base.streams 63 = [] ∧
    (streamed [1, 2]).streams 63 = [[1, 2]] ∧ (streamed [1, 2]).ringReady 63 2 0x20 = true ∧ descBad 2 2 = false ∧
    descBad 2 (w64 (2 ^ 16)) = true ∧ 0 < bitsOf (2 : W64) 15 0 ∧ [(1 : Byte), 2].length ≤ bitsOf (2 : W64) 15 0 ∧
    bitsOf (1 : W64) 15 0 < [(1 : Byte), 2].length := by decide

theorem witness_copy :
    let s := ring 1 3 ddrOn
    let r := w64 (ddrBase * 2 ^ 16 + 64)
    s.ringReady 63 3 0x20 = true ∧ descBad 3 r = false ∧ descBad 3 (w64 (2 ^ 57)) = true ∧
    s.ddrMapped (bitsOf r 55 16) 64 = true ∧ s.ddrMapped 0 65536 = false ∧ bitOf r 56 = false ∧
    bitOf (r ||| w64 (2 ^ 56)) 56 = true ∧ (s.ddrReadTo 4 ddrBase 64 []).1 = 0 :: List.replicate 63 0 ∧
    (s.ddrReadTo 4 ddrBase 64 []).2.1 = true ∧ (s.ddrReadTo 4 ddrBase 64 [(0, .uncorrectable)]).1 = [] ∧
    (s.ddrReadTo 4 ddrBase 64 [(0, .uncorrectable)]).2.1 = false ∧
    (s.ddrReadTo 4 ddrBase 128 [(1, .uncorrectable)]).1 = 0 :: List.replicate 63 0 := by decide +kernel

theorem witness_linkUp : base.boot.perstLow = false ∧ base.held = false ∧ State.reset.boot.perstLow = true := by decide

theorem witness_freeze : freezing 4 = true ∧ freezing 31 = false ∧ base.flag F.HST_STATUS_FROZEN = false ∧
    base.barOpen R.HST_FREEZE = true ∧
    (with1 F.HST_STATUS_FROZEN 1).flag F.HST_STATUS_FROZEN = true ∧ (with1 F.HST_STATUS_FROZEN 1).freezeHeld = false ∧
    (let left := fun (u v : W32) => ({ base.host.aer with uncorrectable := u } : AerState).uncorrectable &&& ~~~ v
     (∀ b < 32, freezing b = true → bitOf (left 0x8010 0x10) b = false) ∧
     ∃ b < 32, freezing b = true ∧ bitOf (left 0x8010 0x8000) b = true) ∧ base.barOpen (R.MSIX_CTRL 63) = true ∧
    base.host.holdRun.contains 63 = false := by decide

theorem witness_hold :
    let h : HostUnit := { base.host with holdRun := [63], holdPend := [63] }
    ({ base with host := h } : State).host.holdRun.contains 63 = true ∧ h.holdPend.contains 63 = true ∧
    ({ h with holdPend := [] } : HostUnit).holdPend.contains 63 = false := by
  decide

theorem witness_dram : ddrOn.ddrMapped ddrBase 4096 = true ∧ base.ddrMapped ddrBase 64 = false ∧
    (∀ b ∈ burstsOf 63 2, b ∉ ddrOn.ddr.bad) ∧ ddrOn.ddrReady = true ∧ base.ddrReady = false ∧
    tget (fun _ => 0) ddrOn.ddr.rankMode 3 = 0 ∧ ddrOn.ddr.change = none ∧
    ({ ddrOn.ddr with change := some ((1 : Fin 2).val, 5) } : DdrUnit).change = some ((1 : Fin 2).val, 5) := by decide

theorem witness_changeInv : Inv { ddrOn with ddr := { ddrOn.ddr with change := some ((1 : Fin 2).val, 5) } } := by
  constructor <;> decide

theorem witness_dramInv : Inv ddrOn := by constructor <;> decide

/-- Two valid sets of timings, both trained, set 0 in use. -/
def twoSets : State :=
  let s := (((with1 F.DDR_STATUS_READY 1).setFlag (F.DDR_TSET_VALID 0) true).setFlag (F.DDR_TSET_VALID 1) true).setFlag
    F.DDR_CFG_PRESENT true
  { s with ddr := { s.ddr with trained := 3 } }

theorem witness_frequency : Inv twoSets ∧ twoSets.barOpen R.DDR_FREQ_CTRL = true ∧ twoSets.fld F.CMD_ROLE_HOST_ROLE = 2 ∧
    twoSets.ddrReady = true ∧ twoSets.ddr.change = none ∧ twoSets.fld F.DDR_STATUS_SET_ACTIVE ≠ (1 : Fin 2).val ∧
    twoSets.flag (F.DDR_TSET_VALID 1) = true ∧ bitOf twoSets.ddr.trained 1 = true ∧ bitOf ddrOn.ddr.trained 1 = false :=
  ⟨by constructor <;> decide, by decide⟩

theorem witness_upkeep :
    let lag : State := { ddrOn with ddr := { ddrOn.ddr with lag := [(13, 1)] } }
    let top := ddrOn.ddrCapacity / 64 - 1
    let at_ := fun n => ({ ddrOn with ddr := { ddrOn.ddr with scrubAt := n } } : State).setFlag F.DDR_SCRUB_CFG_SCRUB_EN true
    (∀ j : Fin 4, tget (fun _ => 0) lag.ddr.lag (4 * 3 + j.val) = if j = 1 then 1 else 0) ∧ lag.ddrReady = true ∧
    (at_ 0).ddrReady = true ∧ (at_ 0).flag F.DDR_SCRUB_CFG_SCRUB_EN = true ∧
    (at_ 0).ddr.bad.contains (at_ 0).ddr.scrubAt = false ∧ 64 * ((at_ 0).ddr.scrubAt + 1) < (at_ 0).ddrCapacity ∧
    64 * (at_ (top - 1)).ddr.scrubAt + 64 < (at_ (top - 1)).ddrCapacity ∧
    (at_ top).ddrCapacity ≤ 64 * ((at_ top).ddr.scrubAt + 1) ∧ (ddrOn.setFlag F.DDR_SCRUB_CFG_SCRUB_EN false).flag F.DDR_SCRUB_CFG_SCRUB_EN = false := by decide

/-! ### Witnesses: the Archive, power, faults, starts and security -/

/-- Frame 0 waits to be captured by selector 5. -/
def captures (f : Frame) : State :=
  let s := base.setFrame 0 f
  { s with arc := { s.arc with queue := [⟨0, 5⟩] } }

def doneFrame : Frame := { frame with complete := true }

theorem witness_capture : base.arc.queue = [] ∧ (captures frame).arc.queue = [⟨0, 5⟩] ∧
    (captures frame).frame 0 = some frame ∧ frame.complete = false ∧ frame.bad = false ∧ doneFrame.complete = true ∧
    ((captures doneFrame).capCharge 5 (48 + 64)).1 = true ∧ (captures doneFrame).arc.recCell = none ∧
    (({ captures doneFrame with arc := { (captures doneFrame).arc with recCell := some 9 } } : State).capCharge 5
      112).2.arc.recCell = some 9 ∧
    (((captures doneFrame).setReg (R.ARC_SEL 5 1) (w64 (2 ^ 48))).capCharge 5 112).1 = false ∧
    ((({ captures doneFrame with gal := { base.gal with free := 0 } } : State).capCharge 5 112).2.request 0x10 false false
      []).1 = .none ∧
    (match (((captures doneFrame).capCharge 5 112).2.request 0x10 false false []).1 with
      | .cell _ => true
      | _ => false) = true := by decide

/-- A TRIG_IN pin that is enabled, with its last trigger at cycle 0, at cycle `n`. -/
def pinned (n : Nat) : State :=
  let s := with1 F.ARC_TRIG_CFG2_PIN_EN 1
  { s with arc := { s.arc with pinAt := some 0 }, time := { s.time with cycles := n } }

theorem witness_trigIn : base.flag F.ARC_TRIG_CFG2_PIN_EN = false ∧
    (with1 F.ARC_TRIG_CFG2_PIN_EN 1).flag F.ARC_TRIG_CFG2_PIN_EN = true ∧
    (with1 F.ARC_TRIG_CFG2_PIN_EN 1).arc.pinAt = none ∧ (with1 F.ARC_TRIG_CFG2_PIN_EN 1).arcOff = true ∧
    0 + 625000 ≤ (pinned 625000).time.cycles ∧ (pinned 625000).arc.pinAt = some 0 ∧
    (pinned 624999).time.cycles < 0 + 625000 ∧ (pinned 624999).arc.pinAt = some 0 := by decide

/-- The Archive in state `x`, with its memory on. -/
def archive (x : Nat) : State := (ddrOn.setFld F.ARC_STATUS_STATE x)

/-- The Archive in state `x`, with one die of two planes behind its one chip enable. -/
def archiveDie (x : Nat) : State :=
  (((archive x).setFld F.ARC_GEOM1_CES 1).setFld F.ARC_GEOM1_DIES_CE 1).setFld F.ARC_GEOM1_PLANES 2

/-- A parameter page that agrees with its ARC_GEOM. -/
def die : DieParams := ⟨16384, 2048, base.fld F.ARC_GEOM0_PAGES, base.fld F.ARC_GEOM0_BLOCKS, 2, true⟩

theorem witness_archive : Inv (archive 0) ∧ (archive 0).barOpen R.ARC_CTRL = true ∧ (archive 0).arcState = 0 ∧
    (archive 0).ddrReady = true ∧ (archive 0).arc.deadDies = [] ∧
    (archive 1).arc.deadDies = [] :=
  ⟨by constructor <;> decide, by decide⟩

theorem witness_archiveStates : (archive 1).arcState = 1 ∧ (archive 2).arcState = 2 ∧ (archive 2).arc.events = [] ∧
    (archive 2).arc.held = none ∧
    ({ (archive 2).arc with resume := true } : ArcUnit).resume = true ∧ (archive 2).arcState ≠ 0 ∧ (archive 0).arcState ≠ 1 ∧ (archive 0).arcState ≠ 2 ∧
    base.arcState = 0 ∧ base.ddrReady = false ∧ base.arc.sinceCheckpoint = 0 ∧
    ({ base.arc with sinceCheckpoint := 1 } : ArcUnit).sinceCheckpoint ≠ 0 := by decide

theorem witness_dies : (archiveDie 0).arcState = 0 ∧ (archiveDie 0).ddrReady = true ∧
    (archiveDie 0).arc.deadDies = [] ∧ (archiveDie 1).arcState = 1 ∧ (archiveDie 0).barOpen R.ARC_CTRL = true ∧
    (∃ d < (archiveDie 0).dieRoom, bitOf ((archiveDie 0).agreeing [(0, die)]) d = true) ∧
    (∃ d < (archiveDie 1).dieRoom, bitOf ((archiveDie 1).agreeing [(0, die)]) d = true) := by decide

theorem witness_diesInv : Inv (archiveDie 0) ∧ Inv (archiveDie 1) :=
  ⟨by constructor <;> decide, by constructor <;> decide⟩

theorem witness_recovery : Inv { archive 2 with arc := { (archive 2).arc with resume := true } } := by
  constructor <;> decide

theorem witness_archiveInv : Inv (archive 2) ∧ Inv (archive 1) := ⟨by constructor <;> decide, by constructor <;> decide⟩

/-- Event 7, open since the time 0, stopped at `stop`. -/
def event (stop : Option Nat) : ArcEvent :=
  { num := 7, isOpen := true, keep := false, truncated := false, preShort := false, lostTail := false, missing := false
    overrun := false, ncause := 1, causes := [0], t := 0, tLast := 0, tEnd := 0, preMs := 0, npages := 0, records := 0
    gaps := 0, next := 0, stop := stop, buf := [], marks := [] }

def opened (stop : Option Nat) : State :=
  let s := archive 4
  { s with arc := { s.arc with events := [event stop] } }

theorem witness_events' : base.arc.openEvent = none ∧ (opened none).arc.openEvent = some (event none) ∧
    (event none).stop = none ∧ (opened (some 0)).arc.openEvent = some (event (some 0)) ∧ (opened (some 0)).arcState = 4 ∧
    ((event (some 0)).skipTo (opened (some 0)).arc).atEnd = true ∧
    ((event (some 0)).skipTo (opened (some 0)).arc).buf = [] ∧ ((event none).skipTo (opened none).arc).atEnd = false ∧
    (∀ r ∈ (opened none).arc.ring, r.at_ ≤ (event none).tEnd) ∧
    (opened none).barOpen R.ARC_KEEP_CTRL = true ∧ (∀ e ∈ (opened none).arc.events, e.num ≠ 8) ∧
    (∃ e ∈ ((opened none).setReg R.ARC_KEEP 7).arc.events,
      e.num = bitsOf (((opened none).setReg R.ARC_KEEP 7).reg R.ARC_KEEP) 31 0) := by decide

def page : NandPage :=
  { pseq := 3, kind := 1, last := false, firstRec := 0, event := 7, epage := 0, orig := 3, rseq := 0, data := []
    block := 6, after := 0, records := 0, gaps := 0 }

theorem witness_blocksOfNand : (base.nandBlock 6).dirty = false ∧ base.arcOff = true ∧
    (({ base with arc := { base.arc with blocks := [(6, ⟨0, 0, false, true⟩)] } } : State).nandBlock 6).dirty = true ∧
    (archive 3).arcOff = false ∧ [page].find? (fun p => decide (0 ≤ p.pseq)) = some page ∧
    NandRead.clean.outcome 0 = .hard 0 ∧ 0 ≤ base.fld F.ARC_PATROL_CFG_REFRESH_BITS ∧
    (let w : CodewordRead := ⟨some 1000, none, true⟩
     NandRead.outcome ⟨w, w, w, w⟩ 0 = .hard 1000 ∧ base.fld F.ARC_PATROL_CFG_REFRESH_BITS < 1000) ∧
    NandRead.outcome { NandRead.clean with w3 := ⟨none, some 2, false⟩ } 2 = .retry ∧
    NandRead.outcome { NandRead.clean with w3 := ⟨none, some 3, true⟩ } 2 = .soft ∧
    NandRead.outcome { NandRead.clean with w3 := ⟨none, some 3, false⟩ } 2 = .uncorrectable := by decide

/-- The forme of tag 0 is in force and case 15 may sleep. -/
def sleeps (x : Nat) : State :=
  (((with1 F.FRM_STATUS_VALID 1).setFlag (F.FRM_CASE_CFG_SLEEP 0 15) true).setFld (F.PWR_CASE_STATE 15) x)

theorem witness_sleep : (sleeps 0).effSleep 15 = true ∧ (sleeps 0).caseFenced 15 = false ∧ (sleeps 0).caseBusy 15 = false ∧
    (sleeps 0).fld (F.PWR_CASE_STATE 15) = 0 ∧ (sleeps 1).fld (F.PWR_CASE_STATE 15) = 1 ∧ (sleeps 1).effSleep 15 = true ∧
    base.effSleep 15 = false ∧ (fencedAt 0x54F).caseFenced 15 = true := by decide

theorem witness_rails : (base.caseOf 15).raise = none ∧
    ((base.setCase 15 { CaseState.init with raise := some (2, 0) }).caseOf 15).raise = some (2, 0) ∧
    (with1 F.PWR_AVS_CFG_AVS_EN 0).flag F.PWR_AVS_CFG_AVS_EN = false ∧
    (with1 F.PWR_AVS_CFG_AVS_EN 1).flag F.PWR_AVS_CFG_AVS_EN = true ∧ bitOf base.pwr.avsShort 7 = false ∧
    -25 ≤ signed 8 (base.fld (F.PWR_REGION_TRIM 7)) ∧ signed 8 (base.fld (F.PWR_REGION_TRIM 7)) < 25 ∧
    25 ≤ signed 8 ((with1 (F.PWR_REGION_TRIM 7) 25).fld (F.PWR_REGION_TRIM 7)) ∧ base.caseHot 15 = false ∧
    ({ base with pwr := { base.pwr with throttleOn := 0x8000 } } : State).caseHot 15 = true ∧
    ((with1 (F.PWR_CASE_POINT 15) 2).casePoint 15 = 2) ∧ base.lowerLimit 15 < 2 := by decide

theorem witness_avs : Inv (with1 F.PWR_AVS_CFG_AVS_EN 1) := by constructor <;> decide

/-- The governor at step `n`, with the cap binding or not. -/
def governor (n : Nat) (b : Bool) : State := { base with pwr := { base.pwr with step := n, capBinds := b } }

theorem witness_governor : base.barOpen R.PWR_CAP = true ∧ base.inForce = [] ∧
    (sleeps 0).inForce = [0] ∧ 100 * min (bitsOf (0 : W32) 15 0) (sleeps 0).maxPower < (sleeps 0).guaranteedMw [0] ∧
    (sleeps 0).guaranteedMw [0] ≤ 100 * min (bitsOf (0xFFFF : W32) 15 0) (sleeps 0).maxPower ∧
    (governor 0 false).pwr.capBinds = false ∧ (governor 0 false).pwr.shedOn = 0 ∧ (governor 1 false).pwr.step = 1 ∧
    3 ≤ (governor 3 false).pwr.step ∧ (governor 0 true).pwr.capBinds = true ∧ (governor 12 true).pwr.step = 9 + 3 ∧
    13 ≤ (governor 13 true).pwr.step := by decide

/-- Two sets of timings, of which the other one is slower, under a cap that may lower the rate. -/
def lowers : State :=
  ((twoSets.setFlag F.PWR_CAP_CFG_DDR_LOW_EN true).setFlag F.PWR_STATUS_CAP_ACTIVE true).setFld (F.DDR_TSET_RATE 1) 0

theorem witness_ddrLow : (with1 F.PWR_CAP_CFG_DDR_LOW_EN 0).flag F.PWR_CAP_CFG_DDR_LOW_EN = false ∧ lowers.fld F.DDR_STATUS_SET_ACTIVE = 0 ∧
    lowers.flag F.PWR_CAP_CFG_DDR_LOW_EN = true ∧ lowers.flag (F.DDR_TSET_VALID (1 - 0)) = true ∧
    bitOf lowers.ddr.trained (1 - 0) = true ∧ lowers.flag F.PWR_STATUS_CAP_ACTIVE = true ∧
    lowers.fld (F.DDR_TSET_RATE (1 - 0)) < lowers.fld (F.DDR_TSET_RATE 0) ∧
    bitOf base.pwr.failed 23 = false ∧ 125 ≤ (125 : BitVec 8).toInt ∧
    125 ≤ tget (fun _ => 0) ({ base.pwr with temp := [(23, 125)] } : PowerUnit).temp (23 : Fin 24).val := by decide

theorem witness_faultReports : pairReports 0x7F 0x10 = true ∧ pairReports 0x80 0x10 = false ∧
    sourceValid 0x611 = true ∧ sourceValid 0x612 = false ∧ sourceValid 0x53A = false ∧ codedReports 0x51F 0x20 = true ∧
    codedReports 0x520 0x20 = false := by decide

/-- A fence of source 3 runs, and the recheck. -/
def fencing : State := { base with flt := { base.flt with fencing := [(3, 2)], recheck := true } }

theorem witness_fencing : base.flt.fencing.find? (fun x => x.1 == 3) = none ∧
    fencing.flt.fencing.find? (fun x => x.1 == 3) = some (3, 2) ∧ base.flt.recheck = false ∧ fencing.flt.recheck = true ∧
    fencing.activeTag = none ∧
    (({ sleeps 0 with flt := { (sleeps 0).flt with recheck := true } } : State).activeTag = some 0) := by decide

/-- Record 255 of the fault log, with its bits `b` from 61 up. -/
def logged (b : Nat) : State := base.setReg (R.FLT_LOG 255 0) (w64 (b * 2 ^ 61 + 3 * 2 ^ 40))

theorem witness_records : base.barOpen R.FLT_ACK = true ∧ base.barOpen R.FLT_CLEAR = true ∧
    base.barOpen R.FLT_UNFENCE = true ∧ base.barOpen R.FLT_INJECT = true ∧ bitOf ((logged 4).logWord0 255) 63 = true ∧
    bitOf ((logged 4).logWord0 255) 62 = false ∧ bitOf ((logged 6).logWord0 255) 62 = true ∧
    bitOf ((logged 6).logWord0 255) 63 = true := by decide

theorem witness_recordsInv : Inv (logged 6) := by constructor <;> decide

theorem witness_unfence : (fencedAt 3).fencedSrc 3 = true ∧ liftable 3 = true ∧ liftable 0x500 = false ∧
    (fencedAt 3).flt.unfencing = none ∧ (fencedAt 3).unclearedOf (3 :: membersOf 3) = false ∧
    (fencedAt 3).regionFenced 0 = false ∧ regionOf 3 = some 0 ∧ base.fencedSrc 3 = false ∧ base.flt.unfencing = none ∧
    ({ base.flt with unfencing := some 3 } : FaultUnit).unfencing = some 3 ∧ (4 : BitVec 3).toNat ≤ 4 ∧
    5 ≤ (5 : BitVec 3).toNat := by decide

/-- The facts of a start that goes well. -/
def facts : StartFacts := base.cleanFacts

theorem witness_starts : base.boot.resetLow = false ∧ base.boot.railFault = false ∧ State.reset.boot.resetLow = true ∧
    State.reset.boot.railFault = false ∧
    ({ base.boot with railFault := true } : BootUnit).railFault = true ∧ base.barOpen R.BOOT_RESTART = true ∧
    (0x5244 : BitVec 16).toNat ≠ 0x5245 ∧ base.boot.starting = false ∧ base.flag F.BOOT_STATUS_FORCE_COLD = false ∧
    base.fld F.BOOT_STATUS_WARM_FAILS ≠ 2 ∧ (with1 F.BOOT_STATUS_WARM_FAILS 2).fld F.BOOT_STATUS_WARM_FAILS = 2 ∧
    facts.startUs ≤ 200000 ∧ base.boot.facts = none := by decide

theorem witness_restart : (base.warmBegin.warmStages facts).1 = none := by decide +kernel

theorem witness_startWatchdog :
    let s : State := { base with boot := { base.boot with mode := .cold, starting := true, facts := some facts } }
    s.boot.facts = some facts ∧ s.boot.starting = true ∧ s.boot.mode = .cold ∧ s.fld F.BOOT_STATUS_COLD_FAILS ≤ 1 ∧
    (with1 F.BOOT_STATUS_COLD_FAILS 1).fld F.BOOT_STATUS_COLD_FAILS ≤ 1 := by decide

/-- A flash operation runs. -/
def flashing (op len a : Nat) : State := { base with boot := { base.boot with qspiOp := some (op, len, a) } }

theorem witness_flash : base.barOpen R.BOOT_QSPI_CTRL = true ∧ base.boot.qspiOp = none ∧
    base.fld F.BOOT_QSPI_ADDR_ADDR = 0 ∧ 0 < (256 : BitVec 9).toNat ∧ (256 : BitVec 9).toNat ≤ 256 ∧
    0 % 256 + (256 : BitVec 9).toNat ≤ 256 ∧ (257 : BitVec 9).toNat ≠ 0 ∧ 256 < (257 : BitVec 9).toNat ∧
    256 < (with1 F.BOOT_QSPI_ADDR_ADDR 1).fld F.BOOT_QSPI_ADDR_ADDR % 256 + (256 : BitVec 9).toNat ∧
    (with1 F.BOOT_QSPI_ADDR_ADDR 1).fld F.BOOT_QSPI_ADDR_ADDR % 65536 ≠ 0 ∧ 0 % 65536 = 0 ∧
    (flashing 2 0 0).boot.qspiOp = some (2, 0, 0) := by decide

theorem witness_flashSize : 0 + 65536 ≤ qspiSize := Nat.le_trans (by decide) (Nat.le_add_right (2 ^ 24) _)

theorem witness_erase : Inv (flashing 2 0 0) := by constructor <;> decide

/-- Slots 0 and 1 are programmed, slots 2 and 3 are not. -/
def keyed (op : Option (Nat × Nat)) : State :=
  { base with boot := { base.boot with
      keyOp := op, otp := { base.boot.otp with keys := [⟨true, false, 1⟩, ⟨true, false, 2⟩, ⟨false, false, 0⟩, ⟨false, false, 0⟩] } } }

theorem witness_keys : base.barOpen R.SEC_KEY_CTRL = true ∧ (keyed none).boot.keyOp = none ∧
    (0xA5C2 : BitVec 16).toNat ≠ 0xA5C3 ∧ ((keyed none).keySlot 0).programmed = true ∧
    ((keyed none).keySlot 3).programmed = false ∧ (keyed none).boot.run = none ∧ (1 : Fin 4) ≠ 0 ∧
    ((keyed none).keySlot 1).programmed = true ∧ ((keyed none).keySlot 1).revoked = false ∧
    (keyed (some (1, 3))).boot.keyOp = some (1, 3) ∧ (keyed (some (2, 0))).boot.keyOp = some (2, 0) := by decide

theorem witness_keysInv : Inv (keyed (some (1, 3))) ∧ Inv (keyed (some (2, 0))) :=
  ⟨by constructor <;> decide, by constructor <;> decide⟩

theorem witness_attestation : base.barOpen R.SEC_ATTEST_CTRL = true ∧ base.boot.attest = none ∧ base.fencedSrc 0x605 = false ∧
    ({ base.boot with attest := some [1] } : BootUnit).attest = some [1] ∧ base.activeTag = none ∧
    (sleeps 0).activeTag = some 0 ∧ ({ base.boot with formeHashBusy := true } : BootUnit).formeHashBusy = true := by decide

/-! ### Witnesses: commands that complete -/

theorem runs_ports : Runs (.frameStart 3) (up3.setFlag (F.PRT_MAC_CFG_RX_EN 3) true) ∧
    Runs (.frameEnd 3 1 0 false) (rx3 { frame with bytes := frame.bytes ++ fcsOf frame.bytes }) ∧
    Runs (.frameBytesArrive 3 [1]) (rx3 frame) ∧ Runs (.pcsLockLoss 3 false false false) base ∧
    Runs (.pcsLockGain 3) (with1 (F.PRT_STATUS_ACTIVE_MODE 3) 1) ∧
    Runs (.linkUp 3) ((with1 (F.PRT_STATUS_PCS_LOCK 3) 1).setPort 3 { PortState.init with upDeb := true }) ∧
    Runs (.prtModeWrite 3 1) base ∧ Runs (.dispatch 3) offer3 := by
  simp only [Runs]
  exact ⟨by decide, ⟨trivial, 0, _, rfl, rfl, by decide⟩, by decide, by decide, by decide, by decide,
    ⟨⟨by decide, by decide⟩, by decide⟩, 0, _, 0, rfl, by decide⟩

theorem runs_pdelay : Runs (.pdelayResponse 3) { (sends heldFrame).setPort 3 { PortState.init with
    pdelayReq := some (List.replicate 68 1, 5) } with nextFrame := 1 } := by
  simp only [Runs]
  exact ⟨_, _, 1, rfl, by decide +kernel⟩

theorem runs_galley : Runs (.cellRequest [(.capture, false)]) (base.modArc fun a => { a with queue := [⟨0, 0⟩] }) ∧
    Runs (.cellFree 0x0B false 5) base ∧ Runs (.cellFree 0x0B true 0x80000500) base ∧
    Runs (.galleyCommit 3 false) (commit3 ended) ∧ Runs (.dmaPoolRetry 511) (inject511 frame) := by
  simp only [Runs]
  exact ⟨⟨.capture, false, rfl, by decide⟩, by decide, by decide, ⟨(0, ended), by decide⟩, by decide⟩

theorem runs_binis : Runs (.alu fetch 0 1 2 3) (runs frame CompState.init) ∧
    Runs (.ext fetch 1 0 false 0 0 15 false) (runs frame CompState.init) ∧ Runs (.end_ fetch) (runs frame CompState.init) ∧
    Runs (.lkiWatch fetch 7 0 255) (dirSet false) ∧
    Runs (.lkw fetch 1 7 false 0) (runs frame { CompState.init with slots := [(7, .ready 0 1 2)] }) ∧
    Runs (.berx fetch 1 false 0x30 0 false) (runs (bytesFrame [0x30, 0x81, 5, 0]) CompState.init) ∧
    Runs (.asdu fetch 1 0 0 0) (runs (bytesFrame [0x30, 3, 0x80, 1, 9]) CompState.init) ∧
    Runs (.meter fetch 0 1 2 none) (runs frame CompState.init) ∧ Runs (.dlvFwd fetch false 0 1) (runs frame CompState.init) ∧
    Runs (.sideMirror fetch 15) ((runs frame CompState.init).setFlag (F.FRM_MIRROR_VALID 0 15) true) ∧
    Runs (.editTtlDec fetch 22) (runs frame CompState.init) ∧
    Runs (.lookupComplete 24 7 false) (runs frame { CompState.init with slots := [(7, .waiting (.ipv4 5))] }) := by
  have hi : ∀ f cs, Issues (runs f cs) fetch { cs with frame := some 0 } f → ∀ p : CompState → Frame → Prop,
      p { cs with frame := some 0 } f → (runs f cs).issuing fetch p := fun f cs h p hp => ⟨_, _, h, hp⟩
  simp only [Runs, State.mayWbop, State.mayEdit]
  refine ⟨hi _ _ witness_issues _ trivial, hi _ _ witness_issues _ (.inr ⟨_, rfl⟩), hi _ _ witness_issues _ (by decide),
    ⟨{ CompState.init with frame := some 0 }, frame, (by constructor <;> decide), by decide⟩, hi _ _ (by constructor <;> decide) _ ⟨0, 1, 2, rfl⟩,
    hi _ _ (by constructor <;> decide) _ ⟨_, _, rfl, by decide, .inr rfl, 1, by decide, rfl, rfl⟩,
    hi _ _ (by constructor <;> decide) _ ⟨4, 1, 4, rfl, rfl⟩, ⟨hi _ _ witness_issues _ (by decide), trivial⟩,
    hi _ _ witness_issues _ (by decide), ⟨{ CompState.init with frame := some 0 }, frame, (by constructor <;> decide), by decide⟩,
    hi _ _ witness_issues _ (by decide), frame, .ipv4 5, by decide, by decide⟩

theorem runs_tables : Runs (.learnRequest []) (keeper []) ∧
    Runs (.ageingStep []) ((l2At 0 [0x9000000000000000, 0]).setFlag F.LDG_AGE_CFG_AGE_EN true) ∧
    Runs (.parityInvalidate 0 262143) (keeper [.invalidate 0 262143]) ∧
    Runs .scanStart (base.modWatch fun w => { w with waiting := [scan] }) ∧
    Runs (.maintWrite .clean) (base.modWatch fun w => { w with writes := [.dir 0 1 2] }) ∧
    Runs (.wchPatrolStep false .clean) (shadow 5 []) ∧ Runs (.wblHostWrite 8 8 1 false) base ∧
    Runs (.stickyClear 32767 1 none) base ∧ Runs (.perTagTableWrite 0x14021FC false 5) base := by
  simp only [Runs, State.hostMay]
  exact ⟨by decide, by decide, by decide, ⟨scan, 0, true, by decide, by decide, by decide⟩, by decide, by decide,
    by decide, by decide, by decide⟩

theorem pair_of_fst {α β : Type} {x : α × β} {a : α} (h : x.1 = a) : x = (a, x.2) := by
  cases x
  cases h
  rfl

theorem runs_repair : Runs (.wchRepair 0 .clean) ((shadow 0 []).modWatch fun w => { w with repairs := [(0, 1)] }) := by
  simp only [Runs]
  exact ⟨by decide, (0, 1), List.replicate 64 0, _, by decide, pair_of_fst (by decide)⟩

theorem runs_egress : Runs (.egressPick 3) (sends heldFrame) ∧
    Runs (.frameTxStart 3 .clean) (base.setEgr 3 { EgrPort.init with picked := some (tx 511 false) }) ∧
    Runs (.frameTxEnd 3 none) ((sends heldFrame).setEgr 3 { EgrPort.init with wire := some (tx 511 false) }) ∧
    Runs (.ttEntryChange 3 0) (timed ⟨true, 0, true, 1, false⟩) ∧
    Runs (.ttOperationalBase 3 0) (timed ⟨true, 0, false, 0, false⟩) ∧ Runs (.queuePause 16383 true) base := by
  simp only [Runs, State.hostMay]
  exact ⟨⟨by decide, _, rfl, by decide +kernel⟩, ⟨_, by decide, rfl, by decide, .inl (by decide)⟩,
    ⟨_, heldFrame, rfl, by decide⟩, by decide, by decide, by decide⟩

theorem runs_commands : Runs (.fstage false 0 []) base ∧ Runs .fdiscard (tagged 1 1) ∧
    Runs .drainComplete (tagged 1 4) ∧ Runs (.tagReleaseDone []) (tagged 1 5) ∧ Runs .timeSet base ∧
    Runs .ppsOutRise (with1 F.TIM_PPS_OUT_CFG_PPS_OUT_EN 1) ∧ Runs (.ringDoorbell 2) base ∧
    Runs (.ringBlockFetched nopBlock) rings ∧ Runs (.blockExecute []) (waits 2) ∧ Runs .nop base ∧
    Runs (.role 129 2) base ∧ Runs (.tread 1 false 0 []) base := by
  simp only [Runs, State.hostMay, State.ctrlOk]
  exact ⟨by decide +kernel, by decide, ⟨1, by decide⟩, ⟨1, by decide⟩, by decide, by decide, by decide, by decide,
    ⟨_, _, rfl, by decide⟩, by decide, by decide, by decide⟩

theorem runs_mailbox : Runs (.i2cGo mailWords) (with1 F.CMD_ROLE_I2C_ROLE 2) := by
  simp only [Runs]
  decide +kernel

theorem runs_host : Runs (.bar2Request false win15 8 [] []) (window 0x80000000 1) ∧ Runs (.winEntryWrite 15 true 0) base ∧
    Runs (.dmaChStart 3) (master base) ∧ Runs (.dmaChStop 3) (with1 (F.DMA_CH_STATUS_STATE 3) 1) ∧
    Runs (.descWord1Read 63 0) (reread 2) ∧ Runs (.txFrameInject 63 (desc (injectReq 60)) (List.replicate 60 0)) injects ∧
    Runs (.rxFrameDeliver 63 (desc 96)) punts ∧ Runs (.rxStreamDeliver 63 (desc 2) none) (streamed [1, 2]) ∧
    Runs .bmeClear (master base) ∧ Runs (.freezingError 4 0) base ∧ Runs (.freezeRelease 0) (with1 F.HST_STATUS_FROZEN 1) ∧
    Runs (.pcieLinkUp 1 1) base := by
  simp only [Runs, State.hostMay]
  exact ⟨by decide, by decide, by decide, by decide, by decide, ⟨by decide, by decide, ⟨(fun t h => by cases h), by decide⟩⟩,
    ⟨_, _, frame, rfl, by decide⟩, by decide, by decide, by decide, by decide, by decide⟩

theorem runs_copy : Runs (.dmaCopy 63 (desc (w64 (ddrBase * 2 ^ 16 + 64))) (List.replicate 64 1) []) (ring 1 3 ddrOn) := by
  simp only [Runs]
  decide +kernel

theorem runs_memory : Runs (.ddrRequest 1 true (2 ^ 36) 64 (List.replicate 64 0) []) ddrOn ∧ Runs (.ddrFreqChange 1) twoSets ∧
    Runs (.scrubStep .clean false) (ddrOn.setFlag F.DDR_SCRUB_CFG_SCRUB_EN true) ∧
    Runs (.captureServe .clean []) ((captures doneFrame).modArc fun a => { a with recCell := some 9 }) ∧
    Runs .trigInEdge ((archive 3).setFlag F.ARC_TRIG_CFG2_PIN_EN true) ∧ Runs .eventClose (opened (some 0)) ∧
    Runs (.arcEnable true [(0, die)]) (archive 0) ∧ Runs (.formatDone [] []) (archive 1) ∧
    Runs (.arcRecoveryDone 0 [] []) (archive 2) ∧
    Runs (.checkpointTimer []) (base.modArc fun a => { a with sinceCheckpoint := 1 }) ∧
    Runs (.nandPatrolRead .clean) ((archive 3).modArc fun a => { a with pages := [page] }) ∧
    Runs (.keepSet false) ((opened none).setReg R.ARC_KEEP 7) := by
  simp only [Runs, State.hostMay]
  exact ⟨by decide, by decide, by decide, ⟨⟨0, 5⟩, [], doneFrame, rfl, by decide, by decide, by decide, 9, rfl⟩,
    ⟨by decide, ⟨(fun c h => by cases h), by decide⟩⟩, ⟨event (some 0), by decide⟩, by decide, by decide, by decide, by decide,
    ⟨by decide, page, 0, by decide⟩, by decide⟩

theorem runs_power : Runs (.caseSleep 15) (sleeps 0) ∧
    Runs (.railConfirm 15 true) (base.setCase 15 { CaseState.init with raise := some (2, 0) }) ∧
    Runs (.avsTick 7 0) (with1 F.PWR_AVS_CFG_AVS_EN 1) ∧ Runs (.ddrLowSwitch true) lowers ∧ Runs .shedStep (governor 0 true) ∧
    Runs .shedWithdraw (governor 1 false) ∧ Runs (.sensorSample 23 124 false) base ∧ Runs (.capWrite 0) base ∧
    Runs (.throttleStep 15) ({ with1 (F.PWR_CASE_POINT 15) 2 with pwr := { base.pwr with throttleOn := 0x8000 } } : State) ∧
    Runs (.caseBacklog 3) ((List.range 8).foldl (fun t i => t.setComp (24 + i) { CompState.init with frame := some i }) base) := by
  simp only [Runs, State.hostMay]
  exact ⟨by decide, ⟨by decide, _, rfl⟩, by decide, by decide, by decide, by decide, by decide, by decide, by decide,
    by decide, 0, by decide⟩

theorem runs_faults : Runs (.dualRailError 0x7F 0x10) base ∧ Runs (.wireFault 0x611) base ∧
    Runs (.codedMessage 0x51F 0x20 0) base ∧ Runs (.fenceComplete 3) fencing ∧ Runs (.faultClear 255) (logged 6) ∧
    Runs (.bistDone true) ({ base with flt := { base.flt with unfencing := some 3 } } : State) ∧
    Runs (.faultInject 4 0x611) base := by
  simp only [Runs, State.hostMay]
  exact ⟨by decide, by decide, by decide, ⟨_, rfl⟩, by decide, ⟨trivial, 3, rfl⟩, by decide⟩

theorem runs_unfence : Runs (.unfence 3) (fencedAt 3) := by
  simp only [Runs, State.hostMay]
  exact ⟨by decide, by decide, by decide, by decide, fun r h => by cases h; decide, by decide⟩

theorem runs_starts : Runs (.resetNRelease facts) State.reset ∧ Runs (.restartCold 0x5245 facts) base ∧
    Runs (.restartWarm 0x5245 facts) base ∧ Runs (.clrFails 0x5245) base ∧ Runs (.qspiDone false) (flashing 2 0 0) ∧ Runs (.keyProgram 3 0xA5C3) (keyed none) ∧
    Runs (.keyRevoke 0 0xA5C3) (keyed none) ∧ Runs (.keyOpDone true) (keyed (some (1, 3))) ∧ Runs .attestGo base ∧
    Runs (.registerWrite (BitVec.ofNat 26 R.TIM_FREQ) false 7) base := by
  simp only [Runs, State.hostMay]
  exact ⟨by decide, by decide, by decide, by decide, ⟨trivial, _, rfl⟩, by decide,
    by decide, ⟨trivial, _, rfl⟩, by decide, by decide⟩

theorem runs_flash : Runs (.qspiRead 256) base ∧ Runs .qspiErase base := by
  have h : ∀ n, n ≤ 65536 → n ≤ qspiSize := fun n hn => Nat.le_trans (by omega) (Nat.le_add_right (2 ^ 24) _)
  have ha : base.fld F.BOOT_QSPI_ADDR_ADDR = 0 := by decide
  simp only [Runs, State.hostMay, ha]
  refine ⟨⟨by decide, by decide, by decide, ?_⟩, by decide, by decide, by decide, ?_⟩ <;>
    simp [qspiRefused] <;> exact h _ (by decide)

/-! ### Results that the spec's text gives -/

/-- Chapter 12's example: one block stages tag 1 with inheritance and adds a static entry; SEQ 0x0102, ring slot 3. -/
def exampleBlock : State :=
  let s := ((base.setFlag F.FRM_STATUS_VALID true).setFld F.FRM_STATUS_ACTIVE_TAG 0).setTagState 0 3
  { s with cmd := { s.cmd with queue := [⟨0, [0x01010201E0000000, 0, 0xF400300000000000, 0x1F2E3D4C, 0xF000410000000000,
      0x000A021FD7005128, 0x28], 2, 3, none, false⟩] } }

theorem test_exampleBlock_answers : let t := after (.blockExecute []) exampleBlock
    t.reg (R.CMD_RESULT 0 0) = 0x800102000200C000 ∧ t.reg (R.CMD_RESULT 0 1) = 1 ∧
    bitsOf (t.reg (R.CMD_RESULT 0 2)) 63 56 = 0 ∧ bitsOf (t.reg (R.CMD_RESULT 0 2)) 55 48 = 1 ∧ t.tagState 1 = 1 := by
  decide +kernel

theorem test_exampleBlock_read : let t := after (.resultHeaderRead 0) (after (.blockExecute []) exampleBlock)
    t.reg (R.CMD_RESULT 0 0) = 0xC00102000200C000 ∧ t.cmd.queue = [] := by decide +kernel

/-- Chapter 19's example: the addresses of source 222, and its link that goes down. -/
theorem test_example_addresses : R.EVT_TARGET 222 = 0x301378 ∧ R.EVT_ENABLE 6 = 0x300218 ∧ R.EVT_LATCH 6 = 0x300118 := by
  decide

/-- Port 37 is up, and its loss of link is debounced and routed to IRQ_N. -/
def flaps : State :=
  ((((with1 (F.PRT_STATUS_LINK_UP 37) 1).setPort 37 { PortState.init with downDeb := true }).setReg (R.EVT_TARGET 222)
    0x80000005).setReg (R.EVT_ENABLE 6) 0x40000000)

theorem test_link_example : flaps.irqLow = false ∧ (after (.linkDown 37) flaps).irqLow = true ∧
    bitOf ((after (.linkDown 37) flaps).reg (R.EVT_LATCH 6)) 30 = true := by decide +kernel

/-- Chapter 6's example: a station that moves and returns, with the hold-down at its reset value. -/
def moves : State :=
  [(5, 0), (9, 50), (9, 112), (9, 150), (5, 212)].foldl
    (fun s (r : Nat × Nat) => s.learnApply ⟨w64 (10 * 2 ^ 48 + 0x021FD7005128), r.1, r.2⟩ []) base

theorem test_station_moves : moves.reg R.LDG_C_LEARN_NEW = 1 ∧ moves.reg R.LDG_C_LEARN_MOVE = 1 ∧
    moves.reg R.LDG_C_LEARN_HOLD_DISCARD = 3 := by decide +kernel

/-- Chapter 4's parse: EXT of the EtherType at offset 12 of an SV frame, and ADVC. -/
def svFrame : Frame := { frame with bytes := List.replicate 12 1 ++ [0x88, 0xBA, 0x40, 0x00] ++ List.replicate 48 0 }

theorem test_parse_ext : ((after (.ext fetch 1 0 false 12 0 15 false) (runs svFrame CompState.init)).comp 24).g =
    tput (fun _ => 0) [] 1 0x88BA := by decide +kernel

theorem test_parse_advc : ((after (.advc fetch 0 4) (runs svFrame CompState.init)).comp 24).cur = 4 := by decide +kernel

/-- ADD wraps at 64 bits (R82). -/
theorem test_add_wraps : ((after (.alui fetch 0 2 1 1) (runs frame { CompState.init with g := [(1, w64 (2 ^ 64 - 1))] })).comp
    24).g = [(1, w64 (2 ^ 64 - 1))] := by decide +kernel

/-- No word of the table spells a command. -/
theorem test_no_words : decodeTableWord 64 0 = none ∧ (base.withFetchWord 64 0).pending = [] := by decide

theorem test_idle : (match step base with
    | .next t => t.time.cycles
    | _ => 0) = 1 := by decide +kernel

/-! ### Ill-formed commands -/

theorem smoke_illformed_binis : (Instr.alu fetch 9 1 2 3).wf = false ∧ (Instr.alu fetch 0x13 1 2 3).wf = false ∧
    (Instr.alui fetch 9 1 2 3).wf = false ∧ (Instr.alui fetch 0x10 1 2 3).wf = false ∧ (Instr.mfs fetch 1 15).wf = false ∧
    (Instr.mfs fetch 1 26).wf = false ∧ (Instr.mts fetch 0 1).wf = false ∧ (Instr.loop fetch 0 1).wf = false ∧
    (Instr.loop fetch 65 1).wf = false ∧ (Instr.loop fetch 1 0).wf = false ∧ (Instr.loopr fetch 1 65 1).wf = false ∧
    (Instr.hini fetch true 0 1).wf = false ∧ (Instr.berx fetch 1 true 1 0 false).wf = false ∧
    (Instr.asdu fetch 1 10 0 0).wf = false ∧ (Instr.asdu fetch 1 0 1 0).wf = false ∧
    (Instr.dlvFwd fetch true 0 1).wf = false ∧ (Instr.dlvFwd fetch false 1 0).wf = false ∧
    (Instr.qsel fetch true 0 1).wf = false ∧ (Instr.qsel fetch false 1 0).wf = false ∧
    (Instr.editPrpAdd fetch 1 0xC).wf = false := by decide

theorem smoke_illformed_bus : (Instr.cellRequest [(.capture, false), (.capture, true)]).wf = false ∧
    (Instr.wblHostWrite 0 0 0 false).wf = false ∧ (Instr.wblHostWrite 0 1 256 false).wf = false ∧
    (Instr.wblHostRead 4 true false).wf = false ∧ (Instr.perTagTableWrite 4 true 0).wf = false ∧
    (Instr.perTagTableWrite 0 false (w64 (2 ^ 32))).wf = false ∧ (Instr.ttDataWrite 2 false 0).wf = false ∧
    (Instr.registerWrite 6 false 0).wf = false ∧ (Instr.winEntryWrite 0 false (w64 (2 ^ 32))).wf = false ∧
    (Instr.bar2Request false 0 0 [] []).wf = false ∧ (Instr.bar2Request false 4089 8 [] []).wf = false ∧
    (Instr.bar2Request true 0 1 [] []).wf = false ∧ (Instr.bar2Request false 0 1 [0] []).wf = false ∧
    (Instr.barResize 23).wf = false ∧
    (Instr.pcieLinkUp 0 1).wf = false ∧ (Instr.pcieLinkUp 1 0).wf = false := by decide

theorem smoke_illformed_payload : (Instr.ringBlockFetched [0]).wf = false ∧
    (Instr.ringBlockFetched (List.replicate 513 0)).wf = false ∧
    (Instr.twrite 0 0 false 0 (List.replicate 511 0) []).wf = false ∧
    (Instr.tdelete 0 0 false 0 (List.replicate 511 0) []).wf = false ∧
    (Instr.tsearch 0 0 (List.replicate 511 0) []).wf = false ∧ (Instr.caparm 0 true (List.replicate 511 0)).wf = false ∧
    (Instr.ddrRequest 0 true 0 0 [] []).wf = false ∧ (Instr.ddrRequest 0 true 0 2 [1] []).wf = false ∧
    (Instr.ddrRequest 0 false 0 2 [1] []).wf = false ∧ (Instr.formatDone [3, 3] []).wf = false ∧
    (Instr.formatDone [] [(5, die), (5, die)]).wf = false ∧ (Instr.arcEnable true [(5, die), (5, die)]).wf = false ∧
    (Instr.i2cGo (List.replicate 1025 0)).wf = false ∧
    (Instr.powerRecalibrate [1] 0).wf = false ∧ (Instr.qspiRead 0).wf = false ∧ (Instr.qspiRead 257).wf = false ∧
    (Instr.qspiProgram 257).wf = false ∧ (Instr.frameBytesArrive 0 []).wf = false := by decide +kernel

theorem smoke_illformed_frames : (Instr.txFrameInject 0 ⟨0, 0, 0⟩ (List.replicate 9725 0)).wf = false ∧
    (Instr.frameBytesArrive 0 (List.replicate 9729 0)).wf = false ∧
    (Instr.dmaCopy 0 ⟨0, 0, 0⟩ (List.replicate 65537 0) []).wf = false := by
  simp only [Instr.wf, List.length_replicate]
  decide

end Sys2Proof.Tests
end

section
/-! Every command answers with a next state (spec/opcode_table.json, R7): the shared ways in which a compositor issues an
instruction each answer, and every other command's meaning is its next state. -/

namespace Sys2Proof.Machine

/-! ### The shared ways to issue an instruction (R71, R98) -/

theorem State.issue_answers (s : State) (f : Fetch) (cycles : Nat) (body : CompState → Frame → Flow × CompState) :
    ∃ t, s.issue f cycles body = .next t := ⟨_, rfl⟩

theorem State.issueSeq_answers (s : State) (f : Fetch) (cycles : Nat) (body : CompState → Frame → CompState) :
    ∃ t, s.issueSeq f cycles body = .next t := s.issue_answers f cycles _

theorem State.issueLoop_answers (s : State) (f : Fetch) (count : CompState → Nat) (len : BitVec 14) :
    ∃ t, s.issueLoop f count len = .next t := ⟨_, rfl⟩

theorem State.lki_answers (s : State) (f : Fetch) (tag : BitVec 3) (req : CompState → LookupReq) :
    ∃ t, s.lki f tag req = .next t := s.issueSeq_answers f 1 _

theorem State.wbop_answers (s : State) (f : Fetch) (tag : BitVec 3) (rs1 : GReg)
    (op : State → Nat → OpCtx → CompState → Nat × W64 × State) : ∃ t, s.wbop f tag rs1 op = .next t := ⟨_, rfl⟩

theorem State.edit_answers (s : State) (f : Fetch) (eop off : Nat) (value : CompState → W64) :
    ∃ t, s.edit f eop off value = .next t := s.issueSeq_answers f 1 _

/-! ### Every command -/

/-- `exec` always answers `.next`. The named cases are the compositor instructions that issue through a shared operation;
the meaning of each command in the last case is written as a next state. -/
theorem exec_answers (c : Instr) (s : State) : ∃ t, exec c s = .next t := by
  cases c with
  | alu | alui | movhi | mul | mts | ins | setc | advc => exact s.issueSeq_answers _ _ _
  | lkiRule | hini | hacc | hfin | wbind => exact s.issueSeq_answers _ _ _
  | dlvDrop | dlvFwd | dlvMcast | dlvFork | dlvPunt | dlvSecond | qsel => exact s.issueSeq_answers _ _ _
  | sideMirror | sideCapmark | sideCaptrig | sideTstamp => exact s.issueSeq_answers _ _ _
  | mfs | ext | br | bri | jmp | jtab | lkw | hacf => exact s.issue_answers _ _ _
  | loop | loopr => exact s.issueLoop_answers _ _ _
  | lkiL2dst | lkiL2src | lkiIpv4 | lkiIpv6 | lkiFork => exact s.lki_answers _ _ _
  | wbopRead | wbopAdd | dupchk | svchk | gschk | meter =>
    -- Shown by name: `wbop` must not be unfolded in search of its operation.
    dsimp only [exec, execWbopRead, execWbopAdd, execDupchk, execSvchk, execGschk, execMeter]
    exact s.wbop_answers _ _ _ _
  | editVpush | editVpop | editVswap | editHsrIns | editHsrRem => exact s.edit_answers _ _ _ _
  | editPrpAdd | editPrpStrip | editMacDa | editMacSa | editTtlDec | editPtpCf => exact s.edit_answers _ _ _ _
  | _ => exact ⟨_, rfl⟩

/-- Settles O2: no command faults or is refused, by the cases of `exec_answers`. -/
theorem everyCommandAnswers : Obligations.EveryCommandAnswers := exec_answers

end Sys2Proof.Machine
end

section
/-! The fields of one register under each other's writes, and the port operations that the link and the lane modes use
(R17 to R31): what each writes, said once. -/

namespace Sys2Proof.Machine

/-! ### Fields of one register -/

theorem bitsOf_lt {w : Nat} (v : BitVec w) (hi lo : Nat) : bitsOf v hi lo < 2 ^ (hi + 1 - lo) :=
  Nat.mod_lt _ (Nat.two_pow_pos _)

/-- A field follows its register. -/
theorem fld_congr {s t : State} (f : Fld) (h : t.reg f.off = s.reg f.off) : t.fld f = s.fld f :=
  congrArg (bitsOf · f.hi f.lo) h

theorem flag_congr {s t : State} (f : Fld) (h : t.reg f.off = s.reg f.off) : t.flag f = s.flag f :=
  congrArg (· != 0) (fld_congr f h)

/-- A flag after a write to a flag of the same register. -/
theorem State.flag_setFlag (s : State) (h : twf regReset s.regs = true) (f g : Fld) (b : Bool) (hf : f.lo = f.hi)
    (hg : g.lo = g.hi) (hw : f.hi < 64) (ho : g.off = f.off) :
    (s.setFlag f b).flag g = if g.hi = f.hi then b else s.flag g := by
  by_cases hb : g.hi = f.hi
  · have same : g = f := by
      obtain ⟨o, hi, lo⟩ := f
      obtain ⟨o', hi', lo'⟩ := g
      exact Fld.mk.injEq .. ▸ ⟨ho, hb, hg.trans (hb.trans hf.symm)⟩
    rw [if_pos hb, same, s.flag_setFlag_same h f b hf hw]
  · rw [if_neg hb, s.flag_setFlag_other h f g b (Nat.le_of_eq hf) hw (.inr (by omega))]

/-! ### Lock and debounces (R27) -/

/-- A port's state and the register file do not overlap. -/
theorem State.setFlag_setPort (s : State) (p : Nat) (v : PortState) (f : Fld) (b : Bool) :
    (s.setPort p v).setFlag f b = (s.setFlag f b).setPort p v := rfl

/-- A receiver that gains its signal goes on adapting, so SIGNAL alone changes (R22). -/
theorem State.setSignal_true (s : State) (p : Nat) : s.setSignal p true = s.setFlag (F.PRT_STATUS_SIGNAL p) true := by
  simp only [State.setSignal, Bool.not_true, Bool.and_false, Bool.false_and, Bool.false_eq_true, if_false]

/-- PRT_STATUS after a gain of lock: lock and signal, no fault and no training (R27, R31). -/
def State.lockStatus (s : State) (p : Nat) : State :=
  ((((s.setFlag (F.PRT_STATUS_PCS_LOCK p) true).setFlag (F.PRT_STATUS_LOCAL_FAULT p) false).setFlag
    (F.PRT_STATUS_REMOTE_FAULT p) false).setFlag (F.PRT_STATUS_SIGNAL p) true).setFlag (F.PRT_STATUS_TRAINING p) false

theorem State.reg_lockStatus_ne (s : State) (p : Nat) {o : Nat} (h : o ≠ R.PRT_STATUS p) :
    (s.lockStatus p).reg o = s.reg o := by
  simp only [State.lockStatus]
  iterate 5 rw [State.reg_setFlag_ne _ _ _ h]

/-- A flag of PRT_STATUS after a gain of lock: TRAINING, SIGNAL, the faults and PCS_LOCK are written, no other. -/
theorem State.flag_lockStatus (s : State) (h : twf regReset s.regs = true) (p : Nat) (g : Fld) (hg : g.lo = g.hi)
    (ho : g.off = R.PRT_STATUS p) : (s.lockStatus p).flag g =
      if g.hi = 11 then false else if g.hi = 2 then true else if g.hi = 5 then false else if g.hi = 4 then false
      else if g.hi = 1 then true else s.flag g := by
  have h1 := s.twf_setFlag h (F.PRT_STATUS_PCS_LOCK p) true
  have h2 := State.twf_setFlag _ h1 (F.PRT_STATUS_LOCAL_FAULT p) false
  have h3 := State.twf_setFlag _ h2 (F.PRT_STATUS_REMOTE_FAULT p) false
  have h4 := State.twf_setFlag _ h3 (F.PRT_STATUS_SIGNAL p) true
  rw [State.lockStatus,
    State.flag_setFlag _ h4 (F.PRT_STATUS_TRAINING p) g _ rfl hg (by decide : 11 < 64) ho,
    State.flag_setFlag _ h3 (F.PRT_STATUS_SIGNAL p) g _ rfl hg (by decide : 2 < 64) ho,
    State.flag_setFlag _ h2 (F.PRT_STATUS_REMOTE_FAULT p) g _ rfl hg (by decide : 5 < 64) ho,
    State.flag_setFlag _ h1 (F.PRT_STATUS_LOCAL_FAULT p) g _ rfl hg (by decide : 4 < 64) ho,
    State.flag_setFlag _ h (F.PRT_STATUS_PCS_LOCK p) g _ rfl hg (by decide : 1 < 64) ho]
  rfl

/-- PCS_LOCK_LOSS: a lock without fault shows in PRT_STATUS alone, any other condition starts the down debounce of an up
link (R27). -/
theorem exec_pcsLockLoss (p : Port) (lock lf rf : Bool) (s : State) :
    exec (.pcsLockLoss p lock lf rf) s =
      let t := ((s.setFlag (F.PRT_STATUS_PCS_LOCK p) lock).setFlag (F.PRT_STATUS_LOCAL_FAULT p) lf).setFlag
        (F.PRT_STATUS_REMOTE_FAULT p) rf
      let t := if lock then t else t.lostSignal p
      if lock = true ∧ lf = false ∧ rf = false then .next t
      else .next (t.setPort p { t.port p with downDeb := t.flag (F.PRT_STATUS_LINK_UP p), upDeb := false }) := by
  show execPcsLockLoss p lock lf rf s = _
  have sound : (lock && !lf && !rf) = true ↔ lock = true ∧ lf = false ∧ rf = false := by
    simp only [Bool.and_eq_true, Bool.not_eq_eq_eq_not, Bool.not_true, and_assoc]
  simp only [execPcsLockLoss, sound]
  exact apply_ite Host.Outcome.next _ _ _

/-- PCS_LOCK_GAIN on a lane with a mode: its status, and the up debounce of a down link (R27). -/
theorem exec_pcsLockGain (p : Port) (s : State) (hr : twf regReset s.regs = true)
    (hm : s.fld (F.PRT_STATUS_ACTIVE_MODE p) ≠ 0) :
    exec (.pcsLockGain p) s = .next ((s.lockStatus p).setPort p
      { s.port p with downDeb := false, upDeb := !s.flag (F.PRT_STATUS_LINK_UP p) }) := by
  show execPcsLockGain p s = _
  have up : (s.lockStatus p).flag (F.PRT_STATUS_LINK_UP p) = s.flag (F.PRT_STATUS_LINK_UP p) :=
    s.flag_lockStatus hr p (F.PRT_STATUS_LINK_UP p) rfl rfl
  rw [← up]
  simp only [execPcsLockGain, if_neg hm, State.setSignal_true]
  rfl

/-- LINK_UP of a lane in service whose up debounce has run under lock (R27, R29). -/
theorem exec_linkUp (p : Port) (s : State) (hd : (s.port p).upDeb = true) (hf : s.laneFenced p = false)
    (hl : s.flag (F.PRT_STATUS_PCS_LOCK p) = true) :
    exec (.linkUp p) s = .next (((((s.setFlag (F.PRT_STATUS_LINK_UP p) true).setFlag (F.PRT_STATUS_HOLDING p) false).setFlag
      (F.PRT_STATUS_AN_DONE p) (s.flag (F.PRT_MODE_AN_EN p) &&
        (s.fld (F.PRT_STATUS_ACTIVE_MODE p) == 1 || s.fld (F.PRT_STATUS_ACTIVE_MODE p) == 2))).setPort p
      { s.port p with upDeb := false }).raisePort p 0) := by
  show execLinkUp p s = _
  have negotiates : decide (s.fld (F.PRT_STATUS_ACTIVE_MODE p) ∈ [1, 2]) =
      (s.fld (F.PRT_STATUS_ACTIVE_MODE p) == 1 || s.fld (F.PRT_STATUS_ACTIVE_MODE p) == 2) := by
    rw [Bool.eq_iff_iff]
    simp only [decide_eq_true_eq, List.mem_cons, List.not_mem_nil, or_false, Bool.or_eq_true, beq_iff_eq]
  simp only [execLinkUp, hd, hf, hl, Bool.not_false, Bool.and_self, if_true, negotiates, State.setFlag_setPort]
  rfl

/-- LINK_DOWN at the end of the down debounce of an up link (R27, R28). -/
theorem exec_linkDown (p : Port) (s : State) (hd : (s.port p).downDeb = true)
    (hu : s.flag (F.PRT_STATUS_LINK_UP p) = true) : exec (.linkDown p) s = .next (s.linkDownNow p) := by
  show execLinkDown p s = _
  simp only [execLinkDown, hd, hu, Bool.and_self, if_true]

/-- HOLD_TIME_EXPIRY of a port that holds (R29). -/
theorem exec_holdTimeExpiry (p : Port) (s : State) (hh : s.flag (F.PRT_STATUS_HOLDING p) = true) :
    exec (.holdTimeExpiry p) s = .next ((s.setFlag (F.PRT_STATUS_HOLDING p) false).flushHeld p) := by
  show execHoldTimeExpiry p s = _
  rw [execHoldTimeExpiry, if_pos hh]

/-- Settles O11: each clause is the rule of its command; a gain of lock writes PRT_STATUS by `lockStatus`. That SIGNAL
follows the lock in this way is the model's choice (log entry 93). -/
theorem linkDebounces : Obligations.LinkDebounces := by
  intro p s inv
  refine ⟨fun lock lf rf => exec_pcsLockLoss p lock lf rf s, fun hm => ?_, exec_linkUp p s, exec_linkDown p s,
    exec_holdTimeExpiry p s⟩
  have status := s.flag_lockStatus inv.regs p
  exact ⟨_, exec_pcsLockGain p s inv.regs hm, status (F.PRT_STATUS_PCS_LOCK p) rfl rfl,
    status (F.PRT_STATUS_SIGNAL p) rfl rfl, status (F.PRT_STATUS_LOCAL_FAULT p) rfl rfl,
    status (F.PRT_STATUS_REMOTE_FAULT p) rfl rfl, status (F.PRT_STATUS_TRAINING p) rfl rfl,
    fun o ho => s.reg_lockStatus_ne p ho, rfl⟩

end Sys2Proof.Machine
end

section
/-! Lane modes, their coming into force and the training of a region (R17 to R21, R31), HI_BER and FEC codewords (R24,
R36), and the verification of the merge sublayer (R25, R26). -/

namespace Sys2Proof.Machine

/-! ### PRT_MODE (R17 to R21) -/

/-- A PRT_MODE write that a host of role FULL makes on an open block (R278). -/
theorem exec_prtModeWrite (p : Port) (v : W32) (s : State) (ho : s.barOpen (R.PRT_MODE p) = true)
    (hr : s.fld F.CMD_ROLE_HOST_ROLE = 2) : exec (.prtModeWrite p v) s = .next (s.modeWrite p v) :=
  congrArg Host.Outcome.next (State.byHost_full ho hr)

/-- A refused write records its code and raises MODE_REFUSED (R19, R21). -/
theorem State.modeWrite_refused (s : State) (p : Nat) (v : W32) (h : s.modeRefusal p v ≠ 0) :
    s.modeWrite p v = (s.setFld (F.PRT_STATUS_REFUSE_CODE p) (s.modeRefusal p v)).raisePort p 2 := by
  rw [State.modeWrite, if_pos h]

/-- An accepted write that keeps MODE and FEC stores the other fields (R19). -/
theorem State.modeWrite_same (s : State) (p : Nat) (v : W32) (h : s.modeRefusal p v = 0)
    (hm : bitsOf v 2 0 = s.fld (F.PRT_MODE_MODE p)) (hf : bitsOf v 5 4 = s.fld (F.PRT_MODE_FEC p)) :
    s.modeWrite p v = (s.plainWrite (R.PRT_MODE p) (v.setWidth 64)).setFld (F.PRT_STATUS_REFUSE_CODE p) 0 := by
  simp only [State.modeWrite, h, hm, hf, ne_eq, not_true_eq_false, bne_self_eq_false, Bool.or_self, Bool.false_eq_true,
    if_false]

/-- An accepted write that changes MODE or FEC begins the mode change: the link comes down, the lanes of a 100G port are
fused, and lock, training and signal are gone; a port made DISABLED ends its hold (R18 to R20, R29; log entry 93). -/
theorem State.modeWrite_change (s : State) (p : Nat) (v : W32) (h : s.modeRefusal p v = 0)
    (hc : bitsOf v 2 0 ≠ s.fld (F.PRT_MODE_MODE p) ∨ bitsOf v 5 4 ≠ s.fld (F.PRT_MODE_FEC p)) :
    s.modeWrite p v =
      let m := bitsOf v 2 0
      let t := ((s.plainWrite (R.PRT_MODE p) (v.setWidth 64)).setFld (F.PRT_STATUS_REFUSE_CODE p) 0).forceDown p
      let t := if p % 4 = 0 then
          [1, 2, 3].foldl (fun u k => u.setFlag (F.PRT_STATUS_FUSED_SUB (p + k)) (m == 6)) t
        else t
      let t := ((t.setFlag (F.PRT_STATUS_PCS_LOCK p) false).setFlag (F.PRT_STATUS_TRAINING p) false).setSignal p false
      let t := t.setPort p { t.port p with modePending := true, downDeb := false, upDeb := false }
      if m = 0 then (t.setFlag (F.PRT_STATUS_HOLDING p) false).flushHeld p else t := by
  have change : (bitsOf v 2 0 != s.fld (F.PRT_MODE_MODE p) || bitsOf v 5 4 != s.fld (F.PRT_MODE_FEC p)) = true := by
    simpa only [Bool.or_eq_true, bne_iff_ne, ne_eq] using hc
  simp only [State.modeWrite, h, change, ne_eq, not_true_eq_false, if_false, if_true]

/-- LANE_MODE_IN_FORCE of a lane whose mode change is pending (R20). -/
theorem exec_laneModeInForce (p : Port) (s : State) (h : (s.port p).modePending = true) :
    exec (.laneModeInForce p) s =
      .next (((s.setFld (F.PRT_STATUS_ACTIVE_MODE p) (s.fld (F.PRT_MODE_MODE p))).setFlag (F.PRT_STATUS_TRAINING p)
        (s.fld (F.PRT_MODE_MODE p) != 0)).setPort p { s.port p with modePending := false }) := by
  show execLaneModeInForce p s = _
  rw [execLaneModeInForce, if_pos h]
  rfl

/-! ### HI_BER (R36) -/

theorem exec_hiBerChange_rise (p : Port) (s : State) (h : s.flag (F.PRT_STATUS_HI_BER p) = false) :
    exec (.hiBerChange p true) s = .next ((s.setFlag (F.PRT_STATUS_HI_BER p) true).raisePort p 1) := by
  show execHiBerChange p true s = _
  simp only [execHiBerChange, h, Bool.not_false, Bool.and_self, if_true]

theorem exec_hiBerChange_end (p : Port) (s : State) :
    exec (.hiBerChange p false) s = .next (s.setFlag (F.PRT_STATUS_HI_BER p) false) := rfl

/-! ### The verification of the merge sublayer (R25, R26) -/

/-- A port that leaves VERIFYING for ACTIVE or FAILED has no lapse, and FAILED alone is raised. -/
theorem State.setMerge_verifying (s : State) (p st : Nat) (h : s.fld (F.PRT_MERGE_STATUS_VERIFY_STATE p) = 1) :
    s.setMerge p st =
      if st = 3 then (s.setFld (F.PRT_MERGE_STATUS_VERIFY_STATE p) st).raisePort p 3
      else s.setFld (F.PRT_MERGE_STATUS_VERIFY_STATE p) st := by
  simp only [State.setMerge, h, ne_eq, Nat.reduceEqDiff, not_false_eq_true, and_true, Nat.reduceBEq, Bool.false_and,
    Bool.false_eq_true, if_false]

/-- MERGE_VERIFY_TIMER sends a further verify mPacket while fewer than three went out (R25). -/
theorem exec_mergeVerifyTimer_again (p : Port) (s : State) (hv : s.fld (F.PRT_MERGE_STATUS_VERIFY_STATE p) = 1)
    (hu : s.flag (F.PRT_STATUS_LINK_UP p) = true) (ht : (s.port p).verifyTries < 3) :
    exec (.mergeVerifyTimer p) s =
      .next ((s.setPort p { s.port p with verifyTries := (s.port p).verifyTries + 1 }).emit (.verifyPacket p)) := by
  show execMergeVerifyTimer p s = _
  rw [execMergeVerifyTimer, if_pos ⟨hv, hu⟩, if_pos ht]

/-- MERGE_VERIFY_TIMER after the third verify mPacket ends in FAILED (R25). -/
theorem exec_mergeVerifyTimer_fails (p : Port) (s : State) (hv : s.fld (F.PRT_MERGE_STATUS_VERIFY_STATE p) = 1)
    (hu : s.flag (F.PRT_STATUS_LINK_UP p) = true) (ht : 3 ≤ (s.port p).verifyTries) :
    exec (.mergeVerifyTimer p) s = .next ((s.setFld (F.PRT_MERGE_STATUS_VERIFY_STATE p) 3).raisePort p 3) := by
  show execMergeVerifyTimer p s = _
  rw [execMergeVerifyTimer, if_pos ⟨hv, hu⟩, if_neg (Nat.not_lt.mpr ht), s.setMerge_verifying p 3 hv, if_pos rfl]

/-- MERGE_RESPOND while VERIFYING makes the port ACTIVE (R25). -/
theorem exec_mergeRespond (p : Port) (s : State) (hv : s.fld (F.PRT_MERGE_STATUS_VERIFY_STATE p) = 1) :
    exec (.mergeRespond p) s = .next (s.setFld (F.PRT_MERGE_STATUS_VERIFY_STATE p) 2) := by
  show execMergeRespond p s = _
  rw [execMergeRespond, if_pos hv, s.setMerge_verifying p 2 hv, if_neg (by decide)]

/-! ### The training of a region (R31) -/

/-- Lane `p` begins training under its PRT_MODE, unless it is DISABLED or fenced. -/
def State.trainLane (s : State) (p : Nat) : State :=
  if s.fld (F.PRT_MODE_MODE p) = 0 ∨ s.laneFenced p = true then s
  else
    let t := (s.setFld (F.PRT_STATUS_ACTIVE_MODE p) (s.fld (F.PRT_MODE_MODE p))).setFlag (F.PRT_STATUS_TRAINING p)
      (!s.flag (F.PRT_STATUS_PCS_LOCK p))
    t.setPort p { t.port p with modePending := false }

/-- REGION_TRAINING_START trains the region's lanes one by one. -/
theorem exec_regionTrainingStart (r : Region) (s : State) : exec (.regionTrainingStart r) s =
    .next ((List.range 16).foldl (fun t k => t.trainLane (16 * r + k)) s) := by
  show execRegionTrainingStart r s = _
  simp only [execRegionTrainingStart, State.trainLane]

/-- The training of a lane writes registers and port states alone. -/
theorem State.trainLane_frame (s : State) (p : Nat) :
    s.trainLane p = { s with regs := (s.trainLane p).regs, ports := (s.trainLane p).ports } := by
  unfold State.trainLane
  split <;> rfl

theorem State.twf_trainLane (s : State) (h : twf regReset s.regs = true) (p : Nat) :
    twf regReset (s.trainLane p).regs = true := by
  unfold State.trainLane
  split
  · exact h
  · exact State.twf_setFlag _ (s.twf_setFld h _ _) _ _

theorem State.reg_trainLane_ne (s : State) (p : Nat) {o : Nat} (h : o ≠ R.PRT_STATUS p) :
    (s.trainLane p).reg o = s.reg o := by
  unfold State.trainLane
  split
  · rfl
  · exact (State.reg_setFlag_ne _ (F.PRT_STATUS_TRAINING p) _ h).trans
      (s.reg_setFld_ne (F.PRT_STATUS_ACTIVE_MODE p) _ h)

/-- Lane `p` trains in `t` under the mode that it has in `s`: its mode is active, and it trains unless it has lock. -/
def Trains (s t : State) (p : Nat) : Prop :=
  t.fld (F.PRT_STATUS_ACTIVE_MODE p) = s.fld (F.PRT_MODE_MODE p) ∧
    t.flag (F.PRT_STATUS_TRAINING p) = !s.flag (F.PRT_STATUS_PCS_LOCK p)

/-- Whether a lane trains depends on its mode and status registers alone. -/
theorem Trains.congr {s s' t t' : State} {p : Nat} (h : Trains s t p)
    (hm : s.reg (R.PRT_MODE p) = s'.reg (R.PRT_MODE p)) (hs : s.reg (R.PRT_STATUS p) = s'.reg (R.PRT_STATUS p))
    (ht : t'.reg (R.PRT_STATUS p) = t.reg (R.PRT_STATUS p)) : Trains s' t' p := by
  obtain ⟨active, training⟩ := h
  exact ⟨(fld_congr (F.PRT_STATUS_ACTIVE_MODE p) ht).trans (active.trans (fld_congr (F.PRT_MODE_MODE p) hm)),
    (flag_congr (F.PRT_STATUS_TRAINING p) ht).trans
      (training.trans (congrArg not (flag_congr (F.PRT_STATUS_PCS_LOCK p) hs)))⟩

theorem State.trainLane_trains (s : State) (h : twf regReset s.regs = true) (p : Nat)
    (hm : s.fld (F.PRT_MODE_MODE p) ≠ 0) (hf : s.laneFenced p = false) : Trains s (s.trainLane p) p := by
  have h1 := s.twf_setFld h (F.PRT_STATUS_ACTIVE_MODE p) (s.fld (F.PRT_MODE_MODE p))
  rw [State.trainLane, if_neg (not_or.mpr ⟨hm, Bool.eq_false_iff.mp hf⟩)]
  constructor
  · refine (State.fld_setFlag_other _ h1 (F.PRT_STATUS_TRAINING p) (F.PRT_STATUS_ACTIVE_MODE p) _ (Nat.le_refl 11)
      (by decide : 11 < 64) (.inr (.inl (by decide : 10 < 11)))).trans ?_
    refine (s.fld_setFld_same h (F.PRT_STATUS_ACTIVE_MODE p) _ (by decide : 8 ≤ 10) (by decide : 10 < 64)).trans ?_
    exact Nat.mod_eq_of_lt (bitsOf_lt (s.reg (R.PRT_MODE p)) 2 0)
  · exact State.flag_setFlag_same _ h1 (F.PRT_STATUS_TRAINING p) _ rfl (by decide : 11 < 64)

/-- What the training start of the `n` lanes from `b` on has done to `s` in `t`. -/
structure TrainedLanes (s t : State) (b n : Nat) : Prop where
  regs : twf regReset t.regs = true
  frame : t = { s with regs := t.regs, ports := t.ports }
  other : ∀ o, (∀ k, k < n → o ≠ R.PRT_STATUS (b + k)) → t.reg o = s.reg o
  lanes : ∀ k, k < n → s.fld (F.PRT_MODE_MODE (b + k)) ≠ 0 → s.laneFenced (b + k) = false → Trains s t (b + k)

/-- The status registers of two lanes differ. -/
theorem PRT_STATUS_ne {p q : Nat} (h : p ≠ q) : R.PRT_STATUS p ≠ R.PRT_STATUS q := by
  simp only [R.PRT_STATUS]
  omega

/-- No lane's mode register is a lane's status register. -/
theorem PRT_MODE_ne_PRT_STATUS (p q : Nat) : R.PRT_MODE p ≠ R.PRT_STATUS q := by
  simp only [R.PRT_MODE, R.PRT_STATUS]
  omega

/-- The training of no lanes. -/
theorem TrainedLanes.zero {s : State} (h : twf regReset s.regs = true) (b : Nat) : TrainedLanes s s b 0 :=
  ⟨h, rfl, fun _ _ => rfl, fun k hk => absurd hk (Nat.not_lt_zero k)⟩

/-- A lane's training leaves what an earlier lane of the region has reached, and reads its own registers as at the
start. -/
theorem TrainedLanes.step {s t : State} {b n : Nat} (h : TrainedLanes s t b n) :
    TrainedLanes s (t.trainLane (b + n)) b (n + 1) where
  regs := t.twf_trainLane h.regs _
  frame := by
    rw [State.trainLane_frame, h.frame]
  other o ho := by
    rw [t.reg_trainLane_ne _ (ho n (Nat.lt_succ_self n)), h.other o fun k hk => ho k (Nat.lt_succ_of_lt hk)]
  lanes k hk hm hf := by
    rcases Nat.lt_succ_iff_lt_or_eq.mp hk with hlt | rfl
    · have kept : (t.trainLane (b + n)).reg (R.PRT_STATUS (b + k)) = t.reg (R.PRT_STATUS (b + k)) :=
        t.reg_trainLane_ne _ (PRT_STATUS_ne (by omega))
      exact (h.lanes k hlt hm hf).congr rfl rfl kept
    · have mode : t.reg (R.PRT_MODE (b + k)) = s.reg (R.PRT_MODE (b + k)) :=
        h.other _ fun j _ => PRT_MODE_ne_PRT_STATUS _ _
      have status : t.reg (R.PRT_STATUS (b + k)) = s.reg (R.PRT_STATUS (b + k)) :=
        h.other _ fun j hj => PRT_STATUS_ne (by omega)
      have fenced : t.laneFenced (b + k) = s.laneFenced (b + k) := by
        rw [h.frame]
        rfl
      have trains := t.trainLane_trains h.regs (b + k)
        (fld_congr (F.PRT_MODE_MODE (b + k)) mode ▸ hm) (fenced ▸ hf)
      exact trains.congr mode status rfl

theorem trainLanes (s : State) (h : twf regReset s.regs = true) (b n : Nat) :
    TrainedLanes s ((List.range n).foldl (fun t k => t.trainLane (b + k)) s) b n := by
  induction n with
  | zero => exact .zero h b
  | succ n ih =>
    rw [List.range_succ, List.foldl_append]
    exact ih.step

/-- Settles O12: each clause is the rule of its command, and the training of a region goes lane by lane.
That a refusal has the lowest code that applies and that a mode change takes SIGNAL are the model's choices (log entries
88 and 93). -/
theorem lanesTrainAndMerge : Obligations.LanesTrainAndMerge := by
  refine ⟨fun p s => ⟨fun v ho hr => ?_, exec_laneModeInForce p s, exec_hiBerChange_rise p s, exec_hiBerChange_end p s,
    rfl, rfl⟩, fun p s hv => ⟨exec_mergeVerifyTimer_again p s hv, exec_mergeVerifyTimer_fails p s hv,
    exec_mergeRespond p s hv⟩, fun r s inv => ?_⟩
  · rw [exec_prtModeWrite p v s ho hr]
    exact ⟨fun h => congrArg _ (s.modeWrite_refused p v h), fun h hm hf => congrArg _ (s.modeWrite_same p v h hm hf),
      fun h hc => congrArg _ (s.modeWrite_change p v h hc)⟩
  · have trained := trainLanes s inv.regs (16 * r) 16
    exact ⟨_, exec_regionTrainingStart r s, trained.other, trained.lanes, trained.frame⟩

end Sys2Proof.Machine
end

section
/-! Frees of Galley cells (R42, R48, R49): what a read of the state RAM returns after a write, what a first-recorded log
holds, what each row of the free table does, and the record of a rejected free. -/

namespace Sys2Proof.Machine

/-! ### The state RAM (R41) -/

theorem bitsOf_cellByte_state {st owner : Nat} (hs : st < 4) (ho : owner < 64) :
    bitsOf (cellByte st owner) 7 6 = st := by
  simp only [bitsOf, cellByte, BitVec.toNat_ofNat]
  omega

theorem bitsOf_cellByte_owner (st : Nat) {owner : Nat} (ho : owner < 64) :
    bitsOf (cellByte st owner) 5 0 = owner := by
  simp only [bitsOf, cellByte, BitVec.toNat_ofNat]
  omega

section
variable (s : State) (h : twf (fun _ => cellByte 0 0x3F) s.gal.cell = true) (i : Nat)
include h

theorem State.cellRam_setCellRam (v : BitVec 8) : (s.setCellRam i v).cellRam i = v :=
  (tget_tput _ _ h i v i).trans (if_pos rfl)

theorem State.cellState_setCellRam {st owner : Nat} (hs : st < 4) (ho : owner < 64) :
    (s.setCellRam i (cellByte st owner)).cellState i = st := by
  rw [State.cellState, s.cellRam_setCellRam h, bitsOf_cellByte_state hs ho]

theorem State.cellOwner_setCellRam (st : Nat) {owner : Nat} (ho : owner < 64) :
    (s.setCellRam i (cellByte st owner)).cellOwner i = owner := by
  rw [State.cellOwner, s.cellRam_setCellRam h, bitsOf_cellByte_owner st ho]

end

/-! ### Events and first-recorded logs (R460, R464, R49) -/

@[simp] theorem State.raiseG_gal (s : State) (g b : Nat) : (s.raiseG g b).gal = s.gal := by
  rw [State.raiseG, State.raise_frame]

@[simp] theorem State.raiseG_frames (s : State) (g b : Nat) : (s.raiseG g b).frames = s.frames := by
  rw [State.raiseG, State.raise_frame]

/-- The source of bit `b` stands in the latch of its own group. -/
theorem evtSource_group {g b : Nat} (hb : b < 32) : (32 * g + b) / 32 = g ∧ (32 * g + b) % 32 = b := by omega

theorem State.reg_raiseG_ne (s : State) {g b o : Nat} (hb : b < 32) (h : o ≠ R.EVT_LATCH g) (h' : o ≠ R.MSIX_PBA) :
    (s.raiseG g b).reg o = s.reg o :=
  s.reg_raise_ne _ ((evtSource_group hb).1.symm ▸ h) h'

theorem State.bitOf_latch_raiseG (s : State) (h : twf regReset s.regs = true) {g b : Nat} (hg : g < 48) (hb : b < 32) :
    bitOf ((s.raiseG g b).reg (R.EVT_LATCH g)) b = true := by
  obtain ⟨group, bit⟩ := evtSource_group (g := g) hb
  have latch := s.latch_raise h (32 * g + b) (by omega)
  rw [group, bit] at latch
  rw [State.raiseG, latch, bitOf, BitVec.getLsbD_or, w64, BitVec.getLsbD_ofNat, Nat.testBit_two_pow_self]
  simp only [Bool.and_true, Bool.or_eq_true, decide_eq_true_eq]
  exact .inr (by omega)

theorem State.twf_logFirst (s : State) (h : twf regReset s.regs = true) (off vbit r : Nat) :
    twf regReset (s.logFirst off vbit r).regs = true := by
  unfold State.logFirst
  split <;> exact s.twf_setReg h _ _

/-- A taken record is the log's two flags above the record. -/
theorem bitOf_logRecord {vbit r b i : Nat} (hv : 0 < vbit) (hi : i < 64) (hr : r < 2 ^ (vbit - 1)) :
    bitOf (w64 (2 ^ vbit + b * 2 ^ (vbit - 1) + r)) i =
      if i < vbit - 1 then r.testBit i else (2 + b).testBit (i - (vbit - 1)) := by
  have split : 2 ^ vbit + b * 2 ^ (vbit - 1) + r = 2 ^ (vbit - 1) * (2 + b) + r := by
    obtain ⟨n, rfl⟩ := Nat.exists_eq_succ_of_ne_zero (Nat.ne_of_gt hv)
    rw [Nat.succ_sub_one, Nat.pow_succ, Nat.mul_add, Nat.mul_comm b]
  rw [bitOf, w64, BitVec.getLsbD_ofNat, split, Nat.testBit_two_pow_mul_add _ hr]
  simp only [hi, decide_true, Bool.true_and]

/-- After a record, taken or not, VALID stands. -/
theorem State.bitOf_logFirst_valid (s : State) (h : twf regReset s.regs = true) {off vbit r : Nat} (hv : 0 < vbit)
    (hw : vbit < 64) (hr : r < 2 ^ (vbit - 1)) : bitOf ((s.logFirst off vbit r).reg off) vbit = true := by
  unfold State.logFirst
  split
  case isTrue valid =>
    rw [s.reg_setReg h, if_pos rfl, bitOf, BitVec.getLsbD_or]
    exact Bool.or_eq_true_iff.mpr (.inl valid)
  case isFalse =>
    rw [s.reg_setReg h, if_pos rfl, bitOf_logRecord hv hw hr, if_neg (by omega), show vbit - (vbit - 1) = 1 by omega]
    cases bitOf (s.reg off) (vbit - 1) <;> rfl

/-- A record that an empty log takes shows in its fields. -/
theorem State.bitsOf_logFirst (s : State) (h : twf regReset s.regs = true) {off vbit r : Nat} (hv : 0 < vbit)
    (hw : vbit < 64) (hr : r < 2 ^ (vbit - 1)) (valid : bitOf (s.reg off) vbit = false) (hi lo : Nat)
    (hf : hi < vbit - 1) : bitsOf ((s.logFirst off vbit r).reg off) hi lo = bitsOf (w64 r) hi lo := by
  rw [State.logFirst, if_neg (Bool.eq_false_iff.mp valid), s.reg_setReg h, if_pos rfl]
  refine Nat.eq_of_testBit_eq fun i => ?_
  rw [testBit_bitsOf, testBit_bitsOf]
  by_cases inside : i < hi + 1 - lo
  · rw [bitOf_logRecord hv (by omega) hr, if_pos (by omega), bitOf, w64, BitVec.getLsbD_ofNat,
      decide_eq_true (show i + lo < 64 by omega), Bool.true_and]
  · rw [decide_eq_false inside, Bool.false_and, Bool.false_and]

/-! ### The rows of the free table (R48) -/

/-- With no residue entry nothing waits to be served (R65). -/
theorem State.serveAll_idle (s : State) (h : s.gal.residue = []) : s.serveAll = s := by
  rw [State.serveAll, h]
  rfl

/-- The free of a FREE cell is DOUBLE; of another that OWNER does not permit, FOREIGN. -/
theorem State.freeIndex_rejected (s : State) (req i : Nat)
    (h : s.cellState i = 0 ∨ freePermitted (s.cellOwner i) req = false) :
    s.freeIndex req i = s.rejectFree (if s.cellState i = 0 then 1 else 2) req i (256 * i) := by
  by_cases free : s.cellState i = 0
  · rw [State.freeIndex, if_pos free, if_pos free]
  · rw [State.freeIndex, if_neg free, if_neg free, if_pos (h.resolve_left free)]

section
variable (s : State) {req i : Nat} (permitted : freePermitted (s.cellOwner i) req = true)
include permitted

theorem State.freeIndex_fencedCell (h : s.cellState i = 2) : s.freeIndex req i = s.setCellRam i (cellByte 2 0x3F) := by
  simp only [State.freeIndex, h, permitted, Nat.reduceEqDiff, Bool.true_eq_false, if_false, if_true]

theorem State.freeIndex_fencedBank (h : s.cellState i = 1) (fenced : s.bankFenced (i % 32) = true) :
    s.freeIndex req i = ({ s.setCellRam i (cellByte 2 0x3F) with
      gal := { (s.setCellRam i (cellByte 2 0x3F)).gal with fencedCells := s.gal.fencedCells + 1 } } :
        State).cellFencedEvent := by
  simp only [State.freeIndex, h, permitted, fenced, Nat.reduceEqDiff, Bool.true_eq_false, if_false,
    if_true]
  rfl

theorem State.freeIndex_returned (h : s.cellState i = 1) (fenced : s.bankFenced (i % 32) = false)
    (swept : bitOf s.gal.sweeping (i % 32) = false) :
    s.freeIndex req i = ({ s.setCellRam i (cellByte 0 0x3F) with
      gal := { (s.setCellRam i (cellByte 0 0x3F)).gal with
        free := s.gal.free + 1
        recent := (s.gal.recent.filter fun x => decide (s.elapsedNs < x.2 + 2)) ++ [(i, s.elapsedNs)] } } :
        State).setBankList (i % 32) (runAppend (s.bankList (i % 32)) (i / 32)) := by
  simp only [State.freeIndex, h, permitted, fenced, Nat.reduceEqDiff, Bool.true_eq_false,
    Bool.false_eq_true, if_false]
  exact if_neg (Bool.eq_false_iff.mp swept)

end

/-! ### Rejected frees (R49) -/

/-- What a rejected free of this KIND leaves: the record, its event and the event's message, nothing of the pool. -/
structure RejectedFree (s : State) (kind : Nat) (t : State) : Prop where
  frame : t = { s with regs := t.regs, out := t.out }
  other : ∀ o, o ≠ R.GAL_FREE_ERR → o ≠ R.GAL_FREE_ERR_ADDR → o ≠ R.MSIX_PBA → o ≠ R.EVT_LATCH 36 → t.reg o = s.reg o
  raised : twf regReset s.regs = true → bitOf (t.reg (R.EVT_LATCH 36)) (kind - 1) = true
  valid : twf regReset s.regs = true → bitOf (t.reg R.GAL_FREE_ERR) 31 = true
  recorded : twf regReset s.regs = true → bitOf (s.reg R.GAL_FREE_ERR) 31 = false → t.fld F.GAL_FREE_ERR_KIND = kind

/-- The log and the address of a rejected free, before its event. -/
def State.recordFree (s : State) (kind req cell addr : Nat) : State :=
  let t := s.logFirst R.GAL_FREE_ERR 31 (kind * 2 ^ 28 + req * 2 ^ 19 + cell)
  if !bitOf (s.reg R.GAL_FREE_ERR) 31 then t.setReg R.GAL_FREE_ERR_ADDR (w64 (addr % 2 ^ 32)) else t

theorem State.rejectFree_eq (s : State) (kind req cell addr : Nat) :
    s.rejectFree kind req cell addr = (s.recordFree kind req cell addr).raiseG 36 (kind - 1) := rfl

/-- The address has a register of its own beside the log's. -/
theorem State.reg_recordFree (s : State) (kind req cell addr : Nat) {o : Nat} (h : o ≠ R.GAL_FREE_ERR_ADDR) :
    (s.recordFree kind req cell addr).reg o =
      (s.logFirst R.GAL_FREE_ERR 31 (kind * 2 ^ 28 + req * 2 ^ 19 + cell)).reg o := by
  unfold State.recordFree
  dsimp only
  split
  · exact State.reg_setReg_ne _ _ h
  · rfl

theorem State.twf_recordFree (s : State) (h : twf regReset s.regs = true) (kind req cell addr : Nat) :
    twf regReset (s.recordFree kind req cell addr).regs = true := by
  have log := s.twf_logFirst h R.GAL_FREE_ERR 31 (kind * 2 ^ 28 + req * 2 ^ 19 + cell)
  unfold State.recordFree
  dsimp only
  split
  · exact State.twf_setReg _ log _ _
  · exact log

theorem State.rejectFree_rejected (s : State) {kind req cell : Nat} (addr : Nat) (hk : kind < 4) (hr : req < 64)
    (hc : cell < 2 ^ 19) : RejectedFree s kind (s.rejectFree kind req cell addr) where
  frame := s.rejectFree_frame _ _ _ _
  other o err errAddr pba latch := by
    rw [s.rejectFree_eq, State.reg_raiseG_ne _ (by omega) latch pba, s.reg_recordFree _ _ _ _ errAddr,
      s.reg_logFirst_ne _ _ _ err]
  raised h := State.bitOf_latch_raiseG _ (s.twf_recordFree h _ _ _ _) (by decide) (by omega)
  valid h := by
    rw [s.rejectFree_eq, State.reg_raiseG_ne _ (by omega) (by decide) (by decide), s.reg_recordFree _ _ _ _ (by decide)]
    exact s.bitOf_logFirst_valid h (by decide) (by decide) (by omega)
  recorded h empty := by
    rw [State.fld, s.rejectFree_eq]
    show bitsOf (State.reg _ R.GAL_FREE_ERR) 29 28 = kind
    rw [State.reg_raiseG_ne _ (by omega) (by decide) (by decide), s.reg_recordFree _ _ _ _ (by decide),
      s.bitsOf_logFirst h (by decide) (by decide) (by omega) empty 29 28 (by decide)]
    simp only [bitsOf, w64, BitVec.toNat_ofNat]
    omega

/-! ### CELL_FREE (R48, R49, R65) -/

section
variable (s : State) (req : BitVec 6) (x : BitVec 40)

theorem exec_cellFree_index : exec (.cellFree req false x) s = .next (s.freeCell req.toNat x.toNat).serveAll := rfl

theorem exec_cellFree_address : exec (.cellFree req true x) s = .next (s.freeAddr req.toNat x.toNat).serveAll := rfl

/-- With no residue in use a free request that keeps it so ends with the free itself. -/
theorem exec_cellFree_idle (hx : x.toNat < cellCount) {t : State} (ht : s.freeIndex req.toNat x.toNat = t)
    (idle : t.gal.residue = []) : exec (.cellFree req false x) s = .next t := by
  rw [exec_cellFree_index, State.freeCell, if_pos hx, ht, t.serveAll_idle idle]

end

/-- The free of an allocated cell in a fenced bank: the cell is FENCED and nobody's, and counts as fenced (R48, R67). -/
theorem State.cellFrees_fencedBank (s : State) (inv : Inv s) (i : Nat) {t : State}
    (ht : t = ({ s.setCellRam i (cellByte 2 0x3F) with
      gal := { (s.setCellRam i (cellByte 2 0x3F)).gal with fencedCells := s.gal.fencedCells + 1 } } :
        State).cellFencedEvent) :
    t.gal.fencedCells = s.gal.fencedCells + 1 ∧ t.gal.free = s.gal.free ∧ t.gal.lists = s.gal.lists ∧
      t.cellState i = 2 ∧ t.cellOwner i = 0x3F ∧ t.gal.residue = s.gal.residue := by
  have gal : t.gal = { (s.setCellRam i (cellByte 2 0x3F)).gal with fencedCells := s.gal.fencedCells + 1 } := by
    rw [ht, State.cellFencedEvent, State.raiseG_gal]
  have ram : t.cellRam i = (s.setCellRam i (cellByte 2 0x3F)).cellRam i := by
    rw [State.cellRam, gal]
    rfl
  rw [State.cellState, State.cellOwner, ram, gal]
  exact ⟨rfl, rfl, rfl, s.cellState_setCellRam inv.cells i (by decide) (by decide),
    s.cellOwner_setCellRam inv.cells i 2 (by decide), rfl⟩

/-- A free request for the place with index `i`, where `named` says that it is a cell's place; `addr` is the address
that the record takes where there is no such cell (R48). -/
def State.freePlace (s : State) (req i : Nat) (named : Bool) (addr : Nat) : State :=
  if i < 393216 ∧ named = true then s.freeIndex req i else s.rejectFree 3 req 0x7FFFF addr

/-- An index names its place; an address names the cell whose first byte it is. -/
theorem exec_cellFree_place (s : State) (req : BitVec 6) (byAddress : Bool) (x : BitVec 40) :
    exec (.cellFree req byAddress x) s = .next (s.freePlace req.toNat
      (if byAddress then (x.toNat - 0x80000000) / 256 else x.toNat)
      (if byAddress then decide (0x80000000 ≤ x.toNat) && (x.toNat - 0x80000000) % 256 == 0 else true)
      (if byAddress then (x.toNat + 2 ^ 32 - 0x80000000) % 2 ^ 32 else 256 * x.toNat)).serveAll := by
  cases byAddress with
  | false =>
    have index : s.freeCell req.toNat x.toNat = s.freePlace req.toNat x.toNat true (256 * x.toNat) :=
      ite_congr (propext (and_iff_left rfl).symm) (fun _ => rfl) fun _ => rfl
    simp only [exec_cellFree_index, index, Bool.false_eq_true, if_false]
  | true =>
    have named : 0x80000000 ≤ x.toNat ∧ (x.toNat - 0x80000000) % 256 = 0 ∧ (x.toNat - 0x80000000) / 256 < 393216 ↔
        (x.toNat - 0x80000000) / 256 < 393216 ∧ 0x80000000 ≤ x.toNat ∧ (x.toNat - 0x80000000) % 256 = 0 := by
      rw [← and_assoc, and_comm]
    simp only [exec_cellFree_address, State.freeAddr, State.freePlace, cellCount, if_true, named, Bool.and_eq_true,
      decide_eq_true_eq, beq_iff_eq]

/-- The free of a place that is no cell, or of a cell that may not be freed so, is rejected. -/
theorem State.freePlace_rejected (s : State) (req : BitVec 6) (i addr : Nat) (named : Bool)
    (bad : i < 393216 → named = true → s.cellState i = 0 ∨ freePermitted (s.cellOwner i) req.toNat = false) :
    RejectedFree s (if i < 393216 ∧ named = true then (if s.cellState i = 0 then 1 else 2) else 3)
      (s.freePlace req.toNat i named addr) := by
  unfold State.freePlace
  by_cases place : i < 393216 ∧ named = true
  · rw [if_pos place, if_pos place, s.freeIndex_rejected _ _ (bad place.1 place.2)]
    exact s.rejectFree_rejected _ (by split <;> decide) req.isLt (by omega)
  · rw [if_neg place, if_neg place]
    exact s.rejectFree_rejected _ (by decide) req.isLt (by decide)

/-- A rejected free leaves the residue idle where it was. -/
theorem RejectedFree.serveAll {s t : State} {kind : Nat} (h : RejectedFree s kind t) (idle : s.gal.residue = []) :
    t.serveAll = t := by
  refine t.serveAll_idle ?_
  rw [h.frame]
  exact idle

/-- Settles O15: each row of the free table is a lemma about `freeIndex`, and with no residue in use nothing follows the
free. -/
theorem cellFrees : Obligations.CellFrees := by
  refine ⟨fun s req x => ⟨exec_cellFree_index s req x, exec_cellFree_address s req x, fun inv hx idle permitted => ?_⟩,
    fun s req byAddress x => ?_⟩
  · refine ⟨fun fencedCell => ?_, fun allocated inService swept => ?_, fun allocated fencedBank => ?_⟩
    · exact exec_cellFree_idle s req x hx (s.freeIndex_fencedCell permitted fencedCell) idle
    · exact ⟨_, exec_cellFree_idle s req x hx (s.freeIndex_returned permitted allocated inService swept) idle,
        s.cellState_setCellRam inv.cells x.toNat (by decide) (by decide), rfl, rfl,
        fun i hi => s.cellRam_setCellRam_ne _ hi, rfl, rfl, rfl, rfl⟩
    · obtain ⟨fencedCells, free, lists, state, owner, residue⟩ := s.cellFrees_fencedBank inv x.toNat rfl
      exact ⟨_, exec_cellFree_idle s req x hx (s.freeIndex_fencedBank permitted allocated fencedBank)
        (residue.trans idle), fencedCells, free, lists, state, owner⟩
  · intro i named kind idle bad
    have rejected := s.freePlace_rejected req i
      (if byAddress then (x.toNat + 2 ^ 32 - 0x80000000) % 2 ^ 32 else 256 * x.toNat) named bad
    exact ⟨_, (exec_cellFree_place s req byAddress x).trans (congrArg Host.Outcome.next (rejected.serveAll idle)),
      rejected.frame, rejected.other, fun inv =>
        ⟨rejected.raised inv.regs, rejected.valid inv.regs, rejected.recorded inv.regs⟩⟩

end Sys2Proof.Machine
end

section
/-! The pick of an egress port (R214, R215): a queue with an eligible head is in use, and the search from the highest
queue down finds the highest eligible one. -/

namespace Sys2Proof.Machine

/-- The search from the end of a rising list finds the last element that answers. -/
theorem findSome?_reverse_of_last {α : Type} {f : Nat → Option α} {q : Nat} {w : α} {l : List Nat}
    (rising : l.Pairwise (· < ·)) (mem : q ∈ l) (hit : f q = some w) (last : ∀ x ∈ l, q < x → f x = none) :
    l.reverse.findSome? f = some w := by
  induction l with
  | nil => cases mem
  | cons x l ih =>
    obtain ⟨below, rising⟩ := List.pairwise_cons.mp rising
    rw [List.reverse_cons, List.findSome?_append]
    rcases List.mem_cons.mp mem with rfl | mem
    · have none_above : l.reverse.findSome? f = none :=
        List.findSome?_eq_none_iff.mpr fun y hy =>
          have hy := List.mem_reverse.mp hy
          last y (List.mem_cons_of_mem _ hy) (below y hy)
      rw [none_above, Option.none_or, List.findSome?_singleton, hit]
    · rw [ih rising mem fun y hy => last y (List.mem_cons_of_mem _ hy), Option.some_or]

/-- A port's queues in use rise with the class group and then with k (R211). -/
theorem State.busyQueues_rising (s : State) (p : Nat) : (s.busyQueues p).Pairwise (· < ·) := by
  refine List.Pairwise.filter _ (List.pairwise_map.mpr ?_)
  exact List.pairwise_lt_range.imp fun h => Nat.add_lt_add_left h _

theorem State.mem_busyQueues (s : State) {p q : Nat} :
    q ∈ s.busyQueues p ↔ (∃ i < 128, 128 * p + i = q) ∧ (s.queue q).refs ≠ [] := by
  simp only [State.busyQueues, portQueues, List.mem_filter, List.mem_map, List.mem_range, Bool.not_eq_true',
    List.isEmpty_eq_false_iff]

/-- A queue whose head is eligible holds a reference (R213). -/
theorem State.refs_ne_nil_of_eligibleHead (s : State) {q : Nat} {x : QRef × Bool} (h : s.eligibleHead q = some x) :
    (s.queue q).refs ≠ [] := by
  intro empty
  have no_head : s.headRef q = none := by
    rw [State.headRef, empty, List.drop_nil, List.head?_nil]
  rw [State.eligibleHead, no_head] at h
  cases h

/-- A head as the pick takes it. -/
def State.headFrame (s : State) (q : Nat) : Option TxFrame :=
  (s.eligibleHead q).map fun x => TxFrame.mk q x.1 x.2 0 [] false false false 0 0 ⟨0, 0, 0⟩

/-- The pick of any head, express or preemptable, is the search over the heads (R214). -/
theorem State.bestHead_any (s : State) (p : Nat) :
    s.bestHead p false = (s.busyQueues p).reverse.findSome? s.headFrame := by
  rw [State.bestHead]
  congr 1
  funext q
  cases h : s.eligibleHead q with
  | none => simp only [State.headFrame, h, Option.map_none]
  | some x => simp only [State.headFrame, h, Option.map_some, Bool.and_false, Bool.false_eq_true, if_false]

/-- The best head is the eligible one of the port's highest queue (R214). -/
theorem State.bestHead_highest (s : State) {p i : Nat} {r : QRef} {pre : Bool} (hi : i < 128)
    (head : s.eligibleHead (128 * p + i) = some (r, pre))
    (highest : ∀ j < 128, i < j → s.eligibleHead (128 * p + j) = none) :
    s.bestHead p false = some (TxFrame.mk (128 * p + i) r pre 0 [] false false false 0 0 ⟨0, 0, 0⟩) := by
  rw [s.bestHead_any]
  refine findSome?_reverse_of_last (s.busyQueues_rising p)
    (s.mem_busyQueues.mpr ⟨⟨i, hi, rfl⟩, s.refs_ne_nil_of_eligibleHead head⟩) ?_ fun q busy above => ?_
  · rw [State.headFrame, head, Option.map_some]
  · obtain ⟨⟨j, hj, rfl⟩, _⟩ := s.mem_busyQueues.mp busy
    rw [State.headFrame, highest j hj (Nat.lt_of_add_lt_add_left above), Option.map_none]

/-- EGRESS_PICK of a port with nothing picked takes the best head, where staging has room for it (R214, R215). -/
theorem exec_egressPick_best (s : State) (p : Port) {w : TxFrame} :
    let t := (s.busyQueues p).foldl State.bringCredit (s.testHeads p)
    (t.egrPort p).picked = none → t.bestHead p false = some w →
    exec (.egressPick p) s = .next (if t.pickRoom p w then t.pick p w else t) := by
  intro t idle best
  show execEgressPick p s = _
  simp only [execEgressPick, t, idle, best]

/-- Settles O34: within a port the queue numbers rise with the class group and then with k, so the search from the
highest number down takes the highest eligible queue. -/
theorem pickTakesHighestQueue : Obligations.PickTakesHighestQueue := by
  intro s p c k r pre hc hk t w idle head highest
  rw [Nat.add_assoc] at head
  have best := t.bestHead_highest (by omega) head fun j hj above => by
    have higher : c < j / 16 ∨ c = j / 16 ∧ k < j % 16 := by omega
    have place : 128 * p.val + 16 * (j / 16) + j % 16 = 128 * p.val + j := by omega
    exact place ▸ highest (j / 16) (j % 16) (by omega) (by omega) higher
  rw [← Nat.add_assoc] at best
  exact exec_egressPick_best s p idle best

end Sys2Proof.Machine
end

section
/-! The pool's arbitration (R39, R46, R47) and what comes of its grants: sweeps (R45), pool retries (R47, R317), commits
(R56, R125) and residue timeouts (R65). -/

namespace Sys2Proof.Machine

/-! ### CELL_REQUEST (R46) -/

/-- Over a list that holds `a` once, what only `a` yields is yielded once. -/
theorem flatMap_of_count_one {α : Type} {g : Nat → List α} {l : List Nat} {a : Nat} (h : l.count a = 1)
    (other : ∀ k, k ≠ a → g k = []) : l.flatMap g = g a := by
  induction l with
  | nil => cases h
  | cons k l ih =>
    rw [List.flatMap_cons]
    by_cases hk : k = a
    · have absent : a ∉ l := List.count_eq_zero.mp (by rw [hk, List.count_cons_self] at h; omega)
      have rest : l.flatMap g = [] := List.flatMap_eq_nil_iff.mpr fun j hj => other j fun e => absent (e ▸ hj)
      rw [rest, List.append_nil, hk]
    · rw [other k hk, List.nil_append, ih (by rwa [List.count_cons_of_ne hk] at h)]

/-- The rotating order of a kind's regions (R46). -/
def State.regionOrder (s : State) (k : Nat) : List Nat :=
  if k = 0 then s.gal.ingressOrder else if k = 3 then s.gal.recircOrder else [0]

/-- Ingress and second impression rotate over their regions; capture and host DMA have one place (R46). -/
theorem State.regionOrder_count (s : State) (req : CellReq)
    (ingress : (reqKind req).1 = 0 → s.gal.ingressOrder.count (reqKind req).2 = 1)
    (recirc : (reqKind req).1 = 3 → s.gal.recircOrder.count (reqKind req).2 = 1) :
    (s.regionOrder (reqKind req).1).count (reqKind req).2 = 1 := by
  cases req with
  | ingress p => exact ingress rfl
  | recirc r => exact recirc rfl
  | capture | hostDma => rfl

/-- A single request is the whole order of its cycle, where the rotating orders hold its kind and region once. -/
theorem State.arbOrder_single (s : State) (req : CellReq) (bad : Bool) (kind : s.gal.kinds.count (reqKind req).1 = 1)
    (region : (s.regionOrder (reqKind req).1).count (reqKind req).2 = 1) :
    s.arbOrder [(req, bad)] = [(req, bad)] := by
  rw [State.arbOrder, flatMap_of_count_one kind]
  · refine (flatMap_of_count_one region ?_).trans ?_
    · intro r hr
      simp only [List.filter_cons, List.filter_nil, beq_self_eq_true, if_true, beq_iff_eq, if_neg hr.symm]
    · simp only [List.filter_cons, List.filter_nil, beq_self_eq_true, if_true]
  · intro k hk
    simp only [List.filter_cons, List.filter_nil, beq_iff_eq, if_neg hk.symm, List.flatMap_eq_nil_iff, implies_true]

/-- The rotation after a grant to a requester: its kind, and its region within the kind, go to the end (R39, R46). -/
def State.rotated (t : State) (req : CellReq) : State :=
  { t with gal := { t.gal with
      kinds := toLast t.gal.kinds (reqKind req).1
      ingressOrder := if (reqKind req).1 = 0 then toLast t.gal.ingressOrder (reqKind req).2 else t.gal.ingressOrder
      recircOrder := if (reqKind req).1 = 3 then toLast t.gal.recircOrder (reqKind req).2 else t.gal.recircOrder } }

/-- A cycle with one request asks the pool once (R46, R47). -/
theorem exec_cellRequest_single (s : State) (req : CellReq) (bad : Bool)
    (kind : s.gal.kinds.count (reqKind req).1 = 1)
    (region : (s.regionOrder (reqKind req).1).count (reqKind req).2 = 1) :
    exec (.cellRequest [(req, bad)]) s = .next (if (s.oneRequest [] req bad).1 then
      (s.oneRequest [] req bad).2.2.rotated req else (s.oneRequest [] req bad).2.2) := by
  show execCellRequest [(req, bad)] s = _
  rcases hr : s.oneRequest [] req bad with ⟨got, used, t⟩
  simp only [execCellRequest, s.arbOrder_single req bad kind region, List.foldl_cons, List.foldl_nil, hr]
  cases got with
  | false => rfl
  | true => cases req <;> rfl

/-- With no request nothing moves. -/
theorem exec_cellRequest_none (s : State) : exec (.cellRequest []) s = .next s := by
  have order : s.arbOrder [] = [] := by
    simp only [State.arbOrder, List.filter_nil, List.flatMap_eq_nil_iff, implies_true]
  show execCellRequest [] s = _
  rw [execCellRequest, order]
  rfl

/-- A capture request that the pool grants takes the record cell (R47). -/
theorem State.oneRequest_capture (s : State) {bad : Bool} {c u ch t} (queue : s.arc.queue ≠ [])
    (cell : s.arc.recCell = none) (grant : s.request 0x10 false bad [] = (.cell c, u, ch, t)) :
    s.oneRequest [] .capture bad = (true, u, t.modArc fun a => { a with recCell := some c }) := by
  simp only [State.oneRequest, List.isEmpty_eq_false_iff.mpr queue, cell, Option.isSome_none, Bool.or_self,
    Bool.false_eq_true, if_false, grant]

/-- Settles O16: a single request is the cycle's whole order, and the rest is what `oneRequest` answers. -/
theorem cellArbitration : Obligations.CellArbitration := by
  intro s
  refine ⟨exec_cellRequest_none s, fun req bad kind ingress recirc => ?_, fun bad c u ch t kind queue cell grant => ?_⟩
  · exact exec_cellRequest_single s req bad kind (s.regionOrder_count req ingress recirc)
  · refine ⟨_, exec_cellRequest_single s .capture bad kind rfl, ?_⟩
    rw [s.oneRequest_capture queue cell grant]
    exact ⟨rfl, rfl, rfl, rfl⟩

/-! ### SWEEP_DONE (R45) -/

theorem exec_sweepDone (b : Fin 32) (s : State) (h : bitOf s.gal.sweeping b = true) :
    exec (.sweepDone b) s = .next (s.sweepEnd b) := by
  show execSweepDone b s = _
  rw [execSweepDone, if_pos h]

/-! ### DMA_POOL_RETRY (R47, R317) -/

/-- A ring whose injected frame lacks nothing asks for nothing. -/
theorem State.injectCells_done (n : Nat) (k : Nat) (bad : Bool) (s : State)
    (h : ((s.injectNeeds k).1 || (s.injectNeeds k).2) = false) : State.injectCells n k bad s = s := by
  cases n with
  | zero => rfl
  | succ n => rw [State.injectCells, if_neg (Bool.eq_false_iff.mp h)]

section
variable (n k : Nat) (bad : Bool) (s : State) {u : List Nat} {ch : Bool} {t : State}
  (needs : ((s.injectNeeds k).1 || (s.injectNeeds k).2) = true)
include needs

/-- A NONE ends the asking. -/
theorem State.injectCells_none (answer : s.request 0x11 false bad [] = (.none, u, ch, t)) :
    State.injectCells (n + 1) k bad s = t.injectGrant k .none := by
  simp only [State.injectCells, needs, if_true, answer]

/-- After a cell the ring asks for what the frame still lacks. -/
theorem State.injectCells_cell {c : Nat} (answer : s.request 0x11 false bad [] = (.cell c, u, ch, t)) :
    State.injectCells (n + 1) k bad s = State.injectCells n k false (t.injectGrant k (.cell c)) := by
  simp only [State.injectCells, needs, if_true, answer]

end

/-! ### GALLEY_COMMIT (R56, R125) -/

/-- The first frame of a port that may commit next does, where it is ready (R56, R125). -/
theorem exec_galleyCommit_ready (p : Port) (bad : Bool) (s : State) {i : Nat} {f : Frame} {rest : List (Nat × Frame)}
    (first : s.nextCommit p = (i, f) :: rest)
    (ready : s.commitReady i f (s.resolveDelivery f bad).1 (s.resolveDelivery f bad).2.1 = true) :
    exec (.galleyCommit p bad) s = .next ((s.resolveDelivery f bad).2.2.commitFrame p i f (s.resolveDelivery f bad).1
      (s.resolveDelivery f bad).2.1) := by
  show execGalleyCommit p bad s = _
  simp only [execGalleyCommit, first, List.find?_cons_of_pos, ready]

/-- A port none of whose frames is ready judges its first for cut-through (R56). -/
theorem exec_galleyCommit_waits (p : Port) (bad : Bool) (s : State)
    (waits : ∀ x ∈ s.nextCommit p,
      s.commitReady x.1 x.2 (s.resolveDelivery x.2 bad).1 (s.resolveDelivery x.2 bad).2.1 = false) :
    exec (.galleyCommit p bad) s = .next (s.judgeCut p) := by
  have none_ready : (s.nextCommit p).find? (fun x =>
      s.commitReady x.1 x.2 (s.resolveDelivery x.2 bad).1 (s.resolveDelivery x.2 bad).2.1) = none :=
    List.find?_eq_none.mpr fun x hx => Bool.eq_false_iff.mp (waits x hx)
  show execGalleyCommit p bad s = _
  simp only [execGalleyCommit, none_ready]

/-! ### RESIDUE_TIMEOUT (R65) -/

/-- The forgetting of residue entry `k`, with the drop of the ports that it still named (R65). -/
def State.forgetResidue (s : State) (k : Nat) (e : Residue) : State :=
  (({ s with gal := { s.gal with residue := tput (fun _ => none) s.gal.residue k none } } : State).countN
    R.GAL_C_RESIDUE_TIMEOUT_DROP (maskPorts e.mask).length).raiseG 36 6

theorem State.frame_forgetResidue (s : State) (k : Nat) (e : Residue) (i : Nat) :
    (s.forgetResidue k e).frame i = s.frame i := by
  rw [State.frame, State.forgetResidue, State.raiseG, State.raise_frame]
  rfl

theorem exec_residueTimeout (k : Fin 16384) (s : State) {e : Residue} {f : Frame}
    (entry : tget (fun _ => none) s.gal.residue k.val = some e) (frame : s.frame e.frame = some f) :
    exec (.residueTimeout k) s = .next (((s.forgetResidue k e).setFrame e.frame { f with residue := none }).release
      e.frame (0x18 + f.inPort / 16)) := by
  have kept := (s.frame_forgetResidue k e e.frame).trans frame
  show execResidueTimeout k s = _
  simp only [State.forgetResidue] at kept
  simp only [execResidueTimeout, entry, State.forgetResidue, kept, State.modFrame]

theorem exec_residueTimeout_none (k : Fin 16384) (s : State)
    (entry : tget (fun _ => none) s.gal.residue k.val = none) : exec (.residueTimeout k) s = .next s := by
  show execResidueTimeout k s = _
  simp only [execResidueTimeout, entry]

/-- Settles O17: each clause is the rule of its command. That a frame judged once for cut-through and refused is held to
its last byte, and the order of a commit's references, are the model's choices (log entries 39 and 53). -/
theorem commitsAndRetries : Obligations.CommitsAndRetries := by
  refine ⟨fun s => ⟨fun b swept => ?_, fun k u ch t needs answer => ?_, fun k c u ch t needs answer => ?_,
    fun k done => ?_⟩, fun s => ⟨fun p bad i f rest first => ⟨fun ready => ?_, fun last waits => ?_⟩,
    fun p bad idle => ?_, fun k e f => exec_residueTimeout k s, fun k => exec_residueTimeout_none k s⟩⟩
  · exact ⟨_, exec_sweepDone b s swept, rfl, rfl, rfl, rfl, rfl⟩
  · exact congrArg Host.Outcome.next (State.injectCells_none 47 k false s needs answer)
  · exact congrArg Host.Outcome.next (State.injectCells_cell 47 k false s needs answer)
  · exact congrArg Host.Outcome.next (State.injectCells_done 48 k false s done)
  · exact exec_galleyCommit_ready p bad s first ready
  · subst last
    rw [exec_galleyCommit_waits p bad s (by rw [first]; exact fun x hx => List.mem_singleton.mp hx ▸ waits),
      State.judgeCut, first]
    rfl
  · rw [exec_galleyCommit_waits p bad s (by rw [idle]; exact fun x hx => nomatch hx), State.judgeCut, idle]
    rfl

end Sys2Proof.Machine
end

section
/-! Class F of Binis: fields of frame memory and scratch, and the cursor (R84 to R87). -/

namespace Sys2Proof.Machine

/-! ### Issue (R71, R86) -/

/-- An instruction that goes on leaves its compositor as its body gives it. -/
theorem State.issue_goesOn {s : State} {f : Fetch} {cs cs' : CompState} {fr : Frame} (h : Issues s f cs fr) (n : Nat)
    (g : CompState → Frame → Flow × CompState) (hg : g cs fr = (.seq, cs')) :
    s.issue f n g = .next (s.issued f n (cs'.advance .seq)) := by
  rw [State.issue_seq h n g (congrArg Prod.fst hg), hg]

/-- An instruction that waits for a frame byte has not issued (R86). -/
theorem State.issue_stall {s : State} {f : Fetch} {cs : CompState} {fr : Frame} (h : Issues s f cs fr) (n : Nat)
    (g : CompState → Frame → Flow × CompState) (a : Nat) (hg : (g cs fr).1 = .stall a) :
    s.issue f n g = .next (s.stalled f a) := by
  have := h.comp
  subst this
  simp only [State.issue, State.issueOn_eq h, hg]
  rfl

/-! ### Fields of frame memory and scratch (R85, R86) -/

@[simp] theorem length_toLE (n v : Nat) : (toLE n v).length = n := by
  induction n generalizing v with
  | zero => rfl
  | succ n ih => rw [toLE, List.length_cons, ih]

@[simp] theorem length_setField (bs : List Byte) (bit w v : Nat) : (setField bs bit w v).length = bs.length := by
  rw [setField, toBE, List.length_reverse, length_toLE]

@[simp] theorem CompState.length_readScratch (cs : CompState) (ea : Int) (n : Nat) :
    (cs.readScratch ea n).1.length = n := by
  simp only [CompState.readScratch, List.length_map, List.length_range]

theorem Frame.length_of_readBytes {fr : Frame} {ea : Int} {n : Nat} {bs : List Byte} {ovr : Bool}
    (h : fr.readBytes ea n = .ok (bs, ovr)) : bs.length = n := by
  simp only [Frame.readBytes] at h
  split at h
  · cases h
  · obtain ⟨rfl, -⟩ := Prod.mk.inj (Except.ok.inj h)
    simp only [List.length_map, List.length_range]

/-- Two's complement as the model reads it is that of `BitVec`. -/
theorem signed_mod_eq_toInt (w v : Nat) (hw : 0 < w) : signed w (v % 2 ^ w) = (BitVec.ofNat w v).toInt := by
  obtain ⟨k, rfl⟩ : ∃ k, w = k + 1 := ⟨w - 1, by omega⟩
  rw [BitVec.toInt_eq_toNat_cond, BitVec.toNat_ofNat, signed, Nat.add_sub_cancel]
  have double : 2 ^ (k + 1) = 2 * 2 ^ k := by rw [Nat.pow_succ, Nat.mul_comm]
  by_cases low : 2 * (v % 2 ^ (k + 1)) < 2 ^ (k + 1)
  · rw [if_pos low, if_neg (by omega)]
  · rw [if_neg low, if_pos (by omega)]

/-- The low `w` bits of a number, extended to a register (R85). -/
theorem extend_mod (w v : Nat) (sx : Bool) (hw : 0 < w) : extend (v % 2 ^ w) w sx =
    if sx then (BitVec.ofNat w v).signExtend 64 else (BitVec.ofNat w v).setWidth 64 := by
  cases sx with
  | true => simp only [extend, if_true, signed_mod_eq_toInt w v hw, BitVec.signExtend]
  | false =>
    apply BitVec.eq_of_toNat_eq
    simp only [extend, w64, Bool.false_eq_true, if_false, BitVec.toNat_setWidth, BitVec.toNat_ofNat]

/-- The value that EXT gives rd, from the `n` bytes that the field touches (R85, R86). -/
theorem extend_fieldOf {bs : List Byte} {n : Nat} (len : bs.length = n) (bit : Nat) (wm1 : BitVec 6) (sx : Bool) :
    extend (fieldOf bs bit (wm1.toNat + 1)) (wm1.toNat + 1) sx =
      let v := BitVec.ofNat (wm1.toNat + 1) (beNat bs / 2 ^ (8 * n - bit - (wm1.toNat + 1)))
      if sx then v.signExtend 64 else v.setWidth 64 := by
  subst len
  exact extend_mod _ _ sx (Nat.succ_pos _)

/-- A scratch access sets OVR exactly when it leaves the 2,048 bytes (R85). -/
theorem CompState.readScratch_ovr (cs : CompState) (ea : Int) (n : Nat) (hn : 0 < n) :
    (cs.readScratch ea n).2 = (decide (ea < 0) || decide (2048 < ea + n)) := by
  rw [Bool.eq_iff_iff]
  simp only [CompState.readScratch, List.any_map, List.any_eq_true, List.mem_range, Function.comp_apply,
    Bool.not_eq_true', Bool.and_eq_false_iff, Bool.or_eq_true, decide_eq_true_eq, decide_eq_false_iff_not]
  constructor
  · rintro ⟨i, hi, out⟩
    omega
  · rintro (below | above)
    · exact ⟨0, hn, .inl (by omega)⟩
    · exact ⟨n - 1, by omega, .inr (by omega)⟩

/-- `t` is `cs` but for scratch bytes among the `n` from `ea` that lie inside scratch. -/
structure ScratchWritten (cs : CompState) (ea : Int) (n : Nat) (t : CompState) : Prop where
  only : t = { cs with scratch := t.scratch }
  kept : ∀ a : Nat, (a : Int) < ea ∨ ea + n ≤ a ∨ 2048 ≤ a →
    Memory.read 0 t.scratch a = Memory.read 0 cs.scratch a

/-- One byte written inside scratch, among the `n` bytes from `ea`. -/
theorem ScratchWritten.write {cs t : CompState} {ea : Int} {n i : Nat} (h : ScratchWritten cs ea n t) (b : Byte)
    (hi : i < n) (inside : 0 ≤ ea + i ∧ ea + i < 2048) :
    ScratchWritten cs ea n { t with scratch := Memory.write 0 t.scratch (ea + i).toNat b } where
  only := by rw [h.only]
  kept a out := (tget_tput_ne _ _ _ _ _ (by omega)).trans (h.kept a out)

/-- A scratch write changes only bytes that it names and that lie inside scratch (R85, R86). -/
theorem CompState.writeScratch_written (cs : CompState) (ea : Int) (bs : List Byte) :
    ScratchWritten cs ea bs.length (cs.writeScratch ea bs) := by
  unfold CompState.writeScratch
  refine List.foldlRecOn _ _ ⟨rfl, fun _ _ => rfl⟩ fun t ht x hx => ?_
  have hi : x.1 < bs.length := List.mem_range.mp (List.of_mem_zip hx).1
  dsimp only
  split
  case isTrue inside => exact ht.write x.2 hi inside
  case isFalse => exact ht

/-! ### EXT and INS (R85 to R87) -/

section
variable {s : State} {f : Fetch} {cs : CompState} {fr : Frame} (h : Issues s f cs fr) (rd rs1 rs2 : GReg)
  (off : BitVec 14) (bit : BitVec 3) (wm1 : BitVec 6) (sx : Bool)
include h

/-- EXT of a frame field whose bytes have arrived. -/
theorem exec_ext_frame {bs : List Byte} {ovr : Bool}
    (read : fr.readBytes (cs.frameEa rs1 off) (fieldBytes bit.toNat (wm1.toNat + 1)) = .ok (bs, ovr)) :
    exec (.ext f rd rs1 false off bit wm1 sx) s = .next (s.issued f 1 (((cs.setOvr ovr).setG rd
      (extend (fieldOf bs bit.toNat (wm1.toNat + 1)) (wm1.toNat + 1) sx)).advance .seq)) := by
  refine State.issue_goesOn h 1 _ ?_
  simp only [Bool.false_eq_true, if_false, read]

/-- EXT of a frame field whose byte `a` has not arrived. -/
theorem exec_ext_stalls {a : Nat}
    (read : fr.readBytes (cs.frameEa rs1 off) (fieldBytes bit.toNat (wm1.toNat + 1)) = .error a) :
    exec (.ext f rd rs1 false off bit wm1 sx) s = .next (s.stalled f a) := by
  refine State.issue_stall h 1 _ a ?_
  simp only [Bool.false_eq_true, if_false, read]

/-- EXT of a scratch field. -/
theorem exec_ext_scratch :
    let r := cs.readScratch (cs.scratchEa rs1 off) (fieldBytes bit.toNat (wm1.toNat + 1))
    exec (.ext f rd rs1 true off bit wm1 sx) s = .next (s.issued f 1 (((cs.setOvr r.2).setG rd
      (extend (fieldOf r.1 bit.toNat (wm1.toNat + 1)) (wm1.toNat + 1) sx)).advance .seq)) :=
  State.issue_seq h 1 _ rfl

/-- INS reads the bytes that the field touches and writes them back with the field replaced. -/
theorem exec_ins :
    let r := cs.readScratch (cs.scratchEa rs1 off) (fieldBytes bit.toNat (wm1.toNat + 1))
    exec (.ins f rs1 rs2 off bit wm1) s = .next (s.issued f 1 (((cs.writeScratch (cs.scratchEa rs1 off)
      (setField r.1 bit.toNat (wm1.toNat + 1) (cs.greg rs2).toNat)).setOvr r.2).advance .seq)) :=
  State.issueSeq_eq h 1 _

end

/-- OVR joins what an access has written in scratch (R85). -/
theorem ScratchWritten.setOvr {cs t : CompState} {ea : Int} {n : Nat} (h : ScratchWritten cs ea n t) (b : Bool) :
    t.setOvr b = { cs with scratch := (t.setOvr b).scratch, ovr := cs.ovr || b } ∧
      (t.setOvr b).scratch = t.scratch := by
  rw [h.only]
  cases b with
  | false => exact ⟨by simp only [CompState.setOvr, Bool.false_eq_true, if_false, Bool.or_false], rfl⟩
  | true => exact ⟨by simp only [CompState.setOvr, if_true, Bool.or_true], rfl⟩

/-- Settles O19: EXT is its three cases, with the field's value by `extend_fieldOf`, and INS writes scratch as
`writeScratch_written` has it. That the register in an address counts as signed is the model's choice (log entry 24). -/
theorem fieldAccess : Obligations.FieldAccess := by
  intro s f cs fr h rd rs1 rs2 off imm bit wm1 sx w n val sa fa
  refine ⟨fun bs ovr read => ?_, fun a read => exec_ext_stalls h rd rs1 off bit wm1 sx read, ?_, ?_,
    State.issueSeq_eq h 1 _, State.issueSeq_eq h 1 _⟩
  · rw [exec_ext_frame h rd rs1 off bit wm1 sx read, extend_fieldOf (Frame.length_of_readBytes read)]
    rfl
  · intro r
    rw [exec_ext_scratch h rd rs1 off bit wm1 sx, extend_fieldOf (cs.length_readScratch _ _)]
    rfl
  · have written := cs.writeScratch_written sa (setField (cs.readScratch sa n).1 bit.toNat w (cs.greg rs2).toNat)
    rw [length_setField, CompState.length_readScratch] at written
    obtain ⟨only, scratch⟩ := written.setOvr (cs.readScratch sa n).2
    refine ⟨_, exec_ins h rs1 rs2 off bit wm1, ?_, fun a out => ?_⟩
    · have ovr := cs.readScratch_ovr sa n (by omega)
      rw [Bool.or_assoc, ← ovr]
      exact only
    · exact (congrArg (Memory.read 0 · a) scratch).trans (written.kept a out)

end Sys2Proof.Machine
end

section
/-! Class A of Binis: arithmetic and the special registers (R80 to R83). -/

namespace Sys2Proof.Machine

/-- The comparisons of R82 answer 1 or 0. -/
theorem w64_b2n (p : Bool) : w64 (b2n p) = if p then 1 else 0 := by cases p <;> rfl

/-- MIN and MAX of R82 compare unsigned. -/
theorem aluOp_min_max (d a b : W64) :
    (aluOp 0x0E d a b).toNat = min a.toNat b.toNat ∧ (aluOp 0x0F d a b).toNat = max a.toNat b.toNat := by
  show (if a.toNat ≤ b.toNat then a else b).toNat = _ ∧ (if a.toNat ≤ b.toNat then b else a).toNat = _
  split <;> constructor <;> omega

/-- The count of ones of R82 fits a register. -/
theorem aluOp_popcount (d a b : W64) :
    (aluOp 0x11 d a b).toNat = ((List.range 64).filter fun i => a.getLsbD i).length := by
  have few : ((List.range 64).filter fun i => a.getLsbD i).length ≤ 64 :=
    Nat.le_trans (List.length_filter_le _ _) (Nat.le_of_eq List.length_range)
  show (w64 ((List.range 64).filter fun i => a.getLsbD i).length).toNat = _
  exact (BitVec.toNat_ofNat _ 64).trans (Nat.mod_eq_of_lt (by omega))

/-- The leading zeros of a word whose highest one is bit `63 - n`. -/
theorem clz64_of_highest {a : W64} {n : Nat} (hn : n < 64) (one : a.getLsbD (63 - n) = true)
    (zeros : ∀ i, 63 - n < i → i < 64 → a.getLsbD i = false) : clz64 a = n := by
  have found : (List.range 64).find? (fun i => bitOf a (63 - i)) = some n :=
    List.find?_range_eq_some.mpr ⟨one, List.mem_range.mpr hn, fun j hj => by
      rw [bitOf, zeros (63 - j) (by omega) (by omega), Bool.not_false]⟩
  rw [clz64, found, Option.getD_some]

theorem aluOp_clz (d a b : W64) {n : Nat} (hn : n < 64) (one : a.getLsbD (63 - n) = true)
    (zeros : ∀ i, 63 - n < i → i < 64 → a.getLsbD i = false) : (aluOp 0x12 d a b).toNat = n := by
  show (w64 (clz64 a)).toNat = n
  rw [clz64_of_highest hn one zeros]
  exact (BitVec.toNat_ofNat _ 64).trans (Nat.mod_eq_of_lt (by omega))

/-- The comparisons and the select of R82. -/
theorem aluOp_comparisons (d a b : W64) :
    aluOp 0x0A d a b = (if a = b then 1 else 0) ∧ aluOp 0x0B d a b = (if a = b then 0 else 1) ∧
    aluOp 0x0C d a b = (if a.toNat < b.toNat then 1 else 0) ∧ aluOp 0x0D d a b = (if a.toInt < b.toInt then 1 else 0) ∧
    aluOp 0x10 d a b = (if a = 0 then d else b) := by
  refine ⟨(w64_b2n _).trans ?_, (w64_b2n _).trans ?_, (w64_b2n _).trans ?_, (w64_b2n _).trans ?_, ?_⟩
  · simp only [beq_iff_eq]
  · simp only [bne_iff_ne, ne_eq, ite_not]
  · simp only [decide_eq_true_eq]
  · simp only [decide_eq_true_eq]
  · show (if a != 0 then b else d) = _
    simp only [bne_iff_ne, ne_eq, ite_not]

/-- MOVHI puts its immediate over the low half of the register. -/
theorem movhi_value (imm : BitVec 32) (v : W64) :
    w64 (imm.toNat * 2 ^ 32 + v.toNat % 2 ^ 32) = imm ++ v.setWidth 32 := by
  apply BitVec.eq_of_toNat_eq
  have low : v.toNat % 2 ^ 32 < 2 ^ 32 := Nat.mod_lt _ (by decide)
  rw [BitVec.toNat_append, BitVec.toNat_setWidth, ← Nat.shiftLeft_add_eq_or_of_lt low, Nat.shiftLeft_eq, w64,
    BitVec.toNat_ofNat]
  exact Nat.mod_eq_of_lt (by omega)

section
variable {s : State} {f : Fetch} {cs : CompState} {fr : Frame} (h : Issues s f cs fr) (rd : GReg)
include h

/-- MFS of a register that it does not wait for (R83). -/
theorem exec_mfs {spec : BitVec 5} (ready : spec = 0 → fr.complete = true) : exec (.mfs f rd spec) s =
    .next (s.issued f 1 ((cs.setG rd (w64 (s.special f.comp.val cs fr spec.toNat))).advance .seq)) := by
  have goes : ¬ (spec.toNat = 0 ∧ fr.complete = false) := fun ⟨zero, part⟩ => by
    rw [ready (BitVec.eq_of_toNat_eq zero)] at part
    cases part
  exact State.issue_goesOn h 1 _ (if_neg goes)

/-- MFS of LEN waits for the end of the frame, as for its last possible byte (R83). -/
theorem exec_mfs_len_stalls (part : fr.complete = false) : exec (.mfs f rd 0) s = .next (s.stalled f 16383) :=
  State.issue_stall h 1 _ 16383 (by rw [if_pos ⟨rfl, part⟩])

end

/-- Settles O18: the functions by the lemmas on `aluOp` or by definition; the instructions by `issueSeq_eq`, and
MFS of LEN by `exec_mfs_len_stalls`. -/
theorem arithmeticInstructions : Obligations.ArithmeticInstructions := by
  refine ⟨fun d a b => ?_, ?_⟩
  · obtain ⟨eq, ne, ltu, lts, sel⟩ := aluOp_comparisons d a b
    obtain ⟨min, max⟩ := aluOp_min_max d a b
    exact ⟨rfl, rfl, rfl, rfl, rfl, rfl, rfl, rfl, rfl, eq, ne, ltu, lts, min, max, sel, aluOp_popcount d a b,
      fun _ => aluOp_clz d a b, rfl⟩
  · intro s f cs fr h rd rs1 rs2 wrote special
    refine ⟨fun func => State.issueSeq_eq h 1 _, fun func imm => State.issueSeq_eq h 1 _, fun imm => ?_,
      State.issueSeq_eq h 2 _, fun spec ready => exec_mfs h rd ready, fun part => exec_mfs_len_stalls h rd part,
      State.issueSeq_eq h 1 _, State.issueSeq_eq h 1 _, State.issueSeq_eq h 1 _, State.issueSeq_eq h 1 _,
      State.issueSeq_eq h 1 _, State.issueSeq_eq h 1 _⟩
    rw [← movhi_value]
    exact State.issueSeq_eq h 1 _

end Sys2Proof.Machine
end

section
/-! Class B of Binis: branches, jump tables and loops (R88, R89). -/

namespace Sys2Proof.Machine

theorem briImm_eq (cond : BitVec 3) (imm : BitVec 16) :
    briImm cond imm = if cond = 4 ∨ cond = 5 then imm.signExtend 64 else imm.setWidth 64 := by
  simp only [briImm, sextTo, BitVec.toNat_eq]
  rfl

section
variable {s : State} {f : Fetch} {cs : CompState} {fr : Frame} (h : Issues s f cs fr)
include h

/-- A branch goes to its target where its condition holds, and on otherwise (R88). -/
theorem State.issue_branch (p : CompState → Bool) (t : CompState → Nat) :
    s.issue f 1 (fun cs _ => (if p cs then .goto (t cs) else .seq, cs)) =
      if p cs then .next (s.issued f 1 (cs.advance (.goto (t cs)))) else .next (s.issued f 1 (cs.advance .seq)) := by
  split
  case isTrue taken => exact State.issue_goto h 1 _ (t cs) (if_pos taken)
  case isFalse passed => exact State.issue_seq h 1 _ (if_neg passed)

/-- A loop instruction leaves its compositor where `openLoop` places it (R89). -/
theorem State.issueLoop_eq (count : CompState → Nat) (len : BitVec 14) :
    let r := cs.openLoop (count cs) len.toNat
    s.issueLoop f count len =
      .next (s.issued f 1 { cs with pc := r.pc % 16384, loops := leaveLoops r.pc r.loops }) := by
  simp only [State.issueLoop, State.issueOn_eq h]
  rfl

/-- A loop with something to do opens its body, whose last word lies no lower than its first (R89). -/
theorem State.issueLoop_opens (count : CompState → Nat) (len : BitVec 14) (some_left : 0 < count cs)
    (body : 0 < len.toNat) : s.issueLoop f count len = .next (s.issued f 1 { cs with
      pc := (cs.pc + 1) % 16384
      loops := ⟨cs.pc + 1, cs.pc + len.toNat, count cs - 1, 0⟩ :: cs.loops.take 1 }) := by
  have opened : cs.openLoop (count cs) len.toNat = { cs with
      pc := cs.pc + 1, loops := ⟨cs.pc + 1, cs.pc + len.toNat, count cs - 1, 0⟩ :: cs.loops.take 1 } := by
    rw [CompState.openLoop, if_neg (Nat.ne_of_gt body), if_neg (Nat.ne_of_gt some_left), List.take_succ_cons]
  have stays (left : Nat) (ls : List LoopLevel) :
      leaveLoops (cs.pc + 1) (⟨cs.pc + 1, cs.pc + len.toNat, left, 0⟩ :: ls) =
        ⟨cs.pc + 1, cs.pc + len.toNat, left, 0⟩ :: ls :=
    List.dropWhile_cons_of_neg (by rw [decide_eq_true_eq]; dsimp only; omega)
  simp only [State.issueLoop_eq h, opened, stays]

/-- A loop with nothing to do, outside any other, goes past its body (R89). -/
theorem State.issueLoop_skips (count : CompState → Nat) (len : BitVec 14) (none_left : count cs = 0)
    (outside : cs.loops = []) :
    s.issueLoop f count len = .next (s.issued f 1 { cs with pc := (cs.pc + len.toNat + 1) % 16384 }) := by
  have past : cs.openLoop (count cs) len.toNat = { cs with pc := (cs.pc + len.toNat + 1) % 16384 } := by
    rw [CompState.openLoop, none_left, if_pos rfl]
    split
    case isTrue empty => simp only [CompState.advance, stepPast, outside, empty, Nat.add_zero]
    case isFalse => simp only [CompState.advance, stepPast, outside]
  simp only [State.issueLoop_eq h, past, leaveLoops, outside, List.dropWhile_nil, Nat.mod_mod]

end

/-- Settles O20: BR and BRI by `issue_branch`, the loops by `issueLoop_opens` and `issueLoop_skips`. That a loop with
count 0 goes past its body is the model's reading (log entry 26). -/
theorem branchesAndLoops : Obligations.BranchesAndLoops := by
  intro s f cs fr h rs1 rs2 cond disp count len went next opened
  refine ⟨State.issue_branch h (fun cs => condHolds cond (cs.greg rs1) (cs.greg rs2)) (·.target disp), fun imm => ?_,
    State.issue_goto h 1 _ _ rfl, fun nmax => State.issue_goto h 1 _ _ rfl,
    State.issueLoop_opens h (fun _ => count.toNat) len,
    State.issueLoop_opens h (fun cs => min (cs.greg rs1).toNat count.toNat) len, fun zero outside => ?_⟩
  · rw [← briImm_eq]
    exact State.issue_branch h (fun cs => condHolds cond (cs.greg rs1) (briImm cond imm)) (·.target disp)
  · refine State.issueLoop_skips h (fun cs => min (cs.greg rs1).toNat count.toNat) len ?_ outside
    rw [zero]
    exact Nat.zero_min _

end Sys2Proof.Machine
end

section
/-! How a program ends: END, a bad program word, and the watchdog (R90, R93, R98). -/

namespace Sys2Proof.Machine

/-- A write of a compositor that holds a frame is read back. -/
theorem State.comp_setComp (s : State) (c : Nat) {v : CompState} {i : Nat} (running : v.frame = some i) :
    (s.setComp c v).comp c = v := by
  refine tget_tput_listed _ _ _ _ fun init => ?_
  rw [init] at running
  cases running

/-- Moving on keeps a compositor's frame. -/
theorem CompState.advance_frame (cs : CompState) (fl : Flow) : (cs.advance fl).frame = cs.frame := by
  cases fl <;> rfl

/-- What an instruction leaves of a compositor that holds a frame. -/
theorem State.comp_issued (s : State) (f : Fetch) (n : Nat) {cs : CompState} {i : Nat} (running : cs.frame = some i) :
    (s.issued f n cs).comp f.comp.val =
      { cs with cyc := (s.comp f.comp.val).cyc + n, stall := none, lwait := none } :=
  State.comp_setComp _ _ running

@[simp] theorem State.learnArrive_frames (s : State) (key port : Nat) : (s.learnArrive key port).frames = s.frames := by
  rw [State.learnArrive]
  split
  · rfl
  · split
    · rw [State.raiseG_frames, State.count_frames]
    · rfl

@[simp] theorem State.learnFrom_frames (s : State) (key port : Nat) (a : Option Nat) :
    (s.learnFrom key port a).frames = s.frames := by
  cases a with
  | none => exact s.learnArrive_frames key port
  | some a =>
    rw [State.learnFrom]
    split
    · rfl
    · split
      · exact List.foldlRecOn (motive := fun t : State => t.frames = s.frames) _ _ rfl fun _ ht _ _ => ht
      · exact s.learnArrive_frames key port

/-- Lookups given up leave every frame (R91). -/
@[simp] theorem State.discardLookups_frames (s : State) (c : Nat) : (s.discardLookups c).frames = s.frames := by
  rw [State.discardLookups]
  dsimp only
  split
  · rfl
  · refine List.foldlRecOn (motive := fun t : State => t.frames = s.frames) _ _ rfl fun t ht x _ => ?_
    split
    · exact (t.learnFrom_frames _ _ _).trans ht
    · exact ht

@[simp] theorem State.frame_discardLookups (s : State) (c i : Nat) : (s.discardLookups c).frame i = s.frame i :=
  congrArg (tget _ · i) (s.discardLookups_frames c)

@[simp] theorem State.frame_setComp (s : State) (c i : Nat) (v : CompState) : (s.setComp c v).frame i = s.frame i := rfl

@[simp] theorem State.frame_count (s : State) (o i : Nat) : (s.count o).frame i = s.frame i := rfl

@[simp] theorem State.frame_issued (s : State) (f : Fetch) (n i : Nat) (cs : CompState) :
    (s.issued f n cs).frame i = s.frame i := rfl

/-- END of a program whose frame is `i` (R90). -/
theorem exec_end {s : State} {f : Fetch} {cs : CompState} {fv : Frame} (h : Issues s f cs fv) {i : Nat} {fr : Frame}
    (running : cs.frame = some i) (frame : s.frame i = some fr) :
    let u := (s.issued f 1 (cs.advance .seq)).discardLookups f.comp.val
    let v := (u.setComp f.comp.val { CompState.init with scratch := cs.scratch }).count
      (R.CMP_C_FRAMES (f.comp.val / 8) (f.comp.val % 8))
    exec (.end_ f) s = .next (if fr.stage = .dropped then v.endLost i fr else v.setFrame i (fr.retire cs)) := by
  intro u v
  have still : (cs.advance .seq).frame = some i := (cs.advance_frame _).trans running
  have left := s.comp_issued f 1 still
  have issued : s.issueOn f (fun s cs _ => ⟨.seq, 1, cs, s⟩) = s.issued f 1 (cs.advance .seq) := State.issueOn_eq h _
  show execEnd f s = _
  simp only [execEnd, issued, left, h.comp, still, running, Option.isSome_some, and_self, if_true, State.frame_count,
    State.frame_setComp, State.frame_discardLookups, State.frame_issued, frame]
  rfl

section
variable {s : State} {f : Fetch} {cs : CompState} {fr : Frame} {i : Nat} (comp : s.comp f.comp.val = cs)
  (running : cs.frame = some i) (frame : s.frame i = some fr)
include comp running frame

/-- A word with bad parity, or under repair, does not issue (R98). -/
theorem State.issue_unsound (unsound : f.parityBad = true ∨ (fr.tag, cs.pc) ∈ (s.caseOf (f.comp.val / 8)).repair)
    (n : Nat) (g : CompState → Frame → Flow × CompState) : s.issue f n g = .next (s.pmParity f.comp.val) := by
  have drops : (f.parityBad || (s.caseOf (f.comp.val / 8)).repair.contains (fr.tag, cs.pc)) = true := by
    rwa [Bool.or_eq_true, List.contains_iff_mem]
  simp only [State.issue, State.issueOn, comp, running, Option.bind_some, frame, drops, if_true]

/-- A fetch of a word whose repair runs drops the frame, and nothing more (R98). -/
theorem State.pmParity_repairing (repairing : (fr.tag, cs.pc) ∈ (s.caseOf (f.comp.val / 8)).repair) :
    s.pmParity f.comp.val =
      s.abandon f.comp.val (R.CMP_C_PM_PARITY (f.comp.val / 8) (f.comp.val % 8)) := by
  simp only [State.pmParity, comp, running, Option.bind_some, frame, if_pos repairing]

/-- A new bad word drops the frame, opens a repair and is reported (R98). -/
theorem State.pmParity_new (new : (fr.tag, cs.pc) ∉ (s.caseOf (f.comp.val / 8)).repair) :
    let k := f.comp.val / 8
    let t := s.abandon f.comp.val (R.CMP_C_PM_PARITY k (f.comp.val % 8))
    s.pmParity f.comp.val = ((t.setCase k { t.caseOf k with
      repair := (s.caseOf k).repair ++ [(fr.tag, cs.pc)] }).raiseCase k 0).fault (0x540 + k) 0x12 0 false := by
  simp only [State.pmParity, comp, running, Option.bind_some, frame, if_neg new]

/-- The watchdog compares the cycle count with the worst path (R93). -/
theorem exec_watchdog : exec (.watchdog f.comp) s =
    .next (if s.worstPath fr.tag cs.entry < cs.cyc then s.watchdogDrop f.comp.val else s) := by
  show execWatchdog f.comp s = _
  simp only [execWatchdog, comp, running, Option.bind_some, frame]

end

/-- Settles O21: END by `exec_end`, a bad word by `issue_unsound` and the two cases of `pmParity`. That a second fetch
of a word under repair reports nothing more, that the program of a frame lost to the pool runs on to END, and that a
lookup outstanding at END gives no result are the model's choices (log entries 104, 105 and 45). -/
theorem programEnds : Obligations.ProgramEnds := by
  intro s f cs fr i comp running frame
  refine ⟨fun fv h => exec_end h running frame, fun k => rfl, fun late => ?_, fun inTime => ?_, ?_⟩
  · rw [exec_watchdog comp running frame, if_pos late]
    rfl
  · rw [exec_watchdog comp running frame, if_neg (Nat.not_lt.mpr inTime)]
  · intro k t
    have drops (unsound : f.parityBad = true ∨ (fr.tag, cs.pc) ∈ (s.caseOf k).repair) :
        exec (.jmp f 0) s = .next (s.pmParity f.comp.val) := State.issue_unsound comp running frame unsound 1 _
    refine ⟨fun repairing => ?_, fun bad new => ?_⟩
    · rw [drops (.inr repairing), State.pmParity_repairing comp running frame repairing]
    · rw [drops (.inl bad), State.pmParity_new comp running frame new]

end Sys2Proof.Machine
end

section
/-! Class X of Binis: the queue of a pass, deliveries, side actions and edits (R103, R117 to R124). -/

namespace Sys2Proof.Machine

/-! ### Small operations of a compositor -/

/-- OVR joins what an access says of it (R85). -/
theorem CompState.setOvr_eq (cs : CompState) (b : Bool) : cs.setOvr b = { cs with ovr := cs.ovr || b } := by
  cases b with
  | false => rw [Bool.or_false]; rfl
  | true => rw [Bool.or_true]; rfl

/-- QSEL's immediate is no wider than QOFF. -/
theorem CompState.setQoff_imm (cs : CompState) (q : BitVec 7) : cs.setQoff q.toNat = { cs with qoff := q.toNat } := by
  rw [CompState.setQoff, Nat.mod_eq_of_lt q.isLt]

section
variable {s : State} {f : Fetch} {cs : CompState} {fr : Frame} (h : Issues s f cs fr)
include h

/-- An instruction that goes on leaves its compositor as its body gives it. -/
theorem State.issueSeq_goesOn (n : Nat) (g : CompState → Frame → CompState) {cs' : CompState} (hg : g cs fr = cs') :
    s.issueSeq f n g = .next (s.issued f n (cs'.advance .seq)) := by
  rw [State.issueSeq_eq h, hg]

/-- QSEL of an immediate (R118). -/
theorem exec_qsel_imm (q : BitVec 7) (rs1 : GReg) :
    exec (.qsel f true q rs1) s = .next (s.issued f 1 ({ cs with qoff := q.toNat }.advance .seq)) :=
  State.issueSeq_goesOn h 1 _ (cs.setQoff_imm q)

/-- QSEL of a register (R118). -/
theorem exec_qsel_reg (q : BitVec 7) (rs1 : GReg) : exec (.qsel f false q rs1) s =
    .next (s.issued f 1 ({ cs with qoff := (cs.greg rs1).toNat % 128 }.advance .seq)) :=
  State.issueSeq_eq h 1 _

/-! ### Deliveries (R117, R120) -/

/-- DLV.FWD of an immediate port. -/
theorem exec_dlvFwd_imm (port : BitVec 7) (rs1 : GReg) :
    exec (.dlvFwd f true port rs1) s = .next (s.issued f 1 ((cs.deliver (.fwd port.toNat)).advance .seq)) :=
  State.issueSeq_goesOn h 1 _ (if_pos port.isLt)

/-- DLV.FWD of a port that exists, in a register. -/
theorem exec_dlvFwd_reg (port : BitVec 7) {rs1 : GReg} (there : (cs.greg rs1).toNat < 128) :
    exec (.dlvFwd f false port rs1) s =
      .next (s.issued f 1 ((cs.deliver (.fwd (cs.greg rs1).toNat)).advance .seq)) :=
  State.issueSeq_goesOn h 1 _ (if_pos there)

/-- DLV.FWD of a port that does not exist drops and sets OVR. -/
theorem exec_dlvFwd_outside (port : BitVec 7) {rs1 : GReg} (outside : 128 ≤ (cs.greg rs1).toNat) :
    exec (.dlvFwd f false port rs1) s = .next (s.issued f 1 (((cs.deliver .drop).setOvr true).advance .seq)) :=
  State.issueSeq_goesOn h 1 _ (if_neg (Nat.not_lt.mpr outside))

/-! ### Side actions (R122) -/

/-- SIDE.MIRROR of a session that is valid, new, and one of the first two. -/
theorem exec_sideMirror_joins {m : BitVec 4} (valid : s.flag (F.FRM_MIRROR_VALID fr.tag m.toNat) = true)
    (new : m.toNat ∉ cs.act.mirrors) (room : cs.act.mirrors.length < 2) : exec (.sideMirror f m) s =
      .next (s.issued f 1
        ({ cs with act := { cs.act with mirrors := cs.act.mirrors ++ [m.toNat] } }.advance .seq)) := by
  refine State.issueSeq_goesOn h 1 _ ?_
  simp only [valid, List.contains_iff_mem, new, Bool.true_eq_false, or_self, if_false, if_neg (Nat.not_le.mpr room)]

/-- SIDE.MIRROR of a third session sets OVR. -/
theorem exec_sideMirror_full {m : BitVec 4} (valid : s.flag (F.FRM_MIRROR_VALID fr.tag m.toNat) = true)
    (new : m.toNat ∉ cs.act.mirrors) (full : 2 ≤ cs.act.mirrors.length) : exec (.sideMirror f m) s =
      .next (s.issued f 1 ((cs.setOvr true).advance .seq)) := by
  refine State.issueSeq_goesOn h 1 _ ?_
  simp only [valid, List.contains_iff_mem, new, Bool.true_eq_false, or_self, if_false, if_pos full]

/-- SIDE.MIRROR of a session that is invalid or listed already does nothing. -/
theorem exec_sideMirror_nothing {m : BitVec 4}
    (idle : s.flag (F.FRM_MIRROR_VALID fr.tag m.toNat) = false ∨ m.toNat ∈ cs.act.mirrors) :
    exec (.sideMirror f m) s = .next (s.issued f 1 (cs.advance .seq)) := by
  refine State.issueSeq_goesOn h 1 _ (if_pos ?_)
  rwa [List.contains_iff_mem]

/-! ### Edits (R123, R124) -/

/-- An edit joins a list with room for it. -/
theorem State.edit_appends (room : cs.edits.length < 8) (eop off : Nat) (value : CompState → W64) :
    s.edit f eop off value = .next (s.issued f 1
      ({ cs with edits := cs.edits ++ [(⟨eop, fr.pass, off, value cs⟩ : Edit)] }.advance .seq)) :=
  State.issueSeq_goesOn h 1 _ (if_neg (Nat.not_le.mpr room))

end

/-- Settles O22: MFS by `exec_mfs`, and QOFF as MTS of CLASS puts it together from the class and its own low bits. -/
theorem classFollowsQoff : Obligations.ClassFollowsQoff := by
  intro s f cs fr h _
  refine ⟨fun rd => ⟨exec_mfs h rd fun zero => absurd zero (by decide),
      exec_mfs h rd fun zero => absurd zero (by decide)⟩,
    fun r => ⟨{ cs with qoff := (cs.greg r).toNat % 8 * 16 + cs.qoff % 16 }, State.issueSeq_eq h 1 _, rfl, ?_, ?_⟩,
    fun r => State.issueSeq_eq h 1 _, fun q r => ⟨exec_qsel_imm h q r, exec_qsel_reg h q r⟩⟩
  all_goals
    dsimp only
    omega

/-- Settles O26: the deliveries and side actions with a condition by their own lemmas, the others as their bodies have
them. That an empty mask, or a port that does not exist, is DROP in the action set at once is the model's choice (log
entry 108). -/
theorem deliveriesAndSideActions : Obligations.DeliveriesAndSideActions := by
  intro s f cs fr h rs1 rs2 on to_ mask
  refine ⟨State.issueSeq_eq h 1 _, fun port => exec_dlvFwd_imm h port rs1,
    fun port there => exec_dlvFwd_reg h port there, fun port outside => exec_dlvFwd_outside h port outside,
    State.issueSeq_eq h 1 _, ?_,
    fun table => State.issueSeq_eq h 1 _, fun reason => State.issueSeq_eq h 1 _, fun entry => State.issueSeq_eq h 1 _,
    fun q => exec_qsel_imm h q rs1, fun q => exec_qsel_reg h q rs1,
    fun m valid new room => exec_sideMirror_joins h valid new room,
    fun m valid new full => exec_sideMirror_full h valid new full, fun m idle => exec_sideMirror_nothing h idle,
    fun a => State.issueSeq_eq h 1 _, fun a => State.issueSeq_eq h 1 _, fun a => State.issueSeq_eq h 1 _⟩
  rintro m rfl
  exact State.issueSeq_eq h 1 _

/-- Settles O27: every edit is `State.edit` with its code, and a list of fewer than eight takes it. -/
theorem editInstructions : Obligations.EditInstructions := by
  intro s f cs fr h room rs1 off path adds
  have joins (eop o : Nat) (value : CompState → W64) : s.edit f eop o value = adds eop o (value cs) :=
    State.edit_appends h room eop o value
  exact ⟨joins 1 0 (·.greg rs1), joins 2 0 fun _ => 0, joins 3 0 (·.greg rs1), joins 4 path.toNat (·.greg rs1),
    joins 5 0 fun _ => 0, joins 6 off.toNat (·.greg rs1), joins 7 0 fun _ => 0, joins 8 0 (·.greg rs1),
    joins 9 0 (·.greg rs1), joins 10 off.toNat fun _ => 0, joins 11 off.toNat fun _ => 0⟩

end Sys2Proof.Machine
end

section
/-! Class L of Binis: lookups, their results and the wait for them (R104 to R108, R168). -/

namespace Sys2Proof.Machine

/-! ### What a body leaves (R71, R104) -/

section
variable {s : State} {f : Fetch} {cs : CompState} {fr : Frame} (h : Issues s f cs fr)
include h

/-- An instruction whose body goes on to the next word, and may change the block. -/
theorem State.issueOn_goesOn {body : State → CompState → Frame → Issue} {n : Nat} {cs' : CompState} {t : State}
    (hb : body s cs fr = ⟨.seq, n, cs', t⟩) : s.issueOn f body = s.issuedOn t f n (cs'.advance .seq) := by
  rw [State.issueOn_eq h, hb]

/-- An instruction whose body branches. -/
theorem State.issueOn_branches {body : State → CompState → Frame → Issue} {n a : Nat} {cs' : CompState} {t : State}
    (hb : body s cs fr = ⟨.goto a, n, cs', t⟩) : s.issueOn f body = s.issuedOn t f n (cs'.advance (.goto a)) := by
  rw [State.issueOn_eq h, hb]

/-- An instruction that branches under a condition, whatever it leaves of its compositor. -/
theorem State.issue_branches (n : Nat) (g : CompState → Frame → Flow × CompState) {p : Prop} [Decidable p] {a : Nat}
    {cs' : CompState} (hg : g cs fr = (if p then .goto a else .seq, cs')) : s.issue f n g =
      .next (s.issued f n (if p then cs'.advance (.goto a) else cs'.advance .seq)) := by
  split
  case isTrue taken =>
    rw [if_pos taken] at hg
    rw [State.issue_goto h n g a (congrArg Prod.fst hg), hg]
  case isFalse passed =>
    rw [if_neg passed] at hg
    exact State.issue_goesOn h n g hg

/-- An instruction that waits for the lookup of a tag has not issued (R104). -/
theorem State.issue_waits (n : Nat) (g : CompState → Frame → Flow × CompState) {tag : Nat}
    (hg : (g cs fr).1 = .wait tag) :
    s.issue f n g = .next (s.setComp f.comp.val { cs with lwait := some tag }) := by
  simp only [State.issue, State.issueOn_eq h, hg]

end

/-! ### The issue of a lookup (R104, R106, R168) -/

/-- A read inside scratch gives the bytes as they stand (R85). -/
theorem CompState.readScratch_inside (cs : CompState) {ea : Int} {n : Nat} (low : 0 ≤ ea) (high : ea + n ≤ 2048) :
    cs.readScratch ea n = (Memory.readN 0 cs.scratch ea.toNat n, false) := by
  have inside (i : Nat) (hi : i ∈ List.range n) : 0 ≤ ea + i ∧ ea + i < 2048 := by
    have := List.mem_range.mp hi
    omega
  refine Prod.ext ?_ ?_
  · simp only [CompState.readScratch, List.map_map, Memory.readN]
    refine List.map_congr_left fun i hi => ?_
    obtain ⟨above, below⟩ := inside i hi
    have place : (ea + i).toNat = ea.toNat + i := by omega
    simp only [Function.comp_apply, above, below, decide_true, Bool.and_self, if_true, place]
  · simp only [CompState.readScratch, List.any_map, List.any_eq_false]
    intro i hi
    obtain ⟨above, below⟩ := inside i hi
    simp only [Function.comp_apply, above, below, decide_true, Bool.and_self, Bool.not_true, Bool.false_eq_true,
      not_false_eq_true]

/-- The scan that LKI.WATCH asks for (R166). -/
def State.scanOf (s : State) (f : Fetch) (cs : CompState) (fr : Frame) (tag set : Nat) (len : Option Nat) : Scan :=
  ⟨some (f.comp.val, tag), cs.frame.getD 0, [], fr.tag, set, cs.cur, len, s.admClass fr.tag (cs.qoff / 16)⟩

section
variable {s : State} {f : Fetch} {cs : CompState} {fr : Frame} (h : Issues s f cs fr) (tag : BitVec 3)
include h

/-- LKI.RULE copies 60 bytes of scratch. -/
theorem exec_lkiRule {rs1 : GReg} {arg : BitVec 11} (low : 0 ≤ (cs.greg rs1).toInt + arg.toNat)
    (high : (cs.greg rs1).toInt + arg.toNat + 60 ≤ 2048) : exec (.lkiRule f tag rs1 arg) s =
      .next (s.issued f 1 ((cs.setSlot tag.toNat (.waiting (.rule
        (Memory.readN 0 cs.scratch ((cs.greg rs1).toInt + arg.toNat).toNat 60)))).advance .seq)) := by
  refine State.issueSeq_goesOn h 1 _ ?_
  simp only [sx64, cs.readScratch_inside (n := 60) low high]
  rfl

/-- A scan of an invalid set misses at once. -/
theorem exec_lkiWatch_invalid {rs2 : GReg} {set : BitVec 8}
    (invalid : dirValid (s.wchDir (256 * fr.tag + set.toNat)) = false) : exec (.lkiWatch f tag rs2 set) s =
      .next (s.issued f 1 ((cs.setSlot tag.toNat (.ready 0 0 0)).advance .seq)) :=
  congrArg Host.Outcome.next (State.issueOn_goesOn h (if_pos invalid))

/-- A scan of a broken set errs at once. -/
theorem exec_lkiWatch_broken {rs2 : GReg} {set : BitVec 8}
    (valid : dirValid (s.wchDir (256 * fr.tag + set.toNat)) = true)
    (broken : bitOf (s.wchDir (256 * fr.tag + set.toNat)).1 62 = true) : exec (.lkiWatch f tag rs2 set) s =
      .next (s.issued f 1 ((cs.setSlot tag.toNat (.ready 2 0 0)).advance .seq)) := by
  refine congrArg Host.Outcome.next (State.issueOn_goesOn h ?_)
  simp only [valid, broken, Bool.true_eq_false, if_false, if_true]

/-- Any other scan waits for an engine, while the queue of best-effort scans has room. -/
theorem exec_lkiWatch_waits (rs2 : GReg) {set : BitVec 8}
    (valid : dirValid (s.wchDir (256 * fr.tag + set.toNat)) = true)
    (sound : bitOf (s.wchDir (256 * fr.tag + set.toNat)).1 62 = false) (room : s.waitingBe < 256) :
    let len := if rs2.val = 0 then none else some (cs.greg rs2).toNat
    exec (.lkiWatch f tag rs2 set) s =
      .next ((s.modWatch fun w => { w with
        waiting := w.waiting ++ [s.scanOf f cs fr tag.toNat set.toNat len] }).issued f 1
          ((cs.setSlot tag.toNat (.waiting (.watch set.toNat cs.cur len))).advance .seq)) := by
  refine congrArg Host.Outcome.next (State.issueOn_goesOn h ?_)
  simp only [valid, sound, Bool.true_eq_false, Bool.false_eq_true, if_false, Nat.not_le.mpr room, and_false]
  rfl

end

/-! ### Results (R105, R153) -/

/-- A result depends on the frame by its tag and port alone, which every view of it keeps. -/
theorem State.lookupResult_frameView (s : State) (cs : CompState) (fr : Frame) (req : LookupReq) (bad : Bool) :
    s.lookupResult (s.frameView cs fr) req bad = s.lookupResult fr req bad := by
  rw [State.frameView]
  split <;> rfl

/-- An IPv4 lookup learns nothing: a miss, an entry with bad parity, or a hit with its words. -/
theorem State.lookupResult_ipv4 (s : State) (fr : Frame) (key : W64) (bad : Bool) :
    s.lookupResult fr (.ipv4 key) bad = match s.findEntry fr.tag (.ipv4 key) with
      | none => (.ready 0 0 0, s)
      | some (t, a) => if bad then (.ready 2 0 0, s.paritySeen t a)
        else (.ready 1 (s.resultWords t a).1 (s.resultWords t a).2, s) := rfl

/-- What LKW leaves of a compositor when it takes a result. -/
def CompState.taken (cs : CompState) (rd : GReg) (tag st : Nat) (w0 w1 : W64) : CompState :=
  { (cs.setG rd w0).setSlot tag .idle with lres1 := w1, lst := st + 16 * tag }

section
variable {s : State} {f : Fetch} {cs : CompState} {fr : Frame} (h : Issues s f cs fr) (tag : BitVec 3)
include h

/-- The result of a lookup that waits comes back under its tag (R104). -/
theorem exec_lookupComplete {req : LookupReq} (waits : cs.slot tag.toNat = .waiting req) (bad : Bool) :
    exec (.lookupComplete f.comp tag bad) s = .next ((s.lookupResult fr req bad).2.setComp f.comp.val
      (cs.answer tag.toNat (s.lookupResult fr req bad).1)) := by
  obtain ⟨fr0, found, rfl⟩ := Option.map_eq_some_iff.mp h.frame
  have comp := h.comp
  show execLookupComplete f.comp tag bad s = _
  simp only [execLookupComplete, comp, found, waits, State.lookupResult_frameView]

/-- The result of an IPv4 lookup (R105, R153). -/
theorem exec_lookupComplete_ipv4 {key : W64} (waits : cs.slot tag.toNat = .waiting (.ipv4 key)) (bad : Bool) :
    exec (.lookupComplete f.comp tag bad) s = match s.findEntry fr.tag (.ipv4 key) with
      | none => .next (s.setComp f.comp.val (cs.answer tag.toNat (.ready 0 0 0)))
      | some (t, a) => if bad
        then .next ((s.paritySeen t a).setComp f.comp.val (cs.answer tag.toNat (.ready 2 0 0)))
        else .next (s.setComp f.comp.val
          (cs.answer tag.toNat (.ready 1 (s.resultWords t a).1 (s.resultWords t a).2))) := by
  rw [exec_lookupComplete h tag waits, State.lookupResult_ipv4]
  cases s.findEntry fr.tag (.ipv4 key) with
  | none => rfl
  | some x => cases bad <;> rfl

/-! ### LKW (R104, R107) -/

/-- LKW waits for the lookup of its tag. -/
theorem exec_lkw_waits {req : LookupReq} (waits : cs.slot tag.toNat = .waiting req) (rd : GReg) (bm : Bool)
    (disp : BitVec 14) :
    exec (.lkw f rd tag bm disp) s = .next (s.setComp f.comp.val { cs with lwait := some tag.toNat }) :=
  State.issue_waits h 1 _ (by simp only [waits])

/-- LKW of an idle tag goes on. -/
theorem exec_lkw_idle (idle : cs.slot tag.toNat = .idle) (rd : GReg) (bm : Bool) (disp : BitVec 14) :
    exec (.lkw f rd tag bm disp) s = .next (s.issued f 1 (cs.advance .seq)) :=
  State.issue_goesOn h 1 _ (by simp only [idle])

/-- LKW takes a result, frees its tag, and branches on all but a hit when BM is set. -/
theorem exec_lkw_ready {st : Nat} {w0 w1 : W64} (ready : cs.slot tag.toNat = .ready st w0 w1) (rd : GReg) (bm : Bool)
    (disp : BitVec 14) : exec (.lkw f rd tag bm disp) s = .next (s.issued f 1 (if bm = true ∧ st ≠ 1
      then (cs.taken rd tag.toNat st w0 w1).advance (.goto (cs.pc + 1 + disp.toNat))
      else (cs.taken rd tag.toNat st w0 w1).advance .seq)) := by
  have flow : (bm && st != 1) = true ↔ bm = true ∧ st ≠ 1 := by rw [Bool.and_eq_true, bne_iff_ne]
  simp only [← flow]
  refine State.issue_branches h 1 _ ?_
  simp only [ready]
  rfl

end

/-- Settles O23: LKI, LOOKUP_COMPLETE and LKW each by its cases. That the register in the address of LKI.RULE counts as
signed, and that LKW of an idle tag goes on, are the model's choices (log entries 24 and 25). -/
theorem lookups : Obligations.Lookups := by
  constructor
  · intro s f cs fr h tag rs1 rs2 waits
    exact ⟨State.issueSeq_eq h 1 _, State.issueSeq_eq h 1 _, State.issueSeq_eq h 1 _, State.issueSeq_eq h 1 _,
      fun table => State.issueSeq_eq h 1 _, fun arg low high => exec_lkiRule h tag low high,
      fun set => ⟨exec_lkiWatch_invalid h tag, exec_lkiWatch_broken h tag, exec_lkiWatch_waits h tag rs2⟩⟩
  · intro s f cs fr h tag rd bm disp
    exact ⟨fun req waits => exec_lkw_waits h tag waits rd bm disp, fun idle => exec_lkw_idle h tag idle rd bm disp,
      fun st w0 w1 ready => exec_lkw_ready h tag ready rd bm disp,
      fun key bad waits => exec_lookupComplete_ipv4 h tag waits bad,
      fun st w0 bad waits => exec_lookupComplete h tag waits bad⟩

end Sys2Proof.Machine
end

section
/-! Classes H and D of Binis: hashing, BER headers and ASDU fields (R110 to R113). -/

namespace Sys2Proof.Machine

/-! ### Hashing (R110) -/

/-- A CRC takes the bytes in order. -/
theorem HashState.foldl_byte_crc (key : Nat) (bs : List Byte) {h : HashState} (crc : h.toeplitz = false) :
    bs.foldl (fun h b => h.byte key b) h = { h with value := crc32cState h.value bs } := by
  induction bs generalizing h with
  | nil => rfl
  | cons b bs ih =>
    have first : h.byte key b = { h with value := crcStep 0x82F63B78 h.value b } := if_pos crc
    rw [List.foldl_cons, first]
    exact ih crc

/-- A CRC over bytes changes the hash value alone. -/
theorem CompState.hashBytes_crc {cs : CompState} (crc : cs.hash.toeplitz = false) (key : Nat) (bs : List Byte) :
    cs.hashBytes key bs = { cs with hash := { cs.hash with value := crc32cState cs.hash.value bs } } := by
  simp only [CompState.hashBytes, HashState.foldl_byte_crc key bs crc, crc, Bool.false_and]
  rfl

/-- A write of a register leaves the hash. -/
theorem CompState.setG_hash (cs : CompState) (r : GReg) (v : W64) :
    { cs.setG r v with hash := cs.hash } = cs.setG r v := by
  rw [CompState.setG]
  split <;> rfl

section
variable {s : State} {f : Fetch} {cs : CompState} {fr : Frame} (h : Issues s f cs fr)
include h

/-- HACC accumulates bytes of a register, most significant first. -/
theorem exec_hacc_crc (crc : cs.hash.toeplitz = false) (rs1 : GReg) (nm1 : BitVec 3) : exec (.hacc f rs1 nm1) s =
    .next (s.issued f 1 ({ cs with hash := { cs.hash with
      value := crc32cState cs.hash.value (toBE (nm1.toNat + 1) (cs.greg rs1).toNat) } }.advance .seq)) :=
  State.issueSeq_goesOn h 1 _ (CompState.hashBytes_crc crc _ _)

/-- HACF accumulates bytes of the frame that have arrived, eight in a cycle. -/
theorem exec_hacf_crc (crc : cs.hash.toeplitz = false) {rs1 : GReg} {off : BitVec 14} {nm1 : BitVec 6} {bs : List Byte}
    {ovr : Bool} (read : fr.readBytes (cs.frameEa rs1 off) (nm1.toNat + 1) = .ok (bs, ovr)) :
    exec (.hacf f rs1 off nm1) s = .next (s.issued f ((nm1.toNat + 8) / 8) ({ cs with
      hash := { cs.hash with value := crc32cState cs.hash.value bs }, ovr := cs.ovr || ovr }.advance .seq)) := by
  refine State.issue_goesOn h _ _ ?_
  simp only [read, CompState.hashBytes_crc crc, CompState.setOvr_eq]

/-- HACF waits for frame bytes that have not arrived. -/
theorem exec_hacf_stalls {rs1 : GReg} {off : BitVec 14} {nm1 : BitVec 6} {a : Nat}
    (read : fr.readBytes (cs.frameEa rs1 off) (nm1.toNat + 1) = .error a) :
    exec (.hacf f rs1 off nm1) s = .next (s.stalled f a) :=
  State.issue_stall h _ _ a (by simp only [read])

/-- HFIN ends a CRC with its final XOR. -/
theorem exec_hfin_crc (crc : cs.hash.toeplitz = false) (rd : GReg) : exec (.hfin f rd) s =
    .next (s.issued f 1 ({ cs.setG rd (w64 (cs.hash.value ^^^ 0xFFFFFFFF)) with
      hash := { cs.hash with value := cs.hash.value ^^^ 0xFFFFFFFF } }.advance .seq)) :=
  State.issueSeq_goesOn h 1 _ (by simp only [crc, Bool.false_eq_true, if_false])

/-- HFIN leaves a Toeplitz hash as it stands. -/
theorem exec_hfin_toeplitz (toeplitz : cs.hash.toeplitz = true) (rd : GReg) : exec (.hfin f rd) s =
    .next (s.issued f 1 ((cs.setG rd (w64 cs.hash.value)).advance .seq)) := by
  refine State.issueSeq_goesOn h 1 _ ?_
  rw [if_pos toeplitz]
  exact cs.setG_hash rd (w64 cs.hash.value)

end

/-! ### BERX (R111, R112) -/

/-- Only lengths below 0x80 and the forms 0x81 to 0x83 are supported (R112). -/
theorem berForm_unsupported {b : Nat} (h : b = 0x80 ∨ 0x84 ≤ b) : berForm b = none := by
  rw [berForm, if_neg (by omega), if_neg (by omega), if_neg (by omega), if_neg (by omega)]

theorem berForm_short {b : Nat} (h : b < 0x80) : berForm b = some 0 := if_pos h

/-- The tag test of BERX passes any tag, or the one it names (R112). -/
theorem berx_takes {any : Bool} {tag btag : Byte} (wanted : any = true ∨ tag = btag) :
    ¬ (any = false ∧ tag.toNat ≠ btag.toNat) := by
  rintro ⟨rfl, differs⟩
  exact differs (congrArg _ (wanted.resolve_left Bool.false_ne_true))

/-- A write of a register leaves the decoding registers, which change by themselves. -/
theorem CompState.setG_decoded (cs : CompState) (r : GReg) (v : W64) (tag len st : Nat) :
    { cs with dtag := tag, dlen := len, dstat := st }.setG r v =
      { cs.setG r v with dtag := tag, dlen := len, dstat := st } := by
  simp only [CompState.setG]
  split <;> rfl

/-- What a decoding instruction that fails leaves of its compositor (R111). -/
def CompState.undecoded (cs : CompState) (tag st : Nat) : CompState := { cs with dtag := tag, dstat := st }

section
variable {s : State} {f : Fetch} {cs : CompState} {fr : Frame} (h : Issues s f cs fr) (rd : GReg) {any : Bool}
  {btag : BitVec 8} (disp : BitVec 14) (skip : Bool) {tag l : Byte}
  (header : fr.readBytes cs.cur 2 = .ok ([tag, l], false))
include h header

/-- BERX of a tag of more than one byte. -/
theorem exec_berx_longTag (long : tag.toNat % 32 = 31) : exec (.berx f rd any btag disp skip) s =
    .next (s.issued f 2 ((cs.undecoded tag.toNat 2).advance (.goto (cs.target disp)))) := by
  refine congrArg Host.Outcome.next (State.issueOn_branches h ?_)
  simp only [header, byteAt, List.getD_cons_zero, long, if_true]
  rfl

/-- BERX of a tag that it does not want. -/
theorem exec_berx_unwanted (short : tag.toNat % 32 ≠ 31) (one : any = false) (other : tag ≠ btag) :
    exec (.berx f rd any btag disp skip) s =
      .next (s.issued f 2 ((cs.undecoded tag.toNat 1).advance (.goto (cs.target disp)))) := by
  refine congrArg Host.Outcome.next (State.issueOn_branches h ?_)
  have differs : tag.toNat ≠ btag.toNat := fun e => other (BitVec.eq_of_toNat_eq e)
  simp only [header, byteAt, List.getD_cons_zero, if_neg short, one, differs, ne_eq, not_false_eq_true, and_self,
    if_true]
  rfl

/-- BERX of a length whose form it does not support. -/
theorem exec_berx_badLength (short : tag.toNat % 32 ≠ 31) (wanted : any = true ∨ tag = btag)
    (bad : l.toNat = 0x80 ∨ 0x84 ≤ l.toNat) : exec (.berx f rd any btag disp skip) s =
      .next (s.issued f 2 ((cs.undecoded tag.toNat 2).advance (.goto (cs.target disp)))) := by
  refine congrArg Host.Outcome.next (State.issueOn_branches h ?_)
  simp only [header, byteAt, List.getD_cons_zero, List.getD_cons_succ, if_neg short, if_neg (berx_takes wanted),
    berForm_unsupported bad]
  rfl

/-- BERX of a header of two bytes. -/
theorem exec_berx_short (short : tag.toNat % 32 ≠ 31) (wanted : any = true ∨ tag = btag) (len : l.toNat < 0x80) :
    exec (.berx f rd any btag disp skip) s = .next (s.issued f 2 ({ cs.setG rd (w64 l.toNat) with
      dtag := tag.toNat, dlen := l.toNat, dstat := 0
      cur := (cs.cur + 2 + if skip then l.toNat else 0) % 16384 }.advance .seq)) := by
  refine congrArg Host.Outcome.next (State.issueOn_goesOn h ?_)
  simp only [header, byteAt, List.getD_cons_zero, List.getD_cons_succ, if_neg short, if_neg (berx_takes wanted),
    berForm_short len]
  rfl

end

/-! ### ASDU (R113) -/

/-- A read that succeeds inside the frame gives its bytes. -/
theorem Frame.byteAt_of_readBytes {fr : Frame} {ea : Int} {n : Nat} {bs : List Byte}
    (read : fr.readBytes ea n = .ok (bs, false)) {i : Nat} (hi : i < n) :
    fr.byteAt (ea + i) = some (bs.getD i 0, false) := by
  simp only [Frame.readBytes] at read
  split at read
  case h_1 => cases read
  case h_2 none_missing =>
    obtain ⟨rfl, inside⟩ := Prod.mk.inj (Except.ok.inj read)
    have member := List.mem_map_of_mem (f := fun i : Nat => (ea + (i : Int), fr.byteAt (ea + i)))
      (List.mem_range.mpr hi)
    have arrived := List.filter_eq_nil_iff.mp (List.getLast?_eq_none_iff.mp none_missing) _ member
    have quiet := List.any_eq_false.mp inside _ member
    cases byte : fr.byteAt (ea + i) with
    | none => simp [byte] at arrived
    | some x =>
      obtain ⟨b, ovr⟩ := x
      have same : ovr = false := by simpa [byte] using quiet
      simp [byte, hi, same]

/-- ASDU reads the tag that stands at CUR. -/
theorem Frame.walkByte_of_readBytes {fr : Frame} {cur n : Nat} {b : Byte} {bs : List Byte}
    (read : fr.readBytes cur (n + 1) = .ok (b :: bs, false)) : fr.walkByte cur cur = .ok b.toNat := by
  have first : fr.byteAt ((cur : Int) + 0) = some (b, false) := Frame.byteAt_of_readBytes read (Nat.succ_pos n)
  rw [Int.add_zero] at first
  simp only [Frame.walkByte, if_neg (Nat.not_lt.mpr (Nat.le_add_right cur 159)), first, Bool.false_eq_true, if_false]

/-- An element of another tag is no sequence. -/
theorem Frame.asduFind_notSequence {fr : Frame} {cur fld tag : Nat} (named : fld ≤ 9)
    (walk : fr.walkByte cur cur = .ok tag) (short : tag % 32 ≠ 31) (other : tag ≠ 0x30) :
    fr.asduFind cur fld = .fail 1 := by
  have known : ∀ n < 10, (asduField n).isSome := by decide
  obtain ⟨⟨want, width⟩, field⟩ := Option.isSome_iff_exists.mp (known fld (by omega))
  simp only [Frame.asduFind, field, walk, if_neg short, if_pos other]

/-- svID answers where its content lies, which the walk must reach to its end. -/
theorem Frame.asduValue_offset {fr : Frame} {cur c len : Nat} (chan : Nat)
    (reached : (∃ b, fr.walkByte cur (c + len - 1) = .ok b) ∨ len = 0) :
    fr.asduValue cur 0 chan c len = .ok (some c) := by
  rcases reached with ⟨b, last⟩ | empty
  · simp only [Frame.asduValue, asduField, Option.bind_some, last, ite_self]
  · simp only [Frame.asduValue, asduField, Option.bind_some, if_pos empty]

theorem asduCycles_eq (fld : BitVec 4) : asduCycles fld.toNat = if fld = 7 then 7 else if fld = 8 then 12 else 6 := by
  simp only [asduCycles, BitVec.toNat_eq]
  rfl

section
variable {s : State} {f : Fetch} {cs : CompState} {fr : Frame} (h : Issues s f cs fr) (rd rs2 : GReg)
  (disp : BitVec 14) {tag : Nat} (walk : fr.walkByte cs.cur cs.cur = .ok tag)
include h walk

/-- ASDU of a field that its walk does not find. -/
theorem exec_asdu_fails {fld : BitVec 4} {st : Nat} (find : fr.asduFind cs.cur fld.toNat = .fail st) :
    exec (.asdu f rd fld rs2 disp) s = .next (s.issued f (asduCycles fld.toNat)
      ((cs.undecoded tag st).advance (.goto (cs.target disp)))) := by
  refine congrArg Host.Outcome.next (State.issueOn_branches h ?_)
  simp only [find, walk]
  rfl

/-- ASDU of svID. -/
theorem exec_asdu_svId {c len : Nat} (find : fr.asduFind cs.cur 0 = .ok (c, len))
    (reached : (∃ b, fr.walkByte cs.cur (c + len - 1) = .ok b) ∨ len = 0) :
    exec (.asdu f rd 0 rs2 disp) s = .next (s.issued f 6 ({ cs.setG rd (w64 c) with
      dtag := tag, dstat := 0, dlen := len }.advance .seq)) := by
  refine congrArg Host.Outcome.next (State.issueOn_goesOn h ?_)
  simp only [BitVec.ofNat_eq_ofNat, BitVec.toNat_zero, find, walk, Frame.asduValue_offset _ reached, true_or, if_true]
  rw [CompState.setG_decoded]
  rfl

end

/-- Settles O24: a CRC by `hashBytes_crc`, BERX by the cases of its header, and ASDU by its walk, which reads the tag at
CUR as BERX does. That the register in an address counts as signed, and that DTAG takes the tag at CUR even where ASDU
finds its field, are the model's choices (log entries 24 and 107). -/
theorem hashesAndDecoding : Obligations.HashesAndDecoding := by
  constructor
  · intro s f cs fr h rd rs1
    exact ⟨fun alg key seed => State.issueSeq_eq h 1 _, fun nm1 crc => exec_hacc_crc h crc rs1 nm1,
      fun off nm1 bs ovr crc read => exec_hacf_crc h crc read, fun off nm1 a read => exec_hacf_stalls h read,
      fun crc => exec_hfin_crc h crc rd, fun toeplitz => exec_hfin_toeplitz h toeplitz rd⟩
  · intro s f cs fr h rd rs2 any btag disp skip tag l header failed
    have walk := Frame.walkByte_of_readBytes header
    refine ⟨exec_berx_longTag h rd disp skip header, exec_berx_unwanted h rd disp skip header,
      exec_berx_badLength h rd disp skip header, exec_berx_short h rd disp skip header,
      fun short other fld named => ?_, fun c len find reached => exec_asdu_svId h rd rs2 disp walk find reached⟩
    rw [← asduCycles_eq]
    exact exec_asdu_fails h rd rs2 disp walk (Frame.asduFind_notSequence named walk short other)

end Sys2Proof.Machine
end

section
/-! Class S of Binis: the operations of programs on waybills (R114, R115, R180, R185, R193, R203). -/

namespace Sys2Proof.Machine

/-! ### Words of a waybill -/

@[simp] theorem State.wword_count (s : State) (off i j : Nat) : (s.count off).wword i j = s.wword i j := rfl

/-- A write of one word leaves the waybill's others. -/
theorem State.wword_wset_ne (s : State) {i j j' : Nat} (hi lo x : Nat) (other : j' ≠ j) :
    (s.wset i j hi lo x).wword i j' = s.wword i j' :=
  tget_tput_ne _ _ _ _ _ (by omega)

/-- A write of a field leaves a bit beside it that is set. -/
theorem State.bitOf_wset_beside (s : State) {i j hi lo b : Nat} (x : Nat) (order : lo ≤ hi) (width : hi < 64)
    (one : bitOf (s.wword i j) b = true) (beside : b < lo ∨ hi < b) :
    bitOf ((s.wset i j hi lo x).wword i j) b = true := by
  have kept : bitOf (setBits (s.wword i j) hi lo x) b = true := by
    rw [bitOf_setBits _ _ _ _ _ order width, if_neg (by omega), one]
  have listed : setBits (s.wword i j) hi lo x ≠ 0 := fun zero => by simp [zero, bitOf] at kept
  exact (congrArg (bitOf · b) (tget_tput_listed _ _ _ _ listed)).trans kept

/-- A count of operations leaves the pairs of ports. -/
theorem State.pairOf_count (s : State) (t p : Nat) : (s.count R.WBL_C_OPS).pairOf t p = s.pairOf t p := by
  have kept (g : Nat → Fld) (place : ∀ k, (g k).off = R.WBL_PAIR t k) (k : Nat) :
      (s.count R.WBL_C_OPS).fld (g k) = s.fld (g k) := by
    rw [State.fld, s.reg_count_ne (by rw [place, R.WBL_PAIR, R.WBL_C_OPS]; omega), State.fld]
  simp only [State.pairOf, State.flag, kept (F.WBL_PAIR_VALID t) fun _ => rfl, kept (F.WBL_PAIR_PORT_A t) fun _ => rfl,
    kept (F.WBL_PAIR_PORT_B t) fun _ => rfl, kept (F.WBL_PAIR_MODE t) fun _ => rfl,
    kept (F.WBL_PAIR_PATH t) fun _ => rfl]

/-- A word read as a number and written back is the word. -/
theorem w64_toNat (v : W64) : w64 v.toNat = v := (BitVec.ofNat_toNat 64 v).trans v.setWidth_eq

/-! ### Fresh waybills under supervision (R197, R198) -/

/-- A GOOSE waybill that is fresh records, and raises only what DOWN calls for (R198). -/
theorem gsConditions_fresh (w6 : W64) {w7 : W64} (fresh : bitOf w7 3 = true) (rs2 : W64) :
    gsConditions w6 w7 rs2 = (64 * b2n (bitOf w7 4), true, true) := by
  simp only [gsConditions, fresh, Bool.true_or, if_true]

/-- The conditions 0 to 4 and 6 that SVCHK may raise, as a mask (R197). -/
theorem svMask_lt (a b c d e g : Bool) :
    b2n a + 2 * b2n b + 4 * b2n c + 8 * b2n d + 16 * b2n e + 64 * b2n g < 128 := by
  have small (b : Bool) : b2n b ≤ 1 := by cases b <;> decide
  have := small a; have := small b; have := small c; have := small d; have := small e; have := small g
  omega

/-- A fresh SV waybill has no gap, and its conditions stay below bit 7 (R197). -/
theorem svConditions_fresh (w1 w2 w6 : W64) {w7 : W64} (fresh : bitOf w7 3 = true) (time : Stamp) (rs2 : W64) :
    ∃ cond < 128, svConditions w1 w2 w6 w7 time rs2 = (cond, 0, true) := by
  simp only [svConditions, fresh, Bool.true_or, if_true]
  exact ⟨_, svMask_lt _ _ _ _ _ _, rfl⟩

/-- The outcome of a fresh SVCHK shows FRESH and no gap (R197). -/
theorem freshOutcome_shows {cond : Nat} (low : cond < 128) :
    bitOf (w64 (cond + 2 ^ 8)) 8 = true ∧ bitsOf (w64 (cond + 2 ^ 8)) 31 16 = 0 := by
  have value : (w64 (cond + 2 ^ 8)).toNat = cond + 256 := by
    rw [w64, BitVec.toNat_ofNat]
    omega
  constructor
  · rw [bitOf, BitVec.getLsbD, value, Nat.testBit_eq_decide_div_mod_eq, decide_eq_true_eq]
    omega
  · rw [bitsOf, value]
    omega

/-! ### What every operation does first (R114, R203) -/

/-- An index that names no waybill answers ERROR. -/
theorem State.wop_outside (s : State) {i : Nat} (outside : 32768 ≤ i) (uses : List Nat) (bad : Option (Fin 16))
    (body : State → Nat × State) : s.wop i uses bad body = (2, 0, s) := if_pos outside

/-- With no repair queued nothing is repaired. -/
theorem State.wrepair_settled {s : State} {i : Nat} (settled : i ∉ s.wbl.repairs) : s.wrepair i = s :=
  if_neg fun queued => settled (List.contains_iff_mem.mp queued)

/-- A poisoned waybill answers ERROR. -/
theorem State.wop_poisoned {s : State} {i : Nat} (inside : i < 32768) (poisoned : i ∈ s.wbl.poisoned)
    (settled : i ∉ s.wbl.repairs) (uses : List Nat) (bad : Option (Fin 16)) (body : State → Nat × State) :
    s.wop i uses bad body = (2, 0, s.count R.WBL_C_OPS) := by
  have turned : (s.count R.WBL_C_OPS).wbl.poisoned.contains i = true := List.contains_iff_mem.mpr poisoned
  simp only [State.wop, if_neg (Nat.not_le.mpr inside), State.wrepair_settled settled, turned, if_true]

/-- Waybill `i` takes operations: it exists, is not poisoned, and no repair of it is queued. -/
structure WaybillReady (s : State) (i : Nat) : Prop where
  inside : i < 32768
  sound : i ∉ s.wbl.poisoned
  settled : i ∉ s.wbl.repairs

section
variable {s : State} {i : Nat} (ready : WaybillReady s i)
include ready

/-- An operation whose words are sound counts and answers what its body gives. -/
theorem State.wop_ready (uses : List Nat) (body : State → Nat × State) : s.wop i uses none body =
    (1, w64 (body (s.count R.WBL_C_OPS)).1, (body (s.count R.WBL_C_OPS)).2) := by
  have sound : i ∉ (s.count R.WBL_C_OPS).wbl.poisoned := ready.sound
  simp only [State.wop, if_neg (Nat.not_le.mpr ready.inside), State.wrepair_settled ready.settled,
    List.contains_iff_mem, if_neg sound, Option.bind_none, Bool.false_eq_true, if_false]

/-- The same, where the body is known to give value `v` and state `u`. -/
theorem State.wop_answers {uses : List Nat} {body : State → Nat × State} {v : Nat} {w0 : W64} {u : State}
    (hb : body (s.count R.WBL_C_OPS) = (v, u)) (hv : w64 v = w0) : s.wop i uses none body = (1, w0, u) := by
  rw [State.wop_ready ready, hb, hv]

/-- An operation that finds a word it reads bad answers ERROR and reports the word. -/
theorem State.wop_badWord {uses : List Nat} {b : Fin 16} (used : b.val ∈ uses) (body : State → Nat × State) :
    s.wop i uses (some b) body = (2, 0, (s.count R.WBL_C_OPS).wparity i b.val) := by
  have sound : i ∉ (s.count R.WBL_C_OPS).wbl.poisoned := ready.sound
  simp only [State.wop, if_neg (Nat.not_le.mpr ready.inside), State.wrepair_settled ready.settled,
    List.contains_iff_mem, if_neg sound, Option.bind_some, used, if_true]

/-! ### READ and ADD (R114, R185, R186) -/

theorem State.wRead_ready (word : Nat) : s.wRead i word none = (1, s.wword i word, s.count R.WBL_C_OPS) :=
  State.wop_answers ready rfl (w64_toNat _)

theorem State.wAdd_plain {word : Nat} (addend : W64) (valid : bitOf (s.wword i 0) 63 = true)
    (plain : wPlain (s.wword i 0) = true) (user : 3 ≤ word) : s.wAdd i word addend none =
      (1, s.wword i word, (s.count R.WBL_C_OPS).setWword i word (s.wword i word + addend)) := by
  refine State.wop_answers ready ?_ (w64_toNat _)
  simp only [State.wword_count, wVALID, valid, plain, Nat.not_lt.mpr user, Bool.true_eq_false, or_self, if_false]

theorem State.wAdd_invalid (word : Nat) (addend : W64) (invalid : bitOf (s.wword i 0) 63 = false) :
    s.wAdd i word addend none = (1, s.wword i word, (s.count R.WBL_C_OPS).wmisuse) :=
  State.wop_answers ready (if_pos (.inl invalid)) (w64_toNat _)

/-! ### DUPCHK (R188, R189) -/

/-- The first DUPCHK after arming accepts its frame, whatever its sequence number, and counts it. -/
theorem State.wDupchk_takeAny (x : OpCtx) {rs2 : W64} (valid : bitOf (s.wword i 0) 63 = true)
    (red : bitOf (s.wword i 0) 62 = true) (hsr : bitsOf (s.wword i 0) 61 60 ≠ 0)
    (takeAny : bitOf (s.wword i 7) 2 = true) (unpaired : s.pairOf x.tag x.port = none)
    (even : bitsOf rs2 19 16 % 2 = 0) : ∃ u, s.wDupchk i x rs2 none = (1, 1, u) ∧
      u.wbl.counters = (s.wadd i 0 1).wbl.counters ∧ u = { s.count R.WBL_C_OPS with wbl := u.wbl } := by
  let ms := msOf x.time
  let t := ((s.count R.WBL_C_OPS).wset i 3 31 16 ms).wset i 7 1 1 0
  have first : bitOf (t.wword i 7) 2 = true := by
    refine State.bitOf_wset_beside _ 0 (by decide) (by decide) ?_ (.inr (by decide))
    rw [State.wword_wset_ne _ _ _ _ (by decide)]
    exact takeAny
  refine ⟨(t.wset i 7 2 2 0).waccept i (bitsOf rs2 15 0) 1 ms, ?_, rfl, rfl⟩
  refine State.wop_answers (v := 1) ready ?_ rfl
  have loop : (bitsOf (s.wword i 0) 61 60 == 0) = false := beq_eq_false_iff_ne.mpr hsr
  simp only [State.wword_count, wVALID, wRED, valid, red, loop, State.pairOf_count, unpaired, even, Bool.true_eq_false,
    Bool.false_eq_true, false_and, Bool.false_and, or_self, if_false, if_true]
  exact if_pos first

/-! ### SVCHK and GSCHK (R197, R198) -/

theorem State.wSvchk_otherKind (x : OpCtx) (rs2 : W64) (other : bitsOf (s.wword i 0) 59 58 ≠ 1) :
    s.wSvchk i x rs2 none = (1, w64 (2 ^ 15), (s.count R.WBL_C_OPS).wmisuse) :=
  State.wop_answers ready (if_pos (.inr other)) rfl

theorem State.wGschk_invalid (x : OpCtx) (rs2 : W64) (invalid : bitOf (s.wword i 0) 63 = false) :
    s.wGschk i x rs2 none = (1, w64 (2 ^ 15), (s.count R.WBL_C_OPS).wmisuse) :=
  State.wop_answers ready (if_pos (.inl invalid)) rfl

theorem State.wGschk_fresh (x : OpCtx) (rs2 : W64) (valid : bitOf (s.wword i 0) 63 = true)
    (goose : bitsOf (s.wword i 0) 59 58 = 2) (fresh : bitOf (s.wword i 7) 3 = true) :
    s.wGschk i x rs2 none = (1, w64 (64 * b2n (bitOf (s.wword i 7) 4) + 2 ^ 8),
      (((s.count R.WBL_C_OPS).setWword i 6 rs2).wsupervised i x.time).wconds i
        (64 * b2n (bitOf (s.wword i 7) 4)) x.time) := by
  refine State.wop_answers ready ?_ rfl
  simp only [State.wword_count, wVALID, wSUP, valid, goose, gsConditions_fresh _ fresh, Bool.true_eq_false, ne_eq,
    not_true_eq_false, or_self, if_false, if_true, b2n, Nat.one_mul]

theorem State.wSvchk_fresh (x : OpCtx) (rs2 : W64) (valid : bitOf (s.wword i 0) 63 = true)
    (sv : bitsOf (s.wword i 0) 59 58 = 1) (fresh : bitOf (s.wword i 7) 3 = true) :
    ∃ u w0, s.wSvchk i x rs2 none = (1, w0, u) ∧ bitOf w0 8 = true ∧ bitsOf w0 31 16 = 0 := by
  obtain ⟨cond, low, conditions⟩ := svConditions_fresh (s.wword i 1) (s.wword i 2) (s.wword i 6) fresh x.time rs2
  refine ⟨_, _, State.wop_ready ready _ _, ?_⟩
  simp only [State.wword_count, wVALID, wSUP, valid, sv, conditions, Bool.true_eq_false, ne_eq, not_true_eq_false,
    or_self, if_false]
  exact freshOutcome_shows low

/-! ### METER (R193) -/

theorem State.wMeter_invalid (x : OpCtx) (rs2 : W64) (invalid : bitOf (s.wword i 0) 63 = false) :
    s.wMeter i x rs2 none = (1, 0, (s.count R.WBL_C_OPS).wmisuse) := by
  rw [State.wMeter]
  exact State.wop_answers ready (if_pos invalid) rfl

theorem State.wMeter_plain (x : OpCtx) (rs2 : W64) (valid : bitOf (s.wword i 0) 63 = true)
    (plain : wPlain (s.wword i 0) = true) (noMeter : bitOf (s.wword i 0) 57 = false)
    (noGate : bitOf (s.wword i 0) 56 = false) (anySize : bitsOf (s.wword i 0) 30 17 = 0) :
    s.wMeter i x rs2 none = (1, 0, s.count R.WBL_C_OPS) := by
  rw [State.wMeter]
  refine State.wop_answers (v := 0) ready ?_ rfl
  simp only [State.wword_count, wVALID, valid, plain, noMeter, noGate, anySize]
  rfl

end

/-! ### The issue of an operation (R115, R180) -/

theorem wPlain_of_fields {w0 : W64} (notRed : bitOf w0 62 = false) (notSup : bitsOf w0 59 58 = 0) :
    wPlain w0 = true := by
  simp only [wPlain, wRED, wSUP, notRed, notSup]
  rfl

/-- The block after a waybill operation that answers `r`: status, word 0 and what the unit left. The answer waits under
the tag, and the compositor has moved on after one cycle. -/
def State.wbopDone (f : Fetch) (cs : CompState) (tag : BitVec 3) (r : Nat × W64 × State) : State :=
  let c := f.comp.val
  ((r.2.2.countStall c).countN (R.CMP_C_ISSUE_CYCLES (c / 8) (c % 8)) 1).setComp c
    { (cs.setSlot tag.toNat (.waiting (.waybill r.1 r.2.1))).advance .seq with
      cyc := cs.cyc + 1, stall := none, lwait := none }

section
variable {s : State} {f : Fetch} {cs : CompState} {fr : Frame} (h : Issues s f cs fr) (tag : BitVec 3) {rs1 : GReg}
include h

/-- A waybill operation is performed as it issues, and its outcome waits under its tag. -/
theorem State.wbop_eq (op : State → Nat → OpCtx → CompState → Nat × W64 × State) :
    s.wbop f tag rs1 op = .next (State.wbopDone f cs tag
      (op s (cs.greg rs1).toNat ⟨fr.inPort, fr.tag, s.passStamp fr⟩ cs)) := by
  have comp := h.comp
  refine congrArg Host.Outcome.next ((State.issueOn_goesOn h rfl).trans ?_)
  rw [State.issuedOn, comp, State.wbopDone]

variable {bad : Option (Fin 16)} {r : Nat × W64 × State}

theorem exec_wbopRead {word : Fin 8} (answer : s.wRead (cs.greg rs1).toNat word.val bad = r) :
    exec (.wbopRead f tag rs1 word bad) s = .next (State.wbopDone f cs tag r) :=
  answer ▸ State.wbop_eq h tag fun s i _ _ => s.wRead i word.val bad

theorem exec_wbopAdd {rs2 : GReg} {word : Fin 8}
    (answer : s.wAdd (cs.greg rs1).toNat word.val (cs.greg rs2) bad = r) :
    exec (.wbopAdd f tag rs1 rs2 word bad) s = .next (State.wbopDone f cs tag r) :=
  answer ▸ State.wbop_eq h tag fun s i _ cs => s.wAdd i word.val (cs.greg rs2) bad

theorem exec_dupchk {rs2 : GReg}
    (answer : s.wDupchk (cs.greg rs1).toNat ⟨fr.inPort, fr.tag, s.passStamp fr⟩ (cs.greg rs2) bad = r) :
    exec (.dupchk f tag rs1 rs2 bad) s = .next (State.wbopDone f cs tag r) :=
  answer ▸ State.wbop_eq h tag fun s i x cs => s.wDupchk i x (cs.greg rs2) bad

theorem exec_svchk {rs2 : GReg}
    (answer : s.wSvchk (cs.greg rs1).toNat ⟨fr.inPort, fr.tag, s.passStamp fr⟩ (cs.greg rs2) bad = r) :
    exec (.svchk f tag rs1 rs2 bad) s = .next (State.wbopDone f cs tag r) :=
  answer ▸ State.wbop_eq h tag fun s i x cs => s.wSvchk i x (cs.greg rs2) bad

theorem exec_gschk {rs2 : GReg}
    (answer : s.wGschk (cs.greg rs1).toNat ⟨fr.inPort, fr.tag, s.passStamp fr⟩ (cs.greg rs2) bad = r) :
    exec (.gschk f tag rs1 rs2 bad) s = .next (State.wbopDone f cs tag r) :=
  answer ▸ State.wbop_eq h tag fun s i x cs => s.wGschk i x (cs.greg rs2) bad

theorem exec_meter {rs2 : GReg}
    (answer : s.wMeter (cs.greg rs1).toNat ⟨fr.inPort, fr.tag, s.passStamp fr⟩ (cs.greg rs2) bad = r) :
    exec (.meter f tag rs1 rs2 bad) s = .next (State.wbopDone f cs tag r) :=
  answer ▸ State.wbop_eq h tag fun s i x cs => s.wMeter i x (cs.greg rs2) bad

/-- WBIND takes an index that names a waybill, and sets OVR for any other. -/
theorem exec_wbind : exec (.wbind f rs1) s = .next (s.issued f 1
    ((if (cs.greg rs1).toNat < 32768 then { cs with wbl := some (cs.greg rs1).toNat }
      else { cs with ovr := true }).advance .seq)) :=
  State.issueSeq_eq h 1 _

end

/-- Settles O25: each instruction carries what its operation answers, and the operation answers by its cases on a
waybill that is ready. -/
theorem waybillOperations : Obligations.WaybillOperations := by
  intro s f cs fr h tag rs1 rs2 word bad i x done t
  refine ⟨fun outside => ⟨exec_wbopRead h tag (s.wop_outside outside _ bad _),
      exec_dupchk h tag (s.wop_outside outside _ bad _)⟩,
    fun inside poisoned settled => exec_svchk h tag (State.wop_poisoned inside poisoned settled _ none _),
    fun inside sound settled => ?_, exec_wbind h⟩
  have ready : WaybillReady s i := ⟨inside, sound, settled⟩
  refine ⟨exec_wbopRead h tag (State.wRead_ready ready word), fun b same => ?_,
    fun valid notRed notSup user =>
      exec_wbopAdd h tag (State.wAdd_plain ready _ valid (wPlain_of_fields notRed notSup) user),
    fun invalid => exec_wbopAdd h tag (State.wAdd_invalid ready word _ invalid),
    fun valid red hsr takeAny unpaired even => ?_,
    fun other => exec_svchk h tag (State.wSvchk_otherKind ready x _ other),
    fun invalid => exec_gschk h tag (State.wGschk_invalid ready x _ invalid),
    fun valid goose fresh => exec_gschk h tag (State.wGschk_fresh ready x _ valid goose fresh),
    fun valid sv fresh => ?_,
    fun invalid => exec_meter h tag (State.wMeter_invalid ready x _ invalid),
    fun valid notRed notSup noMeter noGate anySize => exec_meter h tag
      (State.wMeter_plain ready x _ valid (wPlain_of_fields notRed notSup) noMeter noGate anySize)⟩
  · refine exec_wbopRead h tag ?_
    rw [← same]
    exact State.wop_badWord ready (List.mem_singleton.mpr rfl) _
  · obtain ⟨u, accepts, frame⟩ := State.wDupchk_takeAny ready x valid red hsr takeAny unpaired even
    exact ⟨u, exec_dupchk h tag accepts, frame⟩
  · obtain ⟨u, w0, answers, shows⟩ := State.wSvchk_fresh ready x (cs.greg rs2) valid sv fresh
    exact ⟨u, w0, exec_svchk h tag answers, shows⟩

end Sys2Proof.Machine
end

section
/-! The Keeper's own steps (R142 to R147, R153): what stands in its input, and the ageing visit. -/

namespace Sys2Proof.Machine

/-! ### The Keeper's input (R143) -/

/-- A halted Keeper serves nothing (R402). -/
theorem State.keeperThrough_halted {s : State} (halted : s.keeperHalted = true) (p : KprInput → Bool)
    (bad : ParityBad) : s.keeperThrough p bad = s := if_pos halted

/-- Where nothing waits the Keeper does nothing. -/
theorem State.keeperThrough_nil {s : State} (idle : s.ledger.input = []) (p : KprInput → Bool) (bad : ParityBad) :
    s.keeperThrough p bad = s := by
  have same : ({ s with ledger := { s.ledger with input := [] } } : State) = s := by rw [← idle]
  rw [State.keeperThrough, idle]
  exact ite_eq_left_iff.mpr fun _ => same

/-- The Keeper serves the front of its input alone where that is what is asked for. -/
theorem State.keeperThrough_front {s : State} {x : KprInput} {rest : List KprInput} {p : KprInput → Bool}
    (front : s.ledger.input = x :: rest) (working : s.keeperHalted = false) (asked : p x = true) (bad : ParityBad) :
    s.keeperThrough p bad = State.keeperServe bad { s with ledger := { s.ledger with input := rest } } x := by
  simp only [State.keeperThrough, working, front, inputThrough, asked, if_true, Bool.false_eq_true, if_false,
    List.foldl_cons, List.foldl_nil]

theorem exec_learnRequest_front {s : State} {r : LearnReq} {rest : List KprInput}
    (front : s.ledger.input = .learn r :: rest) (working : s.keeperHalted = false) (bad : ParityBad) :
    exec (.learnRequest bad) s =
      .next (({ s with ledger := { s.ledger with input := rest } } : State).learnApply r bad) :=
  congrArg Host.Outcome.next (State.keeperThrough_front front working rfl bad)

/-- A key that one static entry holds under the only seed is not learned (R144). -/
theorem State.learnApply_static {s : State} {r : LearnReq} {seed a : Nat} (seeds : s.l2Seeds = [seed])
    (static : (s.l2Match seed (bitsOf r.key 59 0) fun x => !isLearned x) = [a]) (bad : ParityBad) :
    s.learnApply r bad = s.count R.LDG_C_LEARN_STATIC := by
  have found : ([seed].flatMap fun sd => s.l2Match sd (bitsOf r.key 59 0) fun x => !isLearned x).eraseDups.isEmpty =
      false := by
    rw [List.flatMap_singleton, static]
    rfl
  rw [State.learnApply, seeds]
  exact if_pos found

/-! ### PARITY_INVALIDATE (R153) -/

/-- An invalidation at the front of the input is carried out; both numbers of the L2 table name it (R104). -/
theorem exec_parityInvalidate_front {s : State} {table : Fin 6} {addr : BitVec 18} {rest : List KprInput}
    (front : s.ledger.input = .invalidate (tblOf table.val) addr.toNat :: rest) (working : s.keeperHalted = false) :
    exec (.parityInvalidate table addr) s =
      .next (({ s with ledger := { s.ledger with input := rest } } : State).invalidateWhole (tblOf table.val)
        addr.toNat) := by
  have queued : s.ledger.input.contains (.invalidate (tblOf table.val) addr.toNat) = true := by
    rw [front, List.contains_cons, beq_self_eq_true, Bool.true_or]
  refine congrArg Host.Outcome.next ((if_pos queued).trans ?_)
  exact State.keeperThrough_front (p := (· == .invalidate (tblOf table.val) addr.toNat)) front working
    (beq_self_eq_true _) []

/-- An invalidation that the Keeper has carried out already is not made again. -/
theorem exec_parityInvalidate_gone {s : State} {table : Fin 6} {addr : BitVec 18}
    (gone : KprInput.invalidate (tblOf table.val) addr.toNat ∉ s.ledger.input) :
    exec (.parityInvalidate table addr) s = .next s :=
  congrArg Host.Outcome.next (if_neg fun queued => gone (List.contains_iff_mem.mp queued))

theorem exec_parityInvalidate_halted {s : State} (halted : s.keeperHalted = true) (table : Fin 6) (addr : BitVec 18) :
    exec (.parityInvalidate table addr) s = .next s :=
  congrArg Host.Outcome.next (ite_eq_right_iff.mpr fun _ => s.keeperThrough_halted halted _ [])

/-! ### AGEING_STEP (R142, R146) -/

/-- What a visit of the Keeper does to the L2 address `a`: nothing to a free way, to a static entry and to a placement
under a further seed; a bad entry is reported and invalidated; any other ages. -/
def State.ageVisit (s : State) (a : Nat) (bad : ParityBad) : State :=
  let e := s.entry 0 a
  let first := s.l2Match (s.l2Seeds.headD 0) (l2Key e) isLearned
  if !entryValid 0 e then s
  else if bad.has 0 a then s.parityHit 0 a
  else if !isLearned e || (!first.isEmpty && !first.contains a) then s
  else s.ageEntry a

theorem exec_ageingStep_halted {s : State} (halted : s.keeperHalted = true) (bad : ParityBad) :
    exec (.ageingStep bad) s = .next s := by
  refine congrArg Host.Outcome.next (if_pos ?_)
  rw [halted, Bool.true_or]

/-- A step with no input waiting visits the next address and moves on past it. -/
theorem exec_ageingStep {s : State} (working : s.keeperHalted = false) (ageing : s.flag F.LDG_AGE_CFG_AGE_EN = true)
    (idle : s.ledger.input = []) (bad : ParityBad) : exec (.ageingStep bad) s =
      .next (({ s with ledger := { s.ledger with ageAt := (s.ledger.ageAt + 1) % 262144 } } : State).ageVisit
        s.ledger.ageAt bad) := by
  have drained : s.drainLearn bad = s := s.keeperThrough_nil idle _ bad
  show execAgeingStep bad s = _
  simp only [execAgeingStep, working, ageing, State.agedPast, drained, Bool.not_true, Bool.or_self, Bool.false_eq_true,
    if_false]
  rfl

section
variable {s : State} {a : Nat} {bad : ParityBad}

theorem State.ageVisit_free (free : entryValid 0 (s.entry 0 a) = false) : s.ageVisit a bad = s :=
  if_pos (by rw [free, Bool.not_false])

theorem State.ageVisit_bad (valid : entryValid 0 (s.entry 0 a) = true) (fails : bad.has 0 a = true) :
    s.ageVisit a bad = s.parityHit 0 a := by
  rw [State.ageVisit, valid]
  exact if_pos fails

/-- A static entry does not age, whether its way is valid or free. -/
theorem State.ageVisit_static (sound : bad.has 0 a = false) (static : isLearned (s.entry 0 a) = false) :
    s.ageVisit a bad = s := by
  cases valid : entryValid 0 (s.entry 0 a) with
  | false => exact State.ageVisit_free valid
  | true =>
    rw [State.ageVisit, valid, sound, static]
    rfl

variable (valid : entryValid 0 (s.entry 0 a) = true) (sound : bad.has 0 a = false)
  (learned : isLearned (s.entry 0 a) = true)
include valid sound learned

/-- Of a learned entry's placements the one under the active forme's seed ages (R142). -/
theorem State.ageVisit_learned : s.ageVisit a bad =
    let first := s.l2Match (s.l2Seeds.headD 0) (l2Key (s.entry 0 a)) isLearned
    if first ≠ [] ∧ a ∉ first then s else s.ageEntry a := by
  have elsewhere (first : List Nat) : (!first.isEmpty && !first.contains a) = true ↔ first ≠ [] ∧ a ∉ first := by
    rw [Bool.and_eq_true, Bool.not_eq_true', Bool.not_eq_true', List.isEmpty_eq_false_iff, List.contains_eq_mem,
      decide_eq_false_iff_not]
  simp only [State.ageVisit, valid, sound, learned, Bool.not_true, Bool.false_or, Bool.false_eq_true, if_false,
    elsewhere]

end

/-- The second word of a learned entry at an ageing step: its AGE, and its flap count halved (R145, R146). -/
def agedWord (age : Nat) (w : W64) : W64 := setBits (setBits w 63 56 age) 55 48 (bitsOf w 55 48 / 2)

/-- An address named twice is one placement. -/
theorem eraseDups_pair (a : Nat) : [a, a].eraseDups = [a] := by simp [List.eraseDups_cons]

/-- An entry with one placement that was seen starts its age again (R146). -/
theorem State.ageEntry_seen {s : State} {a : Nat} (one : s.placements (l2Key (s.entry 0 a)) = [a])
    (seen : s.activity a = true) : s.ageEntry a =
      (s.setActivity a false).setEntry 0 a ((s.entry 0 a).set 1 (agedWord 0 (entryWord (s.entry 0 a) 1))) := by
  simp only [State.ageEntry, one, eraseDups_pair, List.any_cons, List.any_nil, Bool.or_false, seen,
    if_true, Bool.true_eq_false, false_and, if_false]
  rfl

/-- One that was not seen grows older, and goes at the limit (R146). -/
theorem State.ageEntry_unseen {s : State} {a : Nat} (one : s.placements (l2Key (s.entry 0 a)) = [a])
    (unseen : s.activity a = false) : s.ageEntry a =
      let age := min 255 (bitsOf (entryWord (s.entry 0 a) 1) 63 56 + 1)
      let u := (s.setActivity a false).setEntry 0 a ((s.entry 0 a).set 1 (agedWord age (entryWord (s.entry 0 a) 1)))
      if s.fld F.LDG_AGE_CFG_LIMIT ≤ age then (u.invalidate 0 a).count R.LDG_C_AGED_OUT else u := by
  simp only [State.ageEntry, one, eraseDups_pair, List.any_cons, List.any_nil, Bool.or_false, unseen,
    Bool.false_eq_true, if_false, true_and]
  rfl

/-- Settles O28: the Keeper's input by its front, the ageing step by the visited entry. That an entry ages where the
first seed places it is the model's choice (log entry 85). -/
theorem keeperSteps : Obligations.KeeperSteps := by
  intro s
  refine ⟨fun idle bad => congrArg Host.Outcome.next (s.keeperThrough_nil idle _ bad),
    fun r rest bad front working => exec_learnRequest_front front working bad,
    fun r rest bad seed a front working seeds static => ?_, fun bad working ageing idle => ?_,
    fun table addr => ⟨fun rest front working => exec_parityInvalidate_front front working,
      exec_parityInvalidate_gone⟩,
    fun halted => ⟨fun bad => congrArg Host.Outcome.next (s.keeperThrough_halted halted _ bad),
      exec_ageingStep_halted halted, exec_parityInvalidate_halted halted⟩⟩
  · rw [exec_learnRequest_front front working]
    exact congrArg Host.Outcome.next
      (State.learnApply_static (s := { s with ledger := { s.ledger with input := rest } }) seeds static bad)
  · intro a e w t first
    have visit {u : State} (h : t.ageVisit a bad = u) : exec (.ageingStep bad) s = .next u :=
      (exec_ageingStep working ageing idle bad).trans (congrArg Host.Outcome.next h)
    refine ⟨fun free => visit (State.ageVisit_free (s := t) free),
      fun valid fails => visit (State.ageVisit_bad (s := t) valid fails),
      fun sound static => visit (State.ageVisit_static (s := t) sound static),
      fun valid sound learned placed elsewhere => ?_, fun valid sound learned here => ?_⟩
    · exact visit ((State.ageVisit_learned (s := t) valid sound learned).trans (if_pos ⟨placed, elsewhere⟩))
    · have ages : t.ageVisit a bad = t.ageEntry a :=
        (State.ageVisit_learned (s := t) valid sound learned).trans (if_neg fun away => here.elim away.1 away.2)
      exact ⟨visit ages, fun one seen => visit (ages.trans (State.ageEntry_seen (s := t) one seen)),
        fun one unseen => visit (ages.trans (State.ageEntry_unseen (s := t) one unseen))⟩

end Sys2Proof.Machine
end

section
/-! The control instructions that stage, discard, verify and load a forme (R135, R238, R239, R287, R289). -/

namespace Sys2Proof.Machine

/-! ### A control instruction that comes by itself (R290) -/

section
variable {s : State} (running : s.boot.mode = .running) {r : KRes × State}
include running

/-- In RUNNING an instruction that comes by itself leaves its effect and its result. -/
theorem State.ctrl_running (f : State → KRes × State) (result : f s = r) :
    (.next (s.ctrlAlone fun s => s.ctrlGate f) : Out State) = .next (State.did r) := by
  rw [State.ctrlAlone_running running, State.ctrlGate_running running, result]
  rfl

theorem exec_fstage {inh : Bool} {seed : BitVec 32} {bad : ParityBad} (result : s.formeStage inh seed.toNat bad = r) :
    exec (.fstage inh seed bad) s = .next (State.did r) :=
  State.ctrl_running running (·.formeStage inh seed.toNat bad) result

theorem exec_fdiscard (result : s.formeDiscard = r) : exec .fdiscard s = .next (State.did r) :=
  State.ctrl_running running State.formeDiscard result

theorem exec_fverify (result : s.formeVerify = r) : exec .fverify s = .next (State.did r) :=
  State.ctrl_running running State.formeVerify result

theorem exec_fcommit (result : s.formeCommit = r) : exec .fcommit s = .next (State.did r) :=
  State.ctrl_running running State.formeCommit result

theorem exec_fload {addr : BitVec 40} {finds : EccFinds} (result : s.formeLoad addr.toNat finds = r) :
    exec (.fload addr finds) s = .next (State.did r) :=
  State.ctrl_running running (·.formeLoad addr.toNat finds) result

end

/-! ### FSTAGE (R135, R238) -/

/-- Before the first lock-up no tag is active (R258). -/
theorem State.activeTag_none {s : State} (first : s.flag F.FRM_STATUS_VALID = false) : s.activeTag = none :=
  if_neg (ne_true_of_eq_false first)

section
variable {s : State} (working : s.keeperHalted = false) (first : s.flag F.FRM_STATUS_VALID = false) (inh : Bool)
  (seed : Nat) (bad : ParityBad)
include working first

theorem State.formeStage_sweep (sweep : s.ledger.sweep = some 0) : s.formeStage inh seed bad = ((4, 0, []), s) := by
  rw [State.formeStage, State.activeTag_none first, working]
  exact if_pos sweep

theorem State.formeStage_resident (still : s.ledger.sweep ≠ some 0) (resident : s.tagState 0 ≠ 0) :
    s.formeStage inh seed bad = ((0x10, 0, []), s) := by
  rw [State.formeStage, State.activeTag_none first, working]
  exact (if_neg still).trans (if_pos (.inl resident))

/-- The first forme is staged empty, under tag 0. -/
theorem State.formeStage_first (still : s.ledger.sweep ≠ some 0) (empty0 : s.tagState 0 = 0)
    (empty1 : s.tagState 1 = 0) : s.formeStage inh seed bad =
      (let l := (s.drainLearn bad).ledgerStage 0 none seed bad
      let u := (((l.watchStage 0 none).stageRegs 0 none).stageEgress 0 none).dropTerms 0
      ((0, 0, []), (u.setImage 0 Image.init).setTagState 0 1)) := by
  have allowed : ¬(s.tagState 0 ≠ 0 ∨ s.tagState (1 - 0) ≠ 0 ∧ s.tagState (1 - 0) ≠ 3) :=
    not_or.mpr ⟨not_not_intro empty0, fun other => other.1 empty1⟩
  have nothing : (if inh = true then (none : Option Nat) else none) = none := ite_self none
  simp only [State.formeStage, State.activeTag_none first, working, Bool.false_eq_true, if_false, if_neg still,
    if_neg allowed, nothing]

end

/-! ### The cases of the Keeper and of the staged tag (R287, R289) -/

section
variable {s : State} (halted : s.keeperHalted = true)
include halted

theorem State.formeStage_halted (inh : Bool) (seed : Nat) (bad : ParityBad) :
    s.formeStage inh seed bad = ((0x16, 0, []), s) := if_pos halted
theorem State.formeDiscard_halted : s.formeDiscard = ((0x16, 0, []), s) := if_pos halted
theorem State.formeVerify_halted : s.formeVerify = ((0x16, 0, []), s) := if_pos halted
theorem State.formeCommit_halted : s.formeCommit = ((0x16, 0, []), s) := if_pos halted

end

section
variable {s : State} (working : s.keeperHalted = false)
include working

theorem State.formeDiscard_unstaged (unstaged : s.stagedTag = none) : s.formeDiscard = ((0x10, 0, []), s) := by
  rw [State.formeDiscard, working, unstaged]
  rfl

theorem State.formeVerify_unstaged (unstaged : s.stagedTag = none) : s.formeVerify = ((0x10, 0, []), s) := by
  rw [State.formeVerify, working, unstaged]
  rfl

theorem State.formeCommit_unstaged (unstaged : s.stagedTag = none) : s.formeCommit = ((0x10, 0, []), s) := by
  rw [State.formeCommit, working, unstaged]
  rfl

variable {t : Nat} (staged : s.stagedTag = some t)
include staged

theorem State.formeDiscard_staged : s.formeDiscard = ((0, 0, []), s.beginRelease t) := by
  rw [State.formeDiscard, working, staged]
  rfl

theorem State.formeVerify_staged : s.formeVerify =
    ((if (s.verifyTag t).record = 0 then 0 else 0x12, 0, [(s.verifyTag t).record]), s) := by
  rw [State.formeVerify, working, staged]
  rfl

end

/-! ### FLOAD (R287) -/

/-- What FLOAD does with the whole image, of bytes `bytes`. -/
def State.loadImage (s : State) (t : Nat) (bytes : List Byte) : KRes × State :=
  match imageCheck s.boot.otp 3 (slotRoom 0) 0 bytes with
  | .error _ => ((0x13, 0, []), s)
  | .ok image =>
    match (imageSection image 4).bind parseProgram with
    | none => ((0x13, 0, []), s)
    | some (words, entries) =>
      let r := verifyImage words entries (s.budgetOf t) []
      let result := [r.record, w64 (imageCrc words)]
      if r.record = 0 then ((0, words.length, result), s.setImage t ⟨words, entries, true, r.info⟩)
      else ((0x12, words.length, result), s)

/-- What FLOAD does once it has the image's first burst `h`. -/
def State.loadFrom (s : State) (t addr : Nat) (finds : EccFinds) (h : List Byte) : KRes × State :=
  let total := beAt h 8 4
  if slotRoom 0 < total then ((0x13, 0, []), s)
  else if s.ddrMapped addr (max 64 total) = false then ((0x15, 0, []), s)
  else match s.ddrRead 5 (addr + 64) (total - 64) (finds.after 1) with
    | (none, u) => ((0x15, 0, []), u)
    | (some rest, u) => u.loadImage t (h ++ rest)

section
variable {s : State} {t addr : Nat} {finds : EccFinds}

section
variable (working : s.keeperHalted = false) (unfenced : s.fencedSrc 0x605 = false) (staged : s.stagedTag = some t)
include working unfenced staged

theorem State.formeLoad_address (outside : addr % 4096 ≠ 0 ∨ s.ddrMapped addr 64 = false) :
    s.formeLoad addr finds = ((0x15, 0, []), s) := by
  rw [State.formeLoad, working, unfenced, Bool.or_self, if_neg Bool.false_ne_true, staged]
  exact if_pos outside

theorem State.formeLoad_header (aligned : addr % 4096 = 0) (mapped : s.ddrMapped addr 64 = true) {h : List Byte}
    {u : State} (head : s.ddrRead 5 addr 64 finds = (some h, u)) :
    s.formeLoad addr finds = u.loadFrom t addr finds h := by
  have inside : ¬(addr % 4096 ≠ 0 ∨ s.ddrMapped addr 64 = false) :=
    not_or.mpr ⟨not_not_intro aligned, ne_false_of_eq_true mapped⟩
  rw [State.formeLoad, working, unfenced, Bool.or_self, if_neg Bool.false_ne_true, staged]
  refine (if_neg inside).trans ?_
  rw [head, State.loadFrom]
  refine ite_congr rfl (fun _ => rfl) fun _ => ite_congr rfl (fun _ => rfl) fun _ => ?_
  obtain ⟨body, v⟩ := u.ddrRead 5 (addr + 64) (beAt h 8 4 - 64) (finds.after 1)
  cases body <;> rfl

end

/-- An image longer than a primary slot is not read further. -/
theorem State.loadFrom_tooLong {h : List Byte} (long : slotRoom 0 < beAt h 8 4) :
    s.loadFrom t addr finds h = ((0x13, 0, []), s) := if_pos long

theorem State.loadFrom_whole {h rest : List Byte} {v : State} (fits : beAt h 8 4 ≤ slotRoom 0)
    (whole : s.ddrMapped addr (max 64 (beAt h 8 4)) = true)
    (body : s.ddrRead 5 (addr + 64) (beAt h 8 4 - 64) (finds.after 1) = (some rest, v)) :
    s.loadFrom t addr finds h = v.loadImage t (h ++ rest) := by
  refine (if_neg (Nat.not_lt.mpr fits)).trans ((if_neg (ne_false_of_eq_true whole)).trans ?_)
  rw [body]

theorem State.loadImage_unsound {bytes : List Byte} {e : ImageFail}
    (unsound : imageCheck s.boot.otp 3 (slotRoom 0) 0 bytes = .error e) :
    s.loadImage t bytes = ((0x13, 0, []), s) := by
  rw [State.loadImage, unsound]

/-- The program of a sound image becomes the staged tag's image where the verifier accepts it. -/
theorem State.loadImage_program {bytes image : List Byte} {words : List W64} {entries : List (Nat × Nat)}
    (sound : imageCheck s.boot.otp 3 (slotRoom 0) 0 bytes = .ok image)
    (program : (imageSection image 4).bind parseProgram = some (words, entries)) :
    s.loadImage t bytes = (let r := verifyImage words entries (s.budgetOf t) []
      let result := [r.record, w64 (imageCrc words)]
      if r.record = 0 then ((0, words.length, result), s.setImage t ⟨words, entries, true, r.info⟩)
      else ((0x12, words.length, result), s)) := by
  rw [State.loadImage, sound]
  dsimp only
  rw [program]

end

/-- Settles O37: each instruction by the cases of its result. BUSY ahead of STATE, and SIGNATURE for an image that is
too long, are the model's choices (log entries 68 and 81). -/
theorem stagingCommands : Obligations.StagingCommands := by
  intro s running
  refine ⟨fun inh seed bad working first => ⟨
      fun sweep => exec_fstage running (State.formeStage_sweep working first inh _ bad sweep),
      fun still resident => exec_fstage running (State.formeStage_resident working first inh _ bad still resident),
      fun still empty0 empty1 => ?_⟩,
    fun inh seed bad halted => ⟨exec_fstage running (State.formeStage_halted halted inh _ bad),
      exec_fdiscard running (State.formeDiscard_halted halted),
      exec_fverify running (State.formeVerify_halted halted),
      exec_fcommit running (State.formeCommit_halted halted)⟩,
    fun working unstaged => ⟨exec_fdiscard running (State.formeDiscard_unstaged working unstaged),
      exec_fverify running (State.formeVerify_unstaged working unstaged),
      exec_fcommit running (State.formeCommit_unstaged working unstaged)⟩,
    fun t working staged => exec_fdiscard running (State.formeDiscard_staged working staged),
    fun t working staged => exec_fverify running (State.formeVerify_staged working staged),
    fun t addr finds working unfenced staged => ?_⟩
  · intro l u
    exact exec_fstage (r := ((0, 0, []), (u.setImage 0 Image.init).setTagState 0 1)) running
      (State.formeStage_first working first inh seed.toNat bad still empty0 empty1)
  · have loads {r : KRes × State} : s.formeLoad addr.toNat finds = r →
        exec (.fload addr finds) s = .next (State.did r) := exec_fload running
    refine ⟨fun unaligned => loads (State.formeLoad_address working unfenced staged (.inl unaligned)),
      fun aligned unmapped => loads (State.formeLoad_address working unfenced staged (.inr unmapped)),
      fun h u aligned mapped head => ?_⟩
    have header := State.formeLoad_header working unfenced staged aligned mapped head
    refine ⟨fun long => loads (header.trans (State.loadFrom_tooLong long)), fun rest v fits whole body => ?_⟩
    have image := header.trans (State.loadFrom_whole fits whole body)
    refine ⟨fun e unsound => loads (image.trans (State.loadImage_unsound unsound)),
      fun _ words entries sound program => ?_⟩
    have verified := image.trans (State.loadImage_program sound program)
    exact ⟨fun accepts => loads (verified.trans (if_pos accepts)),
      fun refuses => loads (verified.trans (if_neg refuses))⟩

end Sys2Proof.Machine
end

section
/-! The table instructions of the command unit (R143, R155, R156, R286, R289). -/

namespace Sys2Proof.Machine

/-- The numbers below 6 name tables of the Ledger (R104). -/
theorem tblOf_ledger : ∀ tbl < 6, tblOf tbl ≠ 6 ∧ writeWords (tblOf tbl) false ≠ none := by decide

section
variable {s : State} (working : s.keeperHalted = false) {tbl tag a : Nat} {dir : Bool} {data : List W64}
  {bad : ParityBad}
include working

/-- A table instruction acts on what the Keeper's input has left (R143). -/
theorem State.keeperDo_working (f : State → KRes × State) : s.keeperDo bad f = f (s.drainLearn bad) :=
  if_neg (ne_true_of_eq_false working)

/-! ### TWRITE and TDELETE -/

theorem State.tWrite_miscounted (wrong : writeWords (tblOf tbl) dir ≠ some data.length) :
    s.tWrite tbl tag dir a data bad = rangeRes (s.drainLearn bad) :=
  (State.keeperDo_working working _).trans (if_pos wrong)

theorem State.tWrite_ledger (ledger : tblOf tbl ≠ 6) (right : writeWords (tblOf tbl) dir = some data.length) :
    s.tWrite tbl tag dir a data bad = (s.drainLearn bad).keeperWrite (tblOf tbl) tag a data bad :=
  (State.keeperDo_working working _).trans ((if_neg (not_not_intro right)).trans (if_neg ledger))

theorem State.tDelete_miscounted (wrong : deleteWords (tblOf tbl) ≠ some data.length) :
    s.tDelete tbl tag dir a data bad = rangeRes (s.drainLearn bad) :=
  (State.keeperDo_working working _).trans (if_pos wrong)

theorem State.tDelete_ledger (ledger : tblOf tbl ≠ 6) (right : deleteWords (tblOf tbl) = some data.length) :
    s.tDelete tbl tag dir a data bad = (s.drainLearn bad).keeperDelete (tblOf tbl) tag a data bad :=
  (State.keeperDo_working working _).trans ((if_neg (not_not_intro right)).trans (if_neg ledger))

/-! ### TREAD, TSEARCH, TNEXT and TFLUSH -/

theorem State.tSearch_miscounted (wrong : searchWords (tblOf tbl) ≠ some data.length) :
    s.tSearch tbl tag data bad = rangeRes (s.drainLearn bad) :=
  (State.keeperDo_working working _).trans (if_pos wrong)

theorem State.tSearch_ledger (right : searchWords (tblOf tbl) = some data.length) :
    s.tSearch tbl tag data bad = (s.drainLearn bad).keeperSearch (tblOf tbl) tag data bad :=
  (State.keeperDo_working working _).trans (if_neg (not_not_intro right))

theorem State.tRead_ledger (ledger : tbl < 6) :
    s.tRead tbl dir a bad = (s.drainLearn bad).keeperRead (tblOf tbl) a bad := by
  obtain ⟨notWatch, exists_⟩ := tblOf_ledger tbl ledger
  exact (State.keeperDo_working working _).trans ((if_neg notWatch).trans (if_neg exists_))

theorem State.tNext_ledger {filter : W64} (ledger : tbl < 6) :
    s.tNext tbl tag a [filter] bad = (s.drainLearn bad).keeperNext (tblOf tbl) tag a filter bad := by
  obtain ⟨notWatch, exists_⟩ := tblOf_ledger tbl ledger
  refine (State.keeperDo_working working _).trans (if_neg ?_)
  exact not_or.mpr ⟨not_not_intro rfl, not_or.mpr ⟨notWatch, exists_⟩⟩

theorem State.tFlush_working {fid : Option Nat} {port : Nat} : s.tFlush fid port bad =
    ((0, ((s.drainLearn bad).flushPort port fid bad).1, []), ((s.drainLearn bad).flushPort port fid bad).2) :=
  State.keeperDo_working working _

end

/-! ### The Keeper's operations -/

/-- A fork slot is written by its index (R151). -/
theorem State.keeperWrite_fork {s : State} {tag idx : Nat} {v : W64} (writable : s.tagRefusal tag = none)
    (inside : idx < 2 ^ 14) (sound : entryBad 5 [v] = false) (bank : s.bankOut 5 (tag * 2 ^ 14 + idx) = false)
    (bad : ParityBad) : s.keeperWrite 5 tag idx [v] bad =
      ((0, tag * 2 ^ 14 + idx, []), s.setEntry 5 (tag * 2 ^ 14 + idx) (setValid 5 [v] true)) := by
  have allowed : ¬((5 = 4 ∧ 8192 ≤ idx) ∨ (5 = 5 ∧ 2 ^ 14 ≤ idx) ∨ entryBad 5 [v] = true) := by
    rintro (⟨no, _⟩ | ⟨_, outside⟩ | broken)
    · exact absurd no (by decide)
    · exact absurd outside (Nat.not_le.mpr inside)
    · exact ne_true_of_eq_false sound broken
  rw [State.keeperWrite, writable]
  exact (if_neg allowed).trans ((if_pos rfl).trans (if_neg (ne_true_of_eq_false bank)))

section
variable {s : State} {t a : Nat} {bad : ParityBad}

theorem State.keeperRead_outside (outside : tblSize t ≤ a) : s.keeperRead t a bad = ((5, 0, []), s) := if_pos outside

/-- A raw entry is read, under its activity bit (R155). -/
theorem State.keeperRead_sound (inside : a < tblSize t) (sound : bad.has t a = false) :
    s.keeperRead t a bad = ((0, b2n (t == 0 && s.activity a) * 2 ^ 39, s.entry t a), s) :=
  (if_neg (Nat.not_le.mpr inside)).trans (if_neg (ne_true_of_eq_false sound))

/-- An entry of bad parity answers PARITY, and its error is handled (R153). -/
theorem State.keeperRead_bad (inside : a < tblSize t) (fails : bad.has t a = true) :
    s.keeperRead t a bad = ((7, b2n (t == 0 && s.activity a) * 2 ^ 39, []), s.parityHit t a) :=
  (if_neg (Nat.not_le.mpr inside)).trans (if_pos fails)

end

/-! ### The instructions by themselves (R290) -/

section
variable {s : State} (running : s.boot.mode = .running) {r : KRes × State} {table : BitVec 4} {tag : Tag} {dir : Bool}
  {idx : BitVec 18} {data : List W64} {bad : ParityBad}
include running

theorem exec_twrite (result : s.tWrite table.toNat tag dir idx.toNat data bad = r) :
    exec (.twrite table tag dir idx data bad) s = .next (State.did r) :=
  State.ctrl_running running (·.tWrite table.toNat tag dir idx.toNat data bad) result

theorem exec_tdelete (result : s.tDelete table.toNat tag dir idx.toNat data bad = r) :
    exec (.tdelete table tag dir idx data bad) s = .next (State.did r) :=
  State.ctrl_running running (·.tDelete table.toNat tag dir idx.toNat data bad) result

theorem exec_tread (result : s.tRead table.toNat dir idx.toNat bad = r) :
    exec (.tread table dir idx bad) s = .next (State.did r) :=
  State.ctrl_running running (·.tRead table.toNat dir idx.toNat bad) result

theorem exec_tsearch (result : s.tSearch table.toNat tag data bad = r) :
    exec (.tsearch table tag data bad) s = .next (State.did r) :=
  State.ctrl_running running (·.tSearch table.toNat tag data bad) result

theorem exec_tnext {filter : W64} (result : s.tNext table.toNat tag idx.toNat [filter] bad = r) :
    exec (.tnext table tag idx filter bad) s = .next (State.did r) :=
  State.ctrl_running running (·.tNext table.toNat tag idx.toNat [filter] bad) result

theorem exec_tflush {v : Bool} {fid : BitVec 12} {port : Port}
    (result : s.tFlush (if v then some fid.toNat else none) port bad = r) :
    exec (.tflush v fid port bad) s = .next (State.did r) :=
  State.ctrl_running running (·.tFlush (if v then some fid.toNat else none) port bad) result

end

/-- Settles O41: each instruction is the Keeper's operation on the state that its input has left. A write acts on the
tag that `tagRefusal` allows, which R134 has staged; where WRITE, DELETE and NEXT answer PARITY is the model's choice
(log entry 119). -/
theorem tableInstructions : Obligations.TableInstructions := by
  intro s bad running working d
  refine ⟨fun tag dir idx v writable inside sound bank => ?_,
    fun table tag dir idx data => ⟨fun wrong => exec_twrite running (State.tWrite_miscounted working wrong),
      fun wrong => exec_tdelete running (State.tDelete_miscounted working wrong)⟩,
    fun table tag dir idx data => ⟨fun ledger right => exec_twrite running (State.tWrite_ledger working ledger right),
      fun ledger right => exec_tdelete running (State.tDelete_ledger working ledger right)⟩,
    fun table dir a ledger => ?_,
    fun table tag key => ⟨fun right => exec_tsearch running (State.tSearch_ledger working right),
      fun wrong => exec_tsearch running (State.tSearch_miscounted working wrong)⟩,
    fun table tag start filter ledger => exec_tnext running (State.tNext_ledger working ledger),
    fun v fid port => exec_tflush running (State.tFlush_working working)⟩
  · have writes : s.tWrite 5 tag dir idx.toNat [v] bad = d.keeperWrite 5 tag idx.toNat [v] bad :=
      State.tWrite_ledger (tbl := 5) working (by decide) rfl
    exact exec_twrite (table := 5) running (writes.trans (State.keeperWrite_fork writable inside sound bank bad))
  · have reads : s.tRead table.toNat dir a.toNat bad = d.keeperRead (tblOf table.toNat) a.toNat bad :=
      State.tRead_ledger working ledger
    exact ⟨fun inside sound => exec_tread running (reads.trans (State.keeperRead_sound inside sound)),
      fun inside fails => exec_tread running (reads.trans (State.keeperRead_bad inside fails)),
      fun outside => exec_tread running (reads.trans (State.keeperRead_outside outside))⟩

end Sys2Proof.Machine
end

section
/-! The Watchlist's scans, its maintenance slot and the sleep of its engines (R166 to R172, R377). -/

namespace Sys2Proof.Machine

/-! ### SCAN_START (R168, R377) -/

/-- Scan `sc` waits no more: it runs on engine `e`, which wakes. -/
def State.scanTakes (s : State) (sc : Scan) (e : Nat) : State :=
  let t := (s.modWatch fun w => { w with waiting := w.waiting.erase sc }).setEngine e (some sc)
  { t with pwr := { t.pwr with enginesAsleep := t.pwr.enginesAsleep &&& ~~~ BitVec.ofNat 42 (2 ^ e) } }

/-- The oldest scan of an admitted frame goes before every best-effort one, and any free engine may serve it. -/
theorem exec_scanStart_admitted {s : State} {sc : Scan} {e : Nat}
    (oldest : s.watch.waiting.find? (fun x => x.admitted) = some sc) (lowest : s.freeEngine true = some e) :
    exec .scanStart s = .next (s.scanTakes sc e) := by
  have first : s.watch.waiting.find? (fun x => x.admitted == true) = some sc := by simpa only [beq_true] using oldest
  show execScanStart s = _
  simp only [execScanStart, first, lowest, Option.orElse_some]
  rfl

theorem exec_scanStart_idle {s : State} (idle : s.watch.waiting = []) : exec .scanStart s = .next s := by
  show execScanStart s = _
  simp only [execScanStart, idle, List.find?_nil, Option.orElse_none]

/-! ### SCAN_DONE (R167, R168, R173) -/

section
variable {s : State} {engine : Fin 42} {sc : Scan} {bs : List Byte}

/-- What the end of scan `sc` leaves whatever it found: engine `e` is free, and the scan and its `n` bytes count. -/
def State.scanEnded (s : State) (e : Nat) (sc : Scan) (n : Nat) : State :=
  ((s.setEngine e none).countN R.WCH_C_BYTES_SCANNED n).count
    (if sc.admitted then R.WCH_C_SCANS_ADM else R.WCH_C_SCANS_BE)

variable (runs : s.engine engine.val = some sc) (arrived : s.scanBytes sc = some bs)
include runs arrived

/-- A scan whose result is discarded answers nobody; its match counts (R167). -/
theorem exec_scanDone_ownerless (ownerless : sc.owner = none) :
    exec (.scanDone engine none) s =
      .next (if (scanResult s.wchLine (s.wchDir (256 * sc.ftag + sc.set)) sc.set sc.start bs).1 = 1
        then (s.scanEnded engine.val sc bs.length).count R.WCH_C_HITS else s.scanEnded engine.val sc bs.length) := by
  show execScanDone engine none s = _
  simp only [execScanDone, runs, arrived, ownerless]
  rfl

/-- A scan that read a bad line or directory entry answers status 2, reports the error and has its item repaired. -/
theorem exec_scanDone_parity {c tag : Nat} (owned : sc.owner = some (c, tag)) (l : BitVec 17) :
    exec (.scanDone engine (some l)) s =
      .next ((((((s.scanEnded engine.val sc bs.length).count R.WCH_C_PARITY_ERR).raiseG 38 16).fault 0x60F 0x39 0
        false).queueRepair (if l.toNat < 65536 then l.toNat else 65536 + 256 * sc.ftag + sc.set) 1).setSlot c tag
          (.ready 2 0 0)) := by
  have noMatch : ¬(2 = 1) := by decide
  show execScanDone engine (some l) s = _
  simp only [execScanDone, runs, arrived, owned, if_neg noMatch]
  rfl

end

/-! ### MAINT_WRITE and the sleep of an engine (R171, R377) -/

section
variable {s : State} {rest : List Maint} (ecc : EccRead)

theorem exec_maintWrite_line {l : Nat} {bs : List Byte} (front : s.watch.writes = .line l bs :: rest) :
    exec (.maintWrite ecc) s = .next ((s.modWatch fun w => { w with writes := rest }).steal.writeLine l bs) := by
  show execMaintWrite ecc s = _
  simp only [execMaintWrite, front]

theorem exec_maintWrite_dir {i : Nat} {w0 w1 : W64} (front : s.watch.writes = .dir i w0 w1 :: rest) :
    exec (.maintWrite ecc) s = .next ((s.modWatch fun w => { w with writes := rest }).steal.writeDir i w0 w1 ecc) := by
  show execMaintWrite ecc s = _
  simp only [execMaintWrite, front]

end

theorem exec_watchlistEngineSleep_idle {s : State} {engine : Fin 42} (idle : s.engine engine.val = none)
    (unreserved : s.fld F.WCH_ENGINES_ADM ≤ engine.val) :
    exec (.watchlistEngineSleep engine) s = .next { s with pwr := { s.pwr with
      enginesAsleep := s.pwr.enginesAsleep ||| BitVec.ofNat 42 (2 ^ engine.val) } } :=
  congrArg Host.Outcome.next (if_pos ⟨Option.isNone_iff_eq_none.mpr idle, unreserved⟩)

theorem exec_watchlistEngineSleep_stays {s : State} {engine : Fin 42}
    (stays : s.engine engine.val ≠ none ∨ engine.val < s.fld F.WCH_ENGINES_ADM) :
    exec (.watchlistEngineSleep engine) s = .next s :=
  congrArg Host.Outcome.next (if_neg fun ⟨idle, unreserved⟩ => stays.elim
    (fun busy => busy (Option.isNone_iff_eq_none.mp idle)) fun reserved => Nat.not_lt.mpr unreserved reserved)

/-- Settles O29: one lemma per form of each command. R168 names no engine as reserved: that the reserved ones are those
numbered below ADM is the model's choice. -/
theorem scansAndMaintenance : Obligations.ScansAndMaintenance := by
  intro s
  refine ⟨fun sc e oldest lowest => exec_scanStart_admitted oldest lowest, exec_scanStart_idle,
    fun engine sc bs runs arrived ownerless => exec_scanDone_ownerless runs arrived ownerless,
    fun engine sc bs c tag l runs arrived owned => exec_scanDone_parity runs arrived owned l,
    fun m rest ecc front => ?_,
    fun engine idle unreserved => exec_watchlistEngineSleep_idle idle unreserved,
    fun engine stays => exec_watchlistEngineSleep_stays stays⟩
  cases m with
  | line l bs => exact exec_maintWrite_line ecc front
  | dir i w0 w1 => exact exec_maintWrite_dir ecc front

end Sys2Proof.Machine
end

section
/-! The Watchlist's patrol and its repairs (R173 to R175). -/

namespace Sys2Proof.Machine

/-! ### WCH_PATROL_STEP (R174) -/

/-- The bytes of an item as the state memory and the directory hold them, in the order of its shadow (R172). -/
def State.wchItem (s : State) (item : Nat) : List Byte :=
  if item < 65536 then s.wchLine item else dirBytes (s.wchDir (item - 65536)).1 (s.wchDir (item - 65536)).2

/-- The patrol compares the bytes `mine` of an item with what the read of its shadow answered: one that differs is
counted, raised and queued for repair. -/
def State.patrolCompare (item : Nat) (mine : List Byte) (differs : Bool) : Option (List Byte) × State → State
  | (some bs, t) => if differs || mine != bs then ((t.count R.WCH_C_MISMATCH).raiseG 38 17).queueRepair item 2 else t
  | (none, t) => t

/-- What a visit of the patrol does to `item`: one that is failed or has no shadow is passed over. -/
def State.patrolVisit (s : State) (item : Nat) (differs : Bool) (shadow : EccRead) : State :=
  if s.watch.failed.contains item ∨ s.ddrMapped (s.shadowAddr item) (s.wchItem item).length = false then s
  else State.patrolCompare item (s.wchItem item) differs
    (s.ddrRead 2 (s.shadowAddr item) (s.wchItem item).length [(0, shadow)])

section
variable {s : State} {item : Nat} {differs : Bool} {shadow : EccRead}

theorem State.patrolVisit_failed (failed : item ∈ s.watch.failed) : s.patrolVisit item differs shadow = s :=
  if_pos (.inl (List.contains_iff_mem.mpr failed))

section
variable (sound : item ∉ s.watch.failed)
  (mapped : s.ddrMapped (s.shadowAddr item) (s.wchItem item).length = true) {bs : List Byte} {t : State}
include sound mapped

/-- A sound item with a shadow is compared with it. -/
theorem State.patrolVisit_read {r : Option (List Byte) × State}
    (read : s.ddrRead 2 (s.shadowAddr item) (s.wchItem item).length [(0, shadow)] = r) :
    s.patrolVisit item differs shadow = State.patrolCompare item (s.wchItem item) differs r := by
  have compared : ¬(s.watch.failed.contains item ∨
      s.ddrMapped (s.shadowAddr item) (s.wchItem item).length = false) := by
    rw [List.contains_iff_mem, mapped, not_or]
    exact ⟨sound, Bool.noConfusion⟩
  exact (if_neg compared).trans (congrArg (State.patrolCompare item (s.wchItem item) differs) read)

theorem State.patrolVisit_differs
    (read : s.ddrRead 2 (s.shadowAddr item) (s.wchItem item).length [(0, shadow)] = (some bs, t))
    (unlike : differs = true ∨ bs ≠ s.wchItem item) :
    s.patrolVisit item differs shadow = ((t.count R.WCH_C_MISMATCH).raiseG 38 17).queueRepair item 2 := by
  refine (State.patrolVisit_read sound mapped read).trans (if_pos ?_)
  rw [Bool.or_eq_true, bne_iff_ne]
  exact unlike.imp id Ne.symm

theorem State.patrolVisit_same
    (read : s.ddrRead 2 (s.shadowAddr item) (s.wchItem item).length [(0, shadow)] = (some bs, t))
    (agrees : differs = false) (same : bs = s.wchItem item) : s.patrolVisit item differs shadow = t := by
  refine (State.patrolVisit_read sound mapped read).trans (if_neg ?_)
  rw [agrees, same, Bool.false_or, bne_self_eq_false]
  exact Bool.false_ne_true

/-- An uncorrectable read of the shadow is no comparison (R347). -/
theorem State.patrolVisit_unread
    (read : s.ddrRead 2 (s.shadowAddr item) (s.wchItem item).length [(0, shadow)] = (none, t)) :
    s.patrolVisit item differs shadow = t := State.patrolVisit_read sound mapped read

end

theorem exec_wchPatrolStep_off (off : s.shadowOn = false ∨ s.flag F.WCH_SHADOW_CFG_PATROL_EN = false) :
    exec (.wchPatrolStep differs shadow) s = .next s :=
  congrArg Host.Outcome.next (if_pos (Bool.and_eq_false_iff.mpr off))

/-- While the patrol runs, a step visits the next item and moves on past it. -/
theorem exec_wchPatrolStep_on (shadowed : s.shadowOn = true) (patrols : s.flag F.WCH_SHADOW_CFG_PATROL_EN = true) :
    exec (.wchPatrolStep differs shadow) s =
      let item := s.watch.patrolAt
      let t := s.patrolVisit item differs shadow
      .next (if item + 1 < 66048 then t.modWatch fun w => { w with patrolAt := item + 1 }
        else (t.modWatch fun w => { w with patrolAt := 0 }).raiseG 38 19) := by
  have on : ¬(s.shadowOn && s.flag F.WCH_SHADOW_CFG_PATROL_EN) = false := by
    rw [shadowed, patrols]
    exact Bool.noConfusion
  exact congrArg Host.Outcome.next (if_neg on)

end

/-! ### WCH_REPAIR (R175) -/

/-- What the repair of line `l` makes of what the read of its shadow answered: the line is rewritten, or marked failed,
with the directory entries that name it broken. -/
def State.lineRepaired (l kind : Nat) : Option (List Byte) × State → State
  | (some bs, t) => ((t.steal.count R.WCH_C_REPAIRED).wchLog l kind).modWatch fun w =>
    { w with lines := Memory.writeN 0 w.lines (64 * l) bs }
  | (none, t) => ((((t.modWatch fun w => { w with failed := w.failed ++ [l] }).rebreak l).wchLog l 3).raiseG 38
    18).fault 0x60F 0x39 0 false

section
variable {s : State} {line : BitVec 17} {ecc : EccRead}

/-- Without a shadow, or with nothing queued, no repair runs (R172). -/
theorem exec_wchRepair_none (off : s.shadowOn = false ∨ s.watch.repairs = []) :
    exec (.wchRepair line ecc) s = .next s := by
  have nothing : (if s.shadowOn then s.watch.repairs.find? fun x => x.1 == line.toNat else none) = none :=
    off.elim (fun off => if_neg (ne_true_of_eq_false off)) fun idle => by rw [idle, List.find?_nil, ite_self]
  show execWchRepair line ecc s = _
  simp only [execWchRepair, nothing]

variable {kind : Nat} (shadowed : s.shadowOn = true)
  (queued : s.watch.repairs = [(line.toNat, kind)]) (isLine : line.toNat < 65536)
include shadowed queued isLine

/-- The only queued repair leaves the queue, and its line fares as the read of the shadow answers. -/
theorem exec_wchRepair_line {r : Option (List Byte) × State}
    (read : (s.modWatch fun w => { w with repairs := [] }).ddrRead 2
      ((s.modWatch fun w => { w with repairs := [] }).shadowAddr line.toNat) 64 [(0, ecc)] = r) :
    exec (.wchRepair line ecc) s = .next (State.lineRepaired line.toNat kind r) := by
  have found : (if s.shadowOn then s.watch.repairs.find? fun x => x.1 == line.toNat else none) =
      some (line.toNat, kind) := by
    rw [if_pos shadowed, queued]
    exact List.find?_cons_of_pos (beq_self_eq_true _)
  have leaves : (s.modWatch fun w => { w with repairs := w.repairs.filter fun x => x.1 != line.toNat }) =
      s.modWatch fun w => { w with repairs := [] } := by
    simp only [State.modWatch, queued, List.filter_cons, List.filter_nil, bne_self_eq_false, Bool.false_eq_true,
      if_false]
  show execWchRepair line ecc s = _
  simp only [execWchRepair, found, leaves, if_pos isLine, read]
  rfl

end

/-- Settles O30: a step of the patrol by its visit, a repair by the read of its shadow. The byte order in which a
directory entry is compared is the model's choice (log entry 47). -/
theorem watchlistPatrolAndRepair : Obligations.WatchlistPatrolAndRepair := by
  intro s
  refine ⟨fun off d ecc => exec_wchPatrolStep_off off, fun shadowed patrols => ?_,
    fun line kind ecc shadowed queued isLine =>
      ⟨fun bs u read => exec_wchRepair_line shadowed queued isLine read,
        fun u read => exec_wchRepair_line shadowed queued isLine read⟩,
    fun line ecc off => exec_wchRepair_none off⟩
  intro item mine on
  have step (d ecc) : exec (.wchPatrolStep d ecc) s = .next (if item + 1 < 66048 then on (s.patrolVisit item d ecc)
      else ((s.patrolVisit item d ecc).modWatch fun w => { w with patrolAt := 0 }).raiseG 38 19) :=
    exec_wchPatrolStep_on shadowed patrols
  have moves {d ecc u} (inside : item < 66047) (visit : s.patrolVisit item d ecc = u) :
      exec (.wchPatrolStep d ecc) s = .next (on u) :=
    (step d ecc).trans (congrArg Host.Outcome.next ((if_pos (Nat.succ_lt_succ inside)).trans (congrArg on visit)))
  refine ⟨fun d ecc failed inside => moves inside (State.patrolVisit_failed failed),
    fun sound inside mapped => ⟨fun d ecc bs t read =>
        ⟨fun unlike => moves inside (State.patrolVisit_differs sound mapped read unlike),
          fun agrees same => moves inside (State.patrolVisit_same sound mapped read agrees same)⟩,
      fun d ecc t read => moves inside (State.patrolVisit_unread sound mapped read)⟩,
    fun d ecc failed last => ?_⟩
  have ends : ¬item + 1 < 66048 := by omega
  rw [step, if_neg ends, State.patrolVisit_failed failed]

end Sys2Proof.Machine
end

section
/-! Writes of the host to the words of a waybill (R182 to R184, R203): the writes that name no word, and what the unit
does with one that does. -/

namespace Sys2Proof.Machine

/-- WBL_HOST_WRITE where the bus serves it (R304). -/
theorem exec_wblHostWrite {s : State} (awake : s.host.d3hot = false) (addr : BitVec 22) (size : Fin 17) (data : W64)
    (bad : Bool) : exec (.wblHostWrite addr size data bad) s = .next (s.wblWrite addr.toNat size.val data bad) := by
  show execWblHostWrite addr size data bad s = _
  rw [execWblHostWrite, awake, if_neg Bool.false_ne_true]

/-! ### Refusals (R183) -/

theorem State.logFirst_frame (s : State) (off vbit r : Nat) :
    s.logFirst off vbit r = { s with regs := (s.logFirst off vbit r).regs } := by
  unfold State.logFirst
  split <;> rfl

theorem State.wrefuse_frame (s : State) : s.wrefuse = { s with regs := s.wrefuse.regs, out := s.wrefuse.out } :=
  State.raise_frame (s.count R.WBL_C_WR_REFUSED) (32 * 39 + 1)

section
variable {s : State} (h : twf regReset s.regs = true)
include h

theorem State.wrefuse_raises : bitOf (s.wrefuse.reg (R.EVT_LATCH 39)) 1 = true :=
  State.bitOf_latch_raiseG _ (s.twf_countN h _ _) (by decide) (by decide)

theorem State.wrefuse_counts : s.wrefuse.reg R.WBL_C_WR_REFUSED = s.reg R.WBL_C_WR_REFUSED + 1 := by
  rw [State.wrefuse, State.reg_raiseG_ne _ (by decide) (by decide) (by decide)]
  exact s.reg_countN h _ 1

end

/-- What a write leaves that names no word of the store: a BADWRITE record with the word and waybill that its address
falls on, and a refusal. -/
def State.dropWrite (s : State) (addr : Nat) : State :=
  let i := if addr < 2 ^ 21 then addr / 64 else (addr - 2 ^ 21) / 64
  (s.logFirst R.WBL_ERR_LOG 31 (3 * 2 ^ 28 + addr / 8 % 8 * 2 ^ 15 + i)).wrefuse

theorem State.wblWrite_dropped (s : State) {addr size : Nat} (wrong : size ≠ 8 ∨ addr % 8 ≠ 0 ∨ 2 ^ 21 ≤ addr)
    (data : W64) (bad : Bool) : s.wblWrite addr size data bad = s.dropWrite addr := if_pos wrong

theorem State.dropWrite_frame (s : State) (addr : Nat) :
    s.dropWrite addr = { s with regs := (s.dropWrite addr).regs, out := (s.dropWrite addr).out } :=
  (State.wrefuse_frame _).trans (congrArg (fun u : State =>
    { u with regs := (s.dropWrite addr).regs, out := (s.dropWrite addr).out }) (s.logFirst_frame _ _ _))

theorem State.dropWrite_raises (s : State) (h : twf regReset s.regs = true) (addr : Nat) :
    bitOf ((s.dropWrite addr).reg (R.EVT_LATCH 39)) 1 = true := State.wrefuse_raises (s.twf_logFirst h _ _ _)

theorem State.dropWrite_counts (s : State) (h : twf regReset s.regs = true) (addr : Nat) :
    (s.dropWrite addr).reg R.WBL_C_WR_REFUSED = s.reg R.WBL_C_WR_REFUSED + 1 := by
  rw [State.dropWrite, State.wrefuse_counts (s.twf_logFirst h _ _ _), s.reg_logFirst_ne _ _ _ (by decide)]

/-! ### Writes of one word (R182 to R184) -/

/-- The unit takes a write of word `j` of waybill `i`, or refuses it (R183). -/
def State.takeWord (s : State) (i j : Nat) (data : W64) : State :=
  if j = 0 then (if word0Refused (s.wword i 0) data then s.wrefuse else s.wwrite0 i data)
  else if 3 ≤ j ∧ wVALID (s.wword i 0) = true then s.wrefuse
  else s.putWword i j data

section
variable (s : State) {addr : Nat} (aligned : addr % 8 = 0) (inside : addr < 2 ^ 21)
  (settled : addr / 64 ∉ s.wbl.repairs) (data : W64)
include aligned inside settled

/-- A write of one word counts as an operation; one of word 0 or of words 3 to 7 checks word 0 (R203). -/
theorem State.wblWrite_word (bad : Bool) : s.wblWrite addr 8 data bad =
    (if bad && (addr / 8 % 8 == 0 || decide (3 ≤ addr / 8 % 8)) then (s.count R.WBL_C_OPS).wparity (addr / 64) 0
      else s.count R.WBL_C_OPS).takeWord (addr / 64) (addr / 8 % 8) data := by
  have word : ¬((8 : Nat) ≠ 8 ∨ addr % 8 ≠ 0 ∨ 2 ^ 21 ≤ addr) := by omega
  simp only [State.wblWrite, if_neg word, if_pos inside, State.wrepair_settled settled]
  rfl

theorem State.wblWrite_sound : s.wblWrite addr 8 data false =
    (s.count R.WBL_C_OPS).takeWord (addr / 64) (addr / 8 % 8) data :=
  s.wblWrite_word aligned inside settled data false

theorem State.wblWrite_config (config : addr / 8 % 8 = 1 ∨ addr / 8 % 8 = 2) (bad : Bool) :
    s.wblWrite addr 8 data bad = (s.count R.WBL_C_OPS).takeWord (addr / 64) (addr / 8 % 8) data := by
  have unread : (addr / 8 % 8 == 0 || decide (3 ≤ addr / 8 % 8)) = false := by
    rw [Bool.or_eq_false_iff, beq_eq_false_iff_ne, decide_eq_false_iff_not]
    omega
  rw [s.wblWrite_word aligned inside settled, unread, Bool.and_false, if_neg Bool.false_ne_true]

theorem State.wblWrite_badWord0 (state : 3 ≤ addr / 8 % 8) : s.wblWrite addr 8 data true =
    ((s.count R.WBL_C_OPS).wparity (addr / 64) 0).takeWord (addr / 64) (addr / 8 % 8) data := by
  rw [s.wblWrite_word aligned inside settled, decide_eq_true state, Bool.or_true, Bool.true_and, if_pos rfl]

end

section
variable (s : State) (i : Nat) {j : Nat} {data : W64}

theorem State.takeWord_config (config : j = 1 ∨ j = 2) : s.takeWord i j data = s.putWword i j data := by
  rw [State.takeWord, if_neg (by omega), if_neg (by omega)]

theorem State.takeWord_unarmed (state : 3 ≤ j) (unarmed : bitOf (s.wword i 0) 63 = false) :
    s.takeWord i j data = s.putWword i j data := by
  rw [State.takeWord, if_neg (by omega), if_neg fun armed => Bool.eq_false_iff.mp unarmed armed.2]

theorem State.takeWord_armed (state : 3 ≤ j) (armed : bitOf (s.wword i 0) 63 = true) :
    s.takeWord i j data = s.wrefuse := by
  rw [State.takeWord, if_neg (by omega), if_pos ⟨state, armed⟩]

/-- Word 0 of an armed waybill keeps RED_EN, RMODE, SUP and HISTM1. -/
theorem State.takeWord_keepsKind (zero : j = 0) (armed : bitOf (s.wword i 0) 63 = true) (stays : bitOf data 63 = true)
    (changed : bitsOf (s.wword i 0) 62 58 ≠ bitsOf data 62 58 ∨ bitsOf (s.wword i 0) 55 49 ≠ bitsOf data 55 49) :
    s.takeWord i j data = s.wrefuse := by
  have refused : word0Refused (s.wword i 0) data = true := by
    simpa only [word0Refused, wVALID, armed, stays, Bool.true_and, Bool.or_eq_true, bne_iff_ne] using changed
  rw [State.takeWord, if_pos zero, if_pos refused]

/-- A waybill whose word 0 is written: its poison ends, and its state words take the zeros of its kind (R182). -/
def State.storeWord0 (s : State) (i : Nat) (data : W64) : State :=
  [4, 5, 6, 7].foldl (fun u j => u.putWword i j (u.wword i j))
    ((s.putWword i 0 data).modWbl fun w => { w with poisoned := w.poisoned.filter (· != i) })

theorem State.takeWord_disarms (zero : j = 0) (disarms : bitOf data 63 = false) :
    s.takeWord i j data = s.storeWord0 i data := by
  have taken : word0Refused (s.wword i 0) data = false := by
    simp only [word0Refused, wVALID, disarms, Bool.and_false, Bool.false_and]
  have arms : (wVALID data && !wVALID (s.wword i 0) && !bitOf data 16) = false := by
    simp only [wVALID, disarms, Bool.false_and]
  rw [State.takeWord, if_pos zero, taken, if_neg Bool.false_ne_true, State.wwrite0]
  exact if_neg (Bool.eq_false_iff.mp arms)

/-- Arming with KEEP = 0 sets the state and clears the counters. -/
theorem State.takeWord_arms (zero : j = 0) (unarmed : bitOf (s.wword i 0) 63 = false) (arms : bitOf data 63 = true)
    (anew : bitOf data 16 = false) : s.takeWord i j data =
      (List.range 8).foldl (fun t k => t.setWcount i k 0) ((s.storeWord0 i data).armState i) := by
  have taken : word0Refused (s.wword i 0) data = false := by
    simp only [word0Refused, wVALID, unarmed, Bool.false_and]
  have arming : (wVALID data && !wVALID (s.wword i 0) && !bitOf data 16) = true := by
    simp only [wVALID, unarmed, arms, anew, Bool.not_false, Bool.and_self]
  rw [State.takeWord, if_pos zero, taken, if_neg Bool.false_ne_true, State.wwrite0]
  exact if_pos arming

end

/-- Settles O31: a write that names no word is dropped, and any other is taken by the cases of its word. -/
theorem waybillHostWrites : Obligations.WaybillHostWrites := by
  intro s addr size data awake i j t tidy refused
  have write (bad : Bool) := exec_wblHostWrite awake addr size data bad
  refine ⟨fun wrong bad => ?_, fun eight aligned inside settled => ?_⟩
  · have drops := (write bad).trans (congrArg Host.Outcome.next (s.wblWrite_dropped wrong data bad))
    have frame := s.dropWrite_frame addr.toNat
    exact ⟨_, drops, by rw [frame], frame,
      fun inv => ⟨s.dropWrite_raises inv.regs addr.toNat, s.dropWrite_counts inv.regs addr.toNat⟩⟩
  rw [eight] at write
  have sound {u : State} (takes : t.takeWord i j data = u) : exec (.wblHostWrite addr size data false) s = .next u :=
    (write false).trans (congrArg Host.Outcome.next ((s.wblWrite_sound aligned inside settled data).trans takes))
  refine ⟨fun config bad => ?_, fun state unarmed => sound (t.takeWord_unarmed i state unarmed),
    fun state armed => sound (t.takeWord_armed i state armed), fun state unarmed => ?_,
    fun zero armed stays changed => sound (t.takeWord_keepsKind i zero armed stays changed),
    fun zero disarms => sound (t.takeWord_disarms i zero disarms),
    fun zero unarmed arms anew => sound (t.takeWord_arms i zero unarmed arms anew)⟩
  · rw [write, s.wblWrite_config aligned inside settled data config, State.takeWord_config _ _ config]
  · rw [write, s.wblWrite_badWord0 aligned inside settled data state, State.takeWord_unarmed _ _ state unarmed]

end Sys2Proof.Machine
end

section
/-! Reads and controls of the host on waybills, meters and the event log (R195, R202, R203, R208). -/

namespace Sys2Proof.Machine

/-! ### The bytes of a number -/

theorem take_toLE (n m v : Nat) : (toLE (n + m) v).take n = toLE n v := by
  induction n generalizing v with
  | zero => rfl
  | succ n ih => rw [Nat.succ_add, toLE, toLE, List.take_succ_cons, ih]

theorem toLE_mod (n v : Nat) : toLE n (v % 256 ^ n) = toLE n v := by
  induction n generalizing v with
  | zero => rfl
  | succ n ih =>
    have low : BitVec.ofNat 8 (v % 256 ^ (n + 1)) = BitVec.ofNat 8 v :=
      BitVec.eq_of_toNat_eq (Nat.mod_mod_of_dvd v (Nat.dvd_mul_left 256 (256 ^ n)))
    rw [toLE, toLE, low, Nat.pow_succ', Nat.mod_mul_right_div_self, ih]

/-- The last bytes of a number, most significant first, are those of its low part. -/
theorem drop_toBE (n m v : Nat) : (toBE (n + m) v).drop m = toBE n (v % 256 ^ n) := by
  rw [toBE, List.drop_reverse, length_toLE, Nat.add_sub_cancel, take_toLE, toBE, toLE_mod]

/-! ### Reads of words and of the event log (R202, R208) -/

section
variable {s : State} (awake : s.host.d3hot = false)
include awake

theorem State.hostRead_awake (f : State → State) : s.hostRead f = f s := if_neg (Bool.eq_false_iff.mp awake)

/-- A read of a word is an operation on its waybill, and answers all its bytes or four of them. -/
theorem exec_wblHostRead_word {addr : BitVec 22} (inside : addr.toNat < 2 ^ 21)
    (settled : addr.toNat / 64 ∉ s.wbl.repairs) (wide : Bool) : exec (.wblHostRead addr wide false) s =
      let bs := toBE 8 (s.wword (addr.toNat / 64) (addr.toNat / 8 % 8)).toNat
      .next ((s.count R.WBL_C_OPS).emit
        (.readData (if wide then bs else (bs.drop (addr.toNat / 4 % 2 * 4)).take 4) false)) := by
  show Host.Outcome.next _ = _
  rw [State.hostRead_awake awake]
  simp only [State.wblRead, Nat.mod_eq_of_lt inside, State.wrepair_settled settled, if_pos inside]
  rfl

theorem exec_evlogPop_empty (empty : s.wbl.log = []) :
    exec .evlogPop s = .next (s.emit (.readData (List.replicate 8 0) false)) := by
  show execEvlogPop s = _
  simp only [execEvlogPop, State.hostRead_awake awake, empty]
  rfl

theorem exec_evlogPop_record {r : W64} {rest : List W64} (front : s.wbl.log = r :: rest) : exec .evlogPop s =
    .next ((s.modWbl fun w => { w with log := rest }).emit (.readData (toLE 8 r.toNat) false)) := by
  show execEvlogPop s = _
  simp only [execEvlogPop, State.hostRead_awake awake, front]

end

/-! ### The snapshot (R202) -/

/-- Word and counter `j` of waybill `i`, copied into WBL_SNAP_DATA. -/
def State.snapWord (i : Nat) (u : State) (j : Nat) : State :=
  (u.setReg (R.WBL_SNAP_DATA j) (u.wword i j)).setReg (R.WBL_SNAP_DATA (8 + j)) (u.wcount i j)

/-- The first `n` words and counters of waybill `i` of `s` stand in WBL_SNAP_DATA of `t`. -/
structure SnapShows (s t : State) (i n : Nat) : Prop where
  regs : twf regReset t.regs = true
  frame : t = { s with regs := t.regs }
  shown : ∀ j, j < n → t.reg (R.WBL_SNAP_DATA j) = s.wword i j ∧ t.reg (R.WBL_SNAP_DATA (8 + j)) = s.wcount i j

theorem SNAP_DATA_ne {j k : Nat} (h : j ≠ k) : R.WBL_SNAP_DATA j ≠ R.WBL_SNAP_DATA k := by
  simp only [R.WBL_SNAP_DATA]
  omega

theorem SnapShows.step {s t : State} {i n : Nat} (h : SnapShows s t i n) (small : n < 8) :
    SnapShows s (t.snapWord i n) i (n + 1) where
  regs := State.twf_setReg _ (t.twf_setReg h.regs _ _) _ _
  frame := by
    rw [h.frame]
    rfl
  shown j hj := by
    have word : t.wword i n = s.wword i n := by
      rw [h.frame]
      rfl
    have counter : t.wcount i n = s.wcount i n := by
      rw [h.frame]
      rfl
    rcases Nat.lt_succ_iff_lt_or_eq.mp hj with earlier | rfl
    · have kept {k : Nat} (h1 : k ≠ n) (h2 : k ≠ 8 + n) : (t.snapWord i n).reg (R.WBL_SNAP_DATA k) =
          t.reg (R.WBL_SNAP_DATA k) := by
        rw [State.snapWord, State.reg_setReg_ne _ _ (SNAP_DATA_ne h2), State.reg_setReg_ne _ _ (SNAP_DATA_ne h1)]
      rw [kept (by omega) (by omega), kept (by omega) (by omega)]
      exact h.shown j earlier
    · have own := t.twf_setReg h.regs (R.WBL_SNAP_DATA j) (t.wword i j)
      rw [State.snapWord, State.reg_setReg_ne _ _ (SNAP_DATA_ne (by omega)), t.reg_setReg h.regs, if_pos rfl,
        State.reg_setReg _ own, if_pos rfl, word, counter]
      exact ⟨rfl, rfl⟩

theorem snapShows_range (s : State) (h : twf regReset s.regs = true) (i : Nat) {n : Nat} (small : n ≤ 8) :
    SnapShows s ((List.range n).foldl (State.snapWord i) s) i n := by
  induction n with
  | zero => exact ⟨h, rfl, fun j hj => absurd hj (Nat.not_lt_zero j)⟩
  | succ n ih =>
    rw [List.range_succ, List.foldl_append]
    exact (ih (by omega)).step (by omega)

/-- WBL_SNAP_CTRL lies below WBL_SNAP_DATA. -/
theorem SNAP_DATA_ne_CTRL (j : Nat) : R.WBL_SNAP_DATA j ≠ R.WBL_SNAP_CTRL := by
  simp only [R.WBL_SNAP_DATA, R.WBL_SNAP_CTRL]
  omega

/-- WBL_SNAP_CTRL after a snapshot: the waybill's index, and whether it is poisoned. -/
def State.snapStatus (t : State) (i : Nat) (poisoned : Bool) : State :=
  (t.setFld F.WBL_SNAP_CTRL_INDEX i).setFlag F.WBL_SNAP_CTRL_POISON poisoned

theorem SnapShows.status {s t : State} {i n : Nat} (h : SnapShows s t i n) (poisoned : Bool) :
    SnapShows s (t.snapStatus i poisoned) i n where
  regs := State.twf_setFlag _ (t.twf_setFld h.regs _ _) _ _
  frame := congrArg (fun u : State => { u with regs := (t.snapStatus i poisoned).regs }) h.frame
  shown j hj := by
    have kept (k : Nat) : (t.snapStatus i poisoned).reg (R.WBL_SNAP_DATA k) = t.reg (R.WBL_SNAP_DATA k) := by
      rw [State.snapStatus, State.reg_setFlag_ne _ _ _ (SNAP_DATA_ne_CTRL k),
        State.reg_setFld_ne _ _ _ (SNAP_DATA_ne_CTRL k)]
    rw [kept, kept]
    exact h.shown j hj

theorem State.flag_snapStatus (t : State) (h : twf regReset t.regs = true) (i : Nat) (poisoned : Bool) :
    (t.snapStatus i poisoned).flag F.WBL_SNAP_CTRL_POISON = poisoned :=
  State.flag_setFlag_same _ (t.twf_setFld h _ _) F.WBL_SNAP_CTRL_POISON _ rfl (by decide)

/-- What a snapshot of a waybill leaves: its words and counters, and whether it is poisoned. -/
theorem State.wblSnap_shows (s : State) (h : twf regReset s.regs = true) {i : Nat} (settled : i ∉ s.wbl.repairs) :
    ∃ t, s.wblSnap i none = t ∧ SnapShows s t i 8 ∧ (t.flag F.WBL_SNAP_CTRL_POISON = true ↔ i ∈ s.wbl.poisoned) := by
  obtain ⟨t, ht⟩ : ∃ t, t = (List.range 8).foldl (State.snapWord i) (s.count R.WBL_C_OPS) := ⟨_, rfl⟩
  have copied : SnapShows (s.count R.WBL_C_OPS) t i 8 := ht ▸ snapShows_range _ (s.twf_countN h _ _) i (Nat.le_refl 8)
  have shows : SnapShows s t i 8 := ⟨copied.regs, copied.frame, copied.shown⟩
  have snap : s.wblSnap i none = t.snapStatus i (t.wbl.poisoned.contains i) := by
    rw [State.wblSnap, State.wrepair_settled settled, ht]
    rfl
  refine ⟨_, snap, shows.status _, ?_⟩
  rw [t.flag_snapStatus shows.regs, shows.frame, List.contains_iff_mem]

/-! ### Sticky bits, block and quality (R202) -/

/-- A write of one word leaves the waybill's others. -/
theorem State.wword_setWword_ne (s : State) {i j j' : Nat} (v : W64) (other : j' ≠ j) :
    (s.setWword i j v).wword i j' = s.wword i j' :=
  tget_tput_ne _ _ _ _ _ (by omega)

/-- Word 7 without the sticky bits of a mask and, where asked, without its block. -/
def clearedWord7 (w7 : W64) (mask : Nat) (blocked : Bool) : W64 :=
  setBits (setBits w7 31 24 (bitsOf w7 31 24 &&& (255 - mask))) 5 5 (b2n (bitOf w7 5 && !blocked))

section
variable {s : State} {i : Nat} (ready : WaybillReady s i) (mask : Nat) (blocked qual : Bool)
include ready

/-- A plain waybill keeps its words. -/
theorem State.stickyOp_plain (plain : wPlain (s.wword i 0) = true) :
    s.stickyOp i mask blocked qual none = s.count R.WBL_C_OPS := by
  have unsupervised : (wSUP (s.wword i 0) == 1) = false := by
    obtain ⟨_, none⟩ := Bool.and_eq_true_iff.mp plain
    rw [eq_of_beq none]
    rfl
  simp only [State.stickyOp, State.wop_ready ready, State.wword_count, plain, if_true, unsupervised, Bool.and_false,
    Bool.false_eq_true, if_false]

/-- Any other waybill loses the masked sticky bits and the block in word 7. -/
theorem State.stickyOp_word7 (kind : wPlain (s.wword i 0) = false) : s.stickyOp i mask blocked false none =
    (s.count R.WBL_C_OPS).setWword i 7 (clearedWord7 (s.wword i 7) mask blocked) := by
  simp only [State.stickyOp, State.wop_ready ready, State.wword_count, kind, Bool.false_eq_true, if_false,
    Bool.false_and, clearedWord7]

/-- A waybill with SUP = SV loses its quality too. -/
theorem State.stickyOp_quality (sv : wSUP (s.wword i 0) = 1) : s.stickyOp i mask blocked true none =
    ((s.count R.WBL_C_OPS).setWword i 7 (clearedWord7 (s.wword i 7) mask blocked)).wset i 6 31 0 0 := by
  have kind : wPlain (s.wword i 0) = false := by
    rw [wPlain, sv]
    exact Bool.and_false _
  simp only [State.stickyOp, State.wop_ready ready, State.wword_count, kind, Bool.false_eq_true, if_false,
    State.wword_setWword_ne _ _ (show 0 ≠ 7 by decide), sv, beq_self_eq_true, Bool.and_self, if_true, clearedWord7]

end

section
variable {s : State} (opens : s.barOpen R.WBL_STICKY_CLR = true) (full : s.fld F.CMD_ROLE_HOST_ROLE = 2)
  (w : Fin 32768)
include opens full

theorem exec_stickyClear (mask : BitVec 8) :
    exec (.stickyClear w mask none) s = .next (s.stickyOp w mask.toNat false false none) :=
  congrArg Host.Outcome.next (State.byHost_full opens full)

theorem exec_clrBlocked : exec (.clrBlocked w none) s = .next (s.stickyOp w 0 true false none) :=
  congrArg Host.Outcome.next (State.byHost_full opens full)

theorem exec_clrQual : exec (.clrQual w none) s = .next (s.stickyOp w 0 false true none) :=
  congrArg Host.Outcome.next (State.byHost_full opens full)

end

/-! ### A queued repair (R203) -/

theorem State.wrepair_queued (s : State) (none : s.wbl.repairs = []) (i : Nat) :
    ({ s with wbl := { s.wbl with repairs := [i] } } : State).wrepair i = (s.armState i).count R.WBL_C_OPS := by
  have queued : [i].contains i = true := List.contains_iff_mem.mpr (List.mem_singleton.mpr rfl)
  have leaves : ({ s with wbl := { s.wbl with repairs := [i].filter (· != i) } } : State) = s := by
    rw [List.filter_cons_of_neg (by simp), List.filter_nil, ← none]
  exact (if_pos queued).trans (congrArg (fun t => (State.armState t i).count R.WBL_C_OPS) leaves)

/-- Settles O32: each read, snapshot and control by the rule of its command. -/
theorem waybillHostControls : Obligations.WaybillHostControls := by
  intro s unrepaired awake
  have settled (i : Nat) : i ∉ s.wbl.repairs := unrepaired ▸ List.not_mem_nil
  refine ⟨fun addr inside _ => exec_wblHostRead_word awake inside (settled _) true, fun addr inside low => ?_,
    exec_evlogPop_empty awake, fun r rest => exec_evlogPop_record awake, fun opens full v inv => ?_,
    fun opens full w sound => ?_,
    fun opens full m => congrArg Host.Outcome.next (State.byHost_full opens full),
    fun w => congrArg Host.Outcome.next (s.wrepair_queued unrepaired w)⟩
  · have second : addr.toNat / 4 % 2 * 4 = 4 := by omega
    have four (v : Nat) : ((toBE 8 v).drop 4).take 4 = toBE 4 (v % 2 ^ 32) :=
      (congrArg (List.take 4) (drop_toBE 4 4 v)).trans (List.take_of_length_le (by simp [toBE]))
    rw [exec_wblHostRead_word awake inside (settled _) false, second]
    simp only [Bool.false_eq_true, if_false, four]
  · have index : bitsOf v 14 0 = v.toNat % 32768 := by simp [bitsOf]
    obtain ⟨t, snap, shows, poison⟩ := s.wblSnap_shows inv.regs (settled (v.toNat % 32768))
    refine ⟨t, ?_, shows.frame, shows.shown, poison⟩
    rw [← snap, ← index]
    exact congrArg Host.Outcome.next (State.byHost_full opens full)
  · intro t w7 st
    have ready : WaybillReady s w := ⟨w.isLt, sound, settled w⟩
    have clear := exec_stickyClear opens full w
    have unblock := exec_clrBlocked opens full w
    have qual := exec_clrQual opens full w
    refine ⟨fun kind mask => ?_, fun kind => ?_, fun plain => ⟨fun mask => ?_, ?_, ?_⟩, fun sv => ?_⟩
    · rw [clear, State.stickyOp_word7 ready _ _ kind, clearedWord7, Bool.not_false, Bool.and_true]
    · rw [unblock, State.stickyOp_word7 ready _ _ kind, clearedWord7, Bool.not_true, Bool.and_false]
      rfl
    · rw [clear, State.stickyOp_plain ready _ _ _ plain]
    · rw [unblock, State.stickyOp_plain ready _ _ _ plain]
    · rw [qual, State.stickyOp_plain ready _ _ _ plain]
    · rw [qual, State.stickyOp_quality ready _ _ sv, clearedWord7, Bool.not_false, Bool.and_true]

end Sys2Proof.Machine
end

section
/-! The patrol of the waybills (R190, R199, R200, R203) and the per-tag pair table (R187). -/

namespace Sys2Proof.Machine

/-! ### WBL_PATROL_VISIT -/

/-- What the patrol does at waybill `i`: a bad word is reported unless the waybill is poisoned; else the stamps of one
that is not plain are rewritten during a hold, and one that is armed and sound is tested. -/
def State.visit (t : State) (i : Nat) : Option (Fin 8) → State
  | some j => if t.wbl.poisoned.contains i then t else t.wparity i j.val
  | none =>
    if wPlain (t.wword i 0) then t
    else if t.wbl.hold ≠ 0 then t.wstamps i
    else if t.wbl.poisoned.contains i || !wVALID (t.wword i 0) then t
    else t.wtests i

section
variable {s : State} {i : Nat}

theorem State.visit_bad (j : Fin 8) (sound : i ∉ s.wbl.poisoned) : s.visit i (some j) = s.wparity i j :=
  if_neg fun poisoned => sound (List.contains_iff_mem.mp poisoned)

theorem State.visit_plain (plain : wPlain (s.wword i 0) = true) : s.visit i none = s := if_pos plain

theorem State.visit_unarmed (still : s.wbl.hold = 0) (unarmed : bitOf (s.wword i 0) 63 = false) :
    s.visit i none = s := by
  simp only [State.visit, still, ne_eq, not_true_eq_false, if_false, wVALID, unarmed, Bool.not_false, Bool.or_true,
    if_true, ite_self]

section
variable (kind : wPlain (s.wword i 0) = false)
include kind

theorem State.visit_stamps (held : s.wbl.hold ≠ 0) : s.visit i none = s.wstamps i := by
  rw [State.visit, kind, if_neg Bool.false_ne_true, if_pos held]

theorem State.visit_tests (still : s.wbl.hold = 0) (sound : i ∉ s.wbl.poisoned)
    (armed : bitOf (s.wword i 0) 63 = true) : s.visit i none = s.wtests i := by
  have passes : (s.wbl.poisoned.contains i || !wVALID (s.wword i 0)) = false := by
    rw [wVALID, armed, Bool.not_true, Bool.or_false, Bool.eq_false_iff]
    exact fun poisoned => sound (List.contains_iff_mem.mp poisoned)
  rw [State.visit, kind, if_neg Bool.false_ne_true, if_neg (not_not_intro still), passes, if_neg Bool.false_ne_true]

end
end

section
variable {s t : State} {bad : Option (Fin 8)} (unrepaired : s.wbl.repairs = [])
  (visited : s.visit s.wbl.patrolAt bad = t)
include unrepaired visited

/-- The patrol visits a waybill and moves to the next; after the last one a pass ends, is counted, and a hold runs
down. -/
theorem exec_wblPatrolVisit : exec (.wblPatrolVisit bad) s = .next (if s.wbl.patrolAt + 1 < 32768 then
      t.modWbl fun w => { w with patrolAt := s.wbl.patrolAt + 1 }
    else (t.modWbl fun w => { w with patrolAt := 0, hold := w.hold - 1 }).count R.WBL_C_PATROL_PASSES) := by
  have settled : s.wbl.patrolAt ∉ s.wbl.repairs := unrepaired ▸ List.not_mem_nil
  show execWblPatrolVisit bad s = _
  simp only [execWblPatrolVisit, State.wrepair_settled settled, ← visited]
  cases bad <;> rfl

theorem exec_wblPatrolVisit_next (inside : s.wbl.patrolAt < 32767) : exec (.wblPatrolVisit bad) s =
    .next (t.modWbl fun w => { w with patrolAt := s.wbl.patrolAt + 1 }) := by
  rw [exec_wblPatrolVisit unrepaired visited, if_pos (Nat.succ_lt_succ inside)]

theorem exec_wblPatrolVisit_last (last : s.wbl.patrolAt = 32767) : exec (.wblPatrolVisit bad) s =
    .next ((t.modWbl fun w => { w with patrolAt := 0, hold := w.hold - 1 }).count R.WBL_C_PATROL_PASSES) := by
  rw [exec_wblPatrolVisit unrepaired visited, if_neg (by omega)]

end

/-! ### PER_TAG_TABLE_WRITE -/

/-- A single write of a BAR0 access to a register that exists. -/
theorem State.barWrite_one {s : State} {off : Nat} {wide : Bool} {data v : W64}
    (one : regParts off wide data = some [(off, v)]) (present : (regAt off).isSome = true)
    (put : State → Nat → W64 → State) : s.barWrite off wide data put = put s off v := by
  simp only [State.barWrite, one, List.foldl_cons, List.foldl_nil, present, if_true]

/-- A 4-byte access that the bus takes is aligned (R305). -/
theorem aligned_of_regParts {off : Nat} {data : W64} {ps : List (Nat × W64)}
    (taken : regParts off false data = some ps) : off % 4 = 0 :=
  Decidable.byContradiction fun odd => by
    have refused : regParts off false data = none := if_pos odd
    cases refused.symm.trans taken

section
variable {off : Nat} (low : 0x1402000 ≤ off) (high : off < 0x1402200)
include low high

/-- Every aligned offset of the pair table holds a register (R205). -/
theorem regAt_pair (aligned : off % 4 = 0) : (regAt off).isSome = true := by
  have block : regBlock off = regsWbl := by
    have : off / 0x100000 = 0x14 := by omega
    simp only [regBlock, this]
  have family :
      (⟨0x1402000, [(2, 256), (64, 4)], false, 0, 0xC00F7F7F, 0, 0, 0, false⟩ : RegDesc) ∈ regsWbl := by
    decide
  rw [regAt, block, List.find?_isSome]
  refine ⟨_, family, ?_⟩
  simp only [RegDesc.covers, dimsMatch, Bool.and_eq_true, decide_eq_true_eq, beq_iff_eq]
  omega

theorem State.putTagTable_pair (s : State) (v : W64) : s.putTagTable off v =
    if s.tagState ((off - 0x1402000) / 256) = 1 ∧ s.pairClash ((off - 0x1402000) / 256) (off % 256 / 4) v = false then
      s.plainWrite off v else s.wrActive := by
  simp only [State.putTagTable, low, high, and_self, if_true, decide_true, Bool.true_and]

end

/-- Settles O33: a visit by what it does at its waybill, a write of a pair by its tag's state. While the hold lasts, an
invalid waybill that is not plain takes the stamps too, as R200 has it. -/
theorem waybillPatrolAndTables : Obligations.WaybillPatrolAndTables := by
  intro s
  refine ⟨fun unrepaired kind inside =>
      ⟨fun held => exec_wblPatrolVisit_next unrepaired (State.visit_stamps kind held) inside,
        fun still sound armed => exec_wblPatrolVisit_next unrepaired (State.visit_tests kind still sound armed) inside⟩,
    fun unrepaired idle => ?_,
    fun j unrepaired sound inside => exec_wblPatrolVisit_next unrepaired (State.visit_bad j sound) inside,
    fun off data tag opens full one low high htag => ?_⟩
  · have passed : s.visit s.wbl.patrolAt none = s :=
      idle.elim State.visit_plain fun ⟨still, unarmed⟩ => State.visit_unarmed still unarmed
    exact ⟨exec_wblPatrolVisit_next unrepaired passed, exec_wblPatrolVisit_last unrepaired passed⟩
  · have put : exec (.perTagTableWrite off false data) s =
        .next (s.putTagTable off.toNat (w64 (data.toNat % 2 ^ 32))) :=
      congrArg Host.Outcome.next ((State.byHost_full opens full).trans
        (State.barWrite_one one (regAt_pair low high (aligned_of_regParts one)) _))
    rw [put, State.putTagTable_pair low high, ← htag]
    refine ⟨fun staged apart => by rw [if_pos ⟨staged, apart⟩], fun ignored => ?_⟩
    have other : ¬(s.tagState tag = 1 ∧ s.pairClash tag (off.toNat % 256 / 4) (w64 (data.toNat % 2 ^ 32)) = false) :=
      fun ⟨staged, apart⟩ => ignored.elim (· staged) fun clash => Bool.false_ne_true (apart.symm.trans clash)
    rw [if_neg other]
    rfl

end Sys2Proof.Machine
end

section
/-! Timetables (R219 to R222) and the control of queues (R229). -/

namespace Sys2Proof.Machine

/-! ### Running timetables (R220) -/

section
variable {s : State} {p : Port} {t : Tag}

section
variable (on : s.ttOn p t = true) (runs : ((s.egrPort p).tt t).running = true)
include on runs

theorem exec_ttEntryChange_stays (same : (s.ttNow p t).1 = ((s.egrPort p).tt t).entry) :
    exec (.ttEntryChange p t) s = .next s := by
  show execTtEntryChange p t s = _
  simp only [execTtEntryChange, on, runs, Bool.and_self, if_true, same]

theorem exec_ttEntryChange_moves (other : (s.ttNow p t).1 ≠ ((s.egrPort p).tt t).entry) :
    exec (.ttEntryChange p t) s = .next (((s.bringPort p).setEgr p (((s.bringPort p).egrPort p).setTt t
      { (s.egrPort p).tt t with
        entry := (s.ttNow p t).1
        hold := s.holdAfter p t ((s.egrPort p).tt t).hold
          (s.ttPassed p t ((s.egrPort p).tt t).entry (s.ttNow p t).1) })).gateEffects p) := by
  show execTtEntryChange p t s = _
  simp only [execTtEntryChange, on, runs, Bool.and_self, if_true, other, if_false]

end

theorem exec_ttOperationalBase_starts (on : s.ttOn p t = true) (waits : ((s.egrPort p).tt t).running = false)
    (due : ((s.egrPort p).tt t).base ≤ s.nowNs) :
    exec (.ttOperationalBase p t) s = .next ((((s.bringPort p).setEgr p (((s.bringPort p).egrPort p).setTt t
      { (s.egrPort p).tt t with
        running := true, entry := (s.ttNow p t).1
        hold := s.holdAfter p t false (List.range ((s.ttNow p t).1 + 1)) })).raiseG 40 2).gateEffects p) := by
  show execTtOperationalBase p t s = _
  simp only [execTtOperationalBase, on, waits, due, Bool.not_false, decide_true, Bool.and_self, if_true]

theorem exec_ttOperationalBase_early (early : s.nowNs < ((s.egrPort p).tt t).base) :
    exec (.ttOperationalBase p t) s = .next s := by
  show execTtOperationalBase p t s = _
  simp only [execTtOperationalBase, Nat.not_le.mpr early, decide_false, Bool.and_false, Bool.false_eq_true, if_false]

end

/-! ### QUEUE_PAUSE and QUEUE_FLUSH (R229) -/

/-- Nothing is removed from an empty queue, and its head stays none. -/
theorem State.removeRefs_empty {s : State} {q : Nat} (empty : (s.queue q).refs = []) (sel : QRef → Frame → Bool)
    (cnt : State → Frame → State) : s.removeRefs q sel cnt = s := by
  simp only [State.removeRefs, empty, List.drop_nil, List.foldl_nil, State.headChanged, if_true]

section
variable {s : State} {q : QNum} (opens : s.barOpen (R.EGR_Q_CTRL q) = true) (full : s.fld F.CMD_ROLE_HOST_ROLE = 2)
include opens full

theorem exec_queuePause (on : Bool) : exec (.queuePause q on) s = .next (s.setFlag (F.EGR_Q_CTRL_PAUSE q) on) :=
  congrArg Host.Outcome.next (State.byHost_full opens full)

theorem exec_queueFlush : exec (.queueFlush q) s =
    .next (s.removeRefs q (fun _ _ => true) fun u _ => u.count (R.EGR_Q_C_FLUSH_DROP q)) :=
  congrArg Host.Outcome.next (State.byHost_full opens full)

end

/-! ### A write of EGR_TT_DATA (R219, R222) -/

/-- The register of a port's timetable entries is 8 bytes wide (R233). -/
theorem regAt_ttData : ∀ p : Port, regAt (R.EGR_TT_DATA p) =
    some ⟨0x10000d8, [(128, 32768)], true, 0, 0xffffffffffffffff, 0, 0, 0, false⟩ := by
  decide

section
variable (p : Port)

theorem ttData_eq : R.EGR_TT_DATA p = 0x10000D8 + 0x8000 * p.val := rfl

/-- An entry is written by one atomic 8-byte write (R233, R305). -/
theorem regParts_ttData (data : W64) : regParts (R.EGR_TT_DATA p) true data = some [(R.EGR_TT_DATA p, data)] := by
  have aligned : R.EGR_TT_DATA p % 8 = 0 := by rw [ttData_eq]; omega
  simp only [regParts, regAt_ttData, aligned, if_true, ne_eq, not_true_eq_false, if_false]

/-- A timetable's word goes to the entry that EGR_TT_INDEX names, when its tag is the staged one (R222). -/
theorem State.putTimetable_ttData (s : State) (data : W64) :
    let i := s.reg (R.EGR_TT_INDEX p)
    s.putTimetable (R.EGR_TT_DATA p) data =
      if s.tagState (bitsOf i 10 10) = 1 then s.setTtWord p (bitsOf i 10 10) (bitsOf i 9 0) data
      else s.ttRefused p := by
  have inside : ¬(R.EGR_TT_DATA p < 0x1000000 ∨ 0x1400000 ≤ R.EGR_TT_DATA p) := by rw [ttData_eq]; omega
  have port : (R.EGR_TT_DATA p - 0x1000000) / 0x8000 = p := by rw [ttData_eq]; omega
  have place : R.EGR_TT_DATA p % 256 = 0xD8 := by rw [ttData_eq]; omega
  have upper : R.EGR_TT_DATA p % 0x8000 = 0xD8 := by rw [ttData_eq]; omega
  rw [State.putTimetable, if_neg inside]
  simp only [port, place, upper, Nat.reduceEqDiff, Nat.reduceLeDiff, Nat.reduceLT, ne_eq, not_true_eq_false, or_self,
    and_false, if_true, if_false]

end

theorem exec_ttDataWrite_entry {s : State} {p : Port} (opens : s.barOpen (R.EGR_TT_DATA p) = true)
    (full : s.fld F.CMD_ROLE_HOST_ROLE = 2) (data : W64) :
    exec (.ttDataWrite (BitVec.ofNat 26 (R.EGR_TT_DATA p)) true data) s =
      .next (s.putTimetable (R.EGR_TT_DATA p) data) := by
  have off : (BitVec.ofNat 26 (R.EGR_TT_DATA p)).toNat = R.EGR_TT_DATA p :=
    Nat.mod_eq_of_lt (by rw [ttData_eq]; omega)
  show execTtDataWrite _ true data s = _
  rw [execTtDataWrite, off, State.byHost_full opens full,
    State.barWrite_one (regParts_ttData p data) (by rw [regAt_ttData]; rfl)]

/-- Settles O36: each instruction by its cases, and a write of EGR_TT_DATA by the state of the tag in EGR_TT_INDEX. The
pause and the flush of a queue are R229. -/
theorem timetablesAndQueueControl : Obligations.TimetablesAndQueueControl := by
  intro s p t
  refine ⟨exec_ttEntryChange_stays, exec_ttEntryChange_moves, exec_ttOperationalBase_starts,
    exec_ttOperationalBase_early, fun q opens full => ⟨exec_queuePause opens full, fun empty => ?_,
      exec_queueFlush opens full⟩, fun data opens full => ?_⟩
  · rw [exec_queueFlush opens full, State.removeRefs_empty empty]
  · rw [exec_ttDataWrite_entry opens full, s.putTimetable_ttData]
    exact ⟨fun staged => congrArg Host.Outcome.next (if_pos staged),
      fun other => congrArg Host.Outcome.next (if_neg other)⟩

end Sys2Proof.Machine
end

section
/-! What leaves the formes alone (R238, R258): events, faults, the writes of a sweep, the release of frames and the
residue, and the operating points. -/

namespace Sys2Proof.Machine

/-- `t` follows from `s` by operations that leave the formes alone: what the model holds of them stays, and so do the
fields of FRM_STATUS below SETTLED, which are the states of the tags, ACTIVE_TAG and VALID. -/
structure KeepsFormes (s t : State) : Prop where
  forme : t.forme = s.forme
  regs : twf regReset s.regs = true → twf regReset t.regs = true
  status : twf regReset s.regs = true → ∀ f : Fld, f.off = R.FRM_STATUS → f.hi < F.FRM_STATUS_SETTLED.lo →
    t.fld f = s.fld f

/-- A register whose block lies above the formes' is not FRM_STATUS. -/
theorem offset_above {base : Nat} (above : R.FRM_STATUS < base) (i : Nat) : base + i ≠ R.FRM_STATUS :=
  Nat.ne_of_gt (Nat.lt_add_right i above)

/-- A new record takes one of the 256 slots of the log. -/
theorem State.logSlot_lt {s : State} {k : Nat} (slot : s.logSlot = some k) : k < 256 := by
  unfold State.logSlot at slot
  dsimp only at slot
  split at slot
  · cases slot
    exact bitsOf_lt _ 7 0
  · refine List.foldlRecOn (motive := fun m : Option Nat => ∀ k, m = some k → k < 256) _ _ (by simp)
      (fun m ih j inside => ?_) k slot
    have listed : j < 256 := List.mem_range.mp inside
    intro k taken
    split at taken
    · split at taken
      · exact Option.some.inj taken ▸ listed
      · split at taken
        · exact Option.some.inj taken ▸ listed
        · exact ih k taken
    · exact ih k taken

theorem regionOf_lt {src r : Nat} (region : regionOf src = some r) : r < 8 := by
  unfold regionOf at region
  grind

/-- A filter that keeps every entry of a key keeps what is read there. -/
theorem tget_filter {α : Type} (d : Nat → α) (p : Nat × α → Bool) {k : Nat} (kept : ∀ v, p (k, v) = true) :
    ∀ t : Tbl α, tget d (t.filter p) k = tget d t k
  | [] => rfl
  | (j, v) :: t => by
    have ih := tget_filter d p kept t
    by_cases same : j = k
    · subst same
      rw [List.filter_cons_of_pos (kept v), tget, tget, if_pos rfl, if_pos rfl]
    · rw [tget, if_neg same, List.filter_cons]
      split
      · rw [tget, if_neg same, ih]
      · exact ih

namespace KeepsFormes

variable {s t : State}

/-! ### The rules of the state's operations -/

theorem refl (s : State) : KeepsFormes s s := ⟨rfl, id, fun _ _ _ _ => rfl⟩

theorem same (h : KeepsFormes s t) {u : State} (regs : u.regs = t.regs) (forme : u.forme = t.forme) :
    KeepsFormes s u where
  forme := forme.trans h.forme
  regs w := regs ▸ h.regs w
  status w f place low := (fld_congr f (congrArg (tget regReset · f.off) regs)).trans (h.status w f place low)

section
variable (h : KeepsFormes s t)
include h

theorem flt (v : FaultUnit) : KeepsFormes s { t with flt := v } := h.same rfl rfl
theorem boot (v : BootUnit) : KeepsFormes s { t with boot := v } := h.same rfl rfl
theorem pwr (v : PowerUnit) : KeepsFormes s { t with pwr := v } := h.same rfl rfl
theorem ddr (v : DdrUnit) : KeepsFormes s { t with ddr := v } := h.same rfl rfl
theorem gal (v : Galley) : KeepsFormes s { t with gal := v } := h.same rfl rfl
theorem ledger (v : LedgerUnit) : KeepsFormes s { t with ledger := v } := h.same rfl rfl

theorem emit (e : Emission) : KeepsFormes s (t.emit e) := h.same rfl rfl
theorem setEgr (p : Nat) (v : EgrPort) : KeepsFormes s (t.setEgr p v) := h.same rfl rfl
theorem setImage (n : Nat) (v : Image) : KeepsFormes s (t.setImage n v) := h.same rfl rfl
theorem dropFrame (i : Nat) : KeepsFormes s (t.dropFrame i) := h.same rfl rfl

theorem branch {p : Prop} [Decidable p] {u : State} (no : KeepsFormes s u) : KeepsFormes s (if p then t else u) := by
  split
  · exact h
  · exact no

/-- A step that one branch takes and the other leaves out. -/
theorem thenStep {p : Prop} [Decidable p] {u : State} (step : KeepsFormes s t → KeepsFormes s u) :
    KeepsFormes s (if p then u else t) := (step h).branch h

theorem elseStep {p : Prop} [Decidable p] {u : State} (step : KeepsFormes s t → KeepsFormes s u) :
    KeepsFormes s (if p then t else u) := h.branch (step h)

theorem foldl {β : Type} {l : List β} {g : State → β → State}
    (step : ∀ u, KeepsFormes s u → ∀ x ∈ l, KeepsFormes s (g u x)) : KeepsFormes s (l.foldl g t) :=
  List.foldlRecOn l g h step

theorem setReg {o : Nat} (other : o ≠ R.FRM_STATUS) (v : W64) : KeepsFormes s (t.setReg o v) where
  forme := h.forme
  regs w := t.twf_setReg (h.regs w) o v
  status w f place low := (fld_congr f (t.reg_setReg_ne v (place ▸ other.symm))).trans (h.status w f place low)

theorem setFld {f : Fld} (other : f.off ≠ R.FRM_STATUS) (n : Nat) : KeepsFormes s (t.setFld f n) := h.setReg other _

theorem setFlag {f : Fld} (other : f.off ≠ R.FRM_STATUS) (b : Bool) : KeepsFormes s (t.setFlag f b) := h.setReg other _

theorem count {o : Nat} (other : o ≠ R.FRM_STATUS) : KeepsFormes s (t.count o) := h.setReg other _

theorem logFirst {o : Nat} (other : o ≠ R.FRM_STATUS) (vbit r : Nat) : KeepsFormes s (t.logFirst o vbit r) :=
  (h.setReg other _).branch (h.setReg other _)

/-- SETTLED stands above the fields that are kept. -/
theorem settle (b : Bool) : KeepsFormes s (t.setFlag F.FRM_STATUS_SETTLED b) where
  forme := h.forme
  regs w := t.twf_setFlag (h.regs w) _ b
  status w f place low := (t.fld_setFlag_other (h.regs w) _ f b (by decide) (by decide) (.inr (.inl low))).trans
    (h.status w f place low)

/-! ### Events (R460) -/

theorem raise {n : Nat} (source : n < 1536) : KeepsFormes s (t.raise n) where
  forme := by rw [State.raise_frame]; exact h.forme
  regs w := t.twf_raise (h.regs w) n
  status w f place low := by
    have latch : f.off ≠ R.EVT_LATCH (n / 32) := by
      rw [place, R.FRM_STATUS, R.EVT_LATCH]
      omega
    have pba : f.off ≠ R.MSIX_PBA := place ▸ by decide
    exact (fld_congr f (t.reg_raise_ne n latch pba)).trans (h.status w f place low)

theorem raiseG {g b : Nat} (source : 32 * g + b < 1536) : KeepsFormes s (t.raiseG g b) := h.raise source

theorem raiseRegionOf (src : Nat) : KeepsFormes s (match regionOf src with
    | some r => t.raiseRegion r 7
    | none => t) := by
  cases region : regionOf src with
  | none => exact h
  | some r =>
    have inside := regionOf_lt region
    exact h.raiseG (by omega)

/-! ### Faults (R397 to R411) -/

theorem writeRecord (src kind level base addr : Nat) (coded esc : Bool) :
    KeepsFormes s (t.writeRecord src kind level base addr coded esc) := by
  unfold State.writeRecord
  split
  · exact ((h.count (by decide)).setFlag (by decide) _).raiseG (by decide)
  next k slot =>
    have inside := State.logSlot_lt slot
    have word (j : Nat) (small : j < 4) : R.FLT_LOG k j ≠ R.FRM_STATUS := by
      rw [R.FLT_LOG, R.FRM_STATUS]
      omega
    exact ((((((((h.flt _).setReg (word 0 (by decide)) _).setReg (word 1 (by decide)) _).setReg
      (word 2 (by decide)) _).setReg (word 3 (by decide)) _).setFld (by decide) _).elseStep
      fun x => x.raiseG (by decide)).thenStep fun x => x.raiseG (by decide)).raiseRegionOf src

theorem loadRecovery : KeepsFormes s t.loadRecovery := by
  unfold State.loadRecovery
  split
  · exact (h.boot _).setFlag (by decide) _
  · exact (h.boot _).setFlag (by decide) _

theorem setSignal (p : Nat) (b : Bool) : KeepsFormes s (t.setSignal p b) :=
  (h.setFlag (offset_above (by decide) _) b).thenStep fun x => x.same rfl rfl

theorem portsOff : KeepsFormes s t.portsOff :=
  h.foldl fun _ hu p _ =>
    have port (base : Nat) (above : R.FRM_STATUS < base) : base + 32768 * p ≠ R.FRM_STATUS := offset_above above _
    have modes := (hu.setFld (f := F.PRT_MODE_MODE p) (port _ (by decide)) 0).setFld
      (f := F.PRT_STATUS_ACTIVE_MODE p) (port _ (by decide)) 0
    have down := ((modes.setFlag (f := F.PRT_STATUS_LINK_UP p) (port _ (by decide)) false).setFlag
      (f := F.PRT_STATUS_PCS_LOCK p) (port _ (by decide)) false).setFlag
      (f := F.PRT_STATUS_HOLDING p) (port _ (by decide)) false
    (down.setSignal p false).same rfl rfl

theorem enterSafeHold : KeepsFormes s t.enterSafeHold := (h.boot _).portsOff.loadRecovery.raiseG (by decide)

theorem thermalStop : KeepsFormes s t.thermalStop := by
  have stopped (b : BootUnit) (p : PowerUnit) : KeepsFormes s { t with boot := b, pwr := p } := h.same rfl rfl
  exact (stopped _ _).portsOff.setFlag (by decide) true

theorem answer (src kind level : Nat) : KeepsFormes s (t.answer src kind level) :=
  h.thermalStop.branch ((h.elseStep fun x => (x.thenStep fun y => (y.boot _).setReg (by decide) _).enterSafeHold).branch
    (h.thenStep fun x => x.flt _))

theorem spoilTest (src : Nat) : KeepsFormes s (t.spoilTest src) := by
  unfold State.spoilTest
  split
  · exact h
  · exact h.thenStep fun x => (((x.flt _).setFlag (by decide) _).setFld (by decide) _).raiseG (by decide)

theorem fault (src kind addr : Nat) (coded : Bool) : KeepsFormes s (t.fault src kind addr coded) :=
  ((((((h.count (by decide)).thenStep fun x => x.count (by decide)).writeRecord _ _ _ _ _ _ _).thenStep
    fun x => (x.count (by decide)).raiseG (by decide)).answer _ _ _).spoilTest _)

/-! ### Writes to the DDR (R343 to R351) -/

theorem changeEnd (n : Nat) : KeepsFormes s (t.changeEnd n) :=
  (((h.ddr _).setFld (by decide) n).count (by decide)).raiseG (by decide)

theorem ddrWake (o : Nat) : KeepsFormes s (t.ddrWake o) := by
  have waited : KeepsFormes s t.changeWait := by
    unfold State.changeWait
    split
    · exact h.changeEnd _
    · exact h
  exact waited.ddr _

theorem ddrCorrected (o : Nat) : KeepsFormes s (t.ddrCorrected o) :=
  (((h.ddr _).count (by decide)).raiseG (by decide)).thenStep fun x =>
    (x.elseStep fun y => y.setReg (by decide) _).raiseG (by decide)

theorem ddrUncorrectable (req o : Nat) : KeepsFormes s (t.ddrUncorrectable req o) :=
  ((((h.ddr _).logFirst (by decide) _ _).count (by decide)).raiseG (by decide)).fault _ _ _ _

theorem ddrBurst (req b : Nat) (ecc : EccRead) : KeepsFormes s (t.ddrBurst req b ecc).2 := by
  unfold State.ddrBurst
  split
  · exact h.ddrUncorrectable _ _
  · exact h.thenStep fun x => x.ddrCorrected _

theorem ddrWriteBurst (req o : Nat) (bs : List Byte) (ecc : EccRead) :
    KeepsFormes s (t.ddrWriteBurst req o bs ecc) := by
  have read := h.ddrBurst req (o / 64) ecc
  unfold State.ddrWriteBurst
  dsimp only
  split
  · exact h.ddr _
  · split
    next u lost =>
      rw [lost] at read
      exact read.count (by decide)
    next u found =>
      rw [found] at read
      exact read.ddr _

theorem ddrWrite (req addr : Nat) (bs : List Byte) (finds : EccFinds) :
    KeepsFormes s (t.ddrWrite req addr bs finds) :=
  (h.ddrWake _).foldl fun _ hu _ _ => hu.ddrWriteBurst _ _ _ _

/-! ### The Watchlist's directory (R165, R172) -/

theorem writeDir (i : Nat) (w0 w1 : W64) (ecc : EccRead) : KeepsFormes s (t.writeDir i w0 w1 ecc) := by
  have word (j : Nat) : R.WCH_DIR (i / 256) (i % 256) j ≠ R.FRM_STATUS := by
    rw [R.WCH_DIR, R.FRM_STATUS]
    omega
  have shadowed : KeepsFormes s (t.shadowWrite (65536 + i) (dirBytes w0 w1) ecc) :=
    h.thenStep fun x => x.ddrWrite _ _ _ _
  exact ((shadowed.setReg (word 0) w0).setReg (word 1) w1).same rfl rfl

theorem watchRelease (tag : Nat) : KeepsFormes s (t.watchRelease tag) :=
  h.foldl fun u hu _ _ =>
    have taken : KeepsFormes s u.takeEcc.2 := hu.same rfl rfl
    hu.branch (taken.writeDir _ _ _ _)

/-! ### The Ledger's tables (R135, R142, R153) -/

theorem setEntry (tb a : Nat) (e : TblEntry) : KeepsFormes s (t.setEntry tb a e) := h.ledger _

theorem invalidate (tb a : Nat) : KeepsFormes s (t.invalidate tb a) :=
  (h.setEntry _ _ _).thenStep fun x => x.ledger _

theorem parityHit (tb a : Nat) : KeepsFormes s (t.parityHit tb a) := by
  have reported : KeepsFormes s (t.parityReport tb a) :=
    (((h.count (by decide)).logFirst (by decide) _ _).raiseG (by decide)).fault _ _ _ _
  exact (reported.foldl fun _ hu _ _ => hu.invalidate _ _).branch (reported.invalidate _ _)

theorem sweepParity (bad : ParityBad) : KeepsFormes s (t.sweepParity bad) :=
  h.foldl fun _ hu _ _ => hu.foldl fun _ hv _ _ => hv.thenStep fun x => x.parityHit _ _

theorem ledgerRelease (tag : Nat) (bad : ParityBad) : KeepsFormes s (t.ledgerRelease tag bad) := by
  refine raiseG (ledger (foldl (foldl (foldl (h.sweepParity bad) fun u hu tb _ => hu.foldl fun v hv x _ => ?entry)
    fun u hu x _ => ?fork) fun u hu x _ => ?placement) _) (by decide)
  case entry => exact hv.thenStep fun y => (y.setEntry _ _ _).thenStep fun z => z.invalidate _ _
  case fork => exact hu.thenStep fun y => y.setEntry _ _ _
  case placement => exact hu.elseStep fun y => y.invalidate _ _

/-! ### Cells and frames (R42 to R54) -/

theorem poolEvents (before : State) : KeepsFormes s (t.poolEvents before) :=
  (h.thenStep fun x => x.raiseG (by decide)).thenStep fun x => x.raiseG (by decide)

theorem rejectFree {kind : Nat} (known : kind ≤ 3) (req cell addr : Nat) :
    KeepsFormes s (t.rejectFree kind req cell addr) :=
  ((h.logFirst (by decide) _ _).thenStep fun x => x.setReg (by decide) _).raiseG (by omega)

theorem freeCell (req i : Nat) : KeepsFormes s (t.freeCell req i) := by
  unfold State.freeCell State.freeIndex
  refine branch (branch (h.rejectFree (by decide) _ _ _) (branch (h.rejectFree (by decide) _ _ _) (branch (h.gal _)
    (branch ?_ ?_)))) (h.rejectFree (by decide) _ _ _)
  · exact (h.gal _).raiseG (by decide)
  · exact (h.gal _).elseStep fun x => x.gal _

theorem checkSettled : KeepsFormes s t.checkSettled := by
  unfold State.checkSettled
  split
  · exact h.elseStep fun x => x.elseStep fun y => (y.settle true).raiseG (by decide)
  · exact h

theorem freePass (code : Nat) (cell : Option Nat) : KeepsFormes s (match cell with
    | some c => t.freeCell code c
    | none => t) := by
  cases cell with
  | none => exact h
  | some c => exact h.freeCell code c

theorem releaseCells (i code : Nat) : KeepsFormes s (t.releaseCells i code) := by
  unfold State.releaseCells
  split
  · exact h
  next f _ =>
    have cells := h.foldl (l := f.cells ++ f.editCell.toList) fun _ hu c _ => hu.freeCell code c
    exact ((((cells.freePass (0x08 + f.inPort / 16) f.passCell).gal _).dropFrame i).poolEvents t).checkSettled

theorem releaseRef (i code : Nat) : KeepsFormes s (t.releaseRef i code) := by
  unfold State.releaseRef
  split
  · exact h
  · exact (h.releaseCells i code).branch (h.same rfl rfl)

/-! ### Queues and the residue (R65) -/

theorem bringCredit (q : Nat) : KeepsFormes s (t.bringCredit q) := by
  unfold State.bringCredit
  cases t.queueTag q <;> exact h.same rfl rfl

theorem watermark (q : Nat) : KeepsFormes s (t.watermark q) := by
  have latched (b : Bool) : KeepsFormes s (t.setQueue q { t.queue q with wmLatched := b }) := h.same rfl rfl
  exact h.branch ((((latched true).logFirst (by decide) _ _).raiseG (by decide)).branch ((latched false).branch h))

theorem ageDrop (q : Nat) (held : Bool) : KeepsFormes s (t.ageDrop q held) :=
  ((h.count (offset_above (by decide) _)).raiseG (by decide)).thenStep fun x => x.count (offset_above (by decide) _)

theorem modFrame (i : Nat) (g : Frame → Frame) : KeepsFormes s (t.modFrame i g) := by
  unfold State.modFrame
  split
  · exact h.same rfl rfl
  · exact h

theorem enqueue (q i : Nat) (mirror : Bool) : KeepsFormes s (t.enqueue q i mirror) := by
  have queued (v : EgrQueue) : KeepsFormes s ((t.bringCredit q).setQueue q v) := (h.bringCredit q).same rfl rfl
  have acquired (v : EgrQueue) : KeepsFormes s (((t.bringCredit q).setQueue q v).acquire i) := (queued v).modFrame i _
  unfold State.enqueue
  split
  · exact h
  next f there =>
    refine branch (h.count (offset_above (by decide) _)) (branch ?_ (branch ?_
      (((acquired _).count (offset_above (by decide) _)).watermark q)))
    · have admitted : KeepsFormes s (t.count (if f.admitted then R.PRT_C_LD_ADMITTED_DISCARD (q / 128)
          else R.PRT_C_LD_BE_FLUSH (q / 128))) := by
        split
        · exact h.count (offset_above (by decide) _)
        · exact h.count (offset_above (by decide) _)
      exact admitted.count (offset_above (by decide) _)
    · exact (h.count (offset_above (by decide) _)).ageDrop q false

end

theorem serveResidue (n q : Nat) (h : KeepsFormes s t) : KeepsFormes s (State.serveResidue n q t) := by
  induction n generalizing t with
  | zero => exact h
  | succ n ih =>
    rw [State.serveResidue]
    dsimp only
    split
    · exact h
    next k r chosen =>
      split
      · exact h
      next f there =>
        have queued := h.enqueue q r.frame false
        refine h.branch (branch (ih ?_) (ih (queued.gal _)))
        exact ((queued.gal _).modFrame _ _).releaseRef _ _

section
variable (h : KeepsFormes s t)
include h

theorem serveAll : KeepsFormes s t.serveAll := h.foldl fun _ hu _ _ => hu.serveResidue _ _

/-! ### Operating points (R380) -/

theorem setPoint {c : Nat} (inside : c < 16) (p : Nat) : KeepsFormes s (t.setPoint c p) := by
  have point : R.PWR_CASE c ≠ R.FRM_STATUS := by
    rw [R.PWR_CASE, R.FRM_STATUS]
    omega
  have stored (v : CaseState) : KeepsFormes s (t.setCase c v) := h.same rfl rfl
  have switched (v : CaseState) : KeepsFormes s ((t.setCase c v).switchPoint c p) :=
    (((stored v).setFld point p).count (by decide)).thenStep fun x => x.raiseG (by decide)
  exact ((switched _).thenStep fun x => (x.pwr _).emit _).branch
    ((stored _).branch ((switched _).branch (h.branch ((stored _).emit _))))

theorem refitAll : KeepsFormes s t.refitAll :=
  h.foldl fun _ hu _ listed =>
    have inside := List.mem_range.mp listed
    hu.branch ((hu.setPoint inside _).branch ((hu.setPoint inside _).branch ((hu.setPoint inside _).branch hu)))

theorem chipValues : KeepsFormes s t.chipValues :=
  (((h.setFld (by decide) _).poolEvents _).setFld (by decide) _).refitAll.serveAll

/-! ### The tables of a tag (R187, R206) -/

theorem clearTagTables (tag : Nat) : KeepsFormes s (t.clearTagTables tag) where
  forme := h.forme
  regs w := twf_filter _ _ _ (h.regs w)
  status w f place low := by
    have kept : (t.clearTagTables tag).reg f.off = t.reg f.off := by
      rw [place]
      exact tget_filter regReset _ (fun _ => rfl) t.regs
    exact (fld_congr f kept).trans (h.status w f place low)

/-! ### What follows for the tags -/

theorem tagState (w : twf regReset s.regs = true) (tag : Nat) : t.tagState tag = s.tagState tag :=
  h.status w _ (by split <;> rfl) (by split <;> decide)

end

end KeepsFormes

end Sys2Proof.Machine
end

section
/-! Lock-up, drain and release of formes (R240 to R242, R245). -/

namespace Sys2Proof.Machine

/-! ### FCOMMIT (R240, R241) -/

section
variable {s : State} {t : Nat} (working : s.keeperHalted = false) (staged : s.stagedTag = some t)
include working staged

/-- An admitted forme is locked up. -/
theorem State.formeCommit_admitted (admitted : (s.admission t (s.verifyTag t) false).fails = []) :
    s.formeCommit = (let r := s.admission t (s.verifyTag t) false
      let u := s.recordCheck t r
      let u := u.setImage t { u.image t with verified := true, info := (s.verifyTag t).info }
      ((0, t, []), (u.setResv t r.resv).flip t)) := by
  rw [State.formeCommit, working, staged]
  exact if_pos (List.isEmpty_iff.mpr admitted)

/-- A refused one keeps its tag, and the refusals are counted. -/
theorem State.formeCommit_refused {f : AdmFail} {fs : List AdmFail}
    (refused : (s.admission t (s.verifyTag t) false).fails = f :: fs) :
    s.formeCommit = ((0x11, min 256 (fs.length + 1), []),
      ((s.recordCheck t (s.admission t (s.verifyTag t) false)).count R.ADM_C_REFUSALS).raiseG 41 16) := by
  rw [State.formeCommit, working, staged, if_neg Bool.false_ne_true]
  dsimp only
  rw [refused]
  rfl

end

/-! ### The drain (R245) -/

theorem exec_drainComplete {s : State} {t : Nat} (drains : s.drainingTag = some t) : exec .drainComplete s =
    .next (if (s.aliveFrames t).isEmpty then s.checkSettled.beginRelease t else s) := by
  show execDrainComplete s = _
  rw [execDrainComplete, drains]

/-- With no frame alive the drain's end discards nothing. -/
theorem exec_drainTimeout_idle {s : State} {t : Nat} (drains : s.drainingTag = some t) (dead : s.aliveFrames t = []) :
    exec .drainTimeout s = .next (let u := s.raiseG 41 20
      (if u.flag F.FRM_STATUS_SETTLED then u
        else (u.setFlag F.FRM_STATUS_SETTLED true).raiseG 41 18).beginRelease t) := by
  show execDrainTimeout s = _
  rw [execDrainTimeout, drains]
  dsimp only
  rw [dead, List.foldl_nil]

/-! ### The end of a release (R238, R242) -/

/-- The state with tag `t` swept and its tables, timetables and image gone. -/
def State.swept (s : State) (t : Nat) (bad : ParityBad) : State :=
  ((List.range 128).foldl (fun (v : State) p => v.setEgr p ((v.egrPort p).setTt t .init))
    (((s.ledgerRelease t bad).watchRelease t).clearTagTables t)).setImage t .init

/-- Tag `t` is EMPTY and the limits are those of one forme again. -/
def State.emptied (s : State) (t : Nat) (bad : ParityBad) : State :=
  let u := ((s.swept t bad).setResv t 0).setTagState t 0
  { u with forme := { u.forme with overlap := false } }

/-- What the release leaves: the values of the chip follow the active forme, and the event is raised. -/
def State.released (s : State) (t : Nat) (bad : ParityBad) : State :=
  (if (s.emptied t bad).activeTag.isSome then (s.emptied t bad).chipValues else s.emptied t bad).raiseG 41 19

theorem exec_tagReleaseDone_none {s : State} (idle : s.releasingTag = none) (bad : ParityBad) :
    exec (.tagReleaseDone bad) s = .next s := by
  show execTagReleaseDone bad s = _
  rw [execTagReleaseDone, idle]

theorem exec_tagReleaseDone_ends {s : State} {t : Nat} (working : s.keeperHalted = false)
    (releases : s.releasingTag = some t) (bad : ParityBad) :
    exec (.tagReleaseDone bad) s = .next (s.released t bad) := by
  show execTagReleaseDone bad s = _
  rw [execTagReleaseDone, releases, working]
  rfl

theorem State.swept_keeps (s : State) (t : Nat) (bad : ParityBad) : KeepsFormes s (s.swept t bad) :=
  (((((KeepsFormes.refl s).ledgerRelease t bad).watchRelease t).clearTagTables t).foldl
    fun _ hu _ _ => hu.setEgr _ _).setImage _ _

theorem State.released_keeps (s : State) (t : Nat) (bad : ParityBad) :
    KeepsFormes (s.emptied t bad) (s.released t bad) :=
  ((KeepsFormes.refl _).thenStep fun x => x.chipValues).raiseG (by decide)

theorem State.setResv_regs (s : State) (t n : Nat) : (s.setResv t n).regs = s.regs := by
  unfold State.setResv
  split <;> rfl

theorem State.tagState_setTagState_same {s : State} (h : twf regReset s.regs = true) (t n : Nat) :
    (s.setTagState t n).tagState t = n % 8 := by
  unfold State.setTagState State.tagState
  split <;> exact s.fld_setFld_same h _ n (by decide) (by decide)

/-- The states of the two tags stand in fields of their own. -/
theorem State.tagState_setTagState_other {s : State} (h : twf regReset s.regs = true) {t : Nat} (tag : t ≤ 1)
    (n : Nat) :
    (s.setTagState t n).tagState (1 - t) = s.tagState (1 - t) := by
  obtain rfl | rfl : t = 0 ∨ t = 1 := by omega
  · exact s.fld_setFld_other h F.FRM_STATUS_STATE0 F.FRM_STATUS_STATE1 n (by decide) (by decide) (by decide)
  · exact s.fld_setFld_other h F.FRM_STATUS_STATE1 F.FRM_STATUS_STATE0 n (by decide) (by decide) (by decide)

theorem State.releasingTag_le {s : State} {t : Nat} (releases : s.releasingTag = some t) : t ≤ 1 := by
  have member := List.mem_of_find?_eq_some releases
  simp only [List.mem_cons, List.not_mem_nil, or_false] at member
  omega

section
variable {s : State} (h : twf regReset s.regs = true) (t : Nat) (bad : ParityBad)
include h

theorem State.swept_setResv_regs : twf regReset ((s.swept t bad).setResv t 0).regs = true := by
  rw [State.setResv_regs]
  exact (s.swept_keeps t bad).regs h

theorem State.emptied_regs : twf regReset (s.emptied t bad).regs = true :=
  State.twf_setFld _ (State.swept_setResv_regs h t bad) _ 0

theorem State.released_empty : (s.released t bad).tagState t = 0 :=
  ((s.released_keeps t bad).tagState (State.emptied_regs h t bad) t).trans
    (State.tagState_setTagState_same (State.swept_setResv_regs h t bad) t 0)

theorem State.released_other (tag : t ≤ 1) : (s.released t bad).tagState (1 - t) = s.tagState (1 - t) := by
  have resv : ((s.swept t bad).setResv t 0).tagState (1 - t) = (s.swept t bad).tagState (1 - t) :=
    fld_congr _ (congrArg (tget regReset · _) ((s.swept t bad).setResv_regs t 0))
  calc (s.released t bad).tagState (1 - t)
      _ = (s.emptied t bad).tagState (1 - t) := (s.released_keeps t bad).tagState (State.emptied_regs h t bad) _
      _ = ((s.swept t bad).setResv t 0).tagState (1 - t) :=
        State.tagState_setTagState_other (State.swept_setResv_regs h t bad) tag 0
      _ = (s.swept t bad).tagState (1 - t) := resv
      _ = s.tagState (1 - t) := (s.swept_keeps t bad).tagState h _

end

/-- The limits of the two formes are combined no longer (R242). -/
theorem State.released_overlap (s : State) (t : Nat) (bad : ParityBad) : (s.released t bad).forme.overlap = false :=
  congrArg FormeUnit.overlap (s.released_keeps t bad).forme

/-- Settles O38: FCOMMIT by the checker's verdict, the drain by the alive frames, the release by what its end leaves.
That every port flips in the one step of FCOMMIT is the model's choice (log entry 68). -/
theorem lockUpAndRelease : Obligations.LockUpAndRelease := by
  intro s running working
  refine ⟨fun t staged admitted => exec_fcommit running (State.formeCommit_admitted working staged admitted),
    fun t f fs staged refused => exec_fcommit running (State.formeCommit_refused working staged refused),
    fun t drains settled => ?_, fun t x xs drains alive => ?_,
    fun t drains settled => exec_drainTimeout_idle drains settled,
    fun bad idle => exec_tagReleaseDone_none idle bad,
    fun t bad releases => exec_tagReleaseDone_ends working releases bad,
    fun t releases => ⟨s.released t [], exec_tagReleaseDone_ends working releases [], s.released_overlap t [],
      fun _ inv => ⟨State.released_empty inv.regs t [],
        State.released_other inv.regs t [] (State.releasingTag_le releases)⟩⟩⟩
  · rw [exec_drainComplete drains, settled]
    rfl
  · rw [exec_drainComplete drains, alive]
    rfl

end Sys2Proof.Machine
end

section
/-! What each operation of the block keeps, unit by unit in the order of the model: the queue, the clauses of the
invariant, the order of the key slots (`Keeps`). An operation is kept as the operations that it is made of are: a lemma
names them in their order, and splits where the operation does. -/

namespace Sys2Proof.Machine

set_option Elab.async false

/-- The parts of the block that the invariant speaks of. -/
def State.kept (s : State) :=
  (s.pending, s.time.now, s.regs, s.gal.cell, s.ddr.mem, s.boot.qspi, s.boot.keyOp, s.boot.otp.keys)

namespace Keeps

variable {s t u : State}

/-! ### How kept changes combine -/

/-- A change outside the parts that the invariant speaks of. -/
theorem untouched (h : Keeps s t) (parts : u.kept = t.kept := by rfl) : Keeps s u := by
  simp only [State.kept, Prod.mk.injEq] at parts
  obtain ⟨pending, time, regs, cells, mem, flash, op, keys⟩ := parts
  exact h.same pending time regs cells mem flash op keys

theorem branch {p : Prop} [Decidable p] (yes : Keeps s t) (no : Keeps s u) : Keeps s (if p then t else u) := by
  split
  · exact yes
  · exact no

/-- A step that one branch takes and the other leaves out. -/
theorem thenStep {p : Prop} [Decidable p] (h : Keeps s t) (step : Keeps s t → Keeps s u) :
    Keeps s (if p then u else t) := (step h).branch h

theorem elseStep {p : Prop} [Decidable p] (h : Keeps s t) (step : Keeps s t → Keeps s u) :
    Keeps s (if p then t else u) := h.branch (step h)

/-- A kept state that several branches go on from. -/
theorem into (h : Keeps s t) (step : Keeps s t → Keeps s u) : Keeps s u := step h

theorem fold {β : Type} {l : List β} {g : State → β → State} (h : Keeps s t)
    (step : ∀ u, Keeps s u → ∀ x, Keeps s (g u x)) : Keeps s (l.foldl g t) :=
  Keeps.foldl g (fun u x hu => step u hu x) l t h

theorem foldSnd {α β : Type} {l : List β} {g : α × State → β → α × State} {a : α × State} (h : Keeps s a.2)
    (step : ∀ a : α × State, Keeps s a.2 → ∀ x, Keeps s (g a x).2) : Keeps s (l.foldl g a).2 :=
  Keeps.foldlP (fun a => Keeps s a.2) g (fun u x hu => step u hu x) l a h

theorem ofPair {α : Type} {x : α × State} {a : α} (h : Keeps s x.2) (e : x = (a, u) := by assumption) :
    Keeps s u := by
  subst e
  exact h

theorem ofTriple {α β : Type} {x : α × β × State} {a : α} {b : β} (h : Keeps s x.2.2)
    (e : x = (a, b, u) := by assumption) : Keeps s u := by
  subst e
  exact h

section
variable (h : Keeps s t)
include h

/-! ### Updates of one part of the block -/

theorem setReg (o : Nat) (v : W64) : Keeps s (t.setReg o v) :=
  h.trans ⟨rfl, id, fun w => t.twf_setReg w o v, id, id, id, fun op => ⟨op, KeysForward.refl t⟩, rfl⟩

theorem setFld (f : Fld) (n : Nat) : Keeps s (t.setFld f n) := h.setReg _ _
theorem setFlag (f : Fld) (b : Bool) : Keeps s (t.setFlag f b) := h.setReg _ _
theorem countN (o n : Nat) : Keeps s (t.countN o n) := h.setReg _ _
theorem count (o : Nat) : Keeps s (t.count o) := h.setReg _ _

theorem withRegs (v : Tbl W64) (form : twf regReset t.regs = true → twf regReset v = true) :
    Keeps s { t with regs := v } :=
  h.trans ⟨rfl, id, form, id, id, id, fun op => ⟨op, KeysForward.refl t⟩, rfl⟩

theorem setCellRam (i : Nat) (v : BitVec 8) : Keeps s (t.setCellRam i v) :=
  h.trans ⟨rfl, id, id, fun w => twf_tput _ _ w i v, id, id, fun op => ⟨op, KeysForward.refl t⟩, rfl⟩

/-- The time base may take any value below its wrap. -/
theorem setNow (v : TimeUnit) (below : v.now < tbWrap) : Keeps s { t with time := v } :=
  h.trans ⟨rfl, fun _ => below, id, id, id, id, fun op => ⟨op, KeysForward.refl t⟩, rfl⟩

theorem setMem (v : DdrUnit) (form : Memory.wf 0 t.ddr.mem = true → Memory.wf 0 v.mem = true) :
    Keeps s { t with ddr := v } :=
  h.trans ⟨rfl, id, id, id, form, id, fun op => ⟨op, KeysForward.refl t⟩, rfl⟩

theorem withTime (v : TimeUnit) (same : v.now = t.time.now := by rfl) : Keeps s { t with time := v } :=
  h.same rfl same rfl rfl rfl rfl rfl rfl
theorem withGal (v : Galley) (same : v.cell = t.gal.cell := by rfl) : Keeps s { t with gal := v } :=
  h.same rfl rfl rfl same rfl rfl rfl rfl
theorem withDdr (v : DdrUnit) (same : v.mem = t.ddr.mem := by rfl) : Keeps s { t with ddr := v } :=
  h.same rfl rfl rfl rfl same rfl rfl rfl
theorem withBoot (v : BootUnit) (flash : v.qspi = t.boot.qspi := by rfl) (op : v.keyOp = t.boot.keyOp := by rfl)
    (keys : v.otp.keys = t.boot.otp.keys := by rfl) : Keeps s { t with boot := v } :=
  h.same rfl rfl rfl rfl rfl flash op keys
theorem withCmd (v : CmdUnit) : Keeps s { t with cmd := v } := h.untouched
theorem withPwr (v : PowerUnit) : Keeps s { t with pwr := v } := h.untouched
theorem modBoot (g : BootUnit → BootUnit) (flash : (g t.boot).qspi = t.boot.qspi := by rfl)
    (op : (g t.boot).keyOp = t.boot.keyOp := by rfl) (keys : (g t.boot).otp.keys = t.boot.otp.keys := by rfl) :
    Keeps s (t.modBoot g) := h.withBoot _ flash op keys

theorem withFrames (v : Tbl (Option Frame)) : Keeps s { t with frames := v } := h.untouched
theorem withTtWords (v : Tbl W64) : Keeps s { t with ttWords := v } := h.untouched
theorem withLedger (v : LedgerUnit) : Keeps s { t with ledger := v } := h.untouched
theorem withForme (v : FormeUnit) : Keeps s { t with forme := v } := h.untouched
theorem withFlt (v : FaultUnit) : Keeps s { t with flt := v } := h.untouched

/-! ### Shared operations and events -/

theorem logFirst (off vbit rec : Nat) : Keeps s (t.logFirst off vbit rec) := (h.setReg _ _).branch (h.setReg _ _)
theorem emit (e : Emission) : Keeps s (t.emit e) := h.untouched
theorem takeFree (w : Nat) : Keeps s (t.takeFree w).2 := h.untouched
theorem freeBytes (n : Nat) : Keeps s (t.freeBytes n).2 := h.takeFree (8 * n)
theorem setPort (p : Nat) (v : PortState) : Keeps s (t.setPort p v) := h.untouched
theorem setFrame (i : Nat) (f : Frame) : Keeps s (t.setFrame i f) := h.withFrames _
theorem dropFrame (i : Nat) : Keeps s (t.dropFrame i) := h.withFrames _

theorem modFrame (i : Nat) (g : Frame → Frame) : Keeps s (t.modFrame i g) := by
  unfold State.modFrame
  split
  · exact h.setFrame _ _
  · exact h

theorem setComp (c : Nat) (v : CompState) : Keeps s (t.setComp c v) := h.untouched
theorem setCase (c : Nat) (v : CaseState) : Keeps s (t.setCase c v) := h.untouched
theorem setPath (r : Nat) (v : List Nat) : Keeps s (t.setPath r v) := h.untouched
theorem setWaitPass (r : Nat) (v : List Nat) : Keeps s (t.setWaitPass r v) := h.untouched
theorem setImage (tag : Nat) (v : Image) : Keeps s (t.setImage tag v) := h.untouched
theorem setQueue (q : Nat) (v : EgrQueue) : Keeps s (t.setQueue q v) := h.untouched
theorem setEgr (p : Nat) (v : EgrPort) : Keeps s (t.setEgr p v) := h.untouched
theorem setTtWord (p tag e : Nat) (v : W64) : Keeps s (t.setTtWord p tag e v) := h.withTtWords _
theorem signalVec (v : Nat) : Keeps s (t.signalVec v) := (h.emit _).branch (h.setReg _ _)

theorem signalRises (before : State) : Keeps s (t.signalRises before) :=
  fold h fun _ hu _ => hu.thenStep fun x => x.signalVec _

theorem flushPba : Keeps s t.flushPba := fold h fun _ hu _ => hu.thenStep fun x => (x.setReg _ _).emit _
theorem raise (n : Nat) : Keeps s (t.raise n) := (h.setReg _ _).thenStep fun x => x.elseStep fun y => y.signalVec _
theorem raiseG (g b : Nat) : Keeps s (t.raiseG g b) := h.raise _
theorem raisePort (p k : Nat) : Keeps s (t.raisePort p k) := h.raise _
theorem raiseComp (c k : Nat) : Keeps s (t.raiseComp c k) := h.raiseG _ _
theorem raiseCase (c k : Nat) : Keeps s (t.raiseCase c k) := h.raiseG _ _
theorem raiseRegion (r k : Nat) : Keeps s (t.raiseRegion r k) := h.raiseG _ _
theorem setTagState (tag n : Nat) : Keeps s (t.setTagState tag n) := h.setFld _ _

/-! ### Faults -/

theorem writeRecord (src kind level base addr : Nat) (coded esc : Bool) :
    Keeps s (t.writeRecord src kind level base addr coded esc) := by
  unfold State.writeRecord
  split
  · exact ((h.count _).setFlag _ _).raiseG _ _
  · exact ((((((((h.withFlt _).setReg _ _).setReg _ _).setReg _ _).setReg _ _).setFld _ _).elseStep fun x =>
      x.raiseG _ _).thenStep fun y => y.raiseG _ _).into fun k => by
      dsimp only
      split
      · exact k.raiseRegion _ _
      · exact k

theorem loadRecovery : Keeps s t.loadRecovery := by
  unfold State.loadRecovery
  split
  · exact (h.withBoot _).setFlag _ _
  · exact (h.withBoot _).setFlag _ _

theorem setSignal (p : Nat) (b : Bool) : Keeps s (t.setSignal p b) :=
  (h.setFlag _ _).thenStep fun x => x.setPort _ _

theorem portsOff : Keeps s t.portsOff :=
  fold h fun _ hu _ => ((((((hu.setFld _ _).setFld _ _).setFlag _ _).setFlag _ _).setFlag _ _).setSignal _ _).setEgr
    _ _

theorem enterSafeHold : Keeps s t.enterSafeHold := (h.withBoot _).portsOff.loadRecovery.raiseG _ _
theorem thermalStop : Keeps s t.thermalStop := h.untouched.portsOff.setFlag _ _

theorem answer (src kind level : Nat) : Keeps s (t.answer src kind level) := by
  unfold State.answer
  split
  · exact h.thermalStop
  · split
    · exact h.elseStep fun x => (x.thenStep fun y => (y.withBoot _).setReg _ _).enterSafeHold
    · exact h.thenStep fun z => z.withFlt _

theorem spoilTest (src : Nat) : Keeps s (t.spoilTest src) := by
  unfold State.spoilTest
  split
  · exact h
  · exact h.thenStep fun x => (((x.withFlt _).setFlag _ _).setFld _ _).raiseG _ _

theorem faultAt (src kind base addr : Nat) (coded : Bool) : Keeps s (t.faultAt src kind base addr coded) :=
  (((((h.count _).thenStep fun x => x.count _).writeRecord _ _ _ _ _ _ _).thenStep fun y => (y.count _).raiseG _
    _).answer _ _ _).spoilTest _

theorem fault (src kind addr : Nat) (coded : Bool) : Keeps s (t.fault src kind addr coded) := h.faultAt _ _ _ _ _

/-! ### BAR0 -/

theorem barErr (read : Bool) (off : Nat) : Keeps s (t.barErr read off) := ((h.logFirst _ _ _).count _).raiseG _ _

theorem plainWrite (off : Nat) (v : W64) : Keeps s (t.plainWrite off v) := by
  unfold State.plainWrite
  split
  · exact h.setReg _ _
  · exact h

theorem barWrite (off : Nat) (wide : Bool) (data : W64) {put : State → Nat → W64 → State}
    (step : ∀ u, Keeps s u → ∀ o v, Keeps s (put u o v)) : Keeps s (t.barWrite off wide data put) := by
  unfold State.barWrite
  split
  · exact h.barErr _ _
  · exact h.fold fun _ hu _ => (step _ hu _ _).branch hu

theorem byHost (off : Nat) {f : State → State} (step : ∀ u, Keeps s u → Keeps s (f u)) : Keeps s (t.byHost off f) :=
  h.branch ((step _ h).branch ((h.count _).raiseG _ _))

theorem hostRead {f : State → State} (step : ∀ u, Keeps s u → Keeps s (f u)) : Keeps s (t.hostRead f) :=
  (h.emit _).branch (step _ h)

/-! ### DDR -/

theorem setRanks (mode : Nat) : Keeps s (t.setRanks mode) := h.withDdr _

theorem changeEnd (set : Nat) : Keeps s (t.changeEnd set) :=
  ((((h.setRanks _).withDdr _).setFld _ _).count _).raiseG _ _

theorem changeTick : Keeps s t.changeTick := by
  unfold State.changeTick
  split
  · exact h.thenStep fun x => x.changeEnd _
  · exact h

theorem changeWait : Keeps s t.changeWait := by
  unfold State.changeWait
  split
  · exact h.changeEnd _
  · exact h

theorem ddrWake (o : Nat) : Keeps s (t.ddrWake o) := h.changeWait.withDdr _

theorem ddrCorrected (o : Nat) : Keeps s (t.ddrCorrected o) :=
  (((h.withDdr _).count _).raiseG _ _).thenStep fun x => (x.elseStep fun y => y.setReg _ _).raiseG _ _

theorem ddrUncorrectable (req o : Nat) : Keeps s (t.ddrUncorrectable req o) :=
  ((((h.withDdr _).logFirst _ _ _).count _).raiseG _ _).fault _ _ _ _

theorem ddrBurst (req b : Nat) (ecc : EccRead) : Keeps s (t.ddrBurst req b ecc).2 := by
  unfold State.ddrBurst
  split
  · exact h.ddrUncorrectable _ _
  · exact h.thenStep fun x => x.ddrCorrected _

theorem ddrBursts (req : Nat) (fs : EccFinds) (k : Nat) (bs : List Nat) :
    Keeps s (State.ddrBursts req fs k bs t).2 := by
  induction bs generalizing k t with
  | nil => exact h
  | cons b bs ih =>
    rw [State.ddrBursts]
    split
    split
    · exact ih (h.ddrBurst _ _ _).ofPair _
    · exact (h.ddrBurst _ _ _).ofPair

theorem ddrReadTo (req addr len : Nat) (fs : EccFinds) : Keeps s (t.ddrReadTo req addr len fs).2.2 := by
  unfold State.ddrReadTo
  exact ((h.ddrWake _).ddrBursts _ _ _ _).into fun k => by
    dsimp only
    split
    · exact k
    · exact k

theorem ddrRead (req addr len : Nat) (fs : EccFinds) : Keeps s (t.ddrRead req addr len fs).2 := by
  unfold State.ddrRead
  split
  · exact (h.ddrReadTo _ _ _ _).ofTriple
  · exact (h.ddrReadTo _ _ _ _).ofTriple

theorem ddrWriteBurst (req o : Nat) (bs : List Byte) (ecc : EccRead) : Keeps s (t.ddrWriteBurst req o bs ecc) := by
  unfold State.ddrWriteBurst
  dsimp only
  split
  · exact h.setMem _ (Memory.wf_writeN 0 _ _ _)
  · split
    · exact (h.ddrBurst _ _ _).ofPair.count _
    · exact (h.ddrBurst _ _ _).ofPair.setMem _ (Memory.wf_writeN 0 _ _ _)

theorem ddrWrite (req addr : Nat) (bs : List Byte) (fs : EccFinds) : Keeps s (t.ddrWrite req addr bs fs) :=
  fold (h.ddrWake _) fun _ hu _ => hu.ddrWriteBurst _ _ _ _

theorem takeEcc : Keeps s t.takeEcc.2 := h.takeFree 2
theorem takeFinds (n : Nat) : Keeps s (t.takeFinds n).2 := foldSnd h fun _ hu _ => hu.takeEcc

theorem ddrFreqGo (set : Nat) : Keeps s (t.ddrFreqGo set) :=
  (h.raiseG _ _).branch (h.elseStep fun x => (x.setRanks _).withDdr _)

/-! ### The Galley -/

theorem setLinkRam (i : Nat) (v : BitVec 20) : Keeps s (t.setLinkRam i v) := h.withGal _
theorem setBankList (b : Nat) (l : List (Nat × Nat)) : Keeps s (t.setBankList b l) := h.withGal _

theorem linkCell (prev : Option Nat) (i : Nat) : Keeps s (t.linkCell prev i) := by
  unfold State.linkCell
  split
  · exact h.setLinkRam _ _
  · exact h

theorem poolEvents (before : State) : Keeps s (t.poolEvents before) :=
  (h.thenStep fun x => x.raiseG _ _).thenStep fun y => y.raiseG _ _

theorem rejectFree (kind req cell addr : Nat) : Keeps s (t.rejectFree kind req cell addr) :=
  ((h.logFirst _ _ _).thenStep fun x => x.setReg _ _).raiseG _ _

theorem cellFencedEvent : Keeps s t.cellFencedEvent := h.raiseG _ _

theorem freeIndex (req i : Nat) : Keeps s (t.freeIndex req i) := by
  unfold State.freeIndex
  split
  · exact h.rejectFree _ _ _ _
  · split
    · exact h.rejectFree _ _ _ _
    · exact (h.setCellRam _ _).elseStep fun x => (x.withGal _).cellFencedEvent.branch
        (((h.setCellRam _ _).withGal _).elseStep fun y => y.setBankList _ _)

theorem freeCell (req i : Nat) : Keeps s (t.freeCell req i) := (h.freeIndex _ _).branch (h.rejectFree _ _ _ _)
theorem freeAddr (req addr : Nat) : Keeps s (t.freeAddr req addr) := (h.freeIndex _ _).branch (h.rejectFree _ _ _ _)

theorem listBreak (i : Nat) : Keeps s (t.listBreak i) :=
  (((((h.setBankList _ _).withGal _).withGal _).count _).raiseG _ _).fault _ _ _ _

theorem grantFrom (code b : Nat) (bad : Bool) : Keeps s (t.grantFrom code b bad).2 := by
  unfold State.grantFrom
  split
  · exact h
  · exact ((((((h.takeFree 19).setCellRam _ _).setLinkRam _ _).withGal _).setBankList _ _).thenStep fun x =>
      x.listBreak _).poolEvents _

theorem request (code : Nat) (resvOk bad : Bool) (used : List Nat) :
    Keeps s (t.request code resvOk bad used).2.2.2 := by
  unfold State.request
  dsimp only
  split
  · split
    · split
      · exact h.grantFrom _ _ _
      · exact (h.grantFrom _ _ _).withGal _
    · exact h
  · exact h

theorem sweepEnd (b : Nat) : Keeps s (t.sweepEnd b) := (h.withGal _).setBankList _ _

theorem reown (cells : List Nat) (code : Nat) : Keeps s (t.reown cells code) :=
  fold h fun _ hu _ => hu.setCellRam _ _

theorem checkSettled : Keeps s t.checkSettled := by
  unfold State.checkSettled
  split
  · exact h.elseStep fun x => x.elseStep fun y => (y.setFlag _ _).raiseG _ _
  · exact h

theorem releaseCells (i code : Nat) : Keeps s (t.releaseCells i code) := by
  unfold State.releaseCells
  split
  · exact h
  · exact (fold h fun _ hu _ => hu.freeCell _ _).into fun k => by
      refine (((withGal ?_ _).dropFrame _).poolEvents _).checkSettled
      split
      · exact k.freeCell _ _
      · exact k

theorem acquire (i : Nat) : Keeps s (t.acquire i) := h.modFrame _ _

theorem releaseRef (i code : Nat) : Keeps s (t.releaseRef i code) := by
  unfold State.releaseRef
  split
  · exact h
  · exact (h.releaseCells _ _).branch (h.setFrame _ _)

theorem leaveAgain (p i : Nat) : Keeps s (t.leaveAgain p i) := h.setPort _ _

theorem freePassCell (f : Frame) : Keeps s (t.freePassCell f).2 := by
  unfold State.freePassCell
  split
  · exact h
  · exact ((h.freeCell _ _).withGal _).poolEvents _

theorem loseCells (i : Nat) : Keeps s (t.loseCells i) := by
  unfold State.loseCells
  split
  · exact h
  · dsimp only
    split
    · exact ((h.leaveAgain _ _).releaseCells _ _).branch ((h.leaveAgain _ _).setFrame _ _)
    · exact (fold h fun _ hu _ => hu.freeCell _ _).into fun k =>
        ((((k.withGal _).setPort _ _).poolEvents _).setFrame _ _).checkSettled.branch
          ((((k.withGal _).setPort _ _).poolEvents _).dropFrame _).checkSettled

theorem fenceCell (i : Nat) : Keeps s (t.fenceCell i) :=
  (((((h.setCellRam _ _).thenStep fun x => ((x.withGal _).setBankList _ _).poolEvents _).elseStep fun y => y.withGal
    _).count _).raiseG _ _).cellFencedEvent

theorem galleyUe (i : Nat) : Keeps s (t.galleyUe i) := (h.fenceCell _).fault _ _ _ _

theorem readCells (cells : List Nat) (k : Nat) (ecc : EccRead) : Keeps s (t.readCells cells k ecc).2 := by
  unfold State.readCells
  dsimp only
  split
  · exact (h.count _).raiseG _ _
  · split
    · exact h.galleyUe _
    · exact h
  · exact h

theorem readFrame (cells : List Nat) (ecc : EccRead) : Keeps s (t.readFrame cells ecc).2 := by
  unfold State.readFrame
  split
  · exact (h.takeFree 32).readCells _ _ _
  · exact h.readCells _ _ _

/-! ### Egress queues -/

theorem bringCredit (q : Nat) : Keeps s (t.bringCredit q) := by
  unfold State.bringCredit
  dsimp only
  split
  · exact h.setQueue _ _
  · exact h.setQueue _ _

theorem chargeGap (q : Nat) : Keeps s (t.chargeGap q) := by
  unfold State.chargeGap
  dsimp only
  split
  · exact h.bringCredit _
  · exact (h.bringCredit _).thenStep fun x => x.setQueue _ _

theorem watermark (q : Nat) : Keeps s (t.watermark q) :=
  h.elseStep fun x => (((x.setQueue _ _).logFirst _ _ _).raiseG _ _).branch (x.thenStep fun y => y.setQueue _ _)

theorem watermarksOf (i : Nat) : Keeps s (t.watermarksOf i) :=
  fold h fun _ hu _ => hu.thenStep fun x => x.watermark _

theorem ageDrop (q : Nat) (held : Bool) : Keeps s (t.ageDrop q held) :=
  ((h.count _).raiseG _ _).thenStep fun x => x.count _

theorem enqueue (q i : Nat) (mirror : Bool) : Keeps s (t.enqueue q i mirror) := by
  unfold State.enqueue
  split
  · exact h
  · dsimp only
    split
    · exact h.count _
    · split
      · exact (h.count _).count _
      · split
        · exact (h.count _).ageDrop _ _
        · exact ((((h.bringCredit _).setQueue _ _).acquire _).count _).watermark _

theorem serveResidue (n q : Nat) : Keeps s (State.serveResidue n q t) := by
  induction n generalizing t with
  | zero => exact h
  | succ n ih =>
    rw [State.serveResidue]
    dsimp only
    split
    · exact h
    · split
      · exact h
      · have queued := h.enqueue q
        refine h.branch (branch (ih ?_) (ih ((queued _ _).withGal _)))
        exact (((queued _ _).withGal _).modFrame _ _).releaseRef _ _

theorem serveAll : Keeps s t.serveAll := fold h fun _ hu _ => hu.serveResidue _ _
theorem release (i code : Nat) : Keeps s (t.release i code) := (h.releaseRef _ _).serveAll
theorem releaseFrame (i code : Nat) : Keeps s (t.releaseFrame i code) := (h.releaseCells _ _).serveAll
theorem loseFrame (i : Nat) : Keeps s (t.loseFrame i) := (h.loseCells _).serveAll
theorem unlink (q : Nat) (ref : QRef) : Keeps s (t.unlink q ref) := ((h.bringCredit _).setQueue _ _).watermark _
theorem dropRef (q : Nat) (ref : QRef) : Keeps s (t.dropRef q ref) := (h.unlink _ _).release _ _

theorem ageHead (n q : Nat) : Keeps s (State.ageHead n q t) := by
  induction n generalizing t with
  | zero => exact h
  | succ n ih =>
    rw [State.ageHead]
    split
    · exact h
    · exact (ih ((h.ageDrop _ _).dropRef _ _)).branch h

theorem headChanged (q : Nat) (before : Option QRef) : Keeps s (t.headChanged q before) :=
  h.elseStep fun x => x.ageHead _ _

theorem removeRef (q : Nat) (ref : QRef) : Keeps s (t.removeRef q ref) := (h.dropRef _ _).headChanged _ _

theorem removeRefs (q : Nat) (sel : QRef → Frame → Bool) {cnt : State → Frame → State}
    (step : ∀ u, Keeps s u → ∀ f, Keeps s (cnt u f)) : Keeps s (t.removeRefs q sel cnt) :=
  (h.fold fun _ hu _ => by
    split
    · exact ((step _ hu _).dropRef _ _).branch hu
    · exact hu).headChanged _ _

theorem unpick (i : Nat) : Keeps s (t.unpick i) := fold h fun _ hu _ => hu.setEgr _ _

theorem goBad (i : Nat) {cnt : State → State} (step : ∀ u, Keeps s u → Keeps s (cnt u)) :
    Keeps s (t.goBad i cnt) := by
  unfold State.goBad
  split
  · exact h
  · exact (((h.setFrame _ _).unpick _).elseStep fun x => step _ x).fold
      fun _ hu _ => hu.removeRefs _ _ fun _ hv _ => hv

/-! ### The Archive -/

theorem modArc (g : ArcUnit → ArcUnit) : Keeps s (t.modArc g) := h.untouched
theorem setArcState (n : Nat) : Keeps s (t.setArcState n) := h.setFld _ _

theorem ringSpan (addr : Nat) (bs : List Byte) (fs : EccFinds) : Keeps s (t.ringSpan addr bs fs).2 := by
  unfold State.ringSpan
  split
  · exact h.ddrWrite _ _ _ _
  · exact h

theorem ringWrite (pos : Nat) (bs : List Byte) (fs : EccFinds) : Keeps s (t.ringWrite pos bs fs).2 := by
  unfold State.ringWrite
  dsimp only
  split
  · exact h.ringSpan _ _ _
  · exact (h.ringSpan _ _ _).ringSpan _ _ _

theorem ringIndex (fs : EccFinds) : Keeps s (t.ringIndex fs) :=
  h.elseStep fun x => x.thenStep fun y => y.ddrWrite _ _ _ _

theorem ringRead (r : RingRec) (k : Nat) (fs : EccFinds) : Keeps s (t.ringRead r k fs).2 := by
  unfold State.ringRead
  refine foldSnd h fun _ hu _ => ?_
  split
  · exact hu
  · split
    · exact hu.ddrRead _ _ _ _
    · exact hu

theorem loseRecord (reason sel : Nat) (time : Stamp) : Keeps s (t.loseRecord reason sel time) :=
  ((h.count _).modArc _).thenStep fun x => (x.modArc _).raiseG _ _

theorem ringTake (kind sel : Nat) (time : Stamp) (len : Nat) : Keeps s (t.ringTake kind sel time len) :=
  ((h.modArc _).count _).countN _ _

theorem ringPut (kind sel : Nat) (time : Stamp) (bs : List Byte) (fs : EccFinds) :
    Keeps s (t.ringPut kind sel time bs fs).2 := by
  unfold State.ringPut
  split
  · exact h
  · split
    · exact (h.ringWrite _ _ _).ofPair
    · exact ((h.ringWrite _ _ _).ofPair.ringIndex _).ringTake _ _ _ _

theorem flushGaps (gaps : List GapRun) (fs : EccFinds) : Keeps s (t.flushGaps gaps fs).2 := by
  induction gaps generalizing t fs with
  | nil =>
    rw [State.flushGaps]
    dsimp only
    exact h.modArc _
  | cons g gaps ih =>
    rw [State.flushGaps]
    split
    · exact ih ((h.ringPut _ _ _ _ _).ofPair.raiseG _ _) _
    · dsimp only
      exact (h.ringPut _ _ _ _ _).ofPair.modArc _

theorem ringRecord (kind sel : Nat) (time : Stamp) (build : Nat → List Byte) (fs : EccFinds) :
    Keeps s (t.ringRecord kind sel time build fs) := by
  unfold State.ringRecord
  split
  · split
    · exact ((h.flushGaps _ _).ofPair.ringPut _ _ _ _ _).ofPair
    · exact ((h.flushGaps _ _).ofPair.ringPut _ _ _ _ _).ofPair.loseRecord _ _ _
  · exact (h.flushGaps _ _).ofPair.loseRecord _ _ _

theorem capMark (i sel : Nat) : Keeps s (t.capMark i sel) := by
  unfold State.capMark
  split
  · exact h
  · split
    · exact h.count _
    · exact (h.count _).branch ((h.loseRecord _ _ _).branch ((h.acquire _).modArc _))

theorem capCharge (sel rlen : Nat) : Keeps s (t.capCharge sel rlen).2 := by
  unfold State.capCharge
  dsimp only
  split
  · exact h
  · dsimp only
    exact h.modArc _

theorem capPop : Keeps s t.capPop := by
  unfold State.capPop
  split
  · exact h
  · refine (modArc ?_ _).release _ _
    split
    · exact h.freeCell _ _
    · exact h

theorem capNone : Keeps s t.capNone := by
  unfold State.capNone
  split
  · exact h
  · exact ((((h.count _).count _).raiseG _ _).loseRecord _ _ _).capPop

theorem capWrite (q : CapReq) (f : Frame) (ecc : EccRead) (fs : EccFinds) : Keeps s (t.capWrite q f ecc fs) :=
  ((h.readFrame _ _).loseRecord _ _ _).capPop.branch ((h.readFrame _ _).ringRecord _ _ _ _ _).capPop

theorem capArm (sel : Nat) (arm : Bool) (data : List W64) : Keeps s (t.capArm sel arm data).2 := by
  unfold State.capArm
  dsimp only
  split
  · split
    · exact h.setReg _ _
    · exact h
  · split
    · exact h
    · dsimp only
      exact ((fold h fun _ hu _ => hu.setReg _ _).setFlag _ _).modArc _

theorem freeDead : Keeps s t.freeDead := h.untouched

theorem reclaim (e : t.reclaim = some u) : Keeps s u := by
  unfold State.reclaim at e
  split at e
  · cases e
  · cases e
    exact (h.modArc _).freeDead

theorem openEvent (e : ArcEvent) : Keeps s (t.openEvent e) := by
  have room : ∀ u, (if t.arc.events.length < 4096 then some t else t.reclaim) = some u → Keeps s u := by
    intro u
    split
    · intro same
      exact Option.some.inj same ▸ h
    · exact h.reclaim
  unfold State.openEvent
  dsimp only
  split
  · exact h
  next u e =>
    exact ((((room u e).modArc _).setReg _ _).setArcState _).raiseG _ _

theorem setPending (e : ArcEvent) : Keeps s (t.setPending e) := (h.modArc _).setFlag _ _

theorem takeTrigger (src cause : Nat) (time : Stamp) : Keeps s (t.takeTrigger src cause time) := by
  unfold State.takeTrigger
  split
  · exact h.openEvent _
  · exact (h.modArc _).branch (h.setPending _)

theorem trigger (src cause : Nat) (time : Stamp) : Keeps s (t.trigger src cause time) := by
  unfold State.trigger
  split
  · exact (h.count _).raiseG _ _
  · exact (((((h.count _).raiseG _ _).takeFinds _).ringRecord _ _ _ _ _).modArc _).branch
      (((((h.count _).raiseG _ _).takeFinds _).ringRecord _ _ _ _ _).takeTrigger _ _ _)

theorem releaseHeld : Keeps s t.releaseHeld := by
  unfold State.releaseHeld
  split
  · exact h
  · dsimp only
    split
    · exact (h.modArc _).openEvent _
    · exact ((h.modArc _).modArc _).branch ((h.modArc _).setPending _)

theorem setNandBlock (b : Nat) (v : NandBlock) : Keeps s (t.setNandBlock b v) := h.modArc _

theorem retireBlock (b : Nat) (failed : Bool) : Keeps s (t.retireBlock b failed) :=
  (((h.setNandBlock _ _).count _).raiseG _ _).elseStep fun x => (x.modArc _).elseStep fun y =>
    (((y.modArc _).setFld _ _).raiseG _ _).thenStep fun z => (z.setArcState _).raiseG _ _

theorem keepErased (d n : Nat) : Keeps s (State.keepErased d n t) := by
  induction n generalizing t with
  | zero => exact h
  | succ n ih =>
    rw [State.keepErased]
    split
    · exact h
    · split
      · exact ih (h.reclaim ‹_›)
      · exact h

theorem keepAllErased : Keeps s t.keepAllErased := fold h fun _ hu _ => hu.keepErased _ _

theorem nextBlock {b : Nat} (e : t.nextBlock = some (b, u)) : Keeps s u := by
  unfold State.nextBlock at e
  extract_lets dies d key erased pick at e
  have herased : Keeps s erased := h.keepErased d 4096
  split at e
  · cases e
    exact h
  · split at e
    · cases e
    · cases hp : pick with
      | none => simp only [hp, Option.map_none, reduceCtorEq] at e
      | some p =>
        simp only [hp, Option.map_some, Option.some.injEq, Prod.mk.injEq] at e
        exact e.2 ▸ herased.modArc _

theorem program (ok : Bool) (page : NandPage) {done : State → State} (step : ∀ u, Keeps s u → Keeps s (done u)) :
    Keeps s (t.program ok page done) := by
  unfold State.program
  split
  · exact h
  · have written := h.nextBlock ‹_›
    dsimp only
    split
    · exact step _ ((((written.setNandBlock _ _).modArc _).modArc _).count _)
    · exact (((written.setNandBlock _ _).modArc _).modArc _).retireBlock _ _

theorem writeCheckpoint : Keeps s t.writeCheckpoint := ((h.takeFree 8).modArc _).countN _ _

theorem programEvent (ok last : Bool) {after : ArcEvent → State → State}
    (step : ∀ e u, Keeps s u → Keeps s (after e u)) : Keeps s (t.programEvent ok last after) := by
  unfold State.programEvent
  split
  · exact h
  · exact h.program _ _ fun _ hu => step _ _ (hu.modArc _)

theorem shutEvent : Keeps s t.shutEvent := (((h.modArc _).count _).raiseG _ _).writeCheckpoint.setReg _ _

theorem lastPage : Keeps s t.lastPage := by
  unfold State.lastPage
  split
  · exact h
  · exact h.elseStep fun x => (x.modArc _).programEvent _ _ (fun _ _ hu => hu)

theorem closeEvent : Keeps s t.closeEvent := by
  unfold State.closeEvent
  split
  · exact h
  · dsimp only
    split
    · exact (((h.lastPage.shutEvent.setArcState _).modArc _).setFlag _ _).openEvent _
    · exact h.lastPage.shutEvent.setArcState _

theorem halfClose (e : ArcEvent) (n : Nat) : Keeps s (State.halfClose e n t) :=
  ((h.modArc _).shutEvent.setArcState _).openEvent _

omit h in
theorem drainTake (fs : EccFinds) (r : RingRec) {d : Drain} (h : Keeps s d.st) : Keeps s (d.take fs r).st := by
  unfold Drain.take
  dsimp only
  split
  · exact h
  · split
    · exact h
    · split
      · exact (h.ringRead _ _ _).ofPair
      · exact (h.ringRead _ _ _).ofPair.loseRecord 5 r.sel r.time

theorem drainPage (ok partial_ : Bool) (fs : EccFinds) : Keeps s (t.drainPage ok partial_ fs) := by
  unfold State.drainPage
  split
  · exact h
  next e0 _ =>
    have drained : Keeps s (t.arc.ring.foldl (Drain.take fs) ⟨t, e0, 0⟩).st :=
      foldlP (fun d : Drain => Keeps s d.st) _ (fun _ r hd => drainTake fs r hd) _ _ h
    exact (drained.modArc _).elseStep fun x => x.programEvent _ _ fun _ _ hu => hu.thenStep fun y => y.halfClose _ _

theorem arcUnavailable : Keeps s t.arcUnavailable := h.elseStep fun x => (x.setArcState _).raiseG _ _
theorem arcDdrCheck : Keeps s t.arcDdrCheck := h.elseStep fun x => x.arcUnavailable

theorem arcOn (formatted : Bool) (dies : BitVec 128) : Keeps s (t.arcOn formatted dies) :=
  (h.setFlag _ _).elseStep fun x => ((x.modArc _).setFld _ _).arcUnavailable.branch
    (((x.modArc _).setFld _ _).thenStep fun y => y.setArcState _)

theorem arcStartUp : Keeps s t.arcStartUp := h.arcDdrCheck.thenStep fun x => (x.takeFree 128).arcOn _ _

theorem arcStop : Keeps s t.arcStop :=
  (h.setFlag _ _).elseStep fun x => (((x.modArc _).setFlag _ _).setArcState _).branch
    ((((x.modArc _).setFlag _ _).writeCheckpoint.setArcState _).branch
      ((((x.modArc _).setFlag _ _).modArc _).closeEvent.setArcState _))

theorem arcErase : Keeps s t.arcErase := h.thenStep fun x => x.setArcState _

theorem eraseStore (badBlocks : List Nat) (dies : BitVec 128) : Keeps s (t.eraseStore badBlocks dies) :=
  fold ((fold (h.modArc _) fun _ hu _ => hu.setNandBlock _ _).countN _ _) fun _ hv _ => hv.retireBlock _ _

theorem lostEntry (num : Nat) : Keeps s (t.lostEntry num).2 := ((h.takeFree 112).takeFree 128).takeFree 54

theorem fromRoot (c : Checkpoint) : Keeps s (t.fromRoot c) :=
  fold (h.modArc _) fun _ hu n => (hu.lostEntry n).modArc _

theorem bringUp (f : Nat) : Keeps s (t.bringUp f) := (h.modArc _).freeDead

theorem recovered (rootBad : BitVec 2) (reads rereads : List (Nat × NandRead)) :
    Keeps s (t.recovered rootBad reads rereads) := by
  unfold State.recovered
  extract_lets root
  split
  extract_lets f above decoded torn rooted open_ up lost shut report lostReport counted written ready
  have hrooted : Keeps s rooted := by
    have htorn : Keeps s torn := (h.countN _ _).thenStep fun x => (x.count _).raiseG _ _
    unfold rooted
    split
    · exact htorn.fromRoot _
    · exact htorn
  have hlost : Keeps s lostReport := by
    have hreport : Keeps s report := ((hrooted.bringUp f).modArc _).setReg _ _
    unfold lostReport
    split
    · exact (hreport.setReg _ _).raiseG _ _
    · exact hreport.setReg _ _
  have hwritten : Keeps s written :=
    ((hlost.elseStep fun x => (x.countN _ _).raiseG _ _).writeCheckpoint).raiseG _ _
  refine releaseHeld ?_
  unfold ready
  split
  · exact (hwritten.setReg _ _).setArcState _
  · exact (hwritten.setReg _ _).setArcState _

theorem putKeep (keep : Bool) : Keeps s (t.putKeep keep) := by
  unfold State.putKeep
  dsimp only
  split
  · exact h.raiseG _ _
  · exact (h.raiseG _ _).branch (h.modArc _)

theorem relocateBlock (b : Nat) (drop : List Nat) : Keeps s (t.relocateBlock b drop) :=
  (fold (h.modArc _) fun _ hu _ => hu.program _ _ (fun _ hv => (hv.count _).modArc _)).elseStep fun x =>
    (fold x fun _ hw _ => hw.modArc _).freeDead

theorem blockErased (block : Nat) : Keeps s (t.blockErased block) := by
  unfold State.blockErased
  exact ((((h.setNandBlock _ _).count _).modArc _).thenStep fun x => x.retireBlock _ _).into fun k => by
    dsimp only
    split
    · exact k.relocateBlock _ _
    · exact k

/-! ### Ports -/

theorem newFrame (f : Frame) : Keeps s (t.newFrame f).2 := h.untouched.setFrame _ _
theorem threshDrop (q : Nat) : Keeps s (t.threshDrop q) := ((h.count _).count _).raiseG _ _

theorem sendBuilt (p qoff : Nat) (f : Frame) {dropCnt : State → State}
    (step : ∀ u, Keeps s u → Keeps s (dropCnt u)) : Keeps s (t.sendBuilt p qoff f dropCnt).2 := by
  unfold State.sendBuilt
  split
  · exact step _ h
  · have made : ∀ g, Keeps s (t.newFrame g).2 := fun g => h.newFrame g
    dsimp only
    split
    · exact ((made _).dropFrame _).threshDrop _
    · split
      · split
        · exact ((made _).enqueue _ _ _).dropFrame _
        · exact (made _).enqueue _ _ _
      · exact (made _).enqueue _ _ _

theorem setMerge (p st : Nat) : Keeps s (t.setMerge p st) :=
  ((h.setFld _ _).thenStep fun x => (x.setFlag _ _).raisePort _ _).thenStep fun y => y.raisePort _ _

theorem restartMerge (p : Nat) : Keeps s (t.restartMerge p) :=
  ((h.setPort _ _).setMerge _ _).branch ((h.setPort _ _).setMerge _ _)

theorem lostSignal (p : Nat) : Keeps s (t.lostSignal p) := (h.takeFree 1).setSignal _ _

theorem wakeCase (c : Nat) : Keeps s (t.wakeCase c) :=
  h.elseStep fun x => ((x.setFld _ _).count _).branch (x.thenStep fun y => y.setFld _ _)

theorem stagingDrop (p i : Nat) : Keeps s (t.stagingDrop p i) := by
  unfold State.stagingDrop
  split
  · exact h
  · exact ((h.loseFrame _).count _).raisePort _ _

theorem wakeForAdmitted (p : Nat) : Keeps s (t.wakeForAdmitted p) :=
  h.thenStep fun x => fold x fun _ hu _ => hu.wakeCase _

theorem startFrame (p : Nat) : Keeps s (t.startFrame p) :=
  h.thenStep fun x => (((x.newFrame _).setPort _ _).thenStep fun y => y.wakeForAdmitted _).thenStep fun z =>
    z.stagingDrop _ _

theorem countStall (c : Nat) : Keeps s (t.countStall c) := h.countN _ _

theorem endStall (i : Nat) : Keeps s (t.endStall i) := by
  unfold State.endStall
  split
  · split
    · exact h.thenStep fun x => (x.countStall _).setComp _ _
    · exact h
  · exact h

theorem takeBytes (p : Nat) (bytes : List Byte) : Keeps s (t.takeBytes p bytes) := by
  unfold State.takeBytes
  split
  · exact h
  · exact (((h.modFrame _ _).endStall _).watermarksOf _).into fun k => by
      dsimp only
      split
      · exact k.thenStep fun x => x.stagingDrop _ _
      · exact k

theorem pdelayRequest (p : Nat) (f : Frame) : Keeps s (t.pdelayRequest p f) :=
  ((h.count _).raiseG _ _).branch (h.setPort _ _)

theorem pdelayBuild (p : Nat) (req : List Byte) (rx : Stamp) : Keeps s (t.pdelayBuild p req rx).2 :=
  (h.setPort _ _).sendBuilt _ _ _ (fun _ hu => (hu.count _).raiseG _ _)

/-! ### The Ledger -/

theorem setEntry (tag a : Nat) (e : TblEntry) : Keeps s (t.setEntry tag a e) := h.withLedger _
theorem setActivity (a : Nat) (b : Bool) : Keeps s (t.setActivity a b) := h.withLedger _
theorem setDirty (b : Bool) : Keeps s (t.setDirty b) := h.withLedger _

theorem invalidate (tag a : Nat) : Keeps s (t.invalidate tag a) :=
  (h.setEntry _ _ _).thenStep fun x => x.setActivity _ _

theorem parityReport (tag a : Nat) : Keeps s (t.parityReport tag a) :=
  (((h.count _).logFirst _ _ _).raiseG _ _).fault _ _ _ _

theorem toKeeper (x : KprInput) : Keeps s (t.toKeeper x) := h.withLedger _
theorem paritySeen (tag a : Nat) : Keeps s (t.paritySeen tag a) := (h.parityReport _ _).toKeeper _

theorem invalidateWhole (tag a : Nat) : Keeps s (t.invalidateWhole tag a) :=
  (fold h fun _ hu _ => hu.invalidate _ _).branch (h.invalidate _ _)

theorem parityHit (tag a : Nat) : Keeps s (t.parityHit tag a) := (h.parityReport _ _).invalidateWhole _ _

theorem evictAt (a : Nat) : Keeps s (t.evictAt a) :=
  (h.invalidate _ _).thenStep fun x => fold x fun _ hu _ => hu.invalidate _ _

theorem moveAlong (bad : ParityBad) (path : List Nat) : Keeps s (State.moveAlong bad path t) := by
  induction path generalizing t with
  | nil => exact h
  | cons d rest ih =>
    cases rest with
    | nil => exact h
    | cons a rest =>
      rw [State.moveAlong]
      exact ih ((h.parityHit _ _).branch ((((h.setEntry _ _ _).setActivity _ _).invalidate _ _).count _))

theorem l2Insert (seed : Nat) (e : TblEntry) (learned : Bool) (bad : ParityBad) :
    Keeps s (t.l2Insert seed e learned bad).2.2 := by
  unfold State.l2Insert
  dsimp only
  split
  · exact (h.setEntry _ _ _).setActivity _ _
  · split
    · split
      · exact (((h.moveAlong _ _).setDirty _).setEntry _ _ _).setActivity _ _
      · exact h
    · split
      · split
        · exact ((((h.evictAt _).count _).raiseG _ _).setDirty _).setEntry _ _ _
        · exact h
      · exact h

theorem placeSecond (seed : Nat) (e : TblEntry) (bad : ParityBad) : Keeps s (t.placeSecond seed e bad) := by
  unfold State.placeSecond
  split
  · split
    · exact (h.l2Insert _ _ _ _).ofTriple.setDirty _
    · exact (h.l2Insert _ _ _ _).ofTriple.count _
    · exact (h.l2Insert _ _ _ _).ofTriple.count _
  · exact h

theorem learnArrive (key port : Nat) : Keeps s (t.learnArrive key port) :=
  (h.count _).branch (((h.count _).raiseG _ _).branch (h.toKeeper _))

theorem learnFrom (key port : Nat) (a : Option Nat) : Keeps s (t.learnFrom key port a) := by
  unfold State.learnFrom
  split
  · exact h.learnArrive _ _
  · exact h.elseStep fun x => (fold x fun _ hu _ => hu.setActivity _ _).branch (x.learnArrive _ _)

theorem mapWord1 (as : List Nat) (g : W64 → W64) : Keeps s (t.mapWord1 as g) :=
  fold h fun _ hu _ => hu.setEntry _ _ _

theorem learnApply (r : LearnReq) (bad : ParityBad) : Keeps s (t.learnApply r bad) := by
  unfold State.learnApply
  dsimp only
  split
  · exact h.count _
  · exact (fold h fun _ hu _ => hu.parityHit _ _).into fun k => by
      split
      · split
        · exact fold ((k.l2Insert _ _ _ _).ofTriple.count _) fun _ hv _ => hv.placeSecond _ _ _
        · exact (k.l2Insert _ _ _ _).ofTriple.count _
      · exact k.elseStep fun x => (((x.mapWord1 _ _).count _).thenStep fun y => (y.logFirst _ _ _).raiseG _
          _).branch ((x.mapWord1 _ _).count _)

theorem checkParity (tag : Nat) (bad : ParityBad) : Keeps s (t.checkParity tag bad) :=
  fold h fun _ hu _ => hu.thenStep fun x => x.parityHit _ _

theorem flushPort (port : Nat) (fid : Option Nat) (bad : ParityBad) : Keeps s (t.flushPort port fid bad).2 :=
  ((fold (h.checkParity _ _) fun _ hu _ => hu.invalidate _ _).countN _ _).raiseG _ _

theorem keeperServe (bad : ParityBad) (x : KprInput) : Keeps s (State.keeperServe bad t x) := by
  unfold State.keeperServe
  split
  · exact h.learnApply _ _
  · exact h.invalidateWhole _ _
  · exact h.flushPort _ _ _

theorem keeperThrough (p : KprInput → Bool) (bad : ParityBad) : Keeps s (t.keeperThrough p bad) :=
  h.elseStep fun x => fold (x.withLedger _) fun _ hu _ => hu.keeperServe _ _

theorem drainLearn (bad : ParityBad) : Keeps s (t.drainLearn bad) := h.keeperThrough _ _

theorem linkDownFlush (port : Nat) : Keeps s (t.linkDownFlush port) :=
  h.thenStep fun x => (x.flushPort _ _ _).branch (x.toKeeper _)

theorem ageEntry (a : Nat) : Keeps s (t.ageEntry a) :=
  ((fold h fun _ hu _ => hu.setActivity _ _).mapWord1 _ _).thenStep fun x => (fold x fun _ hv _ => hv.invalidate _
    _).count _

theorem agedPast (bad : ParityBad) : Keeps s (t.agedPast bad) := (h.drainLearn _).withLedger _
theorem sweepParity (bad : ParityBad) : Keeps s (t.sweepParity bad) := fold h fun _ hu _ => hu.checkParity _ _

theorem ledgerStage (tag : Nat) (inherit : Option Nat) (seed : Nat) (bad : ParityBad) :
    Keeps s (t.ledgerStage tag inherit seed bad) := by
  unfold State.ledgerStage
  extract_lets seeded inherited
  have hinherited : Keeps s inherited := by
    unfold inherited
    split
    · exact h.setFld _ _
    · refine raiseG (fold (fold ((h.setFld _ _).sweepParity _) fun _ hu _ => ?_) fun _ hu _ => ?_) _ _
      · exact hu.fold fun _ hv _ => (hv.setEntry _ _ _).branch hv
      · exact (hu.setEntry _ _ _).branch hu
  split
  · exact hinherited.elseStep fun x => x.fold fun _ hu _ => hu.placeSecond _ _ _
  · exact hinherited

theorem ledgerRelease (tag : Nat) (bad : ParityBad) : Keeps s (t.ledgerRelease tag bad) :=
  ((fold (fold (fold (h.sweepParity _) fun _ hu _ => fold hu fun _ hv _ => hv.thenStep fun x =>
    (x.setEntry _ _ _).thenStep fun y => y.invalidate _ _) fun _ hw _ => hw.thenStep fun z => z.setEntry _ _ _)
      fun _ hz _ => hz.elseStep fun w => w.invalidate _ _).withLedger _).raiseG _ _

theorem tblBankFenced (k : Nat) : Keeps s (t.tblBankFenced k) :=
  (fold h fun _ hu _ => hu.thenStep fun x => x.invalidate _ _).raiseG _ _

theorem takeSlot (tag : Nat) : Keeps s (t.takeSlot tag).2 := h.takeFree 64

theorem placeHost (tb tag idx : Nat) (e : TblEntry) (bad : ParityBad) :
    Keeps s (t.placeHost tb tag idx e bad).2 := by
  unfold State.placeHost
  split
  · exact h.l2Insert _ _ _ _
  · split
    · exact h
    · exact h.setEntry _ _ _
  · split
    · exact (h.takeSlot _).ofPair.setEntry _ _ _
    · exact (h.takeSlot _).ofPair

theorem parityRes (tag : Nat) (hit : List Nat) : Keeps s (t.parityRes tag hit).2 :=
  fold h fun _ hu _ => hu.parityHit _ _

theorem keeperWrite (tb : Nat) (tag : Nat) (idx : Nat) (data : TblEntry) (bad : ParityBad) :
    Keeps s ((t.keeperWrite tb tag idx data bad).2) := by
  unfold State.keeperWrite
  split
  · exact h
  · split
    · exact h
    · split
      · dsimp only
        split
        · exact h
        · exact h.setEntry _ _ _
      · extract_lets clean e cur full fullWords hit learnedOnly
        have noRoom : ∀ u, Keeps s u → Keeps s (full u) := fun _ hu => (hu.count _).raiseG _ _
        clear_value cur full fullWords learnedOnly
        split
        · exact h.parityRes _ _
        · split
          · exact h
          · split
            · split
              · exact h.setEntry _ _ _
              · split
                · exact noRoom _ h
                · dsimp only
                  split
                  · exact ((h.setEntry _ _ _).placeHost _ _ _ _ _).ofPair
                  · exact noRoom _ (((h.setEntry _ _ _).placeHost _ _ _ _ _).ofPair.setEntry _ _ _)
            · split
              · exact (h.placeHost _ _ _ _ _).ofPair
              · exact noRoom _ (h.placeHost _ _ _ _ _).ofPair

theorem keeperDelete (tb tag idx : Nat) (key : TblEntry) (bad : ParityBad) :
    Keeps s (t.keeperDelete tb tag idx key bad).2 := by
  unfold State.keeperDelete
  split
  · exact h
  · split
    · exact h
    · split
      · dsimp only
        split
        · exact h.parityRes _ _
        · split
          · dsimp only
            exact h.invalidate _ _
          · exact h
      · dsimp only
        split
        · exact h.parityRes _ _
        · split
          · split
            · exact h.invalidate _ _
            · exact h.setEntry _ _ _
          · split
            · exact h
            · exact h

theorem keeperRead (tag a : Nat) (bad : ParityBad) : Keeps s (t.keeperRead tag a bad).2 := by
  unfold State.keeperRead
  split
  · exact h
  · split
    · exact h.parityHit _ _
    · exact h

theorem keeperSearch (tb tag : Nat) (key : List W64) (bad : ParityBad) :
    Keeps s (t.keeperSearch tb tag key bad).2 := by
  unfold State.keeperSearch
  dsimp only
  split
  · exact h
  · split
    · exact h.parityHit _ _
    · exact h

theorem keeperNext (tb tag start : Nat) (filter : W64) (bad : ParityBad) :
    Keeps s (t.keeperNext tb tag start filter bad).2 := by
  unfold State.keeperNext
  dsimp only
  split
  · exact h
  · exact (h.thenStep fun x => x.setDirty _).into fun k => by
      split
      · split
        · exact k.parityHit _ _
        · exact k
      · exact k

/-! ### The Watchlist -/

theorem modWatch (g : WatchUnit → WatchUnit) : Keeps s (t.modWatch g) := h.untouched

theorem shadowWrite (item : Nat) (bs : List Byte) (ecc : EccRead) : Keeps s (t.shadowWrite item bs ecc) :=
  h.thenStep fun x => x.ddrWrite _ _ _ _

theorem setDir (i : Nat) (w0 w1 : W64) : Keeps s (t.setDir i w0 w1) := (h.setReg _ _).setReg _ _

theorem writeDir (i : Nat) (w0 w1 : W64) (ecc : EccRead) : Keeps s (t.writeDir i w0 w1 ecc) :=
  ((h.shadowWrite _ _ _).setDir _ _ _).modWatch _

theorem setBroken (i : Nat) (broken : Bool) : Keeps s (t.setBroken i broken) :=
  h.elseStep fun x => (x.takeEcc.shadowWrite _ _ _).setDir _ _ _

theorem rebreak (l : Nat) : Keeps s (t.rebreak l) := fold h fun _ hu _ => hu.thenStep fun x => x.setBroken _ _

theorem writeLine (l : Nat) (bs : List Byte) : Keeps s (t.writeLine l bs) :=
  ((h.shadowWrite _ _ _).modWatch _).thenStep fun x => x.rebreak _

theorem steal : Keeps s t.steal := h.countN _ _
theorem maintBacklog (before : State) : Keeps s (t.maintBacklog before) := h.thenStep fun x => x.raiseG _ _
theorem queueMaint (m : Maint) : Keeps s (t.queueMaint m) := (h.modWatch _).maintBacklog _

theorem watchLineWrite (l : Nat) (data : List W64) : Keeps s (t.watchLineWrite l data).2 := by
  unfold State.watchLineWrite
  dsimp only
  split
  · exact h
  · split
    · exact h
    · split
      · exact h
      · split
        · exact h
        · exact h.queueMaint _

theorem watchDirWrite (tag set : Nat) (data : List W64) : Keeps s (t.watchDirWrite tag set data).2 := by
  unfold State.watchDirWrite
  dsimp only
  split
  · exact h
  · split
    · exact h
    · exact h.queueMaint _

theorem watchDelete (dir : Bool) (tag idx : Nat) : Keeps s (t.watchDelete dir tag idx).2 := by
  unfold State.watchDelete
  split
  · exact h
  · split
    · exact h
    · split
      · exact h.queueMaint _
      · exact h

theorem watchRead (dir : Bool) (a : Nat) : Keeps s (t.watchRead dir a).2 := by
  unfold State.watchRead
  split
  · split
    · exact h
    · exact h
  · split
    · exact h
    · exact h

theorem watchStage (tag : Nat) (inherit : Option Nat) : Keeps s (t.watchStage tag inherit) := by
  unfold State.watchStage
  split
  · exact h
  · exact fold h fun _ hu _ => hu.takeEcc.writeDir _ _ _ _

theorem watchRelease (tag : Nat) : Keeps s (t.watchRelease tag) :=
  fold h fun _ hu _ => hu.elseStep fun x => x.takeEcc.writeDir _ _ _ _

theorem setEngine (e : Nat) (v : Option Scan) : Keeps s (t.setEngine e v) := h.modWatch _

theorem queueRepair (item kind : Nat) : Keeps s (t.queueRepair item kind) :=
  h.thenStep fun x => (x.modWatch _).maintBacklog _

theorem setSlot (c tag : Nat) (v : Slot) : Keeps s (t.setSlot c tag v) := h.setComp _ _
theorem wchLog (item kind : Nat) : Keeps s (t.wchLog item kind) := h.logFirst _ _ _

/-! ### Waybills -/

theorem modWbl (g : WblUnit → WblUnit) : Keeps s (t.modWbl g) := h.untouched
theorem setWword (i j : Nat) (v : W64) : Keeps s (t.setWword i j v) := h.modWbl _
theorem setWcount (i j : Nat) (v : W64) : Keeps s (t.setWcount i j v) := h.modWbl _
theorem wadd (i j n : Nat) : Keeps s (t.wadd i j n) := h.setWcount _ _ _
theorem wset (i j hi lo x : Nat) : Keeps s (t.wset i j hi lo x) := h.setWword _ _ _

theorem armState (i : Nat) : Keeps s (t.armState i) :=
  (fold h fun _ hu _ => hu.setWword _ _ _).elseStep fun x => (x.setWword _ _ _).setWword _ _ _

theorem wrepair (i : Nat) : Keeps s (t.wrepair i) := h.thenStep fun x => ((x.modWbl _).armState _).count _

theorem wparity (i j : Nat) : Keeps s (t.wparity i j) :=
  (((((h.count _).modWbl _).branch ((h.count _).modWbl _)).logFirst _ _ _).raiseG _ _).fault _ _ _ _

theorem wcountBad (i j : Nat) : Keeps s (t.wcountBad i j) := (h.setWcount _ _ _).count _
theorem wmisuse : Keeps s t.wmisuse := (h.count _).raiseG _ _

theorem wlog (i cond us : Nat) : Keeps s (t.wlog i cond us) :=
  (((h.count _).setFlag _ _).raiseG _ _).branch ((h.modWbl _).raiseG _ _)

theorem wcond (i c : Nat) (time : Stamp) : Keeps s (t.wcond i c time) :=
  h.elseStep fun x => ((x.thenStep fun y => y.setWword _ _ _).thenStep fun z => (z.wlog _ _ _).raiseG _ _).thenStep
    fun w => w.trigger _ _ _

theorem wconds (i mask : Nat) (time : Stamp) : Keeps s (t.wconds i mask time) :=
  fold h fun _ hu _ => hu.thenStep fun x => x.wcond _ _ _

theorem wop (i : Nat) (uses : List Nat) (bad : Option (Fin 16)) {body : State → Nat × State}
    (step : ∀ u, Keeps s u → Keeps s (body u).2) : Keeps s (t.wop i uses bad body).2.2 := by
  unfold State.wop
  split
  · exact h
  · extract_lets ready zero
    have hready : Keeps s ready := (h.wrepair i).count R.WBL_C_OPS
    have hzero : Keeps s zero := by
      unfold zero
      split
      · exact (hready.wcountBad _ _).branch hready
      · exact hready
    clear_value zero
    split
    · exact hready
    · split
      · exact hready.wparity _ _
      · dsimp only
        cases bad with
        | none => exact step _ hzero
        | some b =>
          dsimp only
          split
          · exact step _ hready
          · exact step _ hzero

theorem wRead (i word : Nat) (bad : Option (Fin 16)) : Keeps s (t.wRead i word bad).2.2 :=
  h.wop _ _ _ (fun _ hu => hu)

theorem wAdd (i word : Nat) (addend : W64) (bad : Option (Fin 16)) : Keeps s (t.wAdd i word addend bad).2.2 :=
  h.wop _ _ _ (fun _ hu => by
      dsimp only
      split
      · exact hu.wmisuse
      · exact hu.setWword _ _ _)

theorem wrogue (i : Nat) : Keeps s (t.wrogue i).2 := (h.wadd _ _ _).raiseG _ _
theorem setWhist (i h₁ : Nat) : Keeps s (t.setWhist i h₁) := (h.setWword _ _ _).setWword _ _ _

theorem waccept (i seq hist ms : Nat) : Keeps s (t.waccept i seq hist ms) :=
  (((h.wset _ _ _ _ _).setWhist _ _).wset _ _ _ _ _).wadd _ _ _

theorem wwindow (i seq ms : Nat) : Keeps s (t.wwindow i seq ms).2 := by
  unfold State.wwindow
  dsimp only
  split
  · exact h.wrogue _
  · split
    · exact (h.wadd _ _ _).waccept _ _ _ _
    · split
      · exact h.wadd _ _ _
      · exact (((h.setWhist _ _).wset _ _ _ _ _).wadd _ _ _).wadd _ _ _

theorem wDupchk (i : Nat) (x : OpCtx) (rs2 : W64) (bad : Option (Fin 16)) :
    Keeps s ((t.wDupchk i x rs2 bad).2.2) :=
  h.wop _ _ _ fun u hu => by
    extract_lets w0 seq path prp pair side ms wrong counted windows
    have hwindows : Keeps s windows :=
      have hcounted : Keeps s counted := hu.thenStep fun y => (y.count _).raiseG _ _
      ((hcounted.wset _ _ _ _ _).wset _ _ _ _ _).branch ((hcounted.wset _ _ _ _ _).wset _ _ _ _ _)
    clear_value windows
    split
    · exact hu.wmisuse
    · split
      · exact hu.wrogue _
      · split
        · exact (hwindows.wset _ _ _ _ _).waccept _ _ _ _
        · exact hwindows.wwindow _ _ _

theorem wsupervised (i : Nat) (time : Stamp) : Keeps s (t.wsupervised i time) :=
  (((h.wset _ _ _ _ _).wset _ _ _ _ _).wset _ _ _ _ _).wadd _ _ _

theorem wSvchk (i : Nat) (x : OpCtx) (rs2 : W64) (bad : Option (Fin 16)) : Keeps s (t.wSvchk i x rs2 bad).2.2 :=
  h.wop _ _ _ (fun _ hu => by
      dsimp only
      split
      · exact hu.wmisuse
      · exact ((((hu.elseStep fun y => (y.wset _ _ _ _ _).wset _ _ _ _ _).wset _ _ _ _ _).wsupervised _ _).wadd _ _
          _).wconds _ _ _)

theorem wGschk (i : Nat) (x : OpCtx) (rs2 : W64) (bad : Option (Fin 16)) : Keeps s (t.wGschk i x rs2 bad).2.2 :=
  h.wop _ _ _ (fun _ hu => by
      dsimp only
      split
      · exact hu.wmisuse
      · exact ((hu.thenStep fun y => y.setWword _ _ _).wsupervised _ _).wconds _ _ _)

theorem colourCount (m colour : Nat) : Keeps s (t.colourCount m colour) := by
  unfold State.colourCount
  split
  · exact h.count _
  · exact h.count _
  · exact (h.count _).raiseG _ _

theorem meterFrame (tag m len : Nat) (time : Stamp) : Keeps s (t.meterFrame tag m len time).2 := by
  unfold State.meterFrame
  split
  · dsimp only
    exact h.colourCount _ _
  · split
    · dsimp only
      exact h.colourCount _ _
    · exact ((((h.modWbl _).setFld _ _).setFld _ _).thenStep fun x => x.setFlag _ _).colourCount _ _

theorem wMeter (i : Nat) (x : OpCtx) (rs2 : W64) (bad : Option (Fin 16)) : Keeps s (t.wMeter i x rs2 bad).2.2 :=
  h.wop _ _ _ fun u hu => by
    extract_lets w0 len plain maxsdu big marked sized
    have hsized : Keeps s sized := hu.thenStep fun y => ((y.thenStep fun z => z.wset _ _ _ _ _).count _).raiseG _ _
    clear_value sized
    split
    · exact hu.wmisuse
    · split
      extract_lets gated
      have hgated : Keeps s gated := hsized.elseStep fun y => (y.count _).raiseG _ _
      clear_value gated
      dsimp only
      split
      · exact hgated
      · split
        · exact hgated.colourCount _ 2
        · exact hgated.meterFrame _ _ _ _

theorem wrefuse : Keeps s t.wrefuse := (h.count _).raiseG _ _
theorem putWword (i j : Nat) (v : W64) : Keeps s (t.putWword i j v) := h.setWword _ _ _

theorem wwrite0 (i : Nat) (v : W64) : Keeps s (t.wwrite0 i v) :=
  (fold ((h.putWword _ _ _).modWbl _) fun _ hu _ => hu.putWword _ _ _).thenStep fun x => fold (x.armState _) fun _
    hv _ => hv.setWcount _ _ _

theorem wblWrite (addr size : Nat) (data : W64) (bad : Bool) : Keeps s (t.wblWrite addr size data bad) := by
  unfold State.wblWrite
  dsimp only
  split
  · exact (h.logFirst _ _ _).wrefuse
  · exact (((h.wrepair _).count _).thenStep fun x => x.wparity _ _).into fun k => by
      split
      · exact k.wrefuse.branch (k.wwrite0 _ _)
      · exact k.wrefuse.branch (k.putWword _ _ _)

theorem wblRead (addr : Nat) (bad : Bool) : Keeps s (t.wblRead addr bad).2 := by
  unfold State.wblRead
  dsimp only
  split
  · exact ((h.wrepair _).count _).thenStep fun x => x.wparity _ _
  · exact ((h.wrepair _).count _).thenStep fun y => y.wcountBad _ _

theorem wblSnap (i : Nat) (bad : Option (Fin 16)) : Keeps s (t.wblSnap i bad) := by
  unfold State.wblSnap
  refine ((fold ?_ fun _ hu _ => (hu.setReg _ _).setReg _ _).setFld _ _).setFlag _ _
  split
  · exact (((h.wrepair _).count _).wparity _ _).branch (((h.wrepair _).count _).wcountBad _ _)
  · exact (h.wrepair _).count _

theorem stickyOp (i mask : Nat) (blocked qual : Bool) (bad : Option (Fin 16)) :
    Keeps s (t.stickyOp i mask blocked qual bad) :=
  h.wop _ _ _ (fun _ hu => (hu.elseStep fun x => x.setWword _ _ _).thenStep fun y => y.wset _ _ _ _ _)

theorem clrMeter (m : Nat) : Keeps s (t.clrMeter m) := (h.count _).setFlag _ _

theorem wtests (i : Nat) : Keeps s (t.wtests i) :=
  (h.thenStep fun x => ((((x.wset _ _ _ _ _).wadd _ _ _).wlog _ _ _).raiseG _ _).branch
    ((((x.wset _ _ _ _ _).wlog _ _ _).raiseG _ _).branch (x.thenStep fun y => ((y.wset _ _ _ _ _).wlog _ _ _).raiseG
      _ _))).thenStep fun z => (z.wset _ _ _ _ _).wcond _ _ _

theorem wstamps (i : Nat) : Keeps s (t.wstamps i) := (h.wset _ _ _ _ _).wset _ _ _ _ _
theorem wblTimeStep : Keeps s t.wblTimeStep := h.modWbl _
theorem wrActive : Keeps s t.wrActive := (h.setFlag _ _).raiseG _ _

theorem putTagTable (off : Nat) (v : W64) : Keeps s (t.putTagTable off v) := by
  unfold State.putTagTable
  dsimp only
  split
  · exact h
  · exact (h.plainWrite _ _).branch h.wrActive

/-! ### Compositors -/

theorem discardLookups (c : Nat) : Keeps s (t.discardLookups c) := by
  unfold State.discardLookups
  dsimp only
  split
  · exact h
  · refine modWatch ?_ _
    refine fold h fun _ hu _ => ?_
    split
    · exact hu.learnFrom _ _ _
    · exact hu

theorem abandon (c counter : Nat) : Keeps s (t.abandon c counter) := by
  unfold State.abandon
  dsimp only
  split
  · exact h
  · exact ((((h.discardLookups _).countStall _).setComp _ _).count _).loseFrame _

theorem pmParity (c : Nat) : Keeps s (t.pmParity c) := by
  unfold State.pmParity
  dsimp only
  split
  · exact h
  · exact (h.abandon _ _).elseStep fun x => ((x.setCase _ _).raiseCase _ _).fault _ _ _ _

theorem watchdogDrop (c : Nat) : Keeps s (t.watchdogDrop c) := ((h.abandon _ _).raiseComp _ _).fault _ _ _ _

theorem issueOn (f : Fetch) {body : State → CompState → Frame → Issue}
    (step : ∀ u, Keeps s u → ∀ cs fr, Keeps s (body u cs fr).st) : Keeps s (t.issueOn f body) := by
  unfold State.issueOn
  dsimp only
  split
  · exact h
  · split
    · exact h.pmParity _
    · split
      · exact h.setComp _ _
      · exact h.setComp _ _
      · exact (((step _ h _ _).countStall _).countN _ _).setComp _ _

theorem endLost (i : Nat) (fr : Frame) : Keeps s (t.endLost i fr) :=
  h.elseStep fun x => (x.dropFrame _).checkSettled

/-! ### What compositors decide -/

theorem lookupResult (fr : Frame) (req : LookupReq) (parityBad : Bool) :
    Keeps s (t.lookupResult fr req parityBad).2 := by
  unfold State.lookupResult
  split
  · exact h
  · exact h
  · dsimp only
    split
    · split
      · dsimp only
        exact h.learnFrom _ _ _
      · exact h
    · split
      · split
        · dsimp only
          exact (h.paritySeen _ _).learnFrom _ _ _
        · exact h.paritySeen _ _
      · split
        · dsimp only
          exact h.learnFrom _ _ _
        · exact h

/-! ### The host interface -/

theorem modHost (g : HostUnit → HostUnit) : Keeps s (t.modHost g) := h.untouched
theorem setPuntQueue (k : Nat) (l : List PuntRef) : Keeps s (t.setPuntQueue k l) := h.modHost _

theorem puntFrame (i reason : Nat) : Keeps s (t.puntFrame i reason) := by
  unfold State.puntFrame
  dsimp only
  split
  · exact (h.count _).raiseG _ _
  · exact ((h.count _).raiseG _ _).branch ((h.acquire _).setPuntQueue _ _)

theorem flushPunts : Keeps s t.flushPunts :=
  fold h fun _ hu _ => (fold hu fun _ hv _ => ((hv.count _).raiseG _ _).release _ _).setPuntQueue _ _

theorem setRingState (k n : Nat) : Keeps s (t.setRingState k n) := h.setFld _ _
theorem setInjecting (k : Nat) (v : Option Inject) : Keeps s (t.setInjecting k v) := h.modHost _

theorem dropInjected (k : Nat) : Keeps s (t.dropInjected k) := by
  unfold State.dropInjected
  split
  · exact (h.setInjecting _ _).loseFrame _
  · exact h.setInjecting _ _
  · exact h

theorem ringSignal (k : Nat) : Keeps s (t.ringSignal k) :=
  (h.modHost _).branch ((h.signalVec _).elseStep fun x => x.modHost _)

theorem writeBack (k status xfer : Nat) (trunc eos : Bool) (word1 : W64) :
    Keeps s (t.writeBack k status xfer trunc eos word1) :=
  ((((h.emit _).count _).countN _ _).elseStep fun x => (x.count _).raiseG _ _).thenStep fun y =>
    (y.setReg _ _).ringSignal _

theorem word1Arrived (k : Nat) (w : W64) : Keeps s (t.word1Arrived k w) := by
  unfold State.word1Arrived
  dsimp only
  split
  · exact (h.modHost _).setRingState _ _
  · split
    · exact ((h.modHost _).setReg _ _).setRingState _ _
    · exact (h.modHost _).elseStep fun x => ((x.setFlag _ _).modHost _).branch (x.setRingState _ _)

theorem descDone (k status xfer : Nat) (trunc eos : Bool) (word1 : W64) :
    Keeps s (t.descDone k status xfer trunc eos word1) :=
  (h.writeBack _ _ _ _ _ _).word1Arrived _ _

theorem stopChan (c code : Nat) : Keeps s (t.stopChan c code) :=
  h.elseStep fun x => (((x.modHost _).setFld _ _).setFld _ _).thenStep fun y => y.raiseG _ _

theorem poolBoundary (k : Nat) : Keeps s (t.poolBoundary k) := by
  unfold State.poolBoundary
  split
  · exact (h.dropInjected _).setInjecting _ _
  · exact h

theorem chanSettle (c : Nat) : Keeps s (t.chanSettle c) := h.thenStep fun x => x.stopChan _ _

theorem stopAtBoundary (c code : Nat) : Keeps s (t.stopAtBoundary c code) :=
  h.elseStep fun x => (((fold x fun _ hu _ => hu.poolBoundary _).modHost _).setFld _ _).chanSettle _

theorem issuedTags : Keeps s t.issuedTags.2 := by
  unfold State.issuedTags
  dsimp only
  split
  · exact h
  · exact h.takeFree 1024

theorem abortAll (code : Nat) : Keeps s (t.abortAll code) :=
  fold ((fold h.issuedTags fun _ hu _ => hu.dropInjected _).modHost _) fun _ hv _ => hv.stopChan _ _

theorem chanStart (c : Nat) : Keeps s (t.chanStart c) := h.elseStep fun x => (x.setFld _ _).setFld _ _
theorem chanStop (c : Nat) : Keeps s (t.chanStop c) := h.stopAtBoundary _ _
theorem ringOn (k : Nat) : Keeps s (t.ringOn k) := (h.setFlag _ _).thenStep fun x => (x.setReg _ _).setRingState _ _

theorem ringOff (k : Nat) : Keeps s (t.ringOff k) :=
  (((h.setFlag _ _).modHost _).setRingState _ _).branch (((h.setFlag _ _).modHost _).elseStep fun x =>
    x.setRingState _ _)

theorem ringBell (k : Nat) : Keeps s (t.ringBell k) := (h.setFlag _ _).branch (h.thenStep fun x => x.modHost _)

theorem descError (k : Nat) (word1 : W64) : Keeps s (t.descError k word1) :=
  (h.descDone _ _ _ _ _ _).stopAtBoundary _ _

theorem descHostError (k xfer : Nat) (word1 : W64) : Keeps s (t.descHostError k xfer word1) :=
  (h.descDone _ _ _ _ _ _).stopAtBoundary _ _

theorem commitInjected (k : Nat) (i : Nat) (request : W64) (word1 : W64) :
    Keeps s (t.commitInjected k i request word1) := by
  unfold State.commitInjected
  extract_lets port q len idle committed owned
  have howned : Keeps s owned := by
    have hcommitted : Keeps s committed := (h.setInjecting _ _).modFrame _ _
    unfold owned
    split
    · exact hcommitted.reown _ _
    · exact hcommitted
  clear_value owned
  split
  · exact howned
  · split
    · exact ((howned.threshDrop _).releaseFrame _ _).descDone _ _ _ _ _ _
    · have queued := howned.enqueue q i false
      split
      · exact ((queued.releaseFrame _ _).descDone _ _ _ _ _ _).branch (queued.descDone _ _ _ _ _ _)
      · exact queued

theorem injectGrant (k : Nat) (g : Grant) : Keeps s (t.injectGrant k g) := by
  unfold State.injectGrant
  split
  · exact (((h.count _).raiseG _ _).setInjecting _ _).thenStep fun x => x.poolBoundary _
  · exact (((h.setInjecting _ _).linkCell _ _).modFrame _ _).branch ((h.setInjecting _ _).modFrame _ _)
  · exact h

theorem injectCells (n k : Nat) (bad : Bool) : Keeps s (State.injectCells n k bad t) := by
  induction n generalizing t bad with
  | zero => exact h
  | succ n ih =>
    rw [State.injectCells]
    have asked := h.request 0x11 false bad []
    split
    · dsimp only
      split
      · exact ih (asked.injectGrant _ _) _
      · exact asked.injectGrant _ _
    · exact h

theorem injectFinish (k : Nat) (word1 : W64) : Keeps s (t.injectFinish k word1) := by
  unfold State.injectFinish
  split
  · split
    · exact h.setInjecting _ _
    · exact h.elseStep fun x => (x.commitInjected _ _ _ _).chanSettle _
  · exact ((h.setInjecting _ _).descDone _ _ _ _ _ _).chanSettle _
  · exact h

theorem setStreams (k : Nat) (l : List (List Byte)) : Keeps s (t.setStreams k l) := h.modHost _

theorem hostReset (code : Nat) : Keeps s (t.hostReset code) := by
  unfold State.hostReset
  extract_lets aborted codes status emptied stopped shown _ mute
  have haborted : Keeps s aborted := (h.abortAll code).flushPunts
  have hemptied : Keeps s emptied := haborted.withRegs _ (twf_filter _ _ _)
  have hstopped : Keeps s stopped := hemptied.fold fun _ hu _ => hu.setFld _ _
  exact (((hstopped.setFld _ _).setFld _ _).withCmd _).modHost _

theorem linkReset : Keeps s t.linkReset := by
  unfold State.linkReset
  exact (((((h.hostReset 4).count _).raiseG _ _).setFld _ _).setFld _ _).modHost _

theorem freeze : Keeps s t.freeze := h.elseStep fun x => (((x.abortAll _).setFlag _ _).count _).raiseG _ _
theorem aerError (bit : Nat) (header : BitVec 128) : Keeps s (t.aerError bit header) := h.modHost _
theorem unfreeze : Keeps s t.unfreeze := h.elseStep fun x => (x.setFlag _ _).branch (x.setFlag _ _).flushPba
theorem aerClear (bits : W32) : Keeps s (t.aerClear bits) := h.modHost _

theorem winRefused (kind w x : Nat) (read : Bool) : Keeps s (t.winRefused kind w x read) :=
  (((h.logFirst _ _ _).thenStep fun y => y.setReg _ _).count _).raiseG _ _

/-! ### The command queue -/

theorem putResult (src : Nat) (words : List W64) : Keeps s (t.putResult src words) :=
  (fold h fun _ hu _ => hu.setReg _ _).setReg _ _

theorem sendReply (p dst : Nat) (words : List W64) : Keeps s (t.sendReply p dst words) :=
  h.sendBuilt _ _ _ (fun _ hu => hu.count _)

theorem blockDone (b : CmdBlock) (words : List W64) : Keeps s (t.blockDone b words) := by
  unfold State.blockDone
  dsimp only
  split
  · exact ((h.putResult _ _).thenStep fun x => x.emit _).raiseG _ _
  · split
    · exact (h.putResult _ _).raiseG _ _
    · split
      · exact ((h.putResult _ _).sendReply _ _ _).raiseG _ _
      · exact (h.putResult _ _).raiseG _ _

theorem cmdQueueFull : Keeps s t.cmdQueueFull := h.raiseG _ _

theorem roleRefuse (b : CmdBlock) : Keeps s (t.roleRefuse b) := by
  unfold State.roleRefuse
  dsimp only
  split
  · exact ((h.count _).raiseG _ _).blockDone _ _
  · split
    · exact ((h.count _).raiseG _ _).blockDone _ _
    · exact ((h.count _).raisePort _ _).raiseG _ _

theorem blockEnter (b : CmdBlock) : Keeps s (t.blockEnter b) := by
  unfold State.blockEnter
  split
  · exact ((h.count _).raiseG _ _).blockDone _ _
  · exact (h.roleRefuse _).branch h.untouched

theorem commandFrame (p role : Nat) (bytes : List Byte) : Keeps s (t.commandFrame p role bytes) :=
  (h.count _).cmdQueueFull.branch (h.blockEnter _)

theorem ringPi (pi : Nat) : Keeps s (t.ringPi pi) := (((h.setFlag _ _).count _).raiseG _ _).branch (h.setFld _ _)
theorem fetchedBlock (words : List W64) : Keeps s (t.fetchedBlock words).2 := h.setFld _ _
theorem i2cGo : Keeps s t.i2cGo := (h.setFlag _ _).cmdQueueFull.branch (h.blockEnter _)
theorem mailboxWrite (words : List W32) : Keeps s (t.mailboxWrite words) := fold h fun _ hu _ => hu.setReg _ _

/-! ### Power -/

theorem modPwr (g : PowerUnit → PowerUnit) : Keeps s (t.modPwr g) := h.untouched
theorem setHeatCut (c n : Nat) : Keeps s (t.setHeatCut c n) := h.modPwr _
theorem setCapCut (c n : Nat) : Keeps s (t.setCapCut c n) := h.modPwr _
theorem setRail (r p : Nat) : Keeps s (t.setRail r p) := h.modPwr _
theorem writeRail (r p : Nat) : Keeps s (t.writeRail r p) := h.emit _

theorem switchPoint (c p : Nat) : Keeps s (t.switchPoint c p) :=
  ((h.setFld _ _).count _).thenStep fun x => x.raiseG _ _

theorem setPoint (c p : Nat) : Keeps s (t.setPoint c p) := by
  unfold State.setPoint
  dsimp only
  split
  · exact ((h.setCase _ _).switchPoint _ _).thenStep fun x => (x.setRail _ _).writeRail _ _
  · exact (h.setCase _ _).elseStep fun y => (y.switchPoint _ _).branch
      (h.elseStep fun z => (z.setCase _ _).writeRail _ _)

theorem refit (c : Nat) : Keeps s (t.refit c) :=
  h.elseStep fun x => (x.setPoint _ _).branch ((x.setPoint _ _).branch (x.thenStep fun y => y.setPoint _ _))

theorem refitAll : Keeps s t.refitAll := fold h fun _ hu _ => hu.refit _
theorem offerCase (c : Nat) : Keeps s (t.offerCase c) := (h.setCase _ _).refit _
theorem wakesEnd (cs : List Nat) : Keeps s (t.wakesEnd cs) := fold h fun _ hu _ => hu.thenStep fun x => x.setFld _ _
theorem putCap (v : W32) : Keeps s (t.putCap v) := (h.raiseG _ _).branch ((h.setFlag _ _).setFld _ _)
theorem setStep (n : Nat) : Keeps s (t.setStep n) := (h.modPwr _).setFld _ _
theorem shedEvent (before : State) : Keeps s (before.shedEvent t) := h.thenStep fun x => x.raiseG _ _

theorem newEstimate (old : List Nat) (tenths : Nat) : Keeps s (t.newEstimate old tenths) :=
  ((((((h.setFld _ _).modPwr _).modPwr _).setFlag _ _).elseStep fun x => x.setFlag _ _).thenStep fun y => y.raiseG _
    _).refitAll

theorem showHottest : Keeps s t.showHottest := (h.setFld _ _).setFld _ _

/-! ### Admission -/

theorem recordCheck (tag : Nat) (r : AdmResult) : Keeps s (t.recordCheck tag r) :=
  (fold ((fold h fun _ hu _ => hu.setReg _ _).withForme _) fun _ hv _ => (hv.setReg _ _).setReg _ _).setReg _ _

/-! ### Ingress -/

theorem policer (p : Nat) : Keeps s (t.policer p).2 := by
  unfold State.policer
  dsimp only
  split
  · exact (h.setPort _ _).count _
  · exact h.setPort _ _

theorem macDrop (i : Nat) : Keeps s (t.macDrop i) := by
  unfold State.macDrop
  split
  · exact h
  · split
    · exact h.abandon _ _
    · exact (h.modFrame _ _).goBad _ (fun _ hu => hu)
    · split
      · exact h.abandon _ _
      · exact (h.dropFrame _).checkSettled
    · exact h.loseFrame _

theorem consume (i : Nat) : Keeps s (t.consume i) := h.loseFrame _

theorem takeCommand (p i : Nat) (f : Frame) : Keeps s (t.takeCommand p i f) :=
  ((h.policer _).consume _).elseStep fun x => (((((h.policer _).count _).raisePort _ _).raiseG _ _).consume
    _).branch (x.commandFrame _ _ _)

theorem preLockup (p i : Nat) (f : Frame) : Keeps s (t.preLockup p i f) := by
  unfold State.preLockup
  split
  · dsimp only
    split
    · exact ((((((h.policer _).reown _ _).setPort _ _).modFrame _ _).acquire _).puntFrame _ _).release _ _
    · exact (h.policer _).consume _
  · exact (h.count _).consume _

theorem received (p i : Nat) (f : Frame) : Keeps s (t.received p i f) := by
  unfold State.received
  split
  · exact (h.count _).consume _
  · split
    · exact (h.pdelayRequest _ _).consume _
    · exact (h.takeCommand _ _ _).branch (h.thenStep fun x => x.preLockup _ _ _)

theorem farEnd (p : Nat) (bytes : List Byte) : Keeps s (t.farEnd p bytes) := h.thenStep fun x => x.emit _

theorem endFrame (p : Nat) (assemblyErr : Bool) : Keeps s (t.endFrame p assemblyErr) := by
  unfold State.endFrame
  split
  · exact h
  · dsimp only
    split
    · exact h.setPort _ _
    · split
      · exact ((h.setPort _ _).farEnd _ _).macDrop _
      · split
        · exact (((h.setPort _ _).farEnd _ _).count _).macDrop _
        · split
          · exact (((h.setPort _ _).farEnd _ _).count _).macDrop _
          · split
            · exact (((h.setPort _ _).farEnd _ _).count _).macDrop _
            · exact (((h.setPort _ _).farEnd _ _).count _).macDrop _
            · split
              · split
                · exact (((((h.setPort _ _).farEnd _ _).count _).countN _ _).setFrame _ _).endStall _
                · exact (((((h.setPort _ _).farEnd _ _).count _).countN _ _).dropFrame _).checkSettled
              · split
                · exact ((((((h.setPort _ _).farEnd _ _).count _).countN _ _).setFrame _ _).endStall _).received _ _
                    _
                · exact (((((h.setPort _ _).farEnd _ _).count _).countN _ _).setFrame _ _).endStall _

theorem nearEnd (p : Nat) (bytes : List Byte) : Keeps s (t.nearEnd p bytes) :=
  h.elseStep fun x => (x.startFrame _).thenStep fun y => (y.takeBytes _ _).endFrame _ _

theorem sendFrame (p : Nat) (bytes : List Byte) (stomped aborted : Bool) :
    Keeps s (t.sendFrame p bytes stomped aborted) :=
  (h.emit _).branch (h.thenStep fun x => x.nearEnd _ _)

theorem ldCount (p q : Nat) (admitted : Bool) : Keeps s (t.ldCount p q admitted) := (h.count _).count _

theorem flushHeld (p : Nat) : Keeps s (t.flushHeld p) :=
  fold h fun _ hu _ => hu.removeRefs _ _ (fun _ hv _ => hv.ldCount _ _ _)

theorem countSkips (skips range : Nat) : Keeps s (t.countSkips skips range) :=
  (h.elseStep fun x => (x.countN _ _).raiseG _ _).elseStep fun y => (y.countN _ _).raiseG _ _

theorem abortTx (p : Nat) (w : TxFrame) : Keeps s (t.abortTx p w) := by
  unfold State.abortTx
  refine ((count ?_ _).sendFrame _ _ _ _).removeRef _ _
  split
  · exact h.countSkips _ _
  · exact h

theorem cutRx (p : Nat) : Keeps s (t.cutRx p) := by
  unfold State.cutRx
  split
  · exact h
  · exact ((h.setPort _ _).count _).macDrop _

theorem linkDownNow (p : Nat) : Keeps s (t.linkDownNow p) :=
  (fold (fold ((fold (((((h.setFlag _ _).setFlag _ _).setPort _ _).raisePort _ _).setFlag _ _) fun _ hu _ =>
    hu.bringCredit _).setEgr _ _) fun _ hv _ => hv.abortTx _ _) fun _ hw _ => hw.removeRefs _ _
      (fun _ hz _ => hz.ldCount _ _ _)).into fun k => (((fold (k.cutRx _) fun _ hu10 _ => hu10.setQueue _ _).branch
        ((k.cutRx _).flushHeld _)).restartMerge _).linkDownFlush _

theorem forceDown (p : Nat) : Keeps s (t.forceDown p) := h.thenStep fun x => x.linkDownNow _

theorem modeWrite (p : Nat) (v : W32) : Keeps s (t.modeWrite p v) := by
  unfold State.modeWrite
  dsimp only
  split
  · exact (h.setFld _ _).raisePort _ _
  · exact ((h.plainWrite _ _).setFld _ _).thenStep fun x =>
      ((((((x.forceDown _).thenStep fun y => fold y fun _ hu _ => hu.setFlag _ _).setFlag _ _).setFlag _
        _).setSignal _ _).setPort _ _).thenStep fun z => (z.setFlag _ _).flushHeld _

theorem rotate (c r : Nat) : Keeps s (t.rotate c r) := h.elseStep fun x => x.setCase _ _
theorem startPass (i k entry : Nat) (f : Frame) : Keeps s (t.startPass i k entry f) := (h.setFrame _ _).setComp _ _

theorem wakeForWaiting (r : Nat) : Keeps s (t.wakeForWaiting r) := by
  unfold State.wakeForWaiting
  dsimp only
  split
  · exact h
  · split
    · exact h.wakeCase _
    · exact h

theorem shedDrop (r : Nat) (f : Frame) : Keeps s (t.shedDrop r f) := (h.count _).raiseRegion _ _

theorem pathDrop (r i : Nat) : Keeps s (t.pathDrop r i) := by
  unfold State.pathDrop
  split
  · exact h
  · exact ((h.freePassCell _).setFrame _ _).release _ _

theorem recircDropped (r : Nat) : Keeps s (t.recircDropped r) := (h.count _).raiseG _ _

theorem takeCell (i : Nat) (f : Frame) (data charged : Bool) (c : Nat) : Keeps s (t.takeCell i f data charged c) :=
  ((h.thenStep fun x => x.setCellRam _ _).thenStep fun y => y.withGal _).into fun k => ((k.linkCell _ _).setFrame _
    _).branch (k.setFrame _ _)

theorem ingressNone (p i : Nat) (f : Frame) (data : Bool) : Keeps s (t.ingressNone p i f data) := by
  unfold State.ingressNone
  dsimp only
  split
  · exact (h.count _).setFrame _ _
  · split
    · exact (h.count _).goBad _ (fun _ hu => (hu.count _).raisePort _ _)
    · exact (((h.count _).count _).raisePort _ _).loseFrame _

theorem joinPath (r i c : Nat) (charged : Bool) (f : Frame) : Keeps s (t.joinPath r i c charged f) :=
  (((h.setFrame _ _).setFrame _ _).setPath _ _).branch (((h.setFrame _ _).raiseRegion _ _).pathDrop _ _)

theorem oneRequest (used : List Nat) (req : CellReq) (bad : Bool) : Keeps s (t.oneRequest used req bad).2.2 := by
  unfold State.oneRequest
  split
  · split
    · exact h
    · dsimp only
      split
      · exact (h.request _ _ _ _).takeCell _ _ _ _ _
      · exact (h.request _ _ _ _).ingressNone _ _ _ _
      · exact h.request _ _ _ _
  · split
    · exact h
    · split
      · exact h.setWaitPass _ _
      · dsimp only
        split
        · exact ((h.request _ _ _ _).setWaitPass _ _).joinPath _ _ _ _ _
        · exact ((((h.request _ _ _ _).setWaitPass _ _).count _).recircDropped _).pathDrop _ _
        · exact h.request _ _ _ _
  · split
    · exact h
    · dsimp only
      split
      · dsimp only
        exact (h.request _ _ _ _).modArc _
      · exact (h.request _ _ _ _).capNone
      · exact h.request _ _ _ _
  · split
    · exact (h.request _ _ _ _).injectGrant _ _
    · exact h

theorem resolveDelivery (f : Frame) (forkBad : Bool) : Keeps s (t.resolveDelivery f forkBad).2.2 := by
  unfold State.resolveDelivery
  split
  · dsimp only
    split
    · exact h
    · split
      · exact h.paritySeen _ _
      · split
        · exact h
        · exact h
  · exact h
  · exact h

theorem makeResidue (i qoff : Nat) (waiting : List Nat) : Keeps s (t.makeResidue i qoff waiting) := by
  unfold State.makeResidue
  dsimp only
  split
  · exact h.countN _ _
  · split
    · exact ((h.countN _ _).countN _ _).raiseG _ _
    · split
      · exact ((h.countN _ _).countN _ _).raiseG _ _
      · exact (((h.countN _ _).withGal _).modFrame _ _).acquire _

theorem deliver (i : Nat) (f : Frame) (d : Delivery) : Keeps s (t.deliver i f d) := by
  unfold State.deliver
  split
  · exact (h.enqueue _ _ _).branch (h.threshDrop _)
  · exact (fold h fun _ hu _ => hu.enqueue _ _ _).makeResidue _ _ _
  · exact (h.policer _).thenStep fun x => x.puntFrame _ _
  · exact h

theorem sideActions (i : Nat) (f : Frame) : Keeps s (t.sideActions i f) := by
  unfold State.sideActions
  extract_lets mirrored marked
  have hmarked : Keeps s marked := by
    have hmirrored : Keeps s mirrored := h.fold fun _ hu _ => hu.enqueue _ _ _
    unfold marked
    split
    · exact hmirrored.capMark _ _
    · exact hmirrored
  split
  · exact hmarked.trigger _ _ _
  · exact hmarked

theorem leaveReorder (p i : Nat) : Keeps s (t.leaveReorder p i) := (h.setPort _ _).leaveAgain _ _

theorem poolDrop (p i : Nat) (f : Frame) : Keeps s (t.poolDrop p i f) :=
  (((h.count _).raisePort _ _).setFrame _ _).branch (((h.count _).raisePort _ _).loseFrame _)

theorem chargeCells (f : Frame) {g : Frame} (e : t.chargeCells f = some (g, u)) : Keeps s u := by
  unfold State.chargeCells at e
  dsimp only at e
  split at e
  · cases e
    exact (h.withGal _).branch (((h.withGal _).countN _ _).raiseG _ _)
  · split at e
    · cases e
      exact h
    · split at e
      · cases e
      · cases e
        exact (h.withGal _).poolEvents _

theorem commitFrame (p i : Nat) (f : Frame) (d : Delivery) (qoff : Nat) : Keeps s (t.commitFrame p i f d qoff) := by
  have left := h.leaveReorder p i
  unfold State.commitFrame
  generalize t.leaveReorder p i = v at left ⊢
  extract_lets cut _
  split
  · exact left.poolDrop _ _ _
  · split
    · exact left.poolDrop _ _ _
    next g u e =>
      extract_lets counted owned sent
      have hsent : Keeps s sent := (((left.chargeCells _ e).setFrame _ _).reown _ _).sideActions _ _
      clear_value sent
      split
      · exact (hsent.setWaitPass _ _).serveAll.branch (hsent.release _ _).checkSettled
      · exact ((hsent.deliver _ _ _).release _ _).checkSettled

theorem judgeCut (p : Nat) : Keeps s (t.judgeCut p) := by
  unfold State.judgeCut
  split
  · exact h.thenStep fun x => x.setFrame _ _
  · exact h

/-! ### Egress -/

theorem testHead (n q : Nat) : Keeps s (State.testHead n q t) := by
  induction n generalizing t with
  | zero => exact h
  | succ n ih =>
    rw [State.testHead]
    split
    · exact h
    · split
      · exact h
      · exact (ih ((h.ageDrop _ _).dropRef _ _)).branch ((ih (((h.count _).raiseG _ _).dropRef _ _)).branch h)

theorem testHeads (p : Nat) : Keeps s (t.testHeads p) := h.elseStep fun x => fold x fun _ hu _ => hu.testHead _ _
theorem pick (p : Nat) (w : TxFrame) : Keeps s (t.pick p w) := (h.setEgr _ _).headChanged _ _

theorem reportTx (p ident : Nat) (tx : Stamp) : Keeps s (t.reportTx p ident tx) :=
  ((h.count _).raiseG _ _).branch ((h.withTime _).raiseG _ _)

theorem preemptWire (p : Nat) : Keeps s (t.preemptWire p) := by
  unfold State.preemptWire
  split
  · exact h
  · exact h.thenStep fun x => (((x.chargeGap _).setEgr _ _).count _).count _

theorem beginTx (p : Nat) (w : TxFrame) (ecc : EccRead) : Keeps s (t.beginTx p w ecc) := by
  unfold State.beginTx
  split
  · exact h.setEgr _ _
  next f _ =>
    extract_lets headBad
    clear_value headBad
    split
    next fails u e =>
      have hu : Keeps s u := (h.readCells f.cells 0 ecc).ofPair e
      extract_lets _ idle tx credit begun _ wired out
      have hidle : Keeps s idle := hu.setEgr _ _
      have hout : Keeps s out := (((hidle.bringCredit _).setEgr _ _).modFrame _ _)
      clear_value idle out
      split
      · exact hidle.removeRef _ _
      · split
        · exact hout.elseStep fun x => x.reportTx _ _ _
        · exact hout

theorem resume (p : Nat) (w : TxFrame) : Keeps s (t.resume p w) := h.thenStep fun x => (x.bringCredit _).setEgr _ _

theorem pdelaySent (p i : Nat) (f : Frame) (tx : Stamp) : Keeps s (t.pdelaySent p i f tx) := by
  unfold State.pdelaySent
  split
  · exact h
  · dsimp only
    split
    · exact (h.setPort _ _).thenStep fun x => (x.sendBuilt _ _ _ (fun _ hu => (hu.count _).raiseG _ _)).setPort _ _
    · exact h.setPort _ _

theorem stompCount (p : Nat) (f : Frame) : Keeps s (t.stompCount p f) := by
  unfold State.stompCount
  exact (((h.count _).count _).raiseG _ _).into fun k => by
    dsimp only
    split
    · exact k.count _
    · exact k

theorem wireUe (f : Frame) (k : Option Nat) : Keeps s (t.wireUe f k).2 := by
  unfold State.wireUe
  split
  · exact h.elseStep fun x => x.galleyUe _
  · exact h

theorem gateEffects (p : Nat) : Keeps s (t.gateEffects p) := by
  unfold State.gateEffects
  split
  · exact h
  · split
    · exact h
    · dsimp only
      split
      · exact h.preemptWire _
      · exact h.thenStep fun x => (((x.setEgr _ _).count _).logFirst _ _ _).raiseG _ _

theorem bringPort (p : Nat) : Keeps s (t.bringPort p) := fold h fun _ hu _ => hu.bringCredit _

theorem ttStep (p tag : Nat) : Keeps s (t.ttStep p tag) :=
  h.thenStep fun x => ((x.bringPort _).setEgr _ _).gateEffects _

theorem ttStepAll : Keeps s t.ttStepAll :=
  (fold h fun _ hu _ => (hu.ttStep _ _).ttStep _ _).thenStep fun x => x.raiseG _ _

theorem flushQueue (q : Nat) : Keeps s (t.flushQueue q) := h.removeRefs _ _ (fun _ hu _ => hu.count _)
theorem ttRefused (p : Nat) : Keeps s (t.ttRefused p) := (h.setFlag _ _).raiseG _ _

theorem putTimetable (off : Nat) (v : W64) : Keeps s (t.putTimetable off v) :=
  h.elseStep fun x => ((x.plainWrite _ _).branch (x.ttRefused _)).branch
    (((x.plainWrite _ _).branch (x.ttRefused _)).branch (x.elseStep fun y => ((y.setReg _ _).elseStep fun z =>
      z.ttRefused _).branch (((y.plainWrite _ _).branch (y.ttRefused _)).branch
        (((y.plainWrite _ _).branch (y.ttRefused _)).branch (y.thenStep fun w => (w.setTtWord _ _ _ _).branch
          (w.ttRefused _))))))

/-! ### Formes -/

theorem ctrlGate {f : State → KRes × State} (step : ∀ u, Keeps s u → Keeps s (f u).2) :
    Keeps s (t.ctrlGate f).2 := by
  unfold State.ctrlGate
  split
  · exact h
  · exact step _ h

theorem ctrlAlone {f : State → KRes × State} (step : ∀ u, Keeps s u → Keeps s (f u).2) : Keeps s (t.ctrlAlone f) :=
  (count (untouched (step _ h)) _).branch h

theorem stageRegs (tag : Nat) (src : Option Nat) : Keeps s (t.stageRegs tag src) := by
  refine h.withRegs _ fun w => ?_
  refine List.foldlRecOn (motive := fun m => twf regReset m = true) _ _ (twf_filter _ _ _ w) fun m form x _ => ?_
  split
  · exact twf_tput _ _ form _ _
  · exact form

theorem stageEgress (tag : Nat) (src : Option Nat) : Keeps s (t.stageEgress tag src) :=
  fold (h.withTtWords _) fun _ hu _ => (hu.setFld _ _).setEgr _ _

theorem dropTerms (tag : Nat) : Keeps s (t.dropTerms tag) := h.withForme _

theorem formeStage (inherit : Bool) (seed : Nat) (bad : ParityBad) :
    Keeps s ((t.formeStage inherit seed bad).2) := by
  unfold State.formeStage
  extract_lets tag src staged emptied
  have hstaged : Keeps s staged := (((h.drainLearn bad).ledgerStage tag src seed bad).watchStage tag src).stageRegs
    _ _
  have hemptied : Keeps s emptied := ((hstaged.stageEgress _ _).dropTerms _).setImage _ _
  clear_value tag emptied
  split
  · exact h
  · split
    · exact h
    · split
      · exact h
      · exact hemptied.setTagState _ _

theorem beginRelease (tag : Nat) : Keeps s (t.beginRelease tag) := (h.withLedger _).setTagState _ _

theorem formeDiscard : Keeps s t.formeDiscard.2 := by
  unfold State.formeDiscard
  split
  · exact h
  · split
    · exact h
    · exact h.beginRelease _

theorem formeVerify : Keeps s t.formeVerify.2 := by
  unfold State.formeVerify
  split
  · exact h
  · split
    · exact h
    · exact h

theorem formeLoad (addr : Nat) (finds : EccFinds) : Keeps s (t.formeLoad addr finds).2 := by
  unfold State.formeLoad
  split
  · exact h
  · split
    · exact h
    · split
      · exact h
      · split
        next head u e =>
        have hu : Keeps s u := (h.ddrRead 5 addr 64 finds).ofPair e
        split
        · exact hu
        · extract_lets total
          split
          · exact hu
          · split
            · exact hu
            · split
              next body v e =>
              have hv : Keeps s v := (hu.ddrRead 5 _ _ _).ofPair e
              split
              · exact hv
              · split
                · exact hv
                · split
                  · exact hv
                  · dsimp only
                    split
                    · exact hv.setImage _ _
                    · exact hv

theorem chipValues : Keeps s t.chipValues := (((h.setFld _ _).poolEvents _).setFld _ _).refitAll.serveAll
theorem setResv (tag n : Nat) : Keeps s (t.setResv tag n) := (h.withForme _).branch (h.withForme _)

theorem enableTimetables (tag : Nat) : Keeps s (t.enableTimetables tag) :=
  fold h fun _ hu _ => hu.thenStep fun x => x.setEgr _ _

theorem reclass (old new : Nat) : Keeps s (t.reclass old new) :=
  fold h fun _ hu _ => hu.removeRefs _ _ (fun _ hv _ => hv.count _)

theorem flip (tag : Nat) : Keeps s (t.flip tag) := by
  unfold State.flip
  extract_lets old _ _ noted active valid ended timed queued tagged locked
  clear_value old
  have hended : Keeps s ended := by
    have hvalid : Keeps s valid :=
      have hnoted : Keeps s noted := h.untouched
      (((hnoted.setTagState _ _).setFld _ _).setFlag _ _).setFlag _ _
    unfold ended
    split
    · exact hvalid.setTagState _ _
    · exact hvalid
  have hlocked : Keeps s locked :=
    ((((hended.setReg _ _).chipValues.enableTimetables _).fold fun _ hu _ => hu.setPort _ _).count _).raiseG _ _
  clear_value locked
  split
  · exact (hlocked.reclass _ _).checkSettled
  · exact (hlocked.setFlag _ _).raiseG _ _

theorem formeCommit : Keeps s t.formeCommit.2 := by
  unfold State.formeCommit
  split
  · exact h
  · split
    · exact h
    · dsimp only
      split
      · exact (((h.recordCheck _ _).setImage _ _).setResv _ _).flip _
      · exact ((h.recordCheck _ _).count _).raiseG _ _

theorem dropRefs (i : Nat) : Keeps s (t.dropRefs i) := by
  unfold State.dropRefs
  extract_lets queues _ residue punts popped mine captures
  have hresidue : Keeps s residue := by
    have hqueues : Keeps s queues := h.fold fun _ hu _ => hu.removeRefs _ _ fun _ hv _ => hv
    unfold residue
    clear_value queues
    split
    · exact ((hqueues.withGal _).modFrame _ _).release _ _
    · exact hqueues
  have hpunts : Keeps s punts := hresidue.fold fun _ hu _ => (hu.setPuntQueue _ _).fold fun _ hv _ => hv.release _ _
  have hpopped : Keeps s popped := by
    unfold popped
    clear_value punts
    split
    · exact hpunts.capPop.branch hpunts
    · exact hpunts
  have hcaptures : Keeps s captures := (hpopped.modArc _).fold fun _ hu _ => hu.release _ _
  clear_value captures
  exact hcaptures.fold fun _ hu _ => ((hu.setPath _ _).pathDrop _ _).branch
    (((hu.setWaitPass _ _).pathDrop _ _).branch hu)

theorem drainFrame (i : Nat) : Keeps s (t.drainFrame i) := by
  unfold State.drainFrame
  dsimp only
  split
  · exact h.dropRefs _
  · split
    · exact (h.dropRefs _).abandon _ _
    · exact (h.dropRefs _).loseFrame _
    · exact (h.dropRefs _).loseFrame _
    · exact h.dropRefs _

theorem clearTagTables (tag : Nat) : Keeps s (t.clearTagTables tag) := h.withRegs _ (twf_filter _ _ _)
theorem formeIgnored : Keeps s t.formeIgnored := (h.setFlag _ _).raiseG _ _

theorem putForme (off : Nat) (v : W64) : Keeps s (t.putForme off v) := by
  unfold State.putForme
  split
  · split
    · exact h.formeIgnored
    · exact (h.plainWrite _ _).branch ((h.setReg _ _).branch (h.plainWrite _ _))
  · exact (h.plainWrite _ _).branch (h.plainWrite _ _)

/-! ### Commands -/

theorem keeperDo (bad : ParityBad) {f : State → KRes × State} (step : ∀ u, Keeps s u → Keeps s (f u).2) :
    Keeps s (t.keeperDo bad f).2 := by
  unfold State.keeperDo
  split
  · exact h
  · exact step _ (h.drainLearn _)

theorem rangeRes : Keeps s (rangeRes t).2 := h

theorem tWrite (tbl tag : Nat) (dir : Bool) (idx : Nat) (data : List W64) (bad : ParityBad) :
    Keeps s (t.tWrite tbl tag dir idx data bad).2 :=
  h.keeperDo _ (fun _ hu => by
      dsimp only
      split
      · exact hu.rangeRes
      · split
        · split
          · exact hu.watchDirWrite _ _ _
          · exact hu.watchLineWrite _ _
        · exact hu.keeperWrite _ _ _ _ _)

theorem tDelete (tbl tag : Nat) (dir : Bool) (idx : Nat) (data : List W64) (bad : ParityBad) :
    Keeps s (t.tDelete tbl tag dir idx data bad).2 :=
  h.keeperDo _ (fun _ hu => by
      dsimp only
      split
      · exact hu.rangeRes
      · split
        · exact hu.watchDelete _ _ _
        · exact hu.keeperDelete _ _ _ _ _)

theorem tRead (tbl : Nat) (dir : Bool) (a : Nat) (bad : ParityBad) : Keeps s (t.tRead tbl dir a bad).2 :=
  h.keeperDo _ (fun _ hu => by
      dsimp only
      split
      · exact hu.watchRead _ _
      · split
        · exact hu.rangeRes
        · exact hu.keeperRead _ _ _)

theorem tSearch (tbl tag : Nat) (key : List W64) (bad : ParityBad) : Keeps s (t.tSearch tbl tag key bad).2 :=
  h.keeperDo _ (fun _ hu => by
      dsimp only
      split
      · exact hu.rangeRes
      · exact hu.keeperSearch _ _ _ _)

theorem tNext (tbl tag start : Nat) (data : List W64) (bad : ParityBad) :
    Keeps s (t.tNext tbl tag start data bad).2 :=
  h.keeperDo _ (fun _ hu => by
      dsimp only
      split
      · exact hu.rangeRes
      · exact hu.keeperNext _ _ _ _ _)

theorem tFlush (fid : Option Nat) (port : Nat) (bad : ParityBad) : Keeps s (t.tFlush fid port bad).2 :=
  h.keeperDo _ (fun _ hu => (hu.flushPort _ _ _))

theorem snapshot (units : BitVec 26) (addr : Nat) (finds : EccFinds) : Keeps s (t.snapshot units addr finds).2 := by
  unfold State.snapshot
  extract_lets chosen base woken target words part found lost put kept now mem _ stored corrected marked
  clear_value chosen
  split
  · exact h
  · have hwoken : Keeps s woken := h.ddrWake _
    clear_value woken
    have hmem : Memory.wf 0 woken.ddr.mem = true → Memory.wf 0 mem = true := fun w =>
      List.foldlRecOn (motive := fun m => Memory.wf 0 m = true) _ _ (twf_filter _ _ _ w) fun m form x _ => by
        split
        · exact Memory.wf_writeN 0 _ _ _ form
        · exact form
    clear_value mem
    have hstored : Keeps s stored := hwoken.setMem _ hmem
    have hcorrected : Keeps s corrected := hstored.fold fun _ hu _ => hu.elseStep fun x => x.ddrCorrected _
    exact hcorrected.fold fun _ hu _ => (hu.ddrUncorrectable _ _).count _

theorem capArmCmd (sel : Nat) (arm : Bool) (data : List W64) : Keeps s (t.capArmCmd sel arm data).2 :=
  h.capArm _ _ _

theorem capTrig (cause : Nat) : Keeps s (t.capTrig cause).2 := h.trigger _ _ _

theorem roleWrite (src r : Nat) : Keeps s (t.roleWrite src r).2 := by
  unfold State.roleWrite
  split
  · exact h.rangeRes
  · exact (h.setFld _ _).branch ((h.setFld _ _).branch (h.setFld _ _))

theorem arcPages (table : Bool) (npages event first : Nat) (reads : List NandRead)
    {bs : List Byte} {bad lost soft : Nat} (e : t.arcPages table npages event first reads = some (bs, bad, lost, soft, u)) :
    Keeps s u := by
  unfold State.arcPages at e
  extract_lets find step at e
  have kept : ∀ (l : List Nat) (a : List Byte × Nat × Nat × Nat × State), Keeps s a.2.2.2.2 → Keeps s
    (l.foldl step a).2.2.2.2 :=
    foldlP (fun a : List Byte × Nat × Nat × Nat × State => Keeps s a.2.2.2.2) step fun a i ha => by
      obtain ⟨_, _, _, _, v⟩ := a
      unfold step
      dsimp only
      split
      · exact ha
      · exact (ha.count _).raiseG _ _
      · exact ha.count _
      · exact ha
  clear_value step
  split at e
  · cases e
  · split at e
    · split at e
      · cases e
      · cases e
        exact h
    · split at e
      · cases e
      · split at e
        · cases e
        · have last := kept (List.range npages) ([], 0, 0xFFFFFFFF, 0, t) h
          rwa [Option.some.inj e] at last

theorem arcRead (w0 w1 : W64) (reads : List NandRead) : Keeps s (t.arcRead w0 w1 reads).2 := by
  unfold State.arcRead
  dsimp only
  split
  · exact h
  · split
    · exact h
    · have read := h.arcPages _ _ _ _ _ ‹_›
      split
      · exact read.setStreams _ _
      · split
        · exact h
        · exact read.ddrWrite _ _ _ _

theorem ctrlDo (w : W64) (data : List W64) (found : Found) : Keeps s (t.ctrlDo w data found).2 := by
  unfold State.ctrlDo
  dsimp only
  split
  · exact h.tWrite _ _ _ _ _ _
  · exact h.tDelete _ _ _ _ _ _
  · exact h.tRead _ _ _ _
  · exact h.tSearch _ _ _ _
  · exact h.tNext _ _ _ _ _
  · exact h.tFlush _ _ _
  · exact h.formeStage _ _ _
  · exact h.formeDiscard
  · exact h.formeCommit
  · exact h.formeVerify
  · exact h.formeLoad _ _
  · exact h
  · exact h.snapshot _ _ _
  · exact h.capArmCmd _ _ _
  · exact h.capTrig _
  · exact h.roleWrite _ _
  · exact h.arcRead _ _ _
  · exact h.rangeRes

theorem ctrlRun (w : W64) (data : List W64) (found : Found) : Keeps s (t.ctrlRun w data found).2 := by
  unfold State.ctrlRun
  split
  · exact h.ctrlDo _ _ _
  · exact h.ctrlGate (fun _ hu => hu.ctrlDo _ _ _)

omit h in
theorem runNext (stop : Bool) (found : List Found) (x : Nat × W64 × List W64) {b : BlockRun} (h : Keeps s b.st) :
    Keeps s (b.next stop found x.1 x.2).st := by
  unfold BlockRun.next
  split
  · exact h
  · exact (h.ctrlRun _ _ _).count _

theorem blockRun (b : CmdBlock) (found : List Found) : Keeps s (t.blockRun b found) := by
  unfold State.blockRun
  extract_lets is stop r
  have ran : Keeps s r.st := foldlP (fun b : BlockRun => Keeps s b.st) _ (fun _ x hb => runNext stop found x hb) _ _
    h
  exact (ran.count _).blockDone _ _

/-! ### Fences -/

theorem inject (level src : Nat) : Keeps s (t.inject level src) := h.thenStep fun x => x.faultAt _ _ _ _ _

theorem leaveResidues (p : Nat) : Keeps s (t.leaveResidues p) := by
  unfold State.leaveResidues
  refine fold h fun _ hu _ => ?_
  split
  · exact hu
  · exact hu.elseStep fun x => ((x.count _).withGal _).thenStep fun y => (y.modFrame _ _).release _ _

theorem fenceComp (c : Nat) : Keeps s (t.fenceComp c) := (h.abandon _ _).raiseComp _ _

theorem fenceCase (k : Nat) : Keeps s (t.fenceCase k) :=
  ((fold h fun _ hu _ => hu.fenceComp _).raiseCase _ _).wakeCase _

theorem fenceLane (p : Nat) : Keeps s (t.fenceLane p) := ((h.forceDown _).setFlag _ _).leaveResidues _
theorem fenceGroup (g : Nat) : Keeps s (t.fenceGroup g) := fold h fun _ hu _ => hu.flushQueue _

theorem fenceBank (b : Nat) : Keeps s (t.fenceBank b) := by
  unfold State.fenceBank
  extract_lets rows marked _ counted fenced
  have hmarked : Keeps s marked := h.fold fun _ hu _ => hu.setCellRam _ _
  clear_value marked
  have hcounted : Keeps s counted := hmarked.withGal _
  have hfenced : Keeps s fenced := (hcounted.setBankList _ _).raiseG _ _
  exact (hfenced.branch hfenced.cellFencedEvent).poolEvents _

theorem fenceRegion (r : Nat) : Keeps s (t.fenceRegion r) :=
  (fold (((((fold h fun _ hu _ => (((hu.forceDown _).setFlag _ _).flushHeld _).leaveResidues _).fenceCase
    _).fenceCase _).setPath _ _).setWaitPass _ _) fun _ hv _ => (hv.recircDropped _).pathDrop _ _).raiseRegion _ _

theorem withdraw (src : Nat) : Keeps s (t.withdraw src) := h.arcUnavailable.branch (h.thenStep fun x => x.freeze)

theorem fenceAct (src : Nat) : Keeps s (t.fenceAct src) := by
  unfold State.fenceAct
  dsimp only
  split
  · split
    · exact (h.fenceComp _).raiseRegion _ _
    · exact h.fenceComp _
  · split
    · split
      · exact (h.fenceLane _).raiseRegion _ _
      · exact h.fenceLane _
    · split
      · split
        · exact (h.fenceGroup _).raiseRegion _ _
        · exact h.fenceGroup _
      · split
        · exact h.fenceBank _
        · split
          · exact h.tblBankFenced _
          · split
            · split
              · exact (h.fenceCase _).raiseRegion _ _
              · exact h.fenceCase _
            · split
              · split
                · exact (fold h fun _ hu _ => hu.fenceLane _).raiseRegion _ _
                · exact fold h fun _ hv _ => hv.fenceLane _
              · split
                · exact fold h fun _ hw _ => hw.fenceBank _
                · split
                  · refine fenceRegion ?_ _
                    split
                    · exact h.raiseRegion _ _
                    · exact h
                  · exact h.withdraw _

theorem wantRecheck : Keeps s t.wantRecheck := h.thenStep fun x => (x.withFlt _).setFlag _ _

theorem fenceDone (src level : Nat) : Keeps s (t.fenceDone src level) :=
  ((((h.withFlt _).fenceAct _).refitAll.count _).raiseG _ _).wantRecheck

theorem markRecord (k bit : Nat) : Keeps s (t.markRecord k bit) := h.thenStep fun x => x.setReg _ _
theorem ackRecord (k : Nat) : Keeps s (t.ackRecord k) := h.markRecord _ _
theorem clearRecord (k : Nat) : Keeps s (t.clearRecord k) := h.thenStep fun x => x.markRecord _ _

theorem unfenceGo (src : Nat) : Keeps s (t.unfenceGo src) :=
  (h.setFld _ _).branch (((h.withFlt _).setFlag _ _).setFld _ _)

theorem laneReturns (p : Nat) : Keeps s (t.laneReturns p) :=
  h.elseStep fun x => ((x.setFld _ _).setFlag _ _).setPort _ _

/-! ### Time -/

theorem tbAdd (d : Int) : Keeps s (t.tbAdd d) :=
h.setNow _ (by
  have range := Int.emod_lt_of_pos (t.time.now + d) (show (0 : Int) < tbWrap by decide)
  have low := Int.emod_nonneg (t.time.now + d) (show (tbWrap : Int) ≠ 0 by decide)
  show Int.toNat _ < _
  omega)

theorem slewStop : Keeps s t.slewStop := ((h.withTime _).setFlag _ _).raiseG _ _
theorem ppsRise (at_ : Nat) : Keeps s (t.ppsRise at_) := h.withTime _

theorem ppsRun (old : Nat) : Keeps s (t.ppsRun old) :=
  (h.thenStep fun x => x.ppsRise _).thenStep fun y => y.withTime _

theorem tbRun : Keeps s t.tbRun := by
  unfold State.tbRun
  dsimp only
  split
  · exact (h.tbAdd _).withTime _
  · exact (((h.tbAdd _).withTime _).tbAdd _).slewStop.branch ((((h.tbAdd _).withTime _).withTime _).tbAdd _)

theorem tbCycle : Keeps s t.tbCycle := h.tbRun.ppsRun _
theorem endSlew : Keeps s t.endSlew := h.thenStep fun x => x.slewStop
theorem slewGo : Keeps s t.slewGo := (h.endSlew.withTime _).setFlag _ _

theorem stepTo (new : Nat) : Keeps s (t.stepTo new) :=
  ((((h.setNow _ (Nat.mod_lt _ (by decide))).setFld _ _).setFld _ _).raiseG _ _).ttStepAll.wblTimeStep

theorem stepGo : Keeps s t.stepGo := h.endSlew.stepTo _
theorem setGo : Keeps s t.setGo := h.endSlew.stepTo _
theorem latchNow : Keeps s t.latchNow := ((h.setFld _ _).setFld _ _).setFld _ _

theorem txtsPop : Keeps s t.txtsPop := by
  unfold State.txtsPop
  split
  · exact (h.withTime _).setReg _ _
  · exact h

/-! ### Register reads -/

theorem readEffect (off : Nat) (wide : Bool) : Keeps s (t.readEffect off wide) := by
  unfold State.readEffect
  split
  · exact h.latchNow
  · exact h.elseStep fun x => x.txtsPop.branch ((x.modWbl _).branch (x.thenStep fun y => y.thenStep fun z =>
      z.setReg _ _))

theorem readBar (off : Nat) (wide : Bool) : Keeps s (t.readBar off wide).2 := by
  unfold State.readBar
  split
  · split
    · exact h.readEffect _ _
    · exact (h.readEffect _ _).readEffect _ _
  · exact h.readEffect _ _

/-! ### Register writes -/

theorem raiseMask (g : Nat) (m : W64) : Keeps s (t.raiseMask g m) :=
  fold h fun _ hu _ => hu.thenStep fun x => x.raiseG _ _

theorem clearLatch (g : Nat) (m : W64) : Keeps s (t.clearLatch g m) := h.setReg _ _
theorem putEnable (g : Nat) (v : W64) : Keeps s (t.putEnable g v) := (h.setReg _ _).signalRises _
theorem putTarget (n : Nat) (v : W64) : Keeps s (t.putTarget n v) := (h.plainWrite _ _).signalRises _
theorem vecAck (v : Nat) : Keeps s (t.vecAck v) := h.thenStep fun x => x.signalVec _

theorem putEvent (off : Nat) (v : W64) : Keeps s (t.putEvent off v) := by
  unfold State.putEvent
  dsimp only
  split
  · exact h.clearLatch _ _
  · split
    · exact h.putEnable _ _
    · split
      · exact h.raiseMask _ _
      · exact (h.vecAck _).branch (h.thenStep fun x => x.putTarget _ _)

theorem putFault (off : Nat) (v : W64) : Keeps s (t.putFault off v) := by
  unfold State.putFault
  split
  · exact (fold h fun _ hu _ => hu.ackRecord _).branch (h.ackRecord _)
  · split
    · exact (fold h fun _ hv _ => hv.clearRecord _).branch (h.clearRecord _)
    · split
      · exact h.thenStep fun x => x.unfenceGo _
      · exact (h.thenStep fun y => y.inject _ _).branch (h.plainWrite _ _)

theorem putPower (off : Nat) (v : W64) : Keeps s (t.putPower off v) := by
  unfold State.putPower
  split
  · exact (h.plainWrite _ _).refitAll
  · split
    · exact h.putCap _
    · exact (h.plainWrite _ _).branch ((h.plainWrite _ _).branch (h.plainWrite _ _))

theorem putRingCfg (k : Nat) (v : W64) : Keeps s (t.putRingCfg k v) :=
  ((h.plainWrite _ _).ringOn _).branch ((h.plainWrite _ _).thenStep fun x => x.ringOff _)

theorem putChan (c : Nat) (v : W64) : Keeps s (t.putChan c v) :=
  ((h.plainWrite _ _).thenStep fun x => x.chanStart _).thenStep fun y => y.chanStop _

theorem putHost (off : Nat) (v : W64) : Keeps s (t.putHost off v) := by
  unfold State.putHost
  split
  · exact (h.plainWrite _ _).thenStep fun x => x.unfreeze
  · split
    · exact h.setReg _ _
    · split
      · exact (h.plainWrite _ _).flushPba
      · split
        · exact h.putChan _ _
        · exact (h.plainWrite _ _).thenStep fun y => (h.putRingCfg _ _).branch
            ((h.branch y).branch ((h.thenStep fun z => z.ringBell _).branch y))

theorem putCommand (off : Nat) (v : W64) : Keeps s (t.putCommand off v) := by
  unfold State.putCommand
  split
  · exact h.elseStep fun x => x.plainWrite _ _
  · split
    · exact h.ringPi _
    · split
      · exact h.plainWrite _ _
      · exact (h.plainWrite _ _).thenStep fun y => y.thenStep fun z => z.i2cGo

theorem putTime (off : Nat) (v : W64) : Keeps s (t.putTime off v) := by
  unfold State.putTime
  split
  · exact h.thenStep fun x => x.setGo
  · split
    · exact h.plainWrite _ _
    · split
      · exact (h.plainWrite _ _).elseStep fun y => y.stepGo.branch y.slewGo
      · exact (h.plainWrite _ _).branch (h.plainWrite _ _)

theorem freezeEq (p : Nat) (v : W64) : Keeps s (t.freezeEq p v) :=
  (h.plainWrite _ _).thenStep fun x => x.setPort _ _

theorem putPort (off : Nat) (v : W64) : Keeps s (t.putPort off v) := by
  unfold State.putPort
  dsimp only
  split
  · exact h.modeWrite _ _
  · split
    · exact (h.plainWrite _ _).thenStep fun x => x.flushHeld _
    · split
      · exact (h.plainWrite _ _).thenStep fun y => y.restartMerge _
      · split
        · exact h.thenStep fun z => z.plainWrite _ _
        · split
          · exact h.plainWrite _ _
          · exact (h.freezeEq _ _).branch ((h.plainWrite _ _).thenStep fun w => h.branch w)

theorem putCase (off : Nat) (v : W64) : Keeps s (t.putCase off v) := (h.plainWrite _ _).branch (h.plainWrite _ _)

theorem putLedger (off : Nat) (v : W64) : Keeps s (t.putLedger off v) :=
  (h.plainWrite _ _).branch (h.plainWrite _ _)

theorem putGalley (off : Nat) (v : W64) : Keeps s (t.putGalley off v) :=
  (h.plainWrite _ _).branch (h.plainWrite _ _)

theorem putWatch (off : Nat) (v : W64) : Keeps s (t.putWatch off v) := by
  unfold State.putWatch
  dsimp only
  split
  · exact (h.plainWrite _ _).thenStep fun x => x.raiseG _ _
  · exact (h.plainWrite _ _).thenStep fun y => h.branch y

theorem putEgress (off : Nat) (v : W64) : Keeps s (t.putEgress off v) := by
  unfold State.putEgress
  dsimp only
  split
  · exact ((h.plainWrite _ _).thenStep fun x => x.flushQueue _).watermark _
  · exact (h.putTimetable _ _).branch (h.plainWrite _ _)

theorem putWaybill (off : Nat) (v : W64) : Keeps s (t.putWaybill off v) := by
  unfold State.putWaybill
  split
  · exact h.wblSnap _ _
  · split
    · exact h.stickyOp _ _ _ _ _
    · exact (h.clrMeter _).branch ((h.putTagTable _ _).branch (h.plainWrite _ _))

theorem putDdr (off : Nat) (v : W64) : Keeps s (t.putDdr off v) := by
  unfold State.putDdr
  split
  · exact (h.plainWrite _ _).thenStep fun x => x.arcDdrCheck
  · split
    · exact (h.plainWrite _ _).thenStep fun y => y.ddrFreqGo _
    · exact (h.plainWrite _ _).thenStep fun z => h.elseStep fun w => (w.plainWrite _ _).branch z

theorem putArcCtrl (v : W64) : Keeps s (t.putArcCtrl v) := by
  unfold State.putArcCtrl
  exact (h.thenStep fun x => x.arcErase).into fun k => by
    dsimp only
    split
    · exact (k.setFlag _ _).branch ((k.takeFree 128).arcOn _ _)
    · exact (k.setFlag _ _).branch k.arcStop

theorem putArchive (off : Nat) (v : W64) : Keeps s (t.putArchive off v) := by
  unfold State.putArchive
  split
  · exact h.putArcCtrl _
  · split
    · exact h.elseStep fun x => x.plainWrite _ _
    · split
      · exact h.plainWrite _ _
      · split
        · exact h.plainWrite _ _
        · exact (h.thenStep fun y => y.putKeep _).branch (h.plainWrite _ _)

theorem putReg (off : Nat) (v : W64) : Keeps s (t.putReg off v) := by
  unfold State.putReg
  split
  · exact h.putFault _ _
  · exact h.putPower _ _
  · exact h.putEvent _ _
  · exact h.putHost _ _
  · exact h.putCommand _ _
  · exact h.putForme _ _
  · exact h.putTime _ _
  · exact h.putPort _ _
  · exact h.putPort _ _
  · exact h.putPort _ _
  · exact h.putPort _ _
  · exact h.putGalley _ _
  · exact h.putCase _ _
  · exact h.putLedger _ _
  · exact h.putWatch _ _
  · exact h.putEgress _ _
  · exact h.putEgress _ _
  · exact h.putEgress _ _
  · exact h.putEgress _ _
  · exact h.putWaybill _ _
  · exact h.putDdr _ _
  · exact h.putArchive _ _
  · exact h.plainWrite _ _

/-! ### Starts -/

theorem variantRegs : Keeps s t.variantRegs := h.setFld _ _

omit h in
theorem wf_watchRegs {m : Tbl W64} (form : twf regReset m = true) : twf regReset (watchRegs m) = true :=
  twf_map regReset _ m form

/-- What a cold start leaves: nothing runs, and the time base stands at zero. -/
theorem cleared : Keeps s t.cleared :=
  variantRegs (h.trans ⟨rfl, fun _ => Nat.pos_of_ne_zero (by decide), wf_watchRegs, fun _ => rfl,
    fun _ => rfl, id, fun _ => ⟨rfl, KeysForward.refl t⟩, rfl⟩)

theorem clearWatch : Keeps s t.clearWatch := ((h.withRegs _ (twf_map regReset _ _)).withFlt _).withBoot _

theorem priorRecords : Keeps s t.priorRecords :=
  fold h fun _ hu _ => ((hu.markRecord _ _).markRecord _ _).markRecord _ _

theorem showSheet (n state npatch id : Nat) : Keeps s (t.showSheet n state npatch id) :=
  ((h.setFld _ _).setFld _ _).setFld _ _

theorem setStore (cs : Tbl (BitVec 128)) : Keeps s (t.setStore cs) := h.withLedger _

theorem applySheets (sheets : List Sheet) : Keeps s (State.applySheets sheets t).2 := by
  induction sheets generalizing t with
  | nil => exact h
  | cons x sheets ih =>
    rw [State.applySheets]
    dsimp only
    split
    · exact ih ((h.showSheet _ _ _ _).raiseG _ _)
    · split
      · exact h
      · exact ih (((h.setStore _).showSheet _ _ _ _).withBoot _)

theorem applyBoard (warm : Bool) (i : Nat) (board : List (Nat × Nat)) :
    Keeps s (State.applyBoard warm i board t).2 := by
  induction board generalizing i t with
  | nil => exact h
  | cons x board ih =>
    rw [State.applyBoard]
    split
    · exact h
    · split
      · exact ih h _
      · exact ih (h.barWrite _ _ _ fun _ hu _ _ => hu.putReg _ _) _

theorem preparePorts : Keeps s t.preparePorts := fold h fun _ hu _ => (hu.setFld _ _).setFld _ _

theorem releasePorts (board : List (Nat × Nat)) : Keeps s (t.releasePorts board) :=
  fold h fun _ hu _ => hu.elseStep fun x => (x.setFlag _ _).setFlag _ _

theorem atStep (n : Nat) : Keeps s (t.atStep n) := h.setFld _ _

theorem bistStage (fails : List Nat) : Keeps s (State.bistStage fails t).2 := by
  unfold State.bistStage
  dsimp only
  split
  · exact h
  · split
    · exact h
    · exact fold (fold h fun _ hu _ => hu.faultAt _ _ _ _ _) fun _ hv _ => hv.fenceDone _ _

theorem imageStage (qspiError : Bool) : Keeps s (State.imageStage qspiError t).2 := by
  unfold State.imageStage
  split
  · exact h
  · split
    · exact h
    · split
      · exact h
      · split
        · exact h
        · exact ((h.withBoot _).setStore _).applySheets _

theorem boardStage : Keeps s t.boardStage.2 := ((h.setFld _ _).setFlag _ _).preparePorts.applyBoard _ _ _

theorem ddrTrain (fails : BitVec 4) : Keeps s (State.ddrTrain fails t) :=
  h.elseStep fun x => (fold x fun _ hu _ => ((hu.setFld _ _).raiseG _ _).fault _ _ _ _).elseStep fun y =>
    ((y.withDdr _).setFld _ _).setFlag _ _

theorem startDone (warm : Bool) (step us : Nat) : Keeps s (t.startDone warm step us) :=
  ((((h.withBoot _).setFlag _ _).atStep _).setFld _ _).into fun k =>
    (((k.setFld _ _).branch ((k.setFld _ _).setFlag _ _)).raiseG _ _).thenStep fun x => x.raiseG _ _

theorem startFailed (warm : Bool) (f : StartFail) : Keeps s (t.startFailed warm f) := (h.withBoot _).setReg _ _

theorem coldBegin (facts : StartFacts) : Keeps s (t.coldBegin facts) :=
  ((((((h.cleared.withBoot _).thenStep fun x => x.raiseG _ _).setFlag _ _).setFlag _ _).setFld _ _).thenStep
    fun y => y.setFld _ _).priorRecords.atStep _

omit h in
theorem stage {x : Stage1} {f : State → Stage1} (start : Keeps s x.2) (step : ∀ u, Keeps s u → Keeps s (f u).2) :
    Keeps s (andThen x f).2 := by
  unfold andThen
  split
  · exact start
  · exact step _ start

theorem coldStages (facts : StartFacts) : Keeps s (t.coldStages facts).2 := by
  unfold State.coldStages
  extract_lets chip bist image board
  have hchip : Keeps s chip.2 := by
    unfold chip
    split
    · exact h
    · exact h
  have hbist : Keeps s bist.2 := stage hchip fun u hu => (hu.atStep 2).bistStage _
  have himage : Keeps s image.2 := stage hbist fun u hu => (hu.atStep 4).imageStage _
  have hboard : Keeps s board.2 := stage himage fun u hu => (hu.atStep 5).boardStage
  refine stage hboard fun u hu => ?_
  extract_lets trained _ calibrated
  have htrained : Keeps s trained := (hu.ddrTrain _).arcStartUp
  have hcalibrated : Keeps s calibrated := htrained.withBoot _
  exact (hcalibrated.releasePorts _).startDone _ _ _

theorem startHangs (facts : StartFacts) : Keeps s (t.startHangs facts) := ((h.takeFree 4).atStep _).withBoot _

theorem coldCount (f : StartFail) : Keeps s (t.coldCount f).2 := by
  unfold State.coldCount
  dsimp only
  split
  · exact (h.startFailed _ _).enterSafeHold
  · split
    · exact (h.startFailed _ _).setFld _ _
    · exact ((h.startFailed _ _).setFld _ _).enterSafeHold

theorem coldRuns (facts : StartFacts) (n : Nat) : Keeps s (State.coldRuns facts n t) := by
  induction n generalizing t with
  | zero =>
    rw [State.coldRuns.eq_def]
    exact h
  | succ n ih =>
    rw [State.coldRuns.eq_def]
    split
    · exact h
    next m v e =>
      obtain rfl := Nat.succ.inj e
      have begun := h.coldBegin facts
      extract_lets w
      have hw : Keeps s w := begun
      clear_value w
      refine (hw.startHangs _).branch ?_
      have ran := hw.coldStages facts
      split
      next v e => exact ran.ofPair e
      next f v e =>
        have counted := (ran.ofPair e).coldCount f
        exact (ih counted).branch counted

theorem coldStart (facts : StartFacts) : Keeps s (t.coldStart facts) := h.coldRuns _ _
theorem releaseStart (facts : StartFacts) : Keeps s (t.releaseStart facts) := (h.coldStart _).withBoot _
theorem clearLatches : Keeps s t.clearLatches := h.withRegs _ (twf_filter _ _ _)

theorem arcPause : Keeps s t.arcPause := by
  unfold State.arcPause
  split
  · exact h
  · split
    next fs u e =>
    extract_lets written paused
    have hwritten : Keeps s written := (((h.takeFinds 512).ofPair e).drainPage true true fs).writeCheckpoint
    have hpaused : Keeps s paused := hwritten.modArc _
    exact hpaused.countN _ _

omit h in
theorem setBankLists_cell (rows : Nat → List (Nat × Nat)) (l : List Nat) :
    (l.foldl (fun (u : State) b => u.setBankList b (rows b)) t).gal.cell = t.gal.cell := by
  induction l generalizing t with
  | nil => rfl
  | cons b l ih => exact ih (t := t.setBankList b (rows b))

omit h in
theorem wf_warmGalley (form : twf (fun _ => cellByte 0 0x3F) t.gal.cell = true) :
    twf (fun _ => cellByte 0 0x3F) t.warmGalley.cell = true := by
  unfold State.warmGalley
  extract_lets inBank cells banks _ marked opened
  have wf : twf (fun _ => cellByte 0 0x3F) cells = true := twf_map (fun _ => cellByte 0 0x3F) _ _ form
  have same : opened.gal.cell = marked.gal.cell := setBankLists_cell _ banks
  exact same ▸ wf

theorem warmBegin : Keeps s t.warmBegin := by
  have paused := (h.clearLatches.hostReset 4).arcPause
  unfold State.warmBegin
  extract_lets p tag other keepTag _ resumed _ _ _ _ _ _ _ _ _ _ _ _ begun active settled straps
  have hp : Keeps s p := paused
  clear_value p tag
  have hbegun : Keeps s begun := hp.trans ⟨rfl, id, fun form => twf_map regReset _ _ form, wf_warmGalley, id, id,
    fun _ => ⟨rfl, KeysForward.refl p⟩, rfl⟩
  have hactive : Keeps s active := by
    unfold active
    split
    · exact ((hbegun.setFlag _ _).setFld _ _).setTagState _ _
    · exact hbegun
  have hstraps : Keeps s straps := ((hactive.setFlag _ _).setFlag _ _).setFlag _ _
  exact (hstraps.variantRegs.setFlag _ _).priorRecords.atStep _

theorem warmChecks (facts : StartFacts) : Keeps s (State.warmChecks facts t).2 := by
  unfold State.warmChecks
  split
  · split
    · exact h
    · exact h.thenStep fun x => fold x fun _ hu _ => hu.raiseCase _ _
  · split
    · split
      · exact h
      · exact h
    · exact h

theorem warmStages (facts : StartFacts) : Keeps s (t.warmStages facts).2 := by
  unfold State.warmStages
  extract_lets board checked applied
  have hchecked : Keeps s checked.2 := (h.atStep 4).warmChecks facts
  have happlied : Keeps s applied.2 := stage hchecked fun _ hu => (hu.atStep 6).preparePorts.applyBoard _ _ _
  refine stage happlied fun u hu => ?_
  extract_lets chip _ hashing started
  have hhashing : Keeps s hashing := (hu.chipValues.branch hu).withBoot _
  have hstarted : Keeps s started := (hhashing.elseStep fun x => x.setArcState 2).arcStartUp
  exact (hstarted.releasePorts _).startDone _ _ _

theorem warmFailed (facts : StartFacts) (f : StartFail) : Keeps s (t.warmFailed facts f) :=
  (((h.startFailed _ _).setFld _ _).setFlag _ _).coldStart _

theorem warmStart (facts : StartFacts) : Keeps s (t.warmStart facts) := by
  unfold State.warmStart
  dsimp only
  split
  · exact h.warmBegin.startHangs _
  · split
    · exact (h.warmBegin.warmStages _).ofPair
    · exact (h.warmBegin.warmStages _).ofPair.warmFailed _ _

theorem restartCold (key : Nat) (facts : StartFacts) : Keeps s (t.restartCold key facts) := by
  unfold State.restartCold
  split
  · exact h
  · split
    · exact h.coldStart _
    · exact h.coldStart _
    · exact h

theorem restartWarm (key : Nat) (facts : StartFacts) : Keeps s (t.restartWarm key facts) :=
  h.elseStep fun x => ((x.coldStart _).raiseG _ _).branch (x.warmStart _)

theorem clrFails (key : Nat) : Keeps s (t.clrFails key) := h.elseStep fun x => x.setFld _ _

/-! ### Flash, keys and attestation -/

theorem putWindow (off : Nat) (bs : List Byte) : Keeps s (t.putWindow off bs) := fold h fun _ hu _ => hu.setReg _ _

theorem qspiGo (op len : Nat) : Keeps s (t.qspiGo op len) :=
  h.elseStep fun x => ((x.setFld _ _).raiseG _ _).branch ((x.setFld _ _).modBoot _)

theorem setFlash (addr : Nat) (bs : List Byte) : Keeps s (t.setFlash addr bs) :=
  h.trans ⟨rfl, id, id, id, id, Memory.wf_writeN _ _ _ _, fun op => ⟨op, KeysForward.refl t⟩, rfl⟩

theorem bufferHead (bs : List Byte) : Keeps s (t.bufferHead bs) := h.putWindow _ _

theorem qspiEffect (op len addr : Nat) (error : Bool) : Keeps s (t.qspiEffect op len addr error) := by
  unfold State.qspiEffect
  dsimp only
  split
  · exact ((h.freeBytes _).bufferHead _).branch ((h.freeBytes _).setFlash _ _)
  · split
    · exact h.bufferHead _
    · exact h.setFlash _ _
    · exact h.setFlash _ _

/-- A slot may change where its programming and revocation stay. -/
theorem setKeySlot (k : Nat) (v : KeySlot) (idle : t.boot.keyOp = none)
    (programmed : s.keyOpOk = true → (t.keySlot k).programmed = true → v.programmed = true ∧ v.hash = (t.keySlot k).hash)
    (revoked : (t.keySlot k).revoked = true → v.revoked = true) : Keeps s (t.setKeySlot k v) := by
  refine ⟨h.pending, h.time, h.regs, h.cells, h.mem, h.flash, fun op => ⟨?_, (h.keys op).2.trans fun j => ?_⟩,
    List.length_set.trans h.slots⟩
  · simp only [State.keyOpOk, State.setKeySlot, State.modBoot, idle]
  · have read : (t.setKeySlot k v).keySlot j = if k = j ∧ k < t.boot.otp.keys.length then v else t.keySlot j := by
      simp only [State.keySlot, State.setKeySlot, State.modBoot, List.getD_eq_getElem?_getD, List.getElem?_set]
      grind
    rw [read]
    split
    next e =>
      obtain ⟨rfl, -⟩ := e
      exact ⟨programmed op, revoked⟩
    · exact KeysForward.refl t j

theorem keyGo (op slot confirm : Nat) : Keeps s (t.keyGo op slot confirm) := by
  unfold State.keyGo
  split
  · exact h
  · split
    · exact (h.setFld _ _).raiseG _ _
    next accepted =>
      refine (h.setFld F.SEC_KEY_CTRL_RESULT 0).trans ⟨rfl, id, id, id, id, id, fun _ => ⟨?_, KeysForward.refl _⟩,
        rfl⟩
      simp only [State.keyRefused, Bool.or_eq_true, not_or] at accepted
      unfold State.keyOpOk
      split
      next k e =>
        cases e
        exact Bool.not_eq_true' _ ▸ Bool.eq_false_iff.mpr accepted.2
      · rfl

theorem measure : Keeps s t.measure.2 := h.freeBytes 33
theorem attest : Keeps s t.attest := h.elseStep fun x => (x.measure.modBoot _).setFlag _ _

theorem putBoot (off : Nat) (v : W64) : Keeps s (t.putBoot off v) := by
  unfold State.putBoot
  split
  · dsimp only
    split
    · exact h.thenStep fun x => x.clrFails _
    · exact h.restartWarm _ _
    · exact h.restartCold _ _
    · exact h
  · split
    · exact h.thenStep fun y => y.qspiGo _ _
    · split
      · exact h.thenStep fun z => z.keyGo _ _ _
      · exact (h.thenStep fun w => w.attest).branch (h.elseStep fun x₁ => x₁.plainWrite _ _)

theorem writeReg (off : Nat) (v : W64) : Keeps s (t.writeReg off v) := (h.putBoot _ _).branch (h.putReg _ _)

/-! ### Windows of BAR2 -/

theorem complete (bs : List (Option Byte)) (poisoned : Bool) : Keeps s (t.complete bs poisoned) :=
  (h.freeBytes bs.length).emit _

theorem regRead (off size : Nat) : Keeps s (t.regRead off size) :=
  ((h.readBar _ _).emit _).branch ((h.barErr _ _).emit _)

theorem regWrite (off size : Nat) (data : List Byte) : Keeps s (t.regWrite off size data) := by
  unfold State.regWrite
  split
  · exact h.byHost _ (fun _ hu => hu.barWrite _ _ _ (fun _ hv _ _ => hv.writeReg _ _))
  · exact h.barErr _ _

theorem hostCells (fs : EccFinds) (k : Nat) (cells : List Nat) : Keeps s (State.hostCells fs k cells t).2 := by
  induction cells generalizing k t with
  | nil => exact h
  | cons c cells ih => exact ih (h.readCells [c] 0 (fs.at_ k)) _

theorem hostWords (fs : EccFinds) (k : Nat) (words : List Nat) : Keeps s (State.hostWords fs k words t).2 := by
  induction words generalizing k t with
  | nil => exact h
  | cons a words ih => exact ih (h.wblRead _ _) _

theorem bar2Read (w : Nat) (x : Nat) (a : Nat) (size : Nat) (finds : EccFinds) :
    Keeps s (t.bar2Read w x a size finds) := by
  unfold State.bar2Read
  cases t.target a size with
  | regs => exact h.regRead _ _
  | galley =>
    have read := h.hostCells finds 0 (unitsOf 256 (a - 0x80000000) size)
    generalize State.hostCells finds 0 (unitsOf 256 (a - 0x80000000) size) t = x at read ⊢
    obtain ⟨bad, v⟩ := x
    exact read.complete _ _
  | slugs => exact (h.freeBytes 1).complete _ _
  | ledger => exact h.complete _ _
  | waybills =>
    have read := h.hostWords finds 0 ((unitsOf 8 (a - 0x300000000) size).map (8 * ·))
    generalize State.hostWords finds 0 ((unitsOf 8 (a - 0x300000000) size).map (8 * ·)) t = x at read ⊢
    obtain ⟨bs, v⟩ := x
    exact read.emit _
  | ddr =>
    have read := h.ddrRead 3 a size finds
    dsimp only
    split
    next e => exact (read.ofPair e).emit _
    next e => exact (read.ofPair e).complete _ _
  | unmapped => exact (h.winRefused _ _ _ _).emit _

theorem bar2Write (w x a size : Nat) (data : List Byte) (finds : EccFinds) :
    Keeps s (t.bar2Write w x a size data finds) := by
  unfold State.bar2Write
  split
  · exact h.regWrite _ _ _
  · exact h.wblWrite _ _ _ _
  · exact h.ddrWrite _ _ _ _
  · exact (h.winRefused _ _ _ _).emit _
  · exact (h.winRefused _ _ _ _).emit _

/-! ### The clock -/

theorem modLedger (g : LedgerUnit → LedgerUnit) : Keeps s (t.modLedger g) := h.withLedger _
theorem putBuffer (at_ : Nat) (bs : List Byte) : Keeps s (t.putBuffer at_ bs) := h.modLedger _
theorem setMicro (n : Nat) (v : W64) : Keeps s (t.setMicro n v) := (h.putBuffer _ _).branch (h.modLedger _)

theorem microMem (op bank : Nat) (addr : W64) : Keeps s (t.microMem op bank addr) := by
  unfold State.microMem
  split
  · exact h.putBuffer _ _
  · exact h

theorem microStep : Keeps s t.microStep := by
  unfold State.microStep
  refine (microMem ?_ _ _ _).modLedger _
  split
  · exact (h.takeFree 64).setMicro _ _
  · exact h.takeFree 64

theorem keeperRun (n budget : Nat) : Keeps s (State.keeperRun n budget t) := by
  induction n generalizing budget t with
  | zero => exact h
  | succ n ih =>
    rw [State.keeperRun]
    exact (h.modLedger _).branch (ih (h.microStep.modLedger _) _)

theorem keeperTickRun : Keeps s t.keeperTickRun := h.thenStep fun x => x.keeperRun _ _

theorem sleepsEnd : Keeps s t.sleepsEnd := by
  unfold State.sleepsEnd
  refine fold h fun _ hu _ => ?_
  split
  · exact hu.setFld _ _
  · exact hu.setFld _ _
  · exact hu

theorem idle : Keeps s t.idle := h.thenStep fun x => x.tbCycle.sleepsEnd.changeTick.keeperTickRun

end
end Keeps
end Sys2Proof.Machine
end

section
/-! What each command keeps: the operations that it is made of, in their order. -/

namespace Sys2Proof.Machine

set_option Elab.async false

namespace Keeps

variable {s t u : State}
section
variable (h : Keeps s t)
include h

/-! ### DDR -/

theorem execDdrRequest (requester : BitVec 6) (write : Bool) (addr : BitVec 40) (len : Fin 4097) (data : List Byte)
    (finds : EccFinds) : KeepsOut s (execDdrRequest requester write addr len data finds t) := by
  unfold Machine.execDdrRequest
  refine Keeps.out ?_
  split
  · exact h
  · split
    · exact h.ddrWrite _ _ _ _
    · split
      next e => exact ((h.ddrRead _ _ _ _).ofPair e).emit _
      next e => exact (((h.ddrRead _ _ _ _).ofPair e).freeBytes len.val).emit _

theorem execDdrFreqChange (set : Fin 2) : KeepsOut s (execDdrFreqChange set t) :=
  (h.byHost _ (fun _ hu => (hu.setFld _ _).ddrFreqGo _)).out

theorem execRefreshInterval (rank : Fin 4) (blocked : BitVec 4) : KeepsOut s (execRefreshInterval rank blocked t) :=
  (h.elseStep fun x => fold x fun _ hu _ => (hu.withDdr _).thenStep fun y => y.count _).out

theorem execScrubStep (ecc : EccRead) (overtaken : Bool) : KeepsOut s (execScrubStep ecc overtaken t) := by
  unfold Machine.execScrubStep
  refine Keeps.out ?_
  split
  · exact h
  · refine into ?_ fun k => ((k.withDdr _).raiseG _ _).branch (k.withDdr _)
    split
    · exact h.ddrUncorrectable _ _
    · split
      · exact h
      · exact (h.ddrCorrected _).count _
      · exact h.ddrUncorrectable _ _

theorem execDdrTempReport (sub : Fin 4) (rank : Fin 2) (hot : Bool) :
    KeepsOut s (execDdrTempReport sub rank hot t) :=
  (((h.withDdr _).setFld _ _).thenStep fun x => x.raiseG _ _).out

theorem execRankPowerDown (rank : Fin 4) : KeepsOut s (execRankPowerDown rank t) :=
  (h.thenStep fun x => x.withDdr _).out

theorem execRankSelfRefresh (rank : Fin 4) : KeepsOut s (execRankSelfRefresh rank t) :=
  (h.thenStep fun x => x.withDdr _).out

/-! ### The Archive -/

theorem execCaptureServe (ecc : EccRead) (finds : EccFinds) : KeepsOut s (execCaptureServe ecc finds t) := by
  unfold Machine.execCaptureServe
  refine Keeps.out ?_
  split
  · exact h
  · split
    · exact h.capPop
    · split
      · exact h
      · dsimp only
        have charged := h.capCharge
        split
        · exact ((charged _ _).loseRecord _ _ _).capPop
        · split
          · exact (charged _ _).capWrite _ _ _ _
          · have asked : ∀ sel rlen, Keeps s ((t.capCharge sel rlen).2.request 0x10 false false []).2.2.2 :=
              fun sel rlen => (charged sel rlen).request 0x10 false false []
            split
            next e =>
              exact ((ofTriple (x := Prod.snd _) (asked _ _) (congrArg Prod.snd e)).modArc _).capWrite _ _ _ _
            next e => exact (ofTriple (x := Prod.snd _) (asked _ _) (congrArg Prod.snd e)).capNone
            · exact h

theorem execTrigInEdge : KeepsOut s (execTrigInEdge t) := (h.elseStep fun x => (x.modArc _).trigger _ _ _).out
theorem execEventEndPass : KeepsOut s (execEventEndPass t) := (h.modArc _).out

theorem execPageProgramDone (ok : Bool) (finds : EccFinds) : KeepsOut s (execPageProgramDone ok finds t) :=
  (h.drainPage _ _ _).keepAllErased.out

theorem execCheckpointTimer (finds : EccFinds) : KeepsOut s (execCheckpointTimer finds t) :=
  (h.elseStep fun x => (x.drainPage _ _ _).writeCheckpoint).out

theorem execEventClose : KeepsOut s (execEventClose t) := by
  unfold Machine.execEventClose
  refine Keeps.out ?_
  split
  · exact h.thenStep fun x => x.closeEvent
  · exact h

theorem execArcEnable (formatted : Bool) (dies : List (Fin 128 × DieParams)) :
    KeepsOut s (execArcEnable formatted dies t) :=
  (h.byHost _ (fun _ hu => hu.arcOn _ _)).out

theorem execArcDisable : KeepsOut s (execArcDisable t) := (h.byHost _ (fun _ hu => hu.arcStop)).out
theorem execArcFormat : KeepsOut s (execArcFormat t) := (h.byHost _ (fun _ hu => hu.arcErase)).out

theorem execFormatDone (badBlocks : List Nat) (dies : List (Fin 128 × DieParams)) :
    KeepsOut s (execFormatDone badBlocks dies t) :=
  (h.elseStep fun x => ((x.eraseStore _ _).setFld _ _).arcUnavailable.branch
    (((x.eraseStore _ _).setFld _ _).writeCheckpoint.setArcState _)).out

theorem execArcRecoveryDone (rootBad : BitVec 2) (reads : List (Nat × NandRead)) (rereads : List (Nat × NandRead)) :
    KeepsOut s (execArcRecoveryDone rootBad reads rereads t) :=
  (h.elseStep fun x => x.recovered _ _ _).out

theorem execKeepSet (keep : Bool) : KeepsOut s (execKeepSet keep t) := (h.byHost _ (fun _ hu => hu.putKeep _)).out

theorem execBlockEraseDone (block : Nat) (ok : Bool) : KeepsOut s (execBlockEraseDone block ok t) :=
  (h.elseStep fun x => (x.retireBlock _ _).keepAllErased.branch (x.blockErased _)).out

theorem execNandPatrolRead (r : NandRead) : KeepsOut s (execNandPatrolRead r t) := by
  unfold Machine.execNandPatrolRead
  refine Keeps.out ?_
  split
  · exact h
  · split
    · exact h.elseStep fun x => (x.modArc _).raiseG _ _
    · dsimp only
      split
      · exact (h.modArc _).thenStep fun y => y.relocateBlock _ _
      · exact (h.modArc _).relocateBlock _ _
      · exact ((h.modArc _).count _).relocateBlock _ _
      · exact (((h.modArc _).count _).raiseG _ _).relocateBlock _ _

/-! ### Ports -/

theorem execMergeVerifyTimer (p : Port) : KeepsOut s (execMergeVerifyTimer p t) :=
  (h.thenStep fun x => ((x.setPort _ _).emit _).branch (x.setMerge _ _)).out

theorem execMergeRespond (p : Port) : KeepsOut s (execMergeRespond p t) := (h.thenStep fun x => x.setMerge _ _).out

theorem execPcsLockLoss (p : Port) (lock localFault remoteFault : Bool) :
    KeepsOut s (execPcsLockLoss p lock localFault remoteFault t) :=
  (((((h.setFlag _ _).setFlag _ _).setFlag _ _).elseStep fun x => x.lostSignal _).elseStep fun y => y.setPort _
    _).out

theorem execPcsLockGain (p : Port) : KeepsOut s (execPcsLockGain p t) :=
  (h.elseStep fun x => (((((x.setFlag _ _).setFlag _ _).setFlag _ _).setSignal _ _).setFlag _ _).setPort _ _).out

theorem execLinkUp (p : Port) : KeepsOut s (execLinkUp p t) :=
  (h.thenStep fun x => ((((x.setFlag _ _).setFlag _ _).setPort _ _).setFlag _ _).raisePort _ _).out

theorem execLaneModeInForce (p : Port) : KeepsOut s (execLaneModeInForce p t) :=
  (h.thenStep fun x => ((x.setFld _ _).setFlag _ _).setPort _ _).out

theorem execRegionTrainingStart (r : Region) : KeepsOut s (execRegionTrainingStart r t) :=
  (fold h fun _ hu _ => hu.elseStep fun x => ((x.setFld _ _).setFlag _ _).setPort _ _).out

theorem execHiBerChange (p : Port) (on : Bool) : KeepsOut s (execHiBerChange p on t) :=
  ((h.setFlag _ _).thenStep fun x => x.raisePort _ _).out

theorem execFecCodeword (p : Port) (corrected : Bool) : KeepsOut s (execFecCodeword p corrected t) :=
  ((h.count _).branch (((h.count _).setPort _ _).raisePort _ _)).out

theorem execFrameStart (p : Port) : KeepsOut s (execFrameStart p t) := (h.elseStep fun x => x.startFrame _).out

theorem execFrameBytesArrive (p : Port) (bytes : List Byte) : KeepsOut s (execFrameBytesArrive p bytes t) :=
  (h.takeBytes _ _).out

theorem execPdelayResponse (p : Port) : KeepsOut s (execPdelayResponse p t) := by
  unfold Machine.execPdelayResponse
  refine Keeps.out ?_
  split
  · exact h
  · split
    · exact ((h.pdelayBuild _ _ _).ofPair.setPort _ _).count _
    · exact (h.pdelayBuild _ _ _).ofPair

/-! ### The Ledger -/

theorem execLearnRequest (bad : ParityBad) : KeepsOut s (execLearnRequest bad t) := (h.keeperThrough _ _).out

theorem execParityInvalidate (table : Fin 6) (addr : BitVec 18) : KeepsOut s (execParityInvalidate table addr t) :=
  (h.thenStep fun x => x.keeperThrough _ _).out

theorem execAgeingStep (bad : ParityBad) : KeepsOut s (execAgeingStep bad t) :=
  (h.elseStep fun x => (x.agedPast _).elseStep fun y => (y.parityHit _ _).branch (y.elseStep fun z => z.ageEntry
    _)).out

/-! ### The Watchlist -/

theorem execMaintWrite (shadow : EccRead) : KeepsOut s (execMaintWrite shadow t) := by
  unfold Machine.execMaintWrite
  refine Keeps.out ?_
  split
  · exact h
  · dsimp only
    split
    · exact (h.modWatch _).steal.writeLine _ _
    · exact (h.modWatch _).steal.writeDir _ _ _ _

theorem execScanStart : KeepsOut s (execScanStart t) := by
  unfold Machine.execScanStart
  refine Keeps.out ?_
  dsimp only
  split
  · exact h
  · exact ((h.modWatch _).setEngine _ _).withPwr _

theorem execScanDone (engine : Fin 42) (badLine : Option (BitVec 17)) :
    KeepsOut s (execScanDone engine badLine t) := by
  unfold Machine.execScanDone
  refine Keeps.out ?_
  split
  · exact h
  · split
    · exact h
    · extract_lets d res scanned counted hit checked
      have hchecked : Keeps s checked := by
        have hhit : Keeps s hit := (((h.setEngine _ _).countN _ _).count _).thenStep fun x => x.count _
        unfold checked
        split
        · exact (((hhit.count _).raiseG _ _).fault _ _ _ _).queueRepair _ _
        · exact hhit
      split
      · exact hchecked.setSlot _ _ _
      · exact hchecked

theorem execWchPatrolStep (differs : Bool) (shadow : EccRead) :
    KeepsOut s (execWchPatrolStep differs shadow t) := by
  unfold Machine.execWchPatrolStep
  refine Keeps.out ?_
  split
  · exact h
  · extract_lets item mine checked
    clear_value mine
    have hchecked : Keeps s checked := by
      unfold checked
      split
      · exact h
      · have read := h.ddrRead 2 (t.shadowAddr item) mine.length [(0, shadow)]
        split
        next e => exact (read.ofPair e).thenStep fun x => ((x.count _).raiseG _ _).queueRepair _ _
        next e => exact read.ofPair e
    exact (hchecked.modWatch _).branch ((hchecked.modWatch _).raiseG _ _)

theorem execWchRepair (line : BitVec 17) (shadow : EccRead) : KeepsOut s (execWchRepair line shadow t) := by
  unfold Machine.execWchRepair
  refine Keeps.out ?_
  split
  · exact h
  · dsimp only
    split
    · exact ((((h.modWatch _).ddrRead _ _ _ _).ofPair.steal.count _).wchLog _ _).into fun k => (k.modWatch _).branch
        (k.setDir _ _ _)
    · exact (((h.modWatch _).ddrRead _ _ _ _).ofPair.modWatch _).into fun k₁ =>
        ((((k₁.rebreak _).branch (k₁.setDir _ _ _)).wchLog _ _).raiseG _ _).fault _ _ _ _

theorem execWatchlistEngineSleep (engine : Fin 42) : KeepsOut s (execWatchlistEngineSleep engine t) :=
  (h.thenStep fun x => x.withPwr _).out

/-! ### Waybills -/

theorem execWblHostWrite (addr : BitVec 22) (size : Fin 17) (data : W64) (bad : Bool) :
    KeepsOut s (execWblHostWrite addr size data bad t) :=
  ((h.emit _).branch (h.wblWrite _ _ _ _)).out

theorem execWblHostRead (addr : BitVec 22) (wide bad : Bool) : KeepsOut s (execWblHostRead addr wide bad t) :=
  (h.hostRead (fun _ hu => (hu.wblRead _ _).emit _)).out

theorem execWblSnapshot (v : W32) (bad : Option (Fin 16)) : KeepsOut s (execWblSnapshot v bad t) :=
  (h.byHost _ (fun _ hu => hu.wblSnap _ _)).out

theorem execStickyClear (w : Fin 32768) (mask : BitVec 8) (bad : Option (Fin 16)) :
    KeepsOut s (execStickyClear w mask bad t) :=
  (h.byHost _ (fun _ hu => hu.stickyOp _ _ _ _ _)).out

theorem execClrBlocked (w : Fin 32768) (bad : Option (Fin 16)) : KeepsOut s (execClrBlocked w bad t) :=
  (h.byHost _ (fun _ hu => hu.stickyOp _ _ _ _ _)).out

theorem execClrQual (w : Fin 32768) (bad : Option (Fin 16)) : KeepsOut s (execClrQual w bad t) :=
  (h.byHost _ (fun _ hu => hu.stickyOp _ _ _ _ _)).out

theorem execMeterClr (m : Fin 4096) : KeepsOut s (execMeterClr m t) := (h.byHost _ (fun _ hu => hu.clrMeter _)).out

theorem execEvlogPop : KeepsOut s (execEvlogPop t) :=
  (h.hostRead (fun _ hu => by
      split
      · exact hu.emit _
      · exact (hu.modWbl _).emit _)).out

theorem execWblPatrolVisit (bad : Option (Fin 8)) : KeepsOut s (execWblPatrolVisit bad t) := by
  unfold Machine.execWblPatrolVisit
  refine Keeps.out ?_
  refine into ?_ fun k => (k.modWbl _).branch ((k.modWbl _).count _)
  split
  · exact (h.wrepair _).elseStep fun x => x.wparity _ _
  · exact (h.wrepair _).elseStep fun y => (y.wstamps _).branch (y.elseStep fun z => z.wtests _)

theorem execWblStateRepair (w : Fin 32768) : KeepsOut s (execWblStateRepair w t) := (h.wrepair _).out

theorem execPerTagTableWrite (off : BitVec 26) (wide : Bool) (data : W64) :
    KeepsOut s (execPerTagTableWrite off wide data t) :=
  (h.byHost _ (fun _ hu => hu.barWrite _ _ _ (fun _ hv _ _ => hv.putTagTable _ _))).out

/-! ### Compositors -/

theorem issue (f : Fetch) (cycles : Nat) (body : CompState → Frame → Machine.Flow × CompState) :
    KeepsOut s (t.issue f cycles body) :=
  (h.issueOn _ (fun _ hu _ _ => hu)).out

theorem issueSeq (f : Fetch) (cycles : Nat) (body : CompState → Frame → CompState) :
    KeepsOut s (t.issueSeq f cycles body) :=
  h.issue _ _ _

theorem execAlu (f : Fetch) (func : BitVec 5) (rd rs1 rs2 : GReg) : KeepsOut s (execAlu f func rd rs1 rs2 t) :=
  h.issueSeq _ _ _

theorem execAlui (f : Fetch) (func : BitVec 5) (rd rs1 : GReg) (imm : BitVec 38) :
    KeepsOut s (execAlui f func rd rs1 imm t) :=
  h.issueSeq _ _ _

theorem execMovhi (f : Fetch) (rd rs1 : GReg) (imm : BitVec 32) : KeepsOut s (execMovhi f rd rs1 imm t) :=
  h.issueSeq _ _ _

theorem execMul (f : Fetch) (rd rs1 rs2 : GReg) : KeepsOut s (execMul f rd rs1 rs2 t) := h.issueSeq _ _ _
theorem execMfs (f : Fetch) (rd : GReg) (spec : BitVec 5) : KeepsOut s (execMfs f rd spec t) := h.issue _ _ _
theorem execMts (f : Fetch) (spec : BitVec 5) (rs1 : GReg) : KeepsOut s (execMts f spec rs1 t) := h.issueSeq _ _ _

theorem execExt (f : Fetch) (rd rs1 : GReg) (scratch : Bool) (off : BitVec 14) (bit : BitVec 3) (wm1 : BitVec 6)
    (sx : Bool) : KeepsOut s (execExt f rd rs1 scratch off bit wm1 sx t) :=
  h.issue _ _ _

theorem execIns (f : Fetch) (rs1 rs2 : GReg) (off : BitVec 14) (bit : BitVec 3) (wm1 : BitVec 6) :
    KeepsOut s (execIns f rs1 rs2 off bit wm1 t) :=
  h.issueSeq _ _ _

theorem execSetc (f : Fetch) (rs1 : GReg) (imm : BitVec 14) : KeepsOut s (execSetc f rs1 imm t) := h.issueSeq _ _ _
theorem execAdvc (f : Fetch) (rs1 : GReg) (imm : BitVec 14) : KeepsOut s (execAdvc f rs1 imm t) := h.issueSeq _ _ _

theorem execBr (f : Fetch) (cond : BitVec 3) (rs1 rs2 : GReg) (disp : BitVec 14) :
    KeepsOut s (execBr f cond rs1 rs2 disp t) :=
  h.issue _ _ _

theorem execBri (f : Fetch) (cond : BitVec 3) (rs1 : GReg) (imm : BitVec 16) (disp : BitVec 14) :
    KeepsOut s (execBri f cond rs1 imm disp t) :=
  h.issue _ _ _

theorem execJmp (f : Fetch) (disp : BitVec 14) : KeepsOut s (execJmp f disp t) := h.issue _ _ _

theorem execJtab (f : Fetch) (rs1 : GReg) (nmax : BitVec 8) (disp : BitVec 14) :
    KeepsOut s (execJtab f rs1 nmax disp t) :=
  h.issue _ _ _

theorem issueLoop (f : Fetch) (count : CompState → Nat) (len : BitVec 14) : KeepsOut s (t.issueLoop f count len) :=
  (h.issueOn _ (fun _ hu _ _ => hu)).out

theorem execLoop (f : Fetch) (count : BitVec 7) (len : BitVec 14) : KeepsOut s (execLoop f count len t) :=
  h.issueLoop _ _ _

theorem execLoopr (f : Fetch) (rs1 : GReg) (count : BitVec 7) (len : BitVec 14) :
    KeepsOut s (execLoopr f rs1 count len t) :=
  h.issueLoop _ _ _

theorem execEnd (f : Fetch) : KeepsOut s (execEnd f t) := by
  unfold Machine.execEnd
  refine Keeps.out ?_
  exact (h.issueOn _ (fun _ hu _ _ => hu)).into fun k => by
    dsimp only
    split
    · split
      · exact ((k.discardLookups _).setComp _ _).count _
      · split
        · exact ((k.discardLookups _).setComp _ _).count _
        · exact ((((k.discardLookups _).setComp _ _).count _).endLost _ _).branch
            ((((k.discardLookups _).setComp _ _).count _).setFrame _ _)
    · exact k

theorem execPmRepairDone (k : Case) : KeepsOut s (execPmRepairDone k t) := (h.setCase _ _).out

theorem execWatchdog (c : Comp) : KeepsOut s (execWatchdog c t) := by
  unfold Machine.execWatchdog
  refine Keeps.out ?_
  dsimp only
  split
  · exact h
  · exact h.thenStep fun x => x.watchdogDrop _

/-! ### What compositors decide -/

theorem lki (f : Fetch) (tag : BitVec 3) (req : CompState → LookupReq) : KeepsOut s (t.lki f tag req) :=
  h.issueSeq _ _ _

theorem execLkiL2dst (f : Fetch) (tag : BitVec 3) (rs1 : GReg) : KeepsOut s (execLkiL2dst f tag rs1 t) :=
  h.lki _ _ _

theorem execLkiL2src (f : Fetch) (tag : BitVec 3) (rs1 : GReg) : KeepsOut s (execLkiL2src f tag rs1 t) :=
  h.lki _ _ _

theorem execLkiIpv4 (f : Fetch) (tag : BitVec 3) (rs1 : GReg) : KeepsOut s (execLkiIpv4 f tag rs1 t) := h.lki _ _ _

theorem execLkiIpv6 (f : Fetch) (tag : BitVec 3) (rs1 rs2 : GReg) : KeepsOut s (execLkiIpv6 f tag rs1 rs2 t) :=
  h.lki _ _ _

theorem execLkiRule (f : Fetch) (tag : BitVec 3) (rs1 : GReg) (arg : BitVec 11) :
    KeepsOut s (execLkiRule f tag rs1 arg t) :=
  h.issueSeq _ _ _

theorem execLkiFork (f : Fetch) (tag : BitVec 3) (rs1 : GReg) (table : BitVec 6) :
    KeepsOut s (execLkiFork f tag rs1 table t) :=
  h.lki _ _ _

theorem execLkiWatch (f : Fetch) (tag : BitVec 3) (rs2 : GReg) (set : BitVec 8) :
    KeepsOut s (execLkiWatch f tag rs2 set t) :=
  (h.issueOn _ (fun _ hu _ _ => by
      dsimp only
      split
      · exact hu
      · split
        · exact hu
        · split
          · exact (hu.count _).raiseG _ _
          · dsimp only
            exact hu.modWatch _)).out

theorem execLookupComplete (c : Comp) (tag : BitVec 3) (parityBad : Bool) :
    KeepsOut s (execLookupComplete c tag parityBad t) := by
  unfold Machine.execLookupComplete
  refine Keeps.out ?_
  dsimp only
  split
  · exact (h.lookupResult _ _ _).setComp _ _
  · exact h

theorem execLkw (f : Fetch) (rd : GReg) (tag : BitVec 3) (bm : Bool) (disp : BitVec 14) :
    KeepsOut s (execLkw f rd tag bm disp t) :=
  h.issue _ _ _

theorem execHini (f : Fetch) (alg : Bool) (key : BitVec 2) (seed : BitVec 32) :
    KeepsOut s (execHini f alg key seed t) :=
  h.issueSeq _ _ _

theorem execHacc (f : Fetch) (rs1 : GReg) (nm1 : BitVec 3) : KeepsOut s (execHacc f rs1 nm1 t) := h.issueSeq _ _ _

theorem execHacf (f : Fetch) (rs1 : GReg) (off : BitVec 14) (nm1 : BitVec 6) :
    KeepsOut s (execHacf f rs1 off nm1 t) :=
  h.issue _ _ _

theorem execHfin (f : Fetch) (rd : GReg) : KeepsOut s (execHfin f rd t) := h.issueSeq _ _ _

theorem execBerx (f : Fetch) (rd : GReg) (any : Bool) (btag : BitVec 8) (disp : BitVec 14) (skip : Bool) :
    KeepsOut s (execBerx f rd any btag disp skip t) :=
  (h.issueOn _ (fun _ hu _ _ => by
      split
      · exact hu
      · dsimp only
        split
        · exact hu
        · split
          · exact hu
          · split
            · exact hu
            · split
              · exact hu
              · refine ?_
                split
                · exact hu.takeFree 24
                · exact hu)).out

theorem execAsdu (f : Fetch) (rd : GReg) (fld : BitVec 4) (rs2 : GReg) (disp : BitVec 14) :
    KeepsOut s (execAsdu f rd fld rs2 disp t) :=
  (h.issueOn _ (fun _ hu _ _ => by
      dsimp only
      split
      · exact hu
      · exact hu
      · split
        · exact hu
        · exact (hu.takeFree (8 * ((asduField fld.toNat).bind Prod.snd).getD 8)))).out

theorem wbop (f : Fetch) (tag : BitVec 3) (rs1 : GReg) {op : State → Nat → OpCtx → CompState → Nat × W64 × State}
    (step : ∀ u, Keeps s u → ∀ i x cs, Keeps s (op u i x cs).2.2) : KeepsOut s (t.wbop f tag rs1 op) :=
  (h.issueOn f fun u hu _ _ => step u hu _ _ _).out

theorem execWbopRead (f : Fetch) (tag : BitVec 3) (rs1 : GReg) (word : Fin 8) (bad : Option (Fin 16)) :
    KeepsOut s (execWbopRead f tag rs1 word bad t) :=
  h.wbop _ _ _ (fun _ hu _ _ _ => hu.wRead _ _ _)

theorem execWbopAdd (f : Fetch) (tag : BitVec 3) (rs1 rs2 : GReg) (word : Fin 8) (bad : Option (Fin 16)) :
    KeepsOut s (execWbopAdd f tag rs1 rs2 word bad t) :=
  h.wbop _ _ _ (fun _ hu _ _ _ => hu.wAdd _ _ _ _)

theorem execDupchk (f : Fetch) (tag : BitVec 3) (rs1 rs2 : GReg) (bad : Option (Fin 16)) :
    KeepsOut s (execDupchk f tag rs1 rs2 bad t) :=
  h.wbop _ _ _ (fun _ hu _ _ _ => hu.wDupchk _ _ _ _)

theorem execSvchk (f : Fetch) (tag : BitVec 3) (rs1 rs2 : GReg) (bad : Option (Fin 16)) :
    KeepsOut s (execSvchk f tag rs1 rs2 bad t) :=
  h.wbop _ _ _ (fun _ hu _ _ _ => hu.wSvchk _ _ _ _)

theorem execGschk (f : Fetch) (tag : BitVec 3) (rs1 rs2 : GReg) (bad : Option (Fin 16)) :
    KeepsOut s (execGschk f tag rs1 rs2 bad t) :=
  h.wbop _ _ _ (fun _ hu _ _ _ => hu.wGschk _ _ _ _)

theorem execMeter (f : Fetch) (tag : BitVec 3) (rs1 rs2 : GReg) (bad : Option (Fin 16)) :
    KeepsOut s (execMeter f tag rs1 rs2 bad t) :=
  h.wbop _ _ _ (fun _ hu _ _ _ => hu.wMeter _ _ _ _)

theorem execWbind (f : Fetch) (rs1 : GReg) : KeepsOut s (execWbind f rs1 t) := h.issueSeq _ _ _
theorem execDlvDrop (f : Fetch) : KeepsOut s (execDlvDrop f t) := h.issueSeq _ _ _

theorem execDlvFwd (f : Fetch) (imm : Bool) (port : BitVec 7) (rs1 : GReg) :
    KeepsOut s (execDlvFwd f imm port rs1 t) :=
  h.issueSeq _ _ _

theorem execDlvMcast (f : Fetch) (rs1 rs2 : GReg) (excl : Bool) : KeepsOut s (execDlvMcast f rs1 rs2 excl t) :=
  h.issueSeq _ _ _

theorem execDlvFork (f : Fetch) (table : BitVec 6) (rs1 : GReg) : KeepsOut s (execDlvFork f table rs1 t) :=
  h.issueSeq _ _ _

theorem execDlvPunt (f : Fetch) (reason : BitVec 8) : KeepsOut s (execDlvPunt f reason t) := h.issueSeq _ _ _
theorem execDlvSecond (f : Fetch) (entry : BitVec 6) : KeepsOut s (execDlvSecond f entry t) := h.issueSeq _ _ _

theorem execQsel (f : Fetch) (imm : Bool) (qoff : BitVec 7) (rs1 : GReg) : KeepsOut s (execQsel f imm qoff rs1 t) :=
  h.issueSeq _ _ _

theorem execSideMirror (f : Fetch) (session : BitVec 4) : KeepsOut s (execSideMirror f session t) :=
  h.issueSeq _ _ _

theorem execSideCapmark (f : Fetch) (selector : BitVec 8) : KeepsOut s (execSideCapmark f selector t) :=
  h.issueSeq _ _ _

theorem execSideCaptrig (f : Fetch) (cause : BitVec 8) : KeepsOut s (execSideCaptrig f cause t) := h.issueSeq _ _ _
theorem execSideTstamp (f : Fetch) (ident : BitVec 8) : KeepsOut s (execSideTstamp f ident t) := h.issueSeq _ _ _

theorem edit (f : Fetch) (eop off : Nat) (value : CompState → W64) : KeepsOut s (t.edit f eop off value) :=
  h.issueSeq _ _ _

theorem execEditVpush (f : Fetch) (rs1 : GReg) : KeepsOut s (execEditVpush f rs1 t) := h.edit _ _ _ _
theorem execEditVpop (f : Fetch) : KeepsOut s (execEditVpop f t) := h.edit _ _ _ _
theorem execEditVswap (f : Fetch) (rs1 : GReg) : KeepsOut s (execEditVswap f rs1 t) := h.edit _ _ _ _

theorem execEditHsrIns (f : Fetch) (rs1 : GReg) (path : BitVec 4) : KeepsOut s (execEditHsrIns f rs1 path t) :=
  h.edit _ _ _ _

theorem execEditHsrRem (f : Fetch) : KeepsOut s (execEditHsrRem f t) := h.edit _ _ _ _

theorem execEditPrpAdd (f : Fetch) (rs1 : GReg) (lan : BitVec 14) : KeepsOut s (execEditPrpAdd f rs1 lan t) :=
  h.edit _ _ _ _

theorem execEditPrpStrip (f : Fetch) : KeepsOut s (execEditPrpStrip f t) := h.edit _ _ _ _
theorem execEditMacDa (f : Fetch) (rs1 : GReg) : KeepsOut s (execEditMacDa f rs1 t) := h.edit _ _ _ _
theorem execEditMacSa (f : Fetch) (rs1 : GReg) : KeepsOut s (execEditMacSa f rs1 t) := h.edit _ _ _ _
theorem execEditTtlDec (f : Fetch) (off : BitVec 14) : KeepsOut s (execEditTtlDec f off t) := h.edit _ _ _ _
theorem execEditPtpCf (f : Fetch) (off : BitVec 14) : KeepsOut s (execEditPtpCf f off t) := h.edit _ _ _ _

/-! ### The host interface -/

theorem execDmaChStart (c : Chan) : KeepsOut s (execDmaChStart c t) := (h.byHost _ (fun _ hu => hu.chanStart _)).out
theorem execDmaChStop (c : Chan) : KeepsOut s (execDmaChStop c t) := (h.byHost _ (fun _ hu => hu.chanStop _)).out
theorem execRingEnable (k : Ring) : KeepsOut s (execRingEnable k t) := (h.byHost _ (fun _ hu => hu.ringOn _)).out
theorem execRingDisable (k : Ring) : KeepsOut s (execRingDisable k t) := (h.byHost _ (fun _ hu => hu.ringOff _)).out
theorem execDmaRingDb (k : Ring) : KeepsOut s (execDmaRingDb k t) := (h.byHost _ (fun _ hu => hu.ringBell _)).out

theorem execDescWord1Read (k : Ring) (w : W64) : KeepsOut s (execDescWord1Read k w t) :=
  (h.elseStep fun x => (x.injectFinish _ _).branch (x.thenStep fun y => y.word1Arrived _ _)).out

theorem execTxFrameInject (k : Ring) (d : Desc) (data : List Byte) : KeepsOut s (execTxFrameInject k d data t) :=
  (h.elseStep fun x => (x.descError _ _).branch ((x.descDone _ _ _ _ _ _).branch ((x.descDone _ _ _ _ _ _).branch
    ((x.descDone _ _ _ _ _ _).branch ((x.descHostError _ _ _).branch ((((x.newFrame _).setInjecting _ _).injectCells
      _ _ _).injectFinish _ _)))))).out

theorem execDmaPoolRetry (k : Ring) : KeepsOut s (execDmaPoolRetry k t) := (h.injectCells _ _ _).out

theorem execRxFrameDeliver (k : Ring) (d : Desc) : KeepsOut s (execRxFrameDeliver k d t) := by
  unfold Machine.execRxFrameDeliver
  refine Keeps.out ?_
  split
  · exact h
  · split
    · exact h
    · split
      · exact h.descError _ _
      · split
        · exact h.setPuntQueue _ _
        · exact (((h.emit _).setPuntQueue _ _).descDone _ _ _ _ _ _).release _ _

theorem execDmaCopy (k : Ring) (d : Desc) (data : List Byte) (finds : EccFinds) :
    KeepsOut s (execDmaCopy k d data finds t) :=
  (h.elseStep fun x => (x.descError _ _).branch ((x.descDone _ _ _ _ _ _).branch
    (((x.descHostError _ _ _).branch ((x.ddrWrite _ _ _ _).descDone _ _ _ _ _ _)).branch
      (((x.ddrReadTo _ _ _ _).elseStep fun y => y.emit _).descDone _ _ _ _ _ _)))).out

theorem execRxStreamDeliver (k : Ring) (d : Desc) (withdraw : Option (BitVec 16)) :
    KeepsOut s (execRxStreamDeliver k d withdraw t) := by
  unfold Machine.execRxStreamDeliver
  refine Keeps.out ?_
  split
  · exact h
  · exact h.elseStep fun x => (x.descError _ _).branch ((x.elseStep fun y => y.emit _).into fun k₁ =>
      ((k₁.setStreams _ _).descDone _ _ _ _ _ _).branch ((k₁.setStreams _ _).descDone _ _ _ _ _ _))

theorem execPerstNFall : KeepsOut s (execPerstNFall t) := (h.linkReset.withBoot _).out
theorem execPerstNRise : KeepsOut s (execPerstNRise t) := (h.withBoot _).out
theorem execHotReset : KeepsOut s (execHotReset t) := h.linkReset.out
theorem execPcieLinkDown : KeepsOut s (execPcieLinkDown t) := h.linkReset.out

theorem execPcieLinkUp (speed : Fin 5) (width : Fin 9) : KeepsOut s (execPcieLinkUp speed width t) :=
  (h.elseStep fun x => ((((x.setFld _ _).setFld _ _).modHost _).thenStep fun y => y.raiseG _ _).flushPba).out

theorem execFlr : KeepsOut s (execFlr t) := (((h.hostReset _).count _).raiseG _ _).out

theorem execBmeClear : KeepsOut s (execBmeClear t) :=
  (((h.abortAll _).modHost _).thenStep fun x => x.raiseG _ _).out

theorem execBmeSet (cfg : PcieConfig) : KeepsOut s (execBmeSet cfg t) := (h.modHost _).flushPba.out
theorem execD3hotEntry : KeepsOut s (execD3hotEntry t) := ((h.abortAll _).modHost _).out
theorem execD0Return : KeepsOut s (execD0Return t) := (h.modHost _).flushPba.out

theorem execFreezingError (bit : BitVec 5) (header : BitVec 128) : KeepsOut s (execFreezingError bit header t) :=
  (h.elseStep fun x => (x.aerError _ _).elseStep fun y => y.freeze.setFld _ _).out

theorem execFreezeRelease (cleared : W32) : KeepsOut s (execFreezeRelease cleared t) :=
  ((h.aerClear _).byHost _ (fun _ hu => hu.unfreeze)).out

theorem execCorrectableError (bit : BitVec 5) : KeepsOut s (execCorrectableError bit t) :=
  (((h.modHost _).count _).raiseG _ _).out

theorem execIrqHoldExpiry (k : Ring) : KeepsOut s (execIrqHoldExpiry k t) :=
  (h.elseStep fun x => (x.modHost _).thenStep fun y => y.ringSignal _).out

theorem execMsixUnmask (v : Fin 64) : KeepsOut s (execMsixUnmask v t) :=
  (h.byHost _ (fun _ hu => (hu.setFlag _ _).flushPba)).out

theorem execLateCompletion (tag : BitVec 10) : KeepsOut s (execLateCompletion tag t) :=
  (h.thenStep fun x => x.count _).out

theorem execTagQuarantineEnd (tag : BitVec 10) : KeepsOut s (execTagQuarantineEnd tag t) := (h.modHost _).out

theorem execBar0BadAccess (read : Bool) (off : BitVec 26) : KeepsOut s (execBar0BadAccess read off t) :=
  (h.hostRead (fun _ hu => (hu.barErr _ _).thenStep fun x => x.emit _)).out

theorem execWinEntryWrite (w : Fin 16) (wide : Bool) (data : W64) : KeepsOut s (execWinEntryWrite w wide data t) :=
  (h.byHost _ (fun _ hu => (hu.setReg _ _).branch (hu.barErr _ _))).out

theorem execWinEntryRead (w : Fin 16) : KeepsOut s (execWinEntryRead w t) :=
  (h.hostRead (fun _ hu => hu.emit _)).out

theorem execBarResize (log2 : Fin 37) : KeepsOut s (execBarResize log2 t) :=
  (h.elseStep fun x => fold (x.modHost _) fun _ hu _ => hu.setReg _ _).out

/-! ### The command queue -/

theorem execRingDoorbell (pi : BitVec 16) : KeepsOut s (execRingDoorbell pi t) :=
  (h.byHost _ (fun _ hu => hu.ringPi _)).out

theorem execRingBlockFetched (words : List W64) : KeepsOut s (execRingBlockFetched words t) :=
  (h.elseStep fun x => (x.fetchedBlock _).blockEnter _).out

theorem execI2cGo (words : List W32) : KeepsOut s (execI2cGo words t) :=
  (h.elseStep fun x => (x.mailboxWrite _).i2cGo).out

theorem execResultHeaderRead (source : Fin 130) : KeepsOut s (execResultHeaderRead source t) :=
  (h.hostRead (fun _ hu => (hu.emit _).thenStep fun x => x.setReg _ _)).out

/-! ### Power -/

theorem execCasePointIdle (k : Case) : KeepsOut s (execCasePointIdle k t) :=
  (h.elseStep fun x => (x.setCase _ _).setPoint _ _).out

theorem execRailConfirm (k : Case) (ok : Bool) : KeepsOut s (execRailConfirm k ok t) := by
  unfold Machine.execRailConfirm
  refine Keeps.out ?_
  dsimp only
  split
  · exact h
  · split
    · exact ((h.setCase _ _).setRail _ _).switchPoint _ _
    · exact ((h.setCase _ _).writeRail _ _).branch ((h.setCase _ _).raiseG _ _)

theorem execAvsTick (r : Region) (marginMv : Int) : KeepsOut s (execAvsTick r marginMv t) :=
  (h.elseStep fun x => ((x.modPwr _).elseStep fun y => ((y.raiseG _ _).fault _ _ _ _).refitAll).branch
    (((((x.modPwr _).setFld _ _).writeRail _ _).branch ((x.modPwr _).thenStep fun z => (z.setFld _ _).writeRail _
      _)).thenStep fun w => w.refitAll)).out

theorem execCaseSleep (k : Case) : KeepsOut s (execCaseSleep k t) := by
  unfold Machine.execCaseSleep
  refine Keeps.out ?_
  split
  · exact h
  · split
    · exact h.setFld _ _
    · exact h.setFld _ _
    · exact h

theorem execCapWrite (v : W32) : KeepsOut s (execCapWrite v t) := (h.byHost _ (fun _ hu => hu.putCap _)).out

theorem execPowerEstimate (tenths : BitVec 16) : KeepsOut s (execPowerEstimate tenths t) :=
  (((h.newEstimate _ _).thenStep fun x => x.countN _ _).thenStep fun y => y.countN _ _).out

theorem execPowerRecalibrate (vouts : List (BitVec 16)) (tenths : BitVec 16) :
    KeepsOut s (execPowerRecalibrate vouts tenths t) :=
  ((fold h fun _ hu _ => hu.setFld _ _).newEstimate _ _).out

theorem execDdrLowSwitch (lower : Bool) : KeepsOut s (execDdrLowSwitch lower t) := by
  unfold Machine.execDdrLowSwitch
  refine Keeps.out ?_
  dsimp only
  split
  · exact h.thenStep fun x => x.ddrFreqGo _
  · exact h.thenStep fun y => y.ddrFreqGo _

theorem execShedStep : KeepsOut s (execShedStep t) := by
  unfold Machine.execShedStep
  refine Keeps.out ?_
  split
  · exact h
  · refine shedEvent ?_ _
    split
    · exact (h.setStep _).refitAll
    · split
      · exact ((h.setStep _).setCapCut _ _).refit _
      · exact h.setStep _
    · split
      · exact (h.setCapCut _ _).refit _
      · exact h.setStep _
    · exact (h.setStep _).branch (h.thenStep fun x => (x.setFlag _ _).raiseG _ _)

theorem execShedWithdraw : KeepsOut s (execShedWithdraw t) := by
  unfold Machine.execShedWithdraw
  refine Keeps.out ?_
  split
  · exact h
  · split
    · exact h
    · exact (h.setStep _).refitAll
    · split
      · exact (h.setCapCut _ _).refit _
      · exact h.setStep _
    · exact h.setStep _

theorem execSensorSample (i : Fin 24) (temp : BitVec 8) (frozen : Bool) :
    KeepsOut s (execSensorSample i temp frozen t) :=
  (((h.modPwr _).thenStep fun x => (x.raiseG _ _).fault _ _ _ _).into fun k =>
    (fold (((((k.setFld _ _).branch (k.setFld _ _)).modPwr _).thenStep fun y => y.raiseG _ _).showHottest.shedEvent
      _) fun _ hu _ => hu.elseStep fun z => z.setHeatCut _ _).refitAll.thenStep fun w => w.fault _ _ _ _).out

theorem execThrottleStep (k : Case) : KeepsOut s (execThrottleStep k t) :=
  (h.elseStep fun x => ((x.setHeatCut _ _).setPoint _ _).raiseRegion _ _).out

theorem execCrystalLoss : KeepsOut s (execCrystalLoss t) := ((h.modPwr _).fault _ _ _ _).out

theorem execPllLockLoss (serves : PllServes) : KeepsOut s (execPllLockLoss serves t) := by
  unfold Machine.execPllLockLoss
  refine Keeps.out ?_
  split
  · exact h.faultAt _ _ _ _ _
  · exact h.faultAt _ _ _ _ _

/-! ### Ingress -/

theorem execFrameEnd (p : Port) (fragments smdErrs : Nat) (assemblyErr : Bool) :
    KeepsOut s (execFrameEnd p fragments smdErrs assemblyErr t) :=
  ((((h.countN _ _).countN _ _).thenStep fun x => x.count _).endFrame _ _).out

theorem execLinkDown (p : Port) : KeepsOut s (execLinkDown p t) := (h.thenStep fun x => x.linkDownNow _).out

theorem execHoldTimeExpiry (p : Port) : KeepsOut s (execHoldTimeExpiry p t) :=
  (h.thenStep fun x => (x.setFlag _ _).flushHeld _).out

theorem execPrtModeWrite (p : Port) (v : W32) : KeepsOut s (execPrtModeWrite p v t) :=
  (h.byHost _ (fun _ hu => hu.modeWrite _ _)).out

theorem execDispatch (p : Port) : KeepsOut s (execDispatch p t) := by
  unfold Machine.execDispatch
  refine Keeps.out ?_
  dsimp only
  split
  · exact h
  · split
    · exact ((h.wakesEnd _).shedDrop _ _).loseFrame _
    · exact ((h.wakesEnd _).wakeForAdmitted _).branch ((h.wakesEnd _).wakeForWaiting _)
    · split
      · exact (h.wakesEnd _).offerCase _
      · exact (((((h.wakesEnd _).setPort _ _).thenStep fun x => x.raiseRegion _ _).offerCase _).rotate _
          _).startPass _ _ _ _

theorem execRecircOffer (r : Region) (ecc : EccRead) : KeepsOut s (execRecircOffer r ecc t) := by
  unfold Machine.execRecircOffer
  refine Keeps.out ?_
  split
  · exact h
  · split
    · exact h.setPath _ _
    · dsimp only
      split
      · exact (((h.readFrame _ _).setPath _ _).recircDropped _).pathDrop _ _
      · split
        · exact ((((h.readFrame _ _).wakesEnd _).setPath _ _).shedDrop _ _).pathDrop _ _
        · exact (((h.readFrame _ _).wakesEnd _).wakeForAdmitted _).branch
            (((h.readFrame _ _).wakesEnd _).wakeForWaiting _)
        · split
          · exact ((h.readFrame _ _).wakesEnd _).offerCase _
          · exact ((((((((h.readFrame _ _).wakesEnd _).freePassCell _).setPath _ _).offerCase _).rotate _ _).setPort
              _ _).startPass _ _ _ _).serveAll

theorem execCaseBacklog (c : Case) : KeepsOut s (execCaseBacklog c t) := (h.thenStep fun x => x.raiseCase _ _).out

omit h in
theorem oneRequest_fold (order : List (CellReq × Bool)) {a : List CellReq × List Nat × State} (kept : Keeps s a.2.2) :
    Keeps s (order.foldl (fun (x : List CellReq × List Nat × State) q =>
      let (got, used, t) :=
x.2.2.oneRequest x.2.1 q.1 q.2
      (if got then x.1 ++ [q.1] else x.1, used, t)) a).2.2 :=
  foldlP (fun a => Keeps s a.2.2) _ (fun _ _ ha => ha.oneRequest _ _ _) order a kept

theorem execCellRequest (reqs : List (CellReq × Bool)) : KeepsOut s (execCellRequest reqs t) := by
  unfold Machine.execCellRequest
  refine Keeps.out ?_
  extract_lets order r granted u first g kinds ingress recirc
  have hu : Keeps s u := oneRequest_fold order h
  have hkinds : kinds.cell = u.gal.cell := by
    unfold kinds
    split <;> rfl
  have hingress : ingress.cell = u.gal.cell := by
    unfold ingress
    split <;> exact hkinds
  have hrecirc : recirc.cell = u.gal.cell := by
    unfold recirc
    split <;> exact hingress
  exact hu.withGal _ hrecirc

theorem execSweepDone (b : Fin 32) : KeepsOut s (execSweepDone b t) := (h.thenStep fun x => x.sweepEnd _).out

theorem execCellFree (requester : BitVec 6) (byAddress : Bool) (x : BitVec 40) :
    KeepsOut s (execCellFree requester byAddress x t) :=
  ((h.freeAddr _ _).branch (h.freeCell _ _)).serveAll.out

theorem execGalleyCommit (p : Port) (forkParityBad : Bool) : KeepsOut s (execGalleyCommit p forkParityBad t) := by
  unfold Machine.execGalleyCommit
  refine Keeps.out ?_
  split
  · exact h.judgeCut _
  · exact (h.resolveDelivery _ _).commitFrame _ _ _ _ _

theorem execResidueTimeout (k : Fin 16384) : KeepsOut s (execResidueTimeout k t) := by
  unfold Machine.execResidueTimeout
  refine Keeps.out ?_
  split
  · exact h
  · exact ((((h.withGal _).countN _ _).raiseG _ _).modFrame _ _).release _ _

/-! ### Egress -/

theorem execEgressPick (p : Port) : KeepsOut s (execEgressPick p t) := by
  unfold Machine.execEgressPick
  refine Keeps.out ?_
  exact (fold (h.testHeads _) fun _ hu _ => hu.bringCredit _).into fun k => by
    dsimp only
    split
    · split
      · exact k.thenStep fun x => x.pick _ _
      · exact k
    · split
      · split
        · exact (k.setEgr _ _).pick _ _
        · exact k
      · exact k

theorem execAgeDecisionTick (p : Port) : KeepsOut s (execAgeDecisionTick p t) := (h.testHeads _).out

theorem execFrameTxStart (p : Port) (ecc : EccRead) : KeepsOut s (execFrameTxStart p ecc t) := by
  unfold Machine.execFrameTxStart
  refine Keeps.out ?_
  dsimp only
  split
  · exact h.thenStep fun x => (x.preemptWire _).beginTx _ _ _
  · exact h
  · exact h.elseStep fun y => y.beginTx _ _ _
  · exact (h.beginTx _ _ _).branch (h.resume _ _)
  · exact h.resume _ _
  · exact h

theorem execFrameTxEnd (p : Port) (badCell : Option Nat) : KeepsOut s (execFrameTxEnd p badCell t) := by
  unfold Machine.execFrameTxEnd
  refine Keeps.out ?_
  split
  · exact h
  · split
    · exact h.setEgr _ _
    · exact h.elseStep fun x =>
        (((((((((((x.wireUe _ _).countSkips _ _).stompCount _ _).branch
          ((((x.wireUe _ _).countSkips _ _).count _).countN _ _)).thenStep fun y => y.count _).count _).countN _
            _).chargeGap _).setEgr _ _).removeRef _ _).pdelaySent _ _ _ _).sendFrame _ _ _ _

theorem execTtEntryChange (p : Port) (tag : Tag) : KeepsOut s (execTtEntryChange p tag t) :=
  (h.thenStep fun x => x.elseStep fun y => ((y.bringPort _).setEgr _ _).gateEffects _).out

theorem execTtOperationalBase (p : Port) (tag : Tag) : KeepsOut s (execTtOperationalBase p tag t) :=
  (h.thenStep fun x => (((x.bringPort _).setEgr _ _).raiseG _ _).gateEffects _).out

theorem execQueueFlush (q : QNum) : KeepsOut s (execQueueFlush q t) :=
  (h.byHost _ (fun _ hu => hu.flushQueue _)).out

theorem execQueuePause (q : QNum) (on : Bool) : KeepsOut s (execQueuePause q on t) :=
  (h.byHost _ (fun _ hu => hu.setFlag _ _)).out

theorem execTtDataWrite (off : BitVec 26) (wide : Bool) (data : W64) :
    KeepsOut s (execTtDataWrite off wide data t) :=
  (h.byHost _ (fun _ hu => hu.barWrite _ _ _ (fun _ hv _ _ => hv.putTimetable _ _))).out

/-! ### Formes -/

theorem execFstage (inherit : Bool) (seed : BitVec 32) (bad : ParityBad) :
    KeepsOut s (execFstage inherit seed bad t) :=
  (h.ctrlAlone (fun _ hu => hu.ctrlGate (fun _ hv => hv.formeStage _ _ _))).out

theorem execFdiscard : KeepsOut s (execFdiscard t) :=
  (h.ctrlAlone (fun _ hu => hu.ctrlGate (fun _ hv => hv.formeDiscard))).out

theorem execFcommit : KeepsOut s (execFcommit t) :=
  (h.ctrlAlone (fun _ hu => hu.ctrlGate (fun _ hv => hv.formeCommit))).out

theorem execFverify : KeepsOut s (execFverify t) :=
  (h.ctrlAlone (fun _ hu => hu.ctrlGate (fun _ hv => hv.formeVerify))).out

theorem execFload (addr : BitVec 40) (finds : EccFinds) : KeepsOut s (execFload addr finds t) :=
  (h.ctrlAlone (fun _ hu => hu.ctrlGate (fun _ hv => hv.formeLoad _ _))).out

theorem execDrainComplete : KeepsOut s (execDrainComplete t) := by
  unfold Machine.execDrainComplete
  refine Keeps.out ?_
  split
  · exact h
  · exact h.thenStep fun x => x.checkSettled.beginRelease _

theorem execDrainTimeout : KeepsOut s (execDrainTimeout t) := by
  unfold Machine.execDrainTimeout
  refine Keeps.out ?_
  split
  · exact h
  · exact (((fold h fun _ hu _ => (hu.elseStep fun x => x.count _).drainFrame _).raiseG _ _).elseStep fun y =>
      (y.setFlag _ _).raiseG _ _).beginRelease _

theorem execTagReleaseDone (bad : ParityBad) : KeepsOut s (execTagReleaseDone bad t) := by
  unfold Machine.execTagReleaseDone
  refine Keeps.out ?_
  split
  · exact h
  · exact h.elseStep fun x =>
      ((((((fold (((x.ledgerRelease _ _).watchRelease _).clearTagTables _) fun _ hu _ => hu.setEgr _ _).setImage _
        _).setResv _ _).setTagState _ _).withForme _).thenStep fun y => y.chipValues).raiseG _ _

/-! ### Commands -/

theorem execBlockExecute (found : List Found) : KeepsOut s (execBlockExecute found t) := by
  unfold Machine.execBlockExecute
  refine Keeps.out ?_
  split
  · exact h
  · exact ((h.withCmd _).roleRefuse _).branch ((h.withCmd _).blockRun _ _)

theorem execTwrite (table : BitVec 4) (tag : Tag) (dir : Bool) (index : BitVec 18) (data : List W64)
    (bad : ParityBad) : KeepsOut s (execTwrite table tag dir index data bad t) :=
  (h.ctrlAlone (fun _ hu => hu.ctrlGate (fun _ hv => hv.tWrite _ _ _ _ _ _))).out

theorem execTdelete (table : BitVec 4) (tag : Tag) (dir : Bool) (index : BitVec 18) (data : List W64)
    (bad : ParityBad) : KeepsOut s (execTdelete table tag dir index data bad t) :=
  (h.ctrlAlone (fun _ hu => hu.ctrlGate (fun _ hv => hv.tDelete _ _ _ _ _ _))).out

theorem execTread (table : BitVec 4) (dir : Bool) (addr : BitVec 18) (bad : ParityBad) :
    KeepsOut s (execTread table dir addr bad t) :=
  (h.ctrlAlone (fun _ hu => hu.ctrlGate (fun _ hv => hv.tRead _ _ _ _))).out

theorem execTsearch (table : BitVec 4) (tag : Tag) (key : List W64) (bad : ParityBad) :
    KeepsOut s (execTsearch table tag key bad t) :=
  (h.ctrlAlone (fun _ hu => hu.ctrlGate (fun _ hv => hv.tSearch _ _ _ _))).out

theorem execTnext (table : BitVec 4) (tag : Tag) (start : BitVec 18) (filter : W64) (bad : ParityBad) :
    KeepsOut s (execTnext table tag start filter bad t) :=
  (h.ctrlAlone (fun _ hu => hu.ctrlGate (fun _ hv => hv.tNext _ _ _ _ _))).out

theorem execTflush (fidV : Bool) (fid : BitVec 12) (port : Port) (bad : ParityBad) :
    KeepsOut s (execTflush fidV fid port bad t) :=
  (h.ctrlAlone (fun _ hu => hu.ctrlGate (fun _ hv => hv.tFlush _ _ _))).out

theorem execNop : KeepsOut s (execNop t) := (h.ctrlAlone (fun _ hu => hu)).out

theorem execSnapshot (units : BitVec 26) (addr : BitVec 40) (finds : EccFinds) :
    KeepsOut s (execSnapshot units addr finds t) :=
  (h.ctrlAlone (fun _ hu => hu.snapshot _ _ _)).out

theorem execCaparm (selector : BitVec 8) (arm : Bool) (data : List W64) :
    KeepsOut s (execCaparm selector arm data t) :=
  (h.ctrlAlone (fun _ hu => hu.ctrlGate (fun _ hv => hv.capArmCmd _ _ _))).out

theorem execCaptrig (cause : BitVec 8) : KeepsOut s (execCaptrig cause t) :=
  (h.ctrlAlone (fun _ hu => hu.ctrlGate (fun _ hv => hv.capTrig _))).out

theorem execRole (source : BitVec 8) (r : BitVec 2) : KeepsOut s (execRole source r t) :=
  (h.ctrlAlone (fun _ hu => hu.ctrlGate (fun _ hv => hv.roleWrite _ _))).out

theorem execArcread (word0 word1 : W64) (reads : List NandRead) : KeepsOut s (execArcread word0 word1 reads t) :=
  (h.ctrlAlone (fun _ hu => hu.ctrlGate (fun _ hv => hv.arcRead _ _ _))).out

/-! ### Fences -/

theorem execDualRailError (source : BitVec 12) (kind : BitVec 8) : KeepsOut s (execDualRailError source kind t) :=
  (h.elseStep fun x => (x.faultAt _ _ _ _ _).thenStep fun y => y.raiseRegion _ _).out

theorem execWireFault (source : BitVec 12) : KeepsOut s (execWireFault source t) :=
  (h.thenStep fun x => x.fault _ _ _ _).out

theorem execCodedMessage (source : BitVec 12) (kind : BitVec 8) (addr : BitVec 40) :
    KeepsOut s (execCodedMessage source kind addr t) :=
  (h.thenStep fun x => x.fault _ _ _ _).out

theorem execFaultInject (level : BitVec 3) (source : BitVec 12) : KeepsOut s (execFaultInject level source t) :=
  (h.byHost _ (fun _ hu => hu.inject _ _)).out

theorem execFenceComplete (source : BitVec 12) : KeepsOut s (execFenceComplete source t) := by
  unfold Machine.execFenceComplete
  refine Keeps.out ?_
  split
  · exact h.fenceDone _ _
  · exact h

theorem execRecheckDone : KeepsOut s (execRecheckDone t) := by
  unfold Machine.execRecheckDone
  refine Keeps.out ?_
  split
  · exact h
  · dsimp only
    split
    · exact (h.withFlt _).setFlag _ _
    · exact (((h.withFlt _).setFlag _ _).setReg _ _).raiseG _ _

theorem execFaultAck (slot : Fin 256) : KeepsOut s (execFaultAck slot t) :=
  (h.byHost _ (fun _ hu => hu.ackRecord _)).out

theorem execFaultAckAll : KeepsOut s (execFaultAckAll t) :=
  (h.byHost _ (fun _ hu => fold hu fun _ hv _ => hv.ackRecord _)).out

theorem execFaultClear (slot : Fin 256) : KeepsOut s (execFaultClear slot t) :=
  (h.byHost _ (fun _ hu => hu.clearRecord _)).out

theorem execFaultClearAll : KeepsOut s (execFaultClearAll t) :=
  (h.byHost _ (fun _ hu => fold hu fun _ hv _ => hv.clearRecord _)).out

theorem execUnfence (source : BitVec 12) : KeepsOut s (execUnfence source t) :=
  (h.byHost _ (fun _ hu => hu.unfenceGo _)).out

theorem execBistDone (pass : Bool) : KeepsOut s (execBistDone pass t) := by
  unfold Machine.execBistDone
  refine Keeps.out ?_
  split
  · exact h
  · dsimp only
    split
    · exact ((((((((h.withFlt _).setFlag _ _).withFlt _).laneReturns _).branch
        ((((h.withFlt _).setFlag _ _).withFlt _).thenStep fun x => fold x fun _ hu _ => hu.laneReturns _)).setFld _
          _).refitAll.count _).raiseG _ _).wantRecheck
    · exact (((((h.withFlt _).setFlag _ _).setFld _ _).count _).writeRecord _ _ _ _ _ _ _).raiseG _ _

/-! ### Time -/

theorem execFreqTrim (v : W32) : KeepsOut s (execFreqTrim v t) := (h.byHost _ (fun _ hu => hu.setFld _ _)).out
theorem execSlew : KeepsOut s (execSlew t) := (h.byHost _ (fun _ hu => (hu.setFld _ _).slewGo)).out

theorem execSlewEnd : KeepsOut s (execSlewEnd t) := by
  unfold Machine.execSlewEnd
  refine Keeps.out ?_
  split
  · exact h
  · exact ((h.tbAdd _).withTime _).slewStop.ppsRun _

theorem execTimeStep : KeepsOut s (execTimeStep t) := (h.byHost _ (fun _ hu => (hu.setFld _ _).stepGo)).out
theorem execTimeSet : KeepsOut s (execTimeSet t) := (h.byHost _ (fun _ hu => hu.setGo)).out
theorem execPpsOutRise : KeepsOut s (execPpsOutRise t) := (h.thenStep fun x => x.ppsRise _).out
theorem execPpsOutFall : KeepsOut s (execPpsOutFall t) := (h.thenStep fun x => x.withTime _).out

theorem execPpsInEdge : KeepsOut s (execPpsInEdge t) :=
  (h.elseStep fun x => ((((x.setReg _ _).setFld _ _).count _).raiseG _ _).thenStep fun y => (y.setFlag _ _).stepTo
    _).out

theorem execTimeNowLatch : KeepsOut s (execTimeNowLatch t) := (h.hostRead (fun _ hu => hu.latchNow.emit _)).out
theorem execTxtsPop : KeepsOut s (execTxtsPop t) := (h.hostRead (fun _ hu => hu.txtsPop.emit _)).out

/-! ### Register writes -/

theorem execEvtLatchClear (g : Fin 48) (mask setNow : W32) : KeepsOut s (execEvtLatchClear g mask setNow t) :=
  ((h.byHost _ (fun _ hu => hu.clearLatch _ _)).raiseMask _ _).out

theorem execEvtSet (g : Fin 48) (mask : W32) : KeepsOut s (execEvtSet g mask t) :=
  (h.byHost _ (fun _ hu => hu.raiseMask _ _)).out

theorem execEvtEnableWrite (g : Fin 48) (v : W32) : KeepsOut s (execEvtEnableWrite g v t) :=
  (h.byHost _ (fun _ hu => hu.putEnable _ _)).out

theorem execEvtTargetWrite (n : Fin 1536) (v : W32) : KeepsOut s (execEvtTargetWrite n v t) :=
  (h.byHost _ (fun _ hu => hu.putTarget _ _)).out

theorem execEvtVecAck (v : Fin 64) : KeepsOut s (execEvtVecAck v t) := (h.byHost _ (fun _ hu => hu.vecAck _)).out

/-! ### Starts -/

theorem execPowerOn : KeepsOut s (execPowerOn t) := (h.clearWatch.cleared.withBoot _).out
theorem execResetNAssert : KeepsOut s (execResetNAssert t) := (h.cleared.withBoot _).out

theorem execResetNRelease (facts : StartFacts) : KeepsOut s (execResetNRelease facts t) :=
  (h.elseStep fun x => (x.withBoot _).elseStep fun y => y.releaseStart _).out

theorem execRestartCold (key : BitVec 16) (facts : StartFacts) : KeepsOut s (execRestartCold key facts t) :=
  (h.byHost _ (fun _ hu => hu.restartCold _ _)).out

theorem execRestartWarm (key : BitVec 16) (facts : StartFacts) : KeepsOut s (execRestartWarm key facts t) :=
  (h.byHost _ (fun _ hu => hu.restartWarm _ _)).out

theorem execClrFails (key : BitVec 16) : KeepsOut s (execClrFails key t) :=
  (h.byHost _ (fun _ hu => hu.clrFails _)).out

theorem execStartWatchdog : KeepsOut s (execStartWatchdog t) := by
  unfold Machine.execStartWatchdog
  refine Keeps.out ?_
  split
  · exact h
  · split
    · exact h
    · extract_lets f
      split
      · exact h.warmFailed _ _
      · split
        next again v e =>
        have counted := (h.coldCount f).ofPair e
        exact (counted.coldStart _).branch (counted.withBoot _)

theorem execWatchRailLoss : KeepsOut s (execWatchRailLoss t) := h.clearWatch.out
theorem execRailUndervolt : KeepsOut s (execRailUndervolt t) := (h.cleared.withBoot _).out

theorem execRailRestoreRelease (facts : StartFacts) : KeepsOut s (execRailRestoreRelease facts t) :=
  (h.elseStep fun x => (x.withBoot _).elseStep fun y => y.releaseStart _).out

/-! ### Flash, keys and attestation -/

theorem execQspiRead (len : BitVec 9) : KeepsOut s (execQspiRead len t) :=
  (h.byHost _ (fun _ hu => hu.qspiGo _ _)).out

theorem execQspiProgram (len : BitVec 9) : KeepsOut s (execQspiProgram len t) :=
  (h.byHost _ (fun _ hu => hu.qspiGo _ _)).out

theorem execQspiErase : KeepsOut s (execQspiErase t) := (h.byHost _ (fun _ hu => hu.qspiGo _ _)).out

theorem execQspiDone (error : Bool) : KeepsOut s (execQspiDone error t) := by
  unfold Machine.execQspiDone
  refine Keeps.out ?_
  split
  · exact h
  · exact (((h.qspiEffect _ _ _ _).modBoot _).setFld _ _).raiseG _ _

theorem execKeyProgram (slot : Fin 4) (confirm : BitVec 16) : KeepsOut s (execKeyProgram slot confirm t) :=
  (h.byHost _ (fun _ hu => hu.keyGo _ _ _)).out

theorem execKeyRevoke (slot : Fin 4) (confirm : BitVec 16) : KeepsOut s (execKeyRevoke slot confirm t) :=
  (h.byHost _ (fun _ hu => hu.keyGo _ _ _)).out

theorem execKeyOpDone (ok : Bool) : KeepsOut s (execKeyOpDone ok t) := by
  unfold Machine.execKeyOpDone
  refine Keeps.out ?_
  split
  · exact h
  next op slot running =>
    extract_lets idle _ done
    have hidle : Keeps s idle := h.trans ⟨rfl, id, id, id, id, id, fun _ => ⟨rfl, KeysForward.refl t⟩, rfl⟩
    have hdone : Keeps s done := by
      unfold done
      split
      · exact hidle
      · split
        next e =>
          refine hidle.setKeySlot _ _ rfl (fun ok p => absurd p ?_) id
          have free := (h.keys ok).1
          simp only [State.keyOpOk, running, e] at free
          exact Bool.eq_false_iff.mp ((Bool.not_eq_true' _).mp free)
        · exact hidle.setKeySlot _ _ rfl (fun _ p => ⟨p, rfl⟩) fun _ => rfl
    exact (hdone.setFld _ _).raiseG _ _

theorem execAttestGo : KeepsOut s (execAttestGo t) := (h.byHost _ (fun _ hu => hu.attest)).out

theorem execAttestDone : KeepsOut s (execAttestDone t) := by
  unfold Machine.execAttestDone
  refine Keeps.out ?_
  split
  · exact h
  · exact h.elseStep fun x => ((((x.freeBytes 32).modBoot _).putWindow _ _).setFlag _ _).raiseG _ _

theorem execFormeHashDone : KeepsOut s (execFormeHashDone t) := by
  unfold Machine.execFormeHashDone
  refine Keeps.out ?_
  split
  · exact h
  · exact h.elseStep fun x => (x.modBoot _).raiseG _ _

theorem execRegisterWrite (off : BitVec 26) (wide : Bool) (data : W64) :
    KeepsOut s (execRegisterWrite off wide data t) :=
  (h.byHost _ (fun _ hu => hu.barWrite _ _ _ (fun _ hv _ _ => hv.writeReg _ _))).out

/-! ### Windows of BAR2 -/

theorem execBar2Request (write : Bool) (off : BitVec 36) (size : Fin 4097) (data : List Byte) (finds : EccFinds) :
    KeepsOut s (execBar2Request write off size data finds t) :=
  (h.elseStep fun x => (x.emit _).branch ((x.count _).branch (((x.winRefused _ _ _ _).emit _).branch
    ((x.bar2Write _ _ _ _ _ _).branch (x.bar2Read _ _ _ _ _))))).out

end
end Keeps
end Sys2Proof.Machine
end

section
/-! Every step keeps the invariant and moves the key slots forward only (R260, R437); a command leaves the queue alone. -/

namespace Sys2Proof.Machine
set_option Elab.async false

/-- Every command keeps the queue and the invariant, and moves the key slots forward only: a lemma for each command. -/
theorem exec_keeps (c : Instr) (s : State) : KeepsOut s (exec c s) := by
  have h := Keeps.refl s
  cases c with
  | frameStart p => exact h.execFrameStart p
  | frameEnd p fragments smdErrs assemblyErr => exact h.execFrameEnd p fragments smdErrs assemblyErr
  | pdelayResponse p => exact h.execPdelayResponse p
  | pcsLockLoss p lock localFault remoteFault => exact h.execPcsLockLoss p lock localFault remoteFault
  | pcsLockGain p => exact h.execPcsLockGain p
  | linkDown p => exact h.execLinkDown p
  | linkUp p => exact h.execLinkUp p
  | holdTimeExpiry p => exact h.execHoldTimeExpiry p
  | prtModeWrite p v => exact h.execPrtModeWrite p v
  | laneModeInForce p => exact h.execLaneModeInForce p
  | mergeVerifyTimer p => exact h.execMergeVerifyTimer p
  | mergeRespond p => exact h.execMergeRespond p
  | regionTrainingStart r => exact h.execRegionTrainingStart r
  | dispatch p => exact h.execDispatch p
  | cellRequest reqs => exact h.execCellRequest reqs
  | sweepDone b => exact h.execSweepDone b
  | dmaPoolRetry k => exact h.execDmaPoolRetry k
  | cellFree requester byAddress x => exact h.execCellFree requester byAddress x
  | galleyCommit p forkParityBad => exact h.execGalleyCommit p forkParityBad
  | residueTimeout k => exact h.execResidueTimeout k
  | recircOffer r ecc => exact h.execRecircOffer r ecc
  | alu f func rd rs1 rs2 => exact h.execAlu f func rd rs1 rs2
  | alui f func rd rs1 imm => exact h.execAlui f func rd rs1 imm
  | movhi f rd rs1 imm => exact h.execMovhi f rd rs1 imm
  | mfs f rd spec => exact h.execMfs f rd spec
  | mts f spec rs1 => exact h.execMts f spec rs1
  | mul f rd rs1 rs2 => exact h.execMul f rd rs1 rs2
  | ext f rd rs1 scratch off bit wm1 sx => exact h.execExt f rd rs1 scratch off bit wm1 sx
  | ins f rs1 rs2 off bit wm1 => exact h.execIns f rs1 rs2 off bit wm1
  | setc f rs1 imm => exact h.execSetc f rs1 imm
  | advc f rs1 imm => exact h.execAdvc f rs1 imm
  | br f cond rs1 rs2 disp => exact h.execBr f cond rs1 rs2 disp
  | bri f cond rs1 imm disp => exact h.execBri f cond rs1 imm disp
  | jmp f disp => exact h.execJmp f disp
  | jtab f rs1 nmax disp => exact h.execJtab f rs1 nmax disp
  | loop f count len => exact h.execLoop f count len
  | loopr f rs1 count len => exact h.execLoopr f rs1 count len
  | end_ f => exact h.execEnd f
  | pmRepairDone k => exact h.execPmRepairDone k
  | watchdog c => exact h.execWatchdog c
  | lkiL2dst f tag rs1 => exact h.execLkiL2dst f tag rs1
  | lkiL2src f tag rs1 => exact h.execLkiL2src f tag rs1
  | lkiIpv4 f tag rs1 => exact h.execLkiIpv4 f tag rs1
  | lkiIpv6 f tag rs1 rs2 => exact h.execLkiIpv6 f tag rs1 rs2
  | lkiRule f tag rs1 arg => exact h.execLkiRule f tag rs1 arg
  | lkiFork f tag rs1 table => exact h.execLkiFork f tag rs1 table
  | lkiWatch f tag rs2 set => exact h.execLkiWatch f tag rs2 set
  | lookupComplete c tag parityBad => exact h.execLookupComplete c tag parityBad
  | lkw f rd tag bm disp => exact h.execLkw f rd tag bm disp
  | hini f alg key seed => exact h.execHini f alg key seed
  | hacc f rs1 nm1 => exact h.execHacc f rs1 nm1
  | hacf f rs1 off nm1 => exact h.execHacf f rs1 off nm1
  | hfin f rd => exact h.execHfin f rd
  | berx f rd any btag disp skip => exact h.execBerx f rd any btag disp skip
  | asdu f rd fld rs2 disp => exact h.execAsdu f rd fld rs2 disp
  | wbopRead f tag rs1 word bad => exact h.execWbopRead f tag rs1 word bad
  | wbopAdd f tag rs1 rs2 word bad => exact h.execWbopAdd f tag rs1 rs2 word bad
  | dupchk f tag rs1 rs2 bad => exact h.execDupchk f tag rs1 rs2 bad
  | svchk f tag rs1 rs2 bad => exact h.execSvchk f tag rs1 rs2 bad
  | gschk f tag rs1 rs2 bad => exact h.execGschk f tag rs1 rs2 bad
  | meter f tag rs1 rs2 bad => exact h.execMeter f tag rs1 rs2 bad
  | wbind f rs1 => exact h.execWbind f rs1
  | dlvDrop f => exact h.execDlvDrop f
  | dlvFwd f imm port rs1 => exact h.execDlvFwd f imm port rs1
  | dlvMcast f rs1 rs2 excl => exact h.execDlvMcast f rs1 rs2 excl
  | dlvFork f table rs1 => exact h.execDlvFork f table rs1
  | dlvPunt f reason => exact h.execDlvPunt f reason
  | dlvSecond f entry => exact h.execDlvSecond f entry
  | qsel f imm qoff rs1 => exact h.execQsel f imm qoff rs1
  | sideMirror f session => exact h.execSideMirror f session
  | sideCapmark f selector => exact h.execSideCapmark f selector
  | sideCaptrig f cause => exact h.execSideCaptrig f cause
  | sideTstamp f ident => exact h.execSideTstamp f ident
  | editVpush f rs1 => exact h.execEditVpush f rs1
  | editVpop f => exact h.execEditVpop f
  | editVswap f rs1 => exact h.execEditVswap f rs1
  | editHsrIns f rs1 path => exact h.execEditHsrIns f rs1 path
  | editHsrRem f => exact h.execEditHsrRem f
  | editPrpAdd f rs1 lan => exact h.execEditPrpAdd f rs1 lan
  | editPrpStrip f => exact h.execEditPrpStrip f
  | editMacDa f rs1 => exact h.execEditMacDa f rs1
  | editMacSa f rs1 => exact h.execEditMacSa f rs1
  | editTtlDec f off => exact h.execEditTtlDec f off
  | editPtpCf f off => exact h.execEditPtpCf f off
  | learnRequest bad => exact h.execLearnRequest bad
  | ageingStep bad => exact h.execAgeingStep bad
  | parityInvalidate table addr => exact h.execParityInvalidate table addr
  | scanStart => exact h.execScanStart
  | scanDone engine badLine => exact h.execScanDone engine badLine
  | maintWrite shadow => exact h.execMaintWrite shadow
  | wchPatrolStep differs shadow => exact h.execWchPatrolStep differs shadow
  | wchRepair line shadow => exact h.execWchRepair line shadow
  | wblHostWrite addr size data bad => exact h.execWblHostWrite addr size data bad
  | wblHostRead addr wide bad => exact h.execWblHostRead addr wide bad
  | wblPatrolVisit bad => exact h.execWblPatrolVisit bad
  | wblStateRepair w => exact h.execWblStateRepair w
  | wblSnapshot v bad => exact h.execWblSnapshot v bad
  | stickyClear w mask bad => exact h.execStickyClear w mask bad
  | clrBlocked w bad => exact h.execClrBlocked w bad
  | clrQual w bad => exact h.execClrQual w bad
  | meterClr m => exact h.execMeterClr m
  | evlogPop => exact h.execEvlogPop
  | perTagTableWrite off wide data => exact h.execPerTagTableWrite off wide data
  | egressPick p => exact h.execEgressPick p
  | ageDecisionTick p => exact h.execAgeDecisionTick p
  | frameTxStart p ecc => exact h.execFrameTxStart p ecc
  | frameTxEnd p badCell => exact h.execFrameTxEnd p badCell
  | ttEntryChange p t => exact h.execTtEntryChange p t
  | ttOperationalBase p t => exact h.execTtOperationalBase p t
  | queueFlush q => exact h.execQueueFlush q
  | queuePause q on => exact h.execQueuePause q on
  | ttDataWrite off wide data => exact h.execTtDataWrite off wide data
  | fstage inherit seed bad => exact h.execFstage inherit seed bad
  | fdiscard => exact h.execFdiscard
  | fcommit => exact h.execFcommit
  | fverify => exact h.execFverify
  | fload addr finds => exact h.execFload addr finds
  | drainComplete => exact h.execDrainComplete
  | drainTimeout => exact h.execDrainTimeout
  | tagReleaseDone bad => exact h.execTagReleaseDone bad
  | freqTrim v => exact h.execFreqTrim v
  | slew => exact h.execSlew
  | timeStep => exact h.execTimeStep
  | timeSet => exact h.execTimeSet
  | slewEnd => exact h.execSlewEnd
  | ppsOutRise => exact h.execPpsOutRise
  | ppsOutFall => exact h.execPpsOutFall
  | ppsInEdge => exact h.execPpsInEdge
  | timeNowLatch => exact h.execTimeNowLatch
  | txtsPop => exact h.execTxtsPop
  | ringDoorbell pi => exact h.execRingDoorbell pi
  | ringBlockFetched words => exact h.execRingBlockFetched words
  | i2cGo words => exact h.execI2cGo words
  | blockExecute found => exact h.execBlockExecute found
  | twrite table tag dir index data bad => exact h.execTwrite table tag dir index data bad
  | tdelete table tag dir index data bad => exact h.execTdelete table tag dir index data bad
  | tread table dir addr bad => exact h.execTread table dir addr bad
  | tsearch table tag key bad => exact h.execTsearch table tag key bad
  | tnext table tag start filter bad => exact h.execTnext table tag start filter bad
  | tflush fidV fid port bad => exact h.execTflush fidV fid port bad
  | nop => exact h.execNop
  | snapshot units addr finds => exact h.execSnapshot units addr finds
  | caparm selector arm data => exact h.execCaparm selector arm data
  | captrig cause => exact h.execCaptrig cause
  | role source r => exact h.execRole source r
  | arcread word0 word1 reads => exact h.execArcread word0 word1 reads
  | resultHeaderRead source => exact h.execResultHeaderRead source
  | bar0BadAccess read off => exact h.execBar0BadAccess read off
  | bar2Request write off size data finds => exact h.execBar2Request write off size data finds
  | winEntryWrite w wide data => exact h.execWinEntryWrite w wide data
  | winEntryRead w => exact h.execWinEntryRead w
  | barResize log2 => exact h.execBarResize log2
  | dmaChStart c => exact h.execDmaChStart c
  | dmaChStop c => exact h.execDmaChStop c
  | ringEnable k => exact h.execRingEnable k
  | ringDisable k => exact h.execRingDisable k
  | dmaRingDb k => exact h.execDmaRingDb k
  | descWord1Read k w => exact h.execDescWord1Read k w
  | txFrameInject k d data => exact h.execTxFrameInject k d data
  | rxFrameDeliver k d => exact h.execRxFrameDeliver k d
  | dmaCopy k d data finds => exact h.execDmaCopy k d data finds
  | rxStreamDeliver k d withdraw => exact h.execRxStreamDeliver k d withdraw
  | perstNFall => exact h.execPerstNFall
  | perstNRise => exact h.execPerstNRise
  | hotReset => exact h.execHotReset
  | pcieLinkDown => exact h.execPcieLinkDown
  | flr => exact h.execFlr
  | d3hotEntry => exact h.execD3hotEntry
  | d0Return => exact h.execD0Return
  | bmeClear => exact h.execBmeClear
  | bmeSet cfg => exact h.execBmeSet cfg
  | freezingError bit header => exact h.execFreezingError bit header
  | freezeRelease cleared => exact h.execFreezeRelease cleared
  | irqHoldExpiry k => exact h.execIrqHoldExpiry k
  | msixUnmask v => exact h.execMsixUnmask v
  | lateCompletion tag => exact h.execLateCompletion tag
  | tagQuarantineEnd tag => exact h.execTagQuarantineEnd tag
  | ddrRequest requester write addr len data finds => exact h.execDdrRequest requester write addr len data finds
  | ddrFreqChange set => exact h.execDdrFreqChange set
  | refreshInterval rank blocked => exact h.execRefreshInterval rank blocked
  | scrubStep ecc overtaken => exact h.execScrubStep ecc overtaken
  | ddrTempReport sub rank hot => exact h.execDdrTempReport sub rank hot
  | rankPowerDown rank => exact h.execRankPowerDown rank
  | rankSelfRefresh rank => exact h.execRankSelfRefresh rank
  | captureServe ecc finds => exact h.execCaptureServe ecc finds
  | trigInEdge => exact h.execTrigInEdge
  | eventEndPass => exact h.execEventEndPass
  | eventClose => exact h.execEventClose
  | arcEnable formatted dies => exact h.execArcEnable formatted dies
  | arcDisable => exact h.execArcDisable
  | arcFormat => exact h.execArcFormat
  | formatDone badBlocks dies => exact h.execFormatDone badBlocks dies
  | arcRecoveryDone rootBad reads rereads => exact h.execArcRecoveryDone rootBad reads rereads
  | checkpointTimer finds => exact h.execCheckpointTimer finds
  | pageProgramDone ok finds => exact h.execPageProgramDone ok finds
  | blockEraseDone block ok => exact h.execBlockEraseDone block ok
  | nandPatrolRead r => exact h.execNandPatrolRead r
  | keepSet keep => exact h.execKeepSet keep
  | caseSleep k => exact h.execCaseSleep k
  | casePointIdle k => exact h.execCasePointIdle k
  | railConfirm k ok => exact h.execRailConfirm k ok
  | avsTick r marginMv => exact h.execAvsTick r marginMv
  | powerEstimate tenths => exact h.execPowerEstimate tenths
  | powerRecalibrate vouts tenths => exact h.execPowerRecalibrate vouts tenths
  | ddrLowSwitch lower => exact h.execDdrLowSwitch lower
  | shedStep => exact h.execShedStep
  | shedWithdraw => exact h.execShedWithdraw
  | sensorSample k temp frozen => exact h.execSensorSample k temp frozen
  | capWrite v => exact h.execCapWrite v
  | crystalLoss => exact h.execCrystalLoss
  | pllLockLoss serves => exact h.execPllLockLoss serves
  | dualRailError source kind => exact h.execDualRailError source kind
  | wireFault source => exact h.execWireFault source
  | codedMessage source kind addr => exact h.execCodedMessage source kind addr
  | fenceComplete source => exact h.execFenceComplete source
  | recheckDone => exact h.execRecheckDone
  | faultAck slot => exact h.execFaultAck slot
  | faultAckAll => exact h.execFaultAckAll
  | faultClear slot => exact h.execFaultClear slot
  | faultClearAll => exact h.execFaultClearAll
  | unfence source => exact h.execUnfence source
  | bistDone pass => exact h.execBistDone pass
  | faultInject level source => exact h.execFaultInject level source
  | powerOn => exact h.execPowerOn
  | resetNAssert => exact h.execResetNAssert
  | resetNRelease facts => exact h.execResetNRelease facts
  | restartCold key facts => exact h.execRestartCold key facts
  | restartWarm key facts => exact h.execRestartWarm key facts
  | clrFails key => exact h.execClrFails key
  | startWatchdog => exact h.execStartWatchdog
  | watchRailLoss => exact h.execWatchRailLoss
  | railUndervolt => exact h.execRailUndervolt
  | railRestoreRelease facts => exact h.execRailRestoreRelease facts
  | qspiRead len => exact h.execQspiRead len
  | qspiProgram len => exact h.execQspiProgram len
  | qspiErase => exact h.execQspiErase
  | qspiDone error => exact h.execQspiDone error
  | keyProgram slot confirm => exact h.execKeyProgram slot confirm
  | keyRevoke slot confirm => exact h.execKeyRevoke slot confirm
  | keyOpDone ok => exact h.execKeyOpDone ok
  | attestGo => exact h.execAttestGo
  | attestDone => exact h.execAttestDone
  | formeHashDone => exact h.execFormeHashDone
  | evtLatchClear g mask setNow => exact h.execEvtLatchClear g mask setNow
  | evtSet g mask => exact h.execEvtSet g mask
  | evtEnableWrite g v => exact h.execEvtEnableWrite g v
  | evtTargetWrite n v => exact h.execEvtTargetWrite n v
  | evtVecAck v => exact h.execEvtVecAck v
  | registerWrite off wide data => exact h.execRegisterWrite off wide data
  | frameBytesArrive p bytes => exact h.execFrameBytesArrive p bytes
  | hiBerChange p on => exact h.execHiBerChange p on
  | fecCodeword p corrected => exact h.execFecCodeword p corrected
  | pcieLinkUp speed width => exact h.execPcieLinkUp speed width
  | correctableError bit => exact h.execCorrectableError bit
  | caseBacklog k => exact h.execCaseBacklog k
  | watchlistEngineSleep engine => exact h.execWatchlistEngineSleep engine
  | throttleStep k => exact h.execThrottleStep k

/-! ### The step -/

/-- A step takes the command at the front of the queue and runs it. -/
theorem step_cons {c : Instr} {rest : List Instr} {s : State} (queue : s.pending = c :: rest) :
    step s = exec c { s with pending := rest } := by
  rw [step, queue]

theorem step_nil {s : State} (queue : s.pending = []) : step s = .next s.idle := by
  rw [step, queue]

/-- A change of the queue touches nothing that the invariant speaks of. -/
theorem Inv.withPending {s : State} (i : Inv s) (rest : List Instr) : Inv { s with pending := rest } :=
  ⟨i.time, i.regs, i.cells, i.mem, i.flash, i.keys, i.slots⟩

/-- A step is a kept change of the block, but for the queue. -/
theorem step_keeps {s t : State} (stepped : step s = .next t) : Keeps { s with pending := s.pending.tail } t := by
  cases queue : s.pending with
  | nil =>
    rw [step_nil queue] at stepped
    have same : { s with pending := [] } = s := queue ▸ rfl
    exact same ▸ (Keeps.refl s).idle.out _ stepped
  | cons c rest =>
    rw [step_cons queue] at stepped
    exact exec_keeps c _ t stepped

/-- Settles O1: the second case of the step function. -/
theorem stepRunsFrontCommand : Obligations.StepRunsFrontCommand := fun _ _ _ => step_cons

/-- Settles O3: what every command keeps includes the queue. -/
theorem commandsLeaveTheQueue : Obligations.CommandsLeaveTheQueue := fun c s t answered =>
  (exec_keeps c s t answered).pending

/-- Settles O4: the reset state holds empty tables, a time base of zero and four open key slots. -/
theorem resetHasInvariant : Obligations.ResetHasInvariant :=
  ⟨by decide, rfl, rfl, rfl, rfl, rfl, rfl⟩

/-- Settles O5: a step is a kept change, and a kept change keeps each clause of the invariant. -/
theorem everyStepKeepsInvariant : Obligations.EveryStepKeepsInvariant := fun _ _ inv stepped =>
  (step_keeps stepped).inv (inv.withPending _)

/-- Settles O6: a kept change moves the key slots forward wherever no running PROGRAM names a programmed slot. -/
theorem keySlotsOnlyMoveForward : Obligations.KeySlotsOnlyMoveForward := fun _ _ inv stepped =>
  ((step_keeps stepped).keys inv.keys).2

end Sys2Proof.Machine
end


section
/-! The time base without a command waiting (R260): a cycle passes, and what else a cycle ends leaves the time base. -/

namespace Sys2Proof.Machine

@[simp] theorem State.raiseG_time (s : State) (g b : Nat) : (s.raiseG g b).time = s.time := by
  rw [State.raiseG, State.raise_frame]

theorem State.sleepsEnd_time (s : State) : s.sleepsEnd.time = s.time :=
  List.foldlRecOn (motive := fun u : State => u.time = s.time) _ _ rfl fun u same c _ => by
    split
    · exact same
    · exact same
    · exact same

theorem State.changeTick_time (s : State) : s.changeTick.time = s.time := by
  unfold State.changeTick
  split
  · split
    · exact State.raiseG_time _ _ _
    · rfl
  · rfl

theorem State.setMicro_time (s : State) (n : Nat) (v : W64) : (s.setMicro n v).time = s.time := by
  unfold State.setMicro
  split <;> rfl

theorem State.microMem_time (s : State) (op bank : Nat) (addr : W64) : (s.microMem op bank addr).time = s.time := by
  unfold State.microMem
  split <;> rfl

theorem State.microStep_time (s : State) : s.microStep.time = s.time := by
  unfold State.microStep
  dsimp only [State.modLedger_time]
  rw [State.microMem_time]
  split
  · exact State.setMicro_time _ _ _
  · rfl

theorem State.keeperRun_time (n budget : Nat) (s : State) : (State.keeperRun n budget s).time = s.time := by
  induction n generalizing budget s with
  | zero => rfl
  | succ n ih =>
    unfold State.keeperRun
    extract_lets need
    split
    · rfl
    · rw [ih]
      exact s.microStep_time

theorem State.keeperTickRun_time (s : State) : s.keeperTickRun.time = s.time := by
  unfold State.keeperTickRun
  split
  · exact State.keeperRun_time _ _ _
  · rfl

theorem State.idle_time {s : State} (clocked : s.clocked = true) : s.idle.time = s.tbCycle.time := by
  rw [State.idle, if_pos clocked, State.keeperTickRun_time, State.changeTick_time, State.sleepsEnd_time]

/-- The PPS pulse leaves the time base itself. -/
theorem State.ppsRun_time (s : State) (old : Nat) :
    (s.ppsRun old).time.now = s.time.now ∧ (s.ppsRun old).time.cycles = s.time.cycles := by
  unfold State.ppsRun
  extract_lets past risen
  have rises : risen.time.now = s.time.now ∧ risen.time.cycles = s.time.cycles := by
    unfold risen
    split
    · exact ⟨rfl, rfl⟩
    · exact ⟨rfl, rfl⟩
  split
  · exact rises
  · exact rises

theorem State.tbRun_steady {s : State} (steady : s.time.slew = none) : s.tbRun.time.now = (s.tbAdd s.tbRate).time.now ∧
    s.tbRun.time.cycles = s.time.cycles + 1 := by
  unfold State.tbRun
  rw [steady]
  exact ⟨rfl, rfl⟩

/-- Settles O7: only the cycle of the time base touches the time, and outside a slew it adds the rate. -/
theorem idleCycleAdvancesTimeBase : Obligations.IdleCycleAdvancesTimeBase := by
  refine fun s queue => ⟨fun clocked steady => ⟨s.idle, step_nil queue, ?_, ?_⟩, fun still => ?_⟩
  · rw [State.idle_time clocked]
    exact (State.ppsRun_time _ _).1.trans (State.tbRun_steady steady).1
  · rw [State.idle_time clocked]
    exact (State.ppsRun_time _ _).2.trans (State.tbRun_steady steady).2
  · rw [step_nil queue, State.idle, if_neg (Bool.eq_false_iff.mp still)]

end Sys2Proof.Machine
end


section
/-! Where events go at reset (R463), and when IRQ_N is driven (R461). -/

namespace Sys2Proof.Machine

/-- At reset the target of source `n` names its group's vector; two sources are routed to IRQ_N as well (R463). -/
theorem reg_reset_evtTarget {n : Nat} (source : n < 1536) :
    State.reset.reg (R.EVT_TARGET n) = BitVec.ofNat 64 (n / 32 + if n = 1504 ∨ n = 1523 then 0x80000000 else 0) := by
  have inside : 0x301000 ≤ R.EVT_TARGET n ∧ R.EVT_TARGET n < 0x302800 := by
    unfold R.EVT_TARGET
    omega
  have place : (R.EVT_TARGET n - 0x301000) / 4 = n := by
    unfold R.EVT_TARGET
    omega
  show regReset (R.EVT_TARGET n) = _
  unfold regReset
  rw [if_pos inside, place]

theorem reg_reset_evtEnable : ∀ g < 48, State.reset.reg (R.EVT_ENABLE g) = if g = 47 then 0x80001 else 0 := by
  decide

theorem bitOf_zero {w : Nat} (b : Nat) : bitOf (0 : BitVec w) b = false := BitVec.getLsbD_zero

theorem enable_reset_47 : ∀ b < 32,
    bitOf (0x80001 : W64) b = (32 * 47 + b == 1504 || 32 * 47 + b == 1523) := by
  decide

/-- Settles O8: the reset values of the target and ENABLE registers. -/
theorem resetRoutesEvents : Obligations.ResetRoutesEvents := by
  refine ⟨fun n source => ?_, fun g group b bit => ?_⟩
  · have group : n / 32 < 48 := by omega
    have vector : State.reset.evtVector n = n / 32 := by
      rw [State.evtVector, reg_reset_evtTarget source, bitsOf, BitVec.toNat_ofNat]
      split <;> omega
    refine ⟨vector, vector.trans_lt group, ?_⟩
    rw [reg_reset_evtTarget source, bitOf, BitVec.getLsbD_ofNat]
    by_cases routed : n = 1504 ∨ n = 1523
    · obtain rfl | rfl := routed <;> rfl
    · obtain ⟨fault, hold⟩ := not_or.mp routed
      rw [if_neg routed, Nat.testBit_lt_two_pow (by omega), beq_false_of_ne fault, beq_false_of_ne hold]
      rfl
  · rw [reg_reset_evtEnable g group]
    split
    next last =>
      subst last
      exact enable_reset_47 b bit
    next other =>
      rw [bitOf_zero, beq_false_of_ne (by omega), beq_false_of_ne (by omega)]
      rfl

theorem bitOf_and {w : Nat} (v u : BitVec w) (b : Nat) : bitOf (v &&& u) b = (bitOf v b && bitOf u b) :=
  BitVec.getLsbD_and

/-- A word with a bit set is not zero: the search of the sources may skip groups that are. -/
theorem ne_zero_of_bitOf {w : Nat} {v : BitVec w} {b : Nat} (set : bitOf v b = true) : v ≠ 0 := fun zero => by
  rw [zero, bitOf_zero] at set
  cases set

/-- Settles O9: the two searches of the pin's level, as existence. -/
theorem irqPinFollowsSources : Obligations.IrqPinFollowsSources := by
  intro s
  simp only [State.irqLow, State.someAsserting, List.any_eq_true, List.mem_range, Bool.and_eq_true, bne_iff_ne]
  constructor
  · rintro ⟨g, group, -, b, bit, asserts, routed⟩
    rw [State.asserting, bitOf_and, Bool.and_eq_true] at asserts
    exact ⟨g, group, b, bit, asserts.1, asserts.2, routed⟩
  · rintro ⟨g, group, b, bit, latched, enabled, routed⟩
    have asserts : bitOf (s.asserting g) b = true := by
      rw [State.asserting, bitOf_and, latched, enabled]
      rfl
    exact ⟨g, group, ne_zero_of_bitOf asserts, b, bit, asserts, routed⟩

end Sys2Proof.Machine
end


section
/-! Register writes through BAR0 (R305, R452): a reserved offset takes no write, whatever its block would do there. -/

namespace Sys2Proof.Machine

/-- A running device whose host has role FULL and in which no tag is staged. -/
def State.noneStaged : State :=
  { State.reset with
    boot := { State.reset.boot with mode := .running, resetLow := false, railFault := false }
    regs := [(R.CMD_ROLE_HOST, 2)] }

/-- The word after the last of stream gate 0's 36 registers, inside its 256 bytes. -/
def gateHole : BitVec 26 := 0x1410090#26

theorem noneStaged_open : State.noneStaged.barOpen gateHole.toNat = true := by decide

theorem noneStaged_full : State.noneStaged.fld F.CMD_ROLE_HOST_ROLE = 2 := by decide

theorem regAt_gateHole : regAt gateHole.toNat = none := by decide

theorem regParts_gateHole : regParts gateHole.toNat false 0 = some [(gateHole.toNat, 0)] := by decide

/-- A write of one register at a reserved offset does nothing (R7). -/
theorem State.barWrite_reserved {s : State} {off : Nat} {wide : Bool} {d v : W64} {a : Nat}
    {put : State → Nat → W64 → State} (one : regParts off wide d = some [(a, v)]) (reserved : regAt a = none) :
    s.barWrite off wide d put = s := by
  rw [State.barWrite, one]
  show (if (regAt a).isSome = true then put s a v else s) = s
  rw [reserved]
  rfl

/-- The gate tables' own check runs on the whole range: with no staged tag it latches WR_ACTIVE there. -/
theorem writeReg_gateHole : State.noneStaged.writeReg gateHole.toNat 0 = State.noneStaged.wrActive := rfl

theorem noneStaged_wrActive_clear : State.noneStaged.flag F.WBL_STATUS_WR_ACTIVE = false := by decide

theorem wrActive_flag : State.noneStaged.wrActive.flag F.WBL_STATUS_WR_ACTIVE = true := by
  refine (flag_congr _ (State.reg_raiseG_ne _ (by decide) (by decide) (by decide))).trans ?_
  exact State.flag_setFlag_same _ (by decide) _ _ rfl (by decide)

/-- Refutes O10: 0x1410090 is reserved, so a write to it through BAR0 does nothing, but the write of the register there
latches WR_ACTIVE while tag 0 is not staged. -/
theorem not_eventsAndRegisters : ¬ Obligations.EventsAndRegisters := by
  intro holds
  obtain ⟨_, _, _, _, _, reaches, _⟩ := holds State.noneStaged
  obtain ⟨_, wellFormed⟩ := reaches gateHole noneStaged_open noneStaged_full
  have dropped : exec (.registerWrite gateHole false 0) State.noneStaged = .next State.noneStaged := by
    show Host.Outcome.next (State.byHost _ _ _) = _
    rw [State.byHost_full noneStaged_open noneStaged_full, State.barWrite_reserved regParts_gateHole regAt_gateHole]
  have same : State.noneStaged = State.noneStaged.wrActive := by
    have both := dropped.symm.trans (wellFormed false 0 _ 0 regParts_gateHole)
    rw [writeReg_gateHole] at both
    exact Host.Outcome.next.inj both
  have latched := wrActive_flag
  rw [← same, noneStaged_wrActive_clear] at latched
  exact Bool.false_ne_true latched

end Sys2Proof.Machine
end


section
/-! Reports of faults, the records that they leave and the fences that follow (R395 to R415). -/

namespace Sys2Proof.Machine

/-! ### Reports (R395 to R400, R414) -/

/-- Settles O54: each report's own test of source and class. -/
theorem faultReports : Obligations.FaultReports := by
  refine fun s => ⟨fun src k may noPll noWake => ?_, fun src k mayNot => ?_, fun src valid other => ?_,
    fun src reserved => ?_, fun src k a may => ?_, fun src k a mayNot => ?_⟩
  · have level : (if k.toNat = 0x61 then if src.toNat = 0x611 then 5 else 4 else baseLevel k.toNat) =
        baseLevel k.toNat := if_neg noPll
    show Host.Outcome.next _ = _
    dsimp only
    rw [may, if_neg (Bool.noConfusion : ¬ true = false), if_neg noWake, level]
  · exact congrArg Host.Outcome.next (if_pos mayNot)
  · have owns : (sourceValid src.toNat && !(decide (0x601 ≤ src.toNat) && decide (src.toNat ≤ 0x605))) = true := by
      rw [valid]
      simp only [Bool.true_and, Bool.not_eq_true', Bool.and_eq_false_iff, decide_eq_false_iff_not]
      omega
    exact congrArg Host.Outcome.next (if_pos owns)
  · refine congrArg Host.Outcome.next (if_neg ?_)
    rw [reserved]
    exact Bool.false_ne_true
  · exact congrArg Host.Outcome.next (if_pos may)
  · refine congrArg Host.Outcome.next (if_neg ?_)
    rw [mayNot]
    exact Bool.false_ne_true

/-- Settles O57: an injection takes the levels 0 to 4 and the sources in use. -/
theorem injectedFaults : Obligations.InjectedFaults := by
  intro s reach full l src
  have written : exec (.faultInject l src) s = .next (s.inject l.toNat src.toNat) :=
    congrArg Host.Outcome.next (State.byHost_full reach full)
  rw [written]
  refine ⟨fun low valid => congrArg _ (if_pos ⟨low, valid⟩), fun bad => congrArg _ (if_neg ?_)⟩
  rintro ⟨low, valid⟩
  obtain high | reserved := bad
  · omega
  · exact Bool.false_ne_true (reserved.symm.trans valid)

/-! ### Acknowledging and clearing (R411) -/

/-- Word 0 of a record after a mark: a slot that holds none keeps its word. -/
def markedWord (bit : Nat) (w : W64) : W64 := if bitOf w 63 then w ||| w64 (2 ^ bit) else w

/-- Word 0 of a record after a clear: one that is not acknowledged keeps its word. -/
def clearedWord (w : W64) : W64 := if bitOf w 62 then markedWord 61 w else w

/-- `t` is `s` with word 0 of the log's slots in `slots` rewritten by `f`. -/
structure State.RewritesLog (s : State) (f : W64 → W64) (slots : Nat → Prop) (t : State) : Prop where
  regsOnly : t = { s with regs := t.regs }
  form : twf regReset t.regs = true
  others : ∀ o, (∀ k, slots k → o ≠ R.FLT_LOG k 0) → t.reg o = s.reg o
  words : ∀ k, slots k → t.logWord0 k = f (s.logWord0 k)

theorem FLT_LOG_word0_ne {k j : Nat} (other : k ≠ j) : R.FLT_LOG k 0 ≠ R.FLT_LOG j 0 := by
  unfold R.FLT_LOG
  omega

theorem State.RewritesLog.same {s : State} {f : W64 → W64} {k : Nat} (form : twf regReset s.regs = true)
    (fixed : f (s.logWord0 k) = s.logWord0 k) : s.RewritesLog f (· = k) s :=
  ⟨rfl, form, fun _ _ => rfl, fun _ slot => slot ▸ fixed.symm⟩

theorem State.RewritesLog.store {s : State} {f : W64 → W64} {k : Nat} (form : twf regReset s.regs = true) {v : W64}
    (value : f (s.logWord0 k) = v) : s.RewritesLog f (· = k) (s.setReg (R.FLT_LOG k 0) v) := by
  refine ⟨rfl, twf_setReg s form _ _, fun o out => s.reg_setReg_ne v (out k rfl), ?_⟩
  rintro j rfl
  exact (s.reg_setReg form _ _ v).trans ((if_pos rfl).trans value.symm)

theorem State.markRecord_rewrites {s : State} (form : twf regReset s.regs = true) (k bit : Nat) :
    s.RewritesLog (markedWord bit) (· = k) (s.markRecord k bit) := by
  unfold State.markRecord
  split
  case isTrue holds => exact .store form (if_pos holds)
  case isFalse holds => exact .same form (if_neg holds)

theorem State.ackRecord_rewrites {s : State} (form : twf regReset s.regs = true) (k : Nat) :
    s.RewritesLog (markedWord 62) (· = k) (s.ackRecord k) :=
  State.markRecord_rewrites form k 62

theorem State.clearRecord_rewrites {s : State} (form : twf regReset s.regs = true) (k : Nat) :
    s.RewritesLog clearedWord (· = k) (s.clearRecord k) := by
  unfold State.clearRecord
  split
  case isTrue acked =>
    obtain ⟨regsOnly, form', others, words⟩ := State.markRecord_rewrites form k 61
    refine ⟨regsOnly, form', others, ?_⟩
    rintro j rfl
    exact (words j rfl).trans (if_pos acked).symm
  case isFalse acked => exact .same form (if_neg acked)

/-- A rewrite of one slot after another rewrites them all. -/
theorem State.foldl_rewrites {f : W64 → W64} {g : State → Nat → State}
    (one : ∀ s : State, twf regReset s.regs = true → ∀ k, s.RewritesLog f (· = k) (g s k)) :
    ∀ (l : List Nat) (s : State), l.Nodup → twf regReset s.regs = true → s.RewritesLog f (· ∈ l) (l.foldl g s)
  | [], s, _, form => ⟨rfl, form, fun _ _ => rfl, fun _ absurd => nomatch absurd⟩
  | k :: l, s, distinct, form => by
    obtain ⟨fresh, distinct'⟩ := List.nodup_cons.mp distinct
    have first := one s form k
    have rest := State.foldl_rewrites one l (g s k) distinct' first.form
    have kept : ∀ j, j ≠ k → (g s k).logWord0 j = s.logWord0 j := fun j other =>
      first.others _ fun i slot => slot ▸ FLT_LOG_word0_ne other
    refine ⟨?_, rest.form, fun o out => ?_, fun j slot => ?_⟩
    · exact rest.regsOnly.trans
        (congrArg (fun u : State => { u with regs := (l.foldl g (g s k)).regs }) first.regsOnly)
    · exact (rest.others o fun i slot => out i (List.mem_cons_of_mem _ slot)).trans
        (first.others o fun i slot => slot ▸ out k List.mem_cons_self)
    · obtain rfl | later := List.mem_cons.mp slot
      · exact (rest.others _ fun i slot => FLT_LOG_word0_ne (ne_of_mem_of_not_mem slot fresh).symm).trans (first.words j rfl)
      · exact (rest.words j later).trans (congrArg f (kept j fun e => fresh (e ▸ later)))

/-- Settles O56: one record or all, each mark rewrites word 0 of its slots alone. -/
theorem faultRecordsAckAndClear : Obligations.FaultRecordsAckAndClear := by
  intro s inv full
  have form : twf regReset s.regs = true := inv.regs
  refine ⟨fun reach => ⟨fun k => ?_, ?_⟩, fun reach => ⟨fun k => ?_, ?_⟩⟩
  · have acked := State.ackRecord_rewrites form k
    refine ⟨_, congrArg Host.Outcome.next (State.byHost_full reach full), acked.regsOnly,
      fun o other => acked.others o fun _ slot => slot ▸ other, fun holds => ?_⟩
    exact (acked.words k rfl).trans (if_pos holds)
  · have acked := State.foldl_rewrites (fun _ => State.ackRecord_rewrites) (List.range 256) s List.nodup_range form
    refine ⟨_, congrArg Host.Outcome.next (State.byHost_full reach full), acked.regsOnly, fun k slot holds => ?_⟩
    exact (acked.words k (List.mem_range.mpr slot)).trans (if_pos holds)
  · have cleared := State.clearRecord_rewrites form k
    refine ⟨_, congrArg Host.Outcome.next (State.byHost_full reach full), cleared.regsOnly,
      fun o other => cleared.others o fun _ slot => slot ▸ other, fun unacked => ?_, fun holds acked => ?_⟩
    · exact if_neg (ne_true_of_eq_false unacked)
    · exact (cleared.words k rfl).trans ((if_pos acked).trans (if_pos holds))
  · have cleared := State.foldl_rewrites (fun _ => State.clearRecord_rewrites) (List.range 256) s List.nodup_range
      form
    refine ⟨_, congrArg Host.Outcome.next (State.byHost_full reach full), cleared.regsOnly,
      fun k slot => ⟨fun unacked => ?_, fun holds acked => ?_⟩⟩
    · exact (cleared.words k (List.mem_range.mpr slot)).trans (if_neg (ne_true_of_eq_false unacked))
    · exact (cleared.words k (List.mem_range.mpr slot)).trans ((if_pos acked).trans (if_pos holds))

/-! ### Fences and their lifting (R403, R408, R412) -/

@[simp] theorem State.raiseG_flt (s : State) (g b : Nat) : (s.raiseG g b).flt = s.flt := by
  rw [State.raiseG, State.raise_frame]

theorem State.switchPoint_flt (s : State) (c p : Nat) : (s.switchPoint c p).flt = s.flt := by
  unfold State.switchPoint
  split
  · exact State.raiseG_flt _ _ _
  · rfl

theorem State.setPoint_flt (s : State) (c p : Nat) : (s.setPoint c p).flt = s.flt := by
  unfold State.setPoint
  extract_lets cs r t need
  have moved : t.flt = s.flt := State.switchPoint_flt _ _ _
  split
  · split
    · exact moved
    · exact moved
  · split
    · rfl
    · split
      · exact State.switchPoint_flt _ _ _
      · split
        · rfl
        · rfl

theorem State.refit_flt (s : State) (c : Nat) : (s.refit c).flt = s.flt := by
  unfold State.refit
  split
  · rfl
  · split
    · exact State.setPoint_flt _ _ _
    · split
      · exact State.setPoint_flt _ _ _
      · split
        · exact State.setPoint_flt _ _ _
        · rfl

@[simp] theorem State.refitAll_flt (s : State) : s.refitAll.flt = s.flt :=
  List.foldlRecOn (motive := fun u : State => u.flt = s.flt) _ _ rfl fun u same _ _ => (u.refit_flt _).trans same

@[simp] theorem State.laneReturns_flt (s : State) (p : Nat) : (s.laneReturns p).flt = s.flt := by
  unfold State.laneReturns
  extract_lets m
  split
  · rfl
  · rfl

/-- What a passed self-test puts in service again: a lane, the lanes of a quad, nothing for other units. -/
theorem State.serviceReturns_flt (s : State) (src : Nat) :
    (if 0x80 ≤ src ∧ src < 0x100 then s.laneReturns (src - 0x80)
      else if 0x550 ≤ src ∧ src < 0x570 then
        (List.range 4).foldl (fun (u : State) i => u.laneReturns (4 * (src - 0x550) + i)) s
      else s).flt = s.flt := by
  split
  · exact s.laneReturns_flt _
  · split
    · exact List.foldlRecOn (motive := fun u : State => u.flt = s.flt) _ _ rfl fun u same _ _ =>
        (u.laneReturns_flt _).trans same
    · rfl

/-- A recheck that is due is the only change that it makes to the fences. -/
theorem State.wantRecheck_fences (s : State) :
    s.wantRecheck.flt.unfencing = s.flt.unfencing ∧ s.wantRecheck.flt.fenced = s.flt.fenced := by
  unfold State.wantRecheck
  split
  · exact ⟨rfl, rfl⟩
  · exact ⟨rfl, rfl⟩

/-- A self-test that passes lifts the fence of its unit (R412). -/
theorem execBistDone_pass {s : State} {src : Nat} (testing : s.flt.unfencing = some src) :
    ∃ u, execBistDone true s = .next u ∧ u.flt.unfencing = none ∧ u.flt.fenced = s.flt.fenced.filter (· != src) := by
  unfold execBistDone
  rw [testing]
  dsimp only
  rw [if_pos rfl]
  have kept (t : State) : ((((t.setFld F.FLT_UNFENCE_STATUS_RESULT 1).refitAll).count R.FLT_C_UNFENCES).raiseG 47
      6).flt = t.flt := by
    simp only [State.raiseG_flt, State.count_flt, State.refitAll_flt, State.setFld_flt]
  have lifted (t : State) := (kept _).trans (t.serviceReturns_flt src)
  exact ⟨_, rfl, (State.wantRecheck_fences _).1.trans (congrArg FaultUnit.unfencing (lifted _)),
    (State.wantRecheck_fences _).2.trans (congrArg FaultUnit.fenced (lifted _))⟩

/-- Settles O55: each command's own test, and the record or the change of the fences that it leads to. -/
theorem faultLogAndFences : Obligations.FaultLogAndFences := by
  refine fun s => ⟨fun src none_ => ?_, fun src l decided => ?_, fun idle => congrArg _ (if_pos idle), fun due => ?_,
    fun reach full => ⟨fun k => ?_, ?_⟩, fun reach full => ⟨fun k unacked => ?_, fun k acked => ?_, ?_⟩,
    fun reach full src => ⟨fun refused => ?_, fun fenced may free cleared region => ?_⟩,
    fun pass idle => ?_, fun src testing => ⟨?_, execBistDone_pass testing⟩⟩
  · show execFenceComplete src s = _
    rw [execFenceComplete, none_]
  · show execFenceComplete src s = _
    rw [execFenceComplete, decided]
  · have checked : ¬ s.flt.recheck = false := by
      rw [due]
      exact Bool.noConfusion
    refine ⟨fun idle => ?_, fun a active => ?_⟩
    · show execRecheckDone s = _
      rw [execRecheckDone, if_neg checked, idle]
    · show execRecheckDone s = _
      rw [execRecheckDone, if_neg checked, active]
  · exact congrArg Host.Outcome.next (State.byHost_full reach full)
  · exact congrArg Host.Outcome.next (State.byHost_full reach full)
  · exact congrArg Host.Outcome.next ((State.byHost_full reach full).trans (if_neg (ne_true_of_eq_false unacked)))
  · exact congrArg Host.Outcome.next ((State.byHost_full reach full).trans (if_pos acked))
  · exact congrArg Host.Outcome.next (State.byHost_full reach full)
  · refine congrArg Host.Outcome.next ((State.byHost_full reach full).trans (if_pos ?_))
    obtain unfenced | fixed | testing := refused
    · simp [unfenced]
    · simp [fixed]
    · simp [Option.isSome_iff_ne_none.mpr testing]
  · refine congrArg Host.Outcome.next ((State.byHost_full reach full).trans (if_neg ?_))
    cases place : regionOf src.toNat with
    | none => simp [may, fenced, cleared, free]
    | some r => simp [may, fenced, cleared, free, region r place]
  · show execBistDone pass s = _
    rw [execBistDone, idle]
  · show execBistDone false s = _
    rw [execBistDone, testing]
    rfl

end Sys2Proof.Machine
end


section
/-! The control instructions that act outside the tables (R277, R288, R296, R353, R359, R370). -/

namespace Sys2Proof.Machine

/-! ### A request that wakes the DRAM leaves its bytes and the time -/

theorem State.changeEnd_mem (s : State) (set : Nat) : (s.changeEnd set).ddr.mem = s.ddr.mem := by
  unfold State.changeEnd
  rw [State.raiseG, State.raise_frame]
  rfl

theorem State.changeEnd_time (s : State) (set : Nat) : (s.changeEnd set).time = s.time := by
  unfold State.changeEnd
  rw [State.raiseG, State.raise_frame]
  rfl

theorem State.ddrWake_mem (s : State) (o : Nat) : (s.ddrWake o).ddr.mem = s.ddr.mem := by
  show s.changeWait.ddr.mem = _
  unfold State.changeWait
  split
  · exact s.changeEnd_mem _
  · rfl

theorem State.ddrWake_time (s : State) (o : Nat) : (s.ddrWake o).time = s.time := by
  show s.changeWait.time = _
  unfold State.changeWait
  split
  · exact s.changeEnd_time _
  · rfl

/-! ### SNAPSHOT (R277, R296) -/

/-- Without a unit no word of DDR is a target. -/
theorem snapTarget_none (o : Nat) : snapTarget 0 o = false := by
  have off : bitOf (0 : BitVec 26) (o / 2 ^ 20) = false := bitOf_zero _
  rw [snapTarget, off, Bool.and_false, Bool.false_and]

/-- A SNAPSHOT of no unit: the time, and DDR as it is. -/
theorem State.snapshot_none {s : State} {addr : Nat} (finds : EccFinds) (aligned : addr % 2 ^ 20 = 0)
    (mapped : s.ddrMapped addr 1 = true) : ∃ t, s.snapshot 0 addr finds =
      ((0, 0, [w64 (stampSec s.stamp), w64 (stampNs s.stamp)]), t) ∧ t.ddr.mem = s.ddr.mem := by
  have allowed : ¬ (addr % 2 ^ 20 ≠ 0 ∨ s.ddrMapped addr 1 = false ∨
      (((List.range 26).filter fun u => bitOf (0 : BitVec 26) u).all fun u =>
        s.ddrMapped (addr + u * 2 ^ 20) (2 ^ 20)) = false) := by
    rw [aligned, mapped, List.filter_eq_nil_iff.mpr fun u _ => ne_true_of_eq_false (bitOf_zero u)]
    simp
  have stampSame : (s.ddrWake (addr - ddrBase)).stamp = s.stamp := congrArg (·.now / tbFrac) (s.ddrWake_time _)
  have noWrite (l : List (Nat × W64)) (m : Memory) : l.foldl (fun m _ => m) m = m :=
    List.foldlRecOn (motive := fun n : Memory => n = m) _ _ rfl fun _ same _ _ => same
  unfold State.snapshot
  rw [if_neg allowed]
  simp only [snapTarget_none, Bool.and_false, Bool.false_and, List.filter_false, List.length_nil, Nat.lt_irrefl,
    decide_false, List.map_nil, List.append_nil, List.eraseDups_nil, List.isEmpty_nil, if_true, List.foldl_nil,
    Bool.false_eq_true, if_false, Bool.not_false, List.filter_true, noWrite, stampSame]
  exact ⟨_, rfl, s.ddrWake_mem (addr - ddrBase)⟩

/-! ### The instructions as they come by themselves (R288, R290) -/

theorem State.answered_last (s : State) (code a : Nat) (words : List W64) : (s.answered code a words).cmd.last =
    w64 (code * 2 ^ 56 + words.length * 2 ^ 40 + a % 2 ^ 40) :: words := rfl

/-- Settles O42: each instruction is carried out at once and leaves its result. -/
theorem unitInstructions : Obligations.UnitInstructions := by
  refine fun s running => ⟨fun addr finds aligned mapped => ?_, fun units addr finds bad => ?_,
    fun sel arm data => ?_, fun cause => ?_, fun r named => ⟨?_, ?_, fun src low high => ?_⟩, fun src r bad => ?_,
    fun w0 w1 reads off off' => ?_, fun w0 w1 reads bs bad first soft t on pages => ⟨fun streamed => ?_,
      fun stored aligned mapped => ?_⟩⟩
  · obtain ⟨t, result, mem⟩ := State.snapshot_none finds aligned mapped
    refine ⟨_, congrArg Host.Outcome.next (State.ctrlAlone_running running _), ?_, ?_⟩
    · rw [result, State.answered_last]
      simp only [List.length_cons, List.length_nil, Nat.zero_mul, Nat.zero_mod, Nat.zero_add, Nat.add_zero]
    · rw [result]
      exact mem
  · have refused : s.snapshot units addr.toNat finds = ((0x15, 0, []), s) :=
      if_pos (bad.imp_right Or.inl)
    refine (congrArg Host.Outcome.next (State.ctrlAlone_running running _)).trans ?_
    rw [refused]
  · exact State.ctrl_running running (·.capArmCmd sel.toNat arm data) rfl
  · exact State.ctrl_running running (·.capTrig cause.toNat) rfl
  · exact State.ctrl_running running (r := ((0, 0, []), _)) (·.roleWrite 0 r.toNat) (if_neg (by bv_omega))
  · exact State.ctrl_running running (·.roleWrite 1 r.toNat) (if_neg (by bv_omega))
  · refine State.ctrl_running running (r := ((0, 0, []), _)) (·.roleWrite src.toNat r.toNat) ((if_neg (by bv_omega)).trans ?_)
    rw [if_neg (by omega), if_neg (by omega)]
    rfl
  · refine State.ctrl_running running (·.roleWrite src.toNat r.toNat) (if_pos ?_)
    exact bad.imp_left (congrArg BitVec.toNat)
  · exact State.ctrl_running running (·.arcRead w0 w1 reads) (if_pos ⟨off, off'⟩)
  · refine State.ctrl_running running (r := ((0, 0, _), _)) (·.arcRead w0 w1 reads) ?_
    show State.arcRead _ _ _ _ = _
    unfold State.arcRead
    rw [if_neg (by omega), pages]
    exact if_pos streamed
  · refine State.ctrl_running running (r := ((0, 0, _), _)) (·.arcRead w0 w1 reads) ?_
    show State.arcRead _ _ _ _ = _
    unfold State.arcRead
    rw [if_neg (by omega), pages]
    refine (if_neg stored).trans (if_neg ?_)
    rw [aligned, mapped]
    simp

end Sys2Proof.Machine
end


section
/-! The time base's own commands, PPS and the reads that take from it (R260 to R273). -/

namespace Sys2Proof.Machine

/-! ### A step of the time base tells the timetables and the waybills of it (R200, R224): neither moves it again -/

theorem State.logFirst_time (s : State) (off vbit rec : Nat) : (s.logFirst off vbit rec).time = s.time := by
  unfold State.logFirst
  split <;> rfl

theorem State.bringCredit_time (s : State) (q : Nat) : (s.bringCredit q).time = s.time := by
  unfold State.bringCredit
  extract_lets eq dt now p eg onWire cut
  split <;> rfl

theorem State.chargeGap_time (s : State) (q : Nat) : (s.chargeGap q).time = s.time := by
  unfold State.chargeGap
  dsimp only
  split
  · exact s.bringCredit_time q
  · split
    · exact s.bringCredit_time q
    · exact s.bringCredit_time q

theorem State.preemptWire_time (s : State) (p : Nat) : (s.preemptWire p).time = s.time := by
  unfold State.preemptWire
  split
  · rfl
  · split
    · exact s.chargeGap_time _
    · rfl

theorem State.gateEffects_time (s : State) (p : Nat) : (s.gateEffects p).time = s.time := by
  unfold State.gateEffects
  split
  · rfl
  · split
    · rfl
    · extract_lets c shut t
      split
      · exact s.preemptWire_time p
      · split
        · exact (State.raiseG_time _ _ _).trans (State.logFirst_time _ _ _ _)
        · rfl

theorem State.bringPort_time (s : State) (p : Nat) : (s.bringPort p).time = s.time :=
  List.foldlRecOn (motive := fun u : State => u.time = s.time) _ _ rfl fun u same _ _ => (u.bringCredit_time _).trans same

theorem State.ttStep_time (s : State) (p t : Nat) : (s.ttStep p t).time = s.time := by
  unfold State.ttStep
  dsimp only
  split
  · exact (State.gateEffects_time _ _).trans (s.bringPort_time p)
  · rfl

theorem State.ttStepAll_time (s : State) : s.ttStepAll.time = s.time := by
  unfold State.ttStepAll
  extract_lets runs t
  have same : t.time = s.time :=
    List.foldlRecOn (motive := fun u : State => u.time = s.time) _ _ rfl fun u same _ _ =>
      ((State.ttStep_time _ _ _).trans (State.ttStep_time _ _ _)).trans same
  split
  · exact (State.raiseG_time _ _ _).trans same
  · exact same

/-! ### Steps and slews (R261) -/

theorem State.stepTo_time (s : State) (new : Nat) : (s.stepTo new).time = { s.time with now := new % tbWrap } := by
  show State.time (State.wblTimeStep (State.ttStepAll _)) = _
  rw [State.wblTimeStep, State.modWbl_time, State.ttStepAll_time, State.raiseG_time]
  rfl

theorem State.endSlew_still {s : State} (still : s.time.slew = none) : s.endSlew = s := by
  unfold State.endSlew
  rw [still]
  rfl

theorem State.stepGo_time {s : State} (still : s.time.slew = none) : s.stepGo.time =
    { s.time with now := (((s.time.now : Int) + signed 32 (s.fld F.TIM_ADJ_OFFSET) * tbNs) % (tbWrap : Int)).toNat %
      tbWrap } := by
  show State.time (State.stepTo s.endSlew _) = _
  rw [State.endSlew_still still, State.stepTo_time]

theorem State.setGo_time {s : State} (still : s.time.slew = none) : s.setGo.time =
    { s.time with now := (((s.fld F.TIM_SET_SEC_HI_SEC_HI * 2 ^ 32 + s.fld F.TIM_SET_SEC_LO_SEC_LO) * 1000000000 +
      min 999999999 (s.fld F.TIM_SET_NS_NS)) * tbNs) % tbWrap } := by
  show State.time (State.stepTo s.endSlew _) = _
  rw [State.endSlew_still still, State.stepTo_time]

/-- A number below the wrap that a step by `d` from `now` gives is congruent to it. -/
theorem wrapped_step (x : Int) : 0 ≤ x % (tbWrap : Int) ∧
    (((x % (tbWrap : Int)).toNat % tbWrap : Nat) : Int) = x % (tbWrap : Int) := by
  have positive : (0 : Int) < tbWrap := by decide
  have low := Int.emod_nonneg x positive.ne'
  have high := Int.emod_lt_of_pos x positive
  refine ⟨low, ?_⟩
  rw [Int.natCast_emod, Int.toNat_of_nonneg low, Int.emod_emod]

theorem State.ppsRun_slew (s : State) (old : Nat) : (s.ppsRun old).time.slew = s.time.slew := by
  unfold State.ppsRun
  extract_lets past risen
  have rises : risen.time.slew = s.time.slew := by
    unfold risen
    split
    · rfl
    · rfl
  split
  · exact rises
  · exact rises

theorem adjOffset_after_command (s : State) (mode : Nat) :
    (s.setFld F.TIM_ADJ_CMD_MODE mode).fld F.TIM_ADJ_OFFSET = s.fld F.TIM_ADJ_OFFSET :=
  fld_congr _ (s.reg_setReg_ne _ (by decide))

/-- A slew starts with the OFFSET, clamped (R261). -/
theorem execSlew_starts {s : State} (inv : Inv s) (still : s.time.slew = none) (reach : s.barOpen R.TIM_ADJ_CMD = true)
    (full : s.fld F.CMD_ROLE_HOST_ROLE = 2) : ∃ t, exec .slew s = .next t ∧ t = { s with time := t.time, regs := t.regs } ∧
      t.time.slew = some (max (-1000000) (min 1000000 (signed 32 (s.fld F.TIM_ADJ_OFFSET))) * 5497558138880) ∧
      t.time.now = s.time.now ∧ t.time.cycles = s.time.cycles ∧ t.time.reports = s.time.reports ∧
      t.flag F.TIM_STATUS_SLEWING = true := by
  have form : twf regReset (s.setFld F.TIM_ADJ_CMD_MODE 0).regs = true := s.twf_setFld inv.regs _ _
  have still' : (s.setFld F.TIM_ADJ_CMD_MODE 0).time.slew = none := still
  refine ⟨_, congrArg Host.Outcome.next (State.byHost_full reach full), ?_⟩
  unfold State.slewGo
  rw [State.endSlew_still still', adjOffset_after_command]
  exact ⟨rfl, rfl, rfl, rfl, rfl, State.flag_setFlag_same _ form _ _ rfl (by decide)⟩

/-- A step moves the time base by the OFFSET at once (R261). -/
theorem execTimeStep_moves {s : State} (still : s.time.slew = none) (reach : s.barOpen R.TIM_ADJ_CMD = true)
    (full : s.fld F.CMD_ROLE_HOST_ROLE = 2) : ∃ t, exec .timeStep s = .next t ∧ t.time.slew = none ∧
      t.time.cycles = s.time.cycles ∧
      ((t.time.now : Int) - ((s.time.now : Int) + signed 32 (s.fld F.TIM_ADJ_OFFSET) * 5497558138880)) %
        (2 ^ 48 * 1000000000 * 5497558138880) = 0 ∧ t.time.now < tbWrap := by
  have still' : (s.setFld F.TIM_ADJ_CMD_MODE 1).time.slew = none := still
  refine ⟨_, congrArg Host.Outcome.next (State.byHost_full reach full), ?_⟩
  rw [State.stepGo_time still', adjOffset_after_command]
  refine ⟨still, rfl, ?_, Nat.mod_lt _ (by decide)⟩
  rw [show (State.time _).now = _ from rfl, (wrapped_step _).2]
  exact Int.emod_eq_emod_iff_emod_sub_eq_zero.mp (Int.emod_emod _ _)

theorem State.slewStop_time (s : State) : s.slewStop.time = { s.time with slew := none } := by
  rw [State.slewStop, State.raiseG_time]
  rfl

/-- The end of a slew runs the time base on until the slew has applied all of the rest. -/
theorem execSlewEnd_time {s : State} {rest : Int} (slewing : s.time.slew = some rest) :
    let n := ceilDiv rest.natAbs slewRate.natAbs
    ∃ t, exec .slewEnd s = .next t ∧ t.time.slew = none ∧ t.time.cycles = s.time.cycles + n ∧
      t.time.now = (((s.time.now : Int) + (n * s.tbRate + rest)) % (tbWrap : Int)).toNat := by
  intro n
  have run : exec .slewEnd s = .next (({ s.tbAdd (n * s.tbRate + rest) with time :=
      { (s.tbAdd (n * s.tbRate + rest)).time with cycles := s.time.cycles + n } } : State).slewStop.ppsRun
        s.time.now) := by
    show execSlewEnd s = _
    rw [execSlewEnd, slewing]
    rfl
  refine ⟨_, run, ?_, ?_, ?_⟩
  · rw [State.ppsRun_slew, State.slewStop_time]
  · rw [(State.ppsRun_time _ _).2, State.slewStop_time]
  · rw [(State.ppsRun_time _ _).1, State.slewStop_time]
    rfl

/-- With FREQ = 0 one cycle's worth of the slew ends after one cycle (R261). -/
theorem execSlewEnd_ends (s : State) (rest : Int) :
    ∃ t, exec .slewEnd { s with time := { s.time with slew := some rest } } = .next t ∧ t.time.slew = none ∧
      (s.fld F.TIM_FREQ_FREQ = 0 → rest.natAbs = 8 * 2 ^ 30 →
        t.time.now = (((s.time.now : Int) + 8 * 2 ^ 40 + rest) % (tbWrap : Int)).toNat ∧
        t.time.cycles = s.time.cycles + 1) := by
  obtain ⟨t, run, still, cycles, now⟩ :=
    execSlewEnd_time (s := { s with time := { s.time with slew := some rest } }) rfl
  refine ⟨t, run, still, fun nominal one => ?_⟩
  have rate : s.tbRate = 8 * 2 ^ 40 := by
    rw [State.tbRate, nominal]
    rfl
  have single : ceilDiv rest.natAbs slewRate.natAbs = 1 := by
    rw [one]
    decide
  rw [single] at cycles now
  refine ⟨now.trans ?_, cycles⟩
  show Int.toNat (((s.time.now : Int) + (((1 : Nat) : Int) * s.tbRate + rest)) % _) = _
  rw [rate, Int.natCast_one, Int.one_mul, Int.add_assoc]

/-! ### PPS_IN (R270) -/

/-- An edge is recorded before its LOAD is looked at. -/
def State.ppsInRecorded (s : State) : State :=
  let ovf := s.flag F.TIM_PPS_IN_TS_VALID || s.flag F.TIM_PPS_IN_TS_OVF
  let t := s.setReg R.TIM_PPS_IN_TS (w64 (2 ^ 31 + b2n ovf * 2 ^ 30 + stampNs s.stamp))
  ((t.setFld F.TIM_PPS_IN_SEC_SEC_LO (stampSec s.stamp)).count R.TIM_C_PPS_IN_EDGES).raiseG 42 2

theorem execPpsInEdge_enabled {s : State} (on : s.flag F.TIM_PPS_IN_CFG_PPS_IN_EN = true) : execPpsInEdge s =
    .next (if s.ppsInRecorded.flag F.TIM_PPS_IN_CFG_LOAD then
      (s.ppsInRecorded.setFlag F.TIM_PPS_IN_CFG_LOAD false).stepTo
        (s.ppsInRecorded.fld F.TIM_PPS_LOAD_SEC_LOAD_SEC * 1000000000 * tbNs)
      else s.ppsInRecorded) :=
  congrArg Host.Outcome.next (if_neg (ne_false_of_eq_true on))

/-- The record touches its own registers, the counter and the event alone. -/
theorem State.ppsInRecorded_reg (s : State) {o : Nat} (apart : o ≠ R.TIM_PPS_IN_TS ∧ o ≠ R.TIM_PPS_IN_SEC ∧
    o ≠ R.TIM_C_PPS_IN_EDGES ∧ o ≠ R.EVT_LATCH 42 ∧ o ≠ R.MSIX_PBA) : s.ppsInRecorded.reg o = s.reg o := by
  obtain ⟨ts, sec, edges, latch, pba⟩ := apart
  exact (State.reg_raiseG_ne _ (by decide) latch pba).trans ((State.reg_setReg_ne _ _ edges).trans
    ((State.reg_setReg_ne _ _ sec).trans (State.reg_setReg_ne _ _ ts)))

theorem execPpsInEdge_records {s : State} (on : s.flag F.TIM_PPS_IN_CFG_PPS_IN_EN = true)
    (load : s.flag F.TIM_PPS_IN_CFG_LOAD = false) (valid : s.flag F.TIM_PPS_IN_TS_VALID = false)
    (ovf : s.flag F.TIM_PPS_IN_TS_OVF = false) : execPpsInEdge s =
      .next ((((s.setReg R.TIM_PPS_IN_TS (w64 (2 ^ 31 + stampNs s.stamp))).setFld F.TIM_PPS_IN_SEC_SEC_LO
        (stampSec s.stamp)).count R.TIM_C_PPS_IN_EDGES).raiseG 42 2) := by
  have keeps : s.ppsInRecorded.flag F.TIM_PPS_IN_CFG_LOAD = false :=
    (flag_congr _ (s.ppsInRecorded_reg (by decide))).trans load
  have first : b2n (s.flag F.TIM_PPS_IN_TS_VALID || s.flag F.TIM_PPS_IN_TS_OVF) = 0 := by
    rw [valid, ovf]
    rfl
  rw [execPpsInEdge_enabled on, if_neg (ne_true_of_eq_false keeps), State.ppsInRecorded, first, Nat.zero_mul,
    Nat.add_zero]

theorem execPpsInEdge_loads {s : State} (on : s.flag F.TIM_PPS_IN_CFG_PPS_IN_EN = true)
    (load : s.flag F.TIM_PPS_IN_CFG_LOAD = true) : ∃ t, execPpsInEdge s = .next t ∧
      t.time.now = s.fld F.TIM_PPS_LOAD_SEC_LOAD_SEC * 1000000000 * 5497558138880 := by
  have keeps : s.ppsInRecorded.flag F.TIM_PPS_IN_CFG_LOAD = true :=
    (flag_congr _ (s.ppsInRecorded_reg (by decide))).trans load
  have second : s.ppsInRecorded.fld F.TIM_PPS_LOAD_SEC_LOAD_SEC = s.fld F.TIM_PPS_LOAD_SEC_LOAD_SEC :=
    fld_congr _ (s.ppsInRecorded_reg (by decide))
  have small : s.fld F.TIM_PPS_LOAD_SEC_LOAD_SEC < 2 ^ 32 := bitsOf_lt _ 31 0
  refine ⟨_, (execPpsInEdge_enabled on).trans (congrArg _ (if_pos keeps)), ?_⟩
  rw [State.stepTo_time, second]
  refine Nat.mod_eq_of_lt ?_
  rw [show tbWrap = 2 ^ 48 * 1000000000 * 5497558138880 from rfl, show tbNs = 5497558138880 from rfl]
  omega

/-- Settles O39: each command of the time base and of its PPS pins, and the two reads that take from it. -/
theorem timeBaseAndPps : Obligations.TimeBaseAndPps := by
  refine ⟨fun s still => ⟨fun reach full v => ?_, fun reach full inv => ⟨execSlew_starts inv still reach full,
    execTimeStep_moves still reach full⟩, fun reach full => ?_, ?_, execSlewEnd_ends s⟩, fun s => ⟨fun en at_ low => ?_,
    fun no => ?_, fun high late => ?_, fun no => ?_, fun off => ?_, fun on load valid ovf => ?_, fun on load => ?_,
    fun awake => ?_, fun asleep => ⟨?_, ?_⟩, fun awake empty => ?_, fun r rest awake front => ?_⟩⟩
  · exact congrArg Host.Outcome.next (State.byHost_full reach full)
  · refine ⟨_, congrArg Host.Outcome.next (State.byHost_full reach full), ?_⟩
    rw [State.setGo_time still]
    exact ⟨still, rfl⟩
  · show execSlewEnd s = _
    rw [execSlewEnd, still]
  · exact congrArg Host.Outcome.next (if_pos ⟨en, at_, low⟩)
  · refine congrArg Host.Outcome.next (if_neg ?_)
    rintro ⟨en, at_, low⟩
    simp [en, at_, low] at no
  · refine congrArg Host.Outcome.next (if_pos ?_)
    rw [State.ppsOver, high, decide_eq_true late]
    rfl
  · refine congrArg Host.Outcome.next (if_neg ?_)
    rw [State.ppsOver, Bool.and_eq_true, decide_eq_true_eq]
    rintro ⟨high, late⟩
    obtain low | early := no
    · exact Bool.false_ne_true (low.symm.trans high)
    · omega
  · exact congrArg Host.Outcome.next (if_pos off)
  · exact execPpsInEdge_records on load valid ovf
  · exact execPpsInEdge_loads on load
  · exact congrArg Host.Outcome.next (State.hostRead_awake awake _)
  · exact congrArg Host.Outcome.next (if_pos asleep)
  · exact congrArg Host.Outcome.next (if_pos asleep)
  · refine congrArg Host.Outcome.next ((State.hostRead_awake awake _).trans ?_)
    rw [State.txtsPop, State.txtsWord0, empty]
    rfl
  · refine congrArg Host.Outcome.next ((State.hostRead_awake awake _).trans ?_)
    rw [State.txtsPop, State.txtsWord0, front]
    rfl

end Sys2Proof.Machine
end


section
/-! Blocks of commands: how they enter the queue, execute and leave their results (R280 to R295). -/

namespace Sys2Proof.Machine

/-! ### Entry (R281, R283, R291, R292) -/

section
variable {s : State} {b : CmdBlock}

theorem State.blockEnter_sound (sound : blockBad b.source b.words = false) (may : b.forbidden = false) :
    s.blockEnter b = { s with cmd := { s.cmd with queue := s.cmd.queue ++ [b] } } :=
  (if_neg (ne_true_of_eq_false sound)).trans (if_neg (ne_true_of_eq_false may))

theorem State.blockEnter_malformed (bad : blockBad b.source b.words = true) : s.blockEnter b =
    ((s.count R.CMD_C_MALFORMED).raiseG 41 4).blockDone b [resultHeader (blockSeq b.words) 0x20 0 1] :=
  if_pos bad

theorem State.blockEnter_forbidden (sound : blockBad b.source b.words = false) (mayNot : b.forbidden = true) :
    s.blockEnter b = s.roleRefuse b :=
  (if_neg (ne_true_of_eq_false sound)).trans (if_pos mayNot)

theorem State.roleRefuse_host (host : b.source = 0) : s.roleRefuse b =
    ((s.count R.CMD_C_ROLE_DROP_HOST).raiseG 41 3).blockDone b [resultHeader (blockSeq b.words) 0x21 0 1] :=
  if_pos host

/-- A block whose instructions its role may run is not forbidden (R277). -/
theorem CmdBlock.forbidden_eq_false
    (may : ∀ i ∈ (blockInstrs b.words).getD [], roleMay b.role (ctrlOp i.1) (ctrlFunc i.1) = true) :
    b.forbidden = false :=
  List.any_eq_false.mpr fun i listed => by
    rw [may i listed]
    exact Bool.false_ne_true

end

/-- The fetch of the next block of an enabled ring (R291). -/
theorem execRingBlockFetched_open {s : State} {words : List W64} (unblocked : s.dmaBlocked = false)
    (enabled : s.flag F.CMD_RING_CFG_EN = true) (waiting : s.fld F.CMD_RING_PI_PI ≠ s.fld F.CMD_RING_CI_CI)
    (room : s.cmdFull = false) : exec (.ringBlockFetched words) s =
      .next ((s.fetchedBlock words).2.blockEnter (s.fetchedBlock words).1) := by
  refine congrArg Host.Outcome.next (if_neg ?_)
  rw [unblocked, enabled, room, beq_false_of_ne waiting]
  decide

/-! ### Execution (R280, R290, R294) -/

theorem execBlockExecute_front {s : State} {b : CmdBlock} {rest : List CmdBlock} {found : List Found}
    (queue : s.cmd.queue = b :: rest) (takes : s.cmdOpen = true) : exec (.blockExecute found) s =
      .next (if b.forbidden then ({ s with cmd := { s.cmd with queue := rest } } : State).roleRefuse b
        else ({ s with cmd := { s.cmd with queue := rest } } : State).blockRun b found) := by
  show execBlockExecute found s = _
  rw [execBlockExecute, if_pos takes, queue]

/-- NOP needs no table and no unit: it answers success. -/
theorem State.ctrlRun_nop (s : State) {w : W64} (op : ctrlOp w = 0x3E) (func : ctrlFunc w = 0) (found : Found) :
    s.ctrlRun w [] found = ((0, 0, []), s) := by
  unfold State.ctrlRun
  rw [op, func, if_pos ⟨rfl, Nat.zero_le 1⟩]
  unfold State.ctrlDo
  rw [op, func]
  rfl

/-- A block of one NOP succeeds with one empty record. -/
theorem State.blockRun_nop (s : State) {b : CmdBlock} {w : W64} (instrs : blockInstrs b.words = some [(w, [])])
    (op : ctrlOp w = 0x3E) (func : ctrlFunc w = 0) (found : List Found) : s.blockRun b found =
      ((s.count R.CMD_C_INSTRS).count R.CMD_C_BLOCKS).blockDone b [resultHeader (blockSeq b.words) 0 1 2, 0] := by
  have one (stop : Bool) : BlockRun.next stop found ⟨s, [], 0, 0⟩ 0 (w, []) = ⟨s.count R.CMD_C_INSTRS, [0], 1, 0⟩ := by
    unfold BlockRun.next
    rw [if_neg (by cases stop <;> exact Bool.false_ne_true), s.ctrlRun_nop op func]
    rfl
  unfold State.blockRun
  rw [instrs]
  show State.blockDone (State.count (BlockRun.st (BlockRun.next _ _ _ _ _)) _) _ _ = _
  simp only [Option.getD_some, List.length_singleton, List.range_one, List.zip_cons_cons, List.zip_nil_left,
    List.foldl_cons, List.foldl_nil, one]

/-! ### Results (R295) -/

/-- While a block of a source waits its header reads READY = 0. -/
theorem State.resultView_waiting {s : State} {src : Nat} (waits : ∃ b ∈ s.cmd.queue, b.source = src) :
    bitOf (s.resultView src) 63 = false := by
  obtain ⟨b, queued, source⟩ := waits
  have listed : (s.cmd.queue.find? fun b => b.source == src).isSome = true :=
    List.find?_isSome.mpr ⟨b, queued, beq_iff_eq.mpr source⟩
  obtain ⟨c, first⟩ := Option.isSome_iff_exists.mp listed
  have small : blockSeq c.words < 2 ^ 16 := bitsOf_lt _ 55 40
  rw [State.resultView, first]
  show (BitVec.ofNat 64 (blockSeq c.words * 2 ^ 40)).getLsbD 63 = false
  rw [BitVec.getLsbD_ofNat, Nat.testBit_lt_two_pow (by omega)]
  rfl

theorem State.resultView_done {s : State} {src : Nat} (none_ : ∀ b ∈ s.cmd.queue, b.source ≠ src) :
    s.resultView src = s.reg (R.CMD_RESULT src 0) := by
  have absent : (s.cmd.queue.find? fun b => b.source == src) = none :=
    List.find?_eq_none.mpr fun b queued => beq_iff_eq.not.mpr (none_ b queued)
  rw [State.resultView, absent]

/-- Settles O40: the tests at the queue's door, the block at its front, and the headers that are read. -/
theorem commandBlocks : Obligations.CommandBlocks := by
  refine ⟨fun s => ⟨fun pi reach => ⟨fun fits => ?_, fun overruns => ?_⟩, fun words unblocked enabled waiting room =>
      ⟨fun sound may => ?_, fun bad => ?_, fun sound mayNot => ?_⟩, fun words blocked => ?_, fun words held => ?_,
      fun words awake => ⟨fun full => ?_, fun room sound role may => ?_⟩⟩,
    fun s => ⟨fun found empty => ?_, fun found closed => ?_, fun b rest found queue takes =>
      ⟨fun may => ?_, fun mayNot => ?_⟩, fun b rest w found queue takes may instrs op func => ?_, fun running => ?_,
      fun src awake waits => ?_, fun src awake none_ ready => ?_⟩⟩
  · exact congrArg Host.Outcome.next ((State.byHost_exempt reach (by decide)).trans (if_neg (Nat.not_lt.mpr fits)))
  · exact congrArg Host.Outcome.next ((State.byHost_exempt reach (by decide)).trans (if_pos overruns))
  · rw [execRingBlockFetched_open unblocked enabled waiting room]
    exact congrArg Host.Outcome.next (State.blockEnter_sound sound may)
  · rw [execRingBlockFetched_open unblocked enabled waiting room]
    exact congrArg Host.Outcome.next (State.blockEnter_malformed bad)
  · rw [execRingBlockFetched_open unblocked enabled waiting room]
    have refused := State.blockEnter_forbidden (s := (s.fetchedBlock words).2) (b := (s.fetchedBlock words).1) sound mayNot
    rw [refused, State.roleRefuse_host rfl]
    rfl
  · refine congrArg Host.Outcome.next (if_pos ?_)
    rw [blocked]
    rfl
  · exact congrArg Host.Outcome.next (if_pos held)
  · exact congrArg Host.Outcome.next ((if_neg (ne_true_of_eq_false awake)).trans (if_pos full))
  · have mail : (s.mailboxWrite words).mailBlock = ⟨1, (s.mailboxWrite words).mailbox, 2, 0, none, false⟩ := by
      rw [State.mailBlock, role]
    have allowed : CmdBlock.forbidden ⟨1, (s.mailboxWrite words).mailbox, 2, 0, none, false⟩ = false :=
      CmdBlock.forbidden_eq_false may
    refine congrArg Host.Outcome.next ((if_neg (ne_true_of_eq_false awake)).trans
      ((if_neg (ne_true_of_eq_false room)).trans ?_))
    rw [mail]
    exact State.blockEnter_sound sound allowed
  · show execBlockExecute found s = _
    rw [execBlockExecute, empty, ite_self]
  · show execBlockExecute found s = _
    rw [execBlockExecute, if_neg (ne_true_of_eq_false closed)]
  · exact (execBlockExecute_front queue takes).trans (congrArg _ (if_neg (ne_true_of_eq_false may)))
  · exact (execBlockExecute_front queue takes).trans (congrArg _ (if_pos mayNot))
  · rw [execBlockExecute_front queue takes, if_neg (ne_true_of_eq_false may), State.blockRun_nop _ instrs op func]
  · exact congrArg Host.Outcome.next (State.ctrlAlone_running running _)
  · exact ⟨_, congrArg Host.Outcome.next ((State.hostRead_awake awake _).trans
      (if_neg (ne_true_of_eq_false (State.resultView_waiting waits)))), rfl⟩
  · have view := State.resultView_done none_
    refine congrArg Host.Outcome.next ((State.hostRead_awake awake _).trans ?_)
    rw [view]
    exact if_pos ready

end Sys2Proof.Machine
end


section
/-! The capture request at the head and the trigger pin (R354, R355, R359). -/

namespace Sys2Proof.Machine

/-! ### Capture service (R354, R355) -/

section
variable {s : State} {q : CapReq} {rest : List CapReq} {f : Frame} {e : EccRead} {fs : EccFinds}
  (head : s.arc.queue = q :: rest) (held : s.frame q.frame = some f) (whole : f.complete = true)

include head held

theorem execCaptureServe_early (part : f.complete = false) (good : f.bad = false) :
    exec (.captureServe e fs) s = .next s := by
  show execCaptureServe e fs s = _
  simp only [execCaptureServe, head, held]
  rw [if_pos ⟨part, good⟩]

include whole

omit head held in
theorem Frame.notEarly : ¬ (f.complete = false ∧ f.bad = false) := fun early =>
  Bool.false_ne_true (early.1.symm.trans whole)

/-- A record that its bucket refuses becomes a gap. -/
theorem execCaptureServe_refused
    (refused : (s.capCharge q.sel (48 + ceilDiv (s.capLen q.sel f.len) 8 * 8)).1 = false) :
    exec (.captureServe e fs) s = .next (((s.capCharge q.sel (48 + ceilDiv (s.capLen q.sel f.len) 8 * 8)).2.loseRecord 3
      q.sel (s.rebuiltStamp f.stamp)).capPop) := by
  show execCaptureServe e fs s = _
  simp only [execCaptureServe, head, held]
  rw [if_neg (Frame.notEarly whole), if_pos refused]

section
variable {t : State} (charged : s.capCharge q.sel (48 + ceilDiv (s.capLen q.sel f.len) 8 * 8) = (true, t))
include charged

/-- The record cell that an earlier service drew is written first. -/
theorem execCaptureServe_spare {c : Nat} (spare : t.arc.recCell = some c) :
    exec (.captureServe e fs) s = .next (t.capWrite q f e fs) := by
  show execCaptureServe e fs s = _
  simp only [execCaptureServe, head, held, charged, spare]
  rw [if_neg (Frame.notEarly whole), if_neg (by decide)]

/-- Without one the pool is asked for a cell. -/
theorem execCaptureServe_drawn {c : Nat} {w : List Nat} {fl : Bool} {u : State} (none_ : t.arc.recCell = none)
    (drawn : t.request 0x10 false false [] = (.cell c, w, fl, u)) : exec (.captureServe e fs) s =
      .next (({ u with arc := { u.arc with recCell := some c } } : State).capWrite q f e fs) := by
  show execCaptureServe e fs s = _
  simp only [execCaptureServe, head, held, charged, none_, drawn]
  rw [if_neg (Frame.notEarly whole), if_neg (by decide)]
  rfl

theorem execCaptureServe_poolRefuses {w : List Nat} {fl : Bool} {u : State} (none_ : t.arc.recCell = none)
    (refused : t.request 0x10 false false [] = (.none, w, fl, u)) :
    exec (.captureServe e fs) s = .next u.capNone := by
  show execCaptureServe e fs s = _
  simp only [execCaptureServe, head, held, charged, none_, refused]
  rw [if_neg (Frame.notEarly whole), if_neg (by decide)]

end

end

/-! ### TRIG_IN (R359) -/

/-- With no edge in the last millisecond an enabled pin triggers. -/
theorem execTrigInEdge_triggers {s : State} (enabled : s.flag F.ARC_TRIG_CFG2_PIN_EN = true)
    (rested : ∀ c, s.arc.pinAt = some c → c + 625000 ≤ s.time.cycles) : exec .trigInEdge s =
      .next (({ s with arc := { s.arc with pinAt := some s.time.cycles } } : State).trigger 3
        (s.fld F.ARC_TRIG_CFG2_PIN_CAUSE) s.stamp) := by
  refine congrArg Host.Outcome.next (if_neg ?_)
  rintro (off | soon)
  · exact Bool.false_ne_true (off.symm.trans enabled)
  · cases last : s.arc.pinAt with
    | none => simp [last] at soon
    | some c =>
      have passed := rested c last
      simp only [last, decide_eq_true_eq] at soon
      omega

theorem execTrigInEdge_soon {s : State} {c : Nat} (last : s.arc.pinAt = some c) (soon : s.time.cycles < c + 625000) :
    exec .trigInEdge s = .next s := by
  refine congrArg Host.Outcome.next (if_pos (Or.inr ?_))
  rw [last]
  exact decide_eq_true soon

/-- Settles O49: the tests of a capture request in their order, and the pin's enable and its rest of a millisecond. -/
theorem capturesAndTriggers : Obligations.CapturesAndTriggers := by
  refine fun s => ⟨fun empty e fs => ?_, fun q rest f e fs head held => ⟨execCaptureServe_early head held,
    fun whole => ⟨fun refused => ?_, fun c admitted cell => ?_, fun w fl u admitted empty none_ => ?_,
      fun c w fl u admitted empty drawn => ?_⟩⟩, fun off => ?_, fun enabled rested =>
      ⟨execTrigInEdge_triggers enabled rested, fun arcOff => ?_⟩, fun c => execTrigInEdge_soon⟩
  · show execCaptureServe e fs s = _
    rw [execCaptureServe, empty]
  · exact execCaptureServe_refused head held whole refused
  · exact execCaptureServe_spare head held whole (Prod.ext admitted rfl) cell
  · exact execCaptureServe_poolRefuses head held whole (Prod.ext admitted rfl) empty none_
  · exact execCaptureServe_drawn head held whole (Prod.ext admitted rfl) empty drawn
  · exact congrArg Host.Outcome.next (if_pos (Or.inl off))
  · exact (execTrigInEdge_triggers enabled rested).trans (congrArg _ (if_pos arcOff))

end Sys2Proof.Machine
end


section
/-! BAR0 errors, the windows of BAR2 and the requests through them (R304 to R310). -/

namespace Sys2Proof.Machine

/-! ### Window entries (R307) -/

/-- A field that a mask covers keeps its value. -/
theorem bitsOf_and_covered {w hi lo : Nat} (v m : BitVec w) (covers : ∀ i < hi + 1 - lo, m.toNat.testBit (lo + i) = true) :
    bitsOf (v &&& m) hi lo = bitsOf v hi lo := by
  refine Nat.eq_of_testBit_eq fun i => ?_
  simp only [bitsOf, BitVec.toNat_and, Nat.testBit_mod_two_pow, Nat.testBit_div_two_pow, Nat.testBit_and]
  by_cases inside : i < hi + 1 - lo
  · rw [Nat.add_comm i lo, covers i inside, Bool.and_true]
  · simp [inside]

/-- A field that a mask leaves out is 0. -/
theorem bitsOf_and_cleared {w hi lo : Nat} (v m : BitVec w) (clears : ∀ i < hi + 1 - lo, m.toNat.testBit (lo + i) = false) :
    bitsOf (v &&& m) hi lo = 0 := by
  refine Nat.eq_of_testBit_eq fun i => ?_
  simp only [bitsOf, BitVec.toNat_and, Nat.testBit_mod_two_pow, Nat.testBit_div_two_pow, Nat.testBit_and,
    Nat.zero_testBit]
  by_cases inside : i < hi + 1 - lo
  · rw [Nat.add_comm i lo, clears i inside, Bool.and_false, Bool.and_false]
  · simp [inside]

/-- A window entry keeps its address and its three flags (R310). -/
theorem windowEntry_fields (data : W64) : bitsOf (data &&& 0xE00000FFFFFFF000) 39 12 = bitsOf data 39 12 ∧
    bitsOf (data &&& 0xE00000FFFFFFF000) 63 61 = bitsOf data 63 61 ∧ bitsOf (data &&& 0xE00000FFFFFFF000) 60 40 = 0 :=
  ⟨bitsOf_and_covered _ _ (by decide), bitsOf_and_covered _ _ (by decide), bitsOf_and_cleared _ _ (by decide)⟩

theorem execWinEntryWrite_wide {s : State} {w : Fin 16} (reach : s.barOpen (R.HST_WIN w) = true)
    (full : s.fld F.CMD_ROLE_HOST_ROLE = 2) (data : W64) : ∃ t, exec (.winEntryWrite w true data) s = .next t ∧
      t = { s with regs := t.regs } ∧ (∀ o, o ≠ R.HST_WIN w → t.reg o = s.reg o) ∧
      (Inv s → bitsOf (t.reg (R.HST_WIN w)) 39 12 = bitsOf data 39 12 ∧
        bitsOf (t.reg (R.HST_WIN w)) 63 61 = bitsOf data 63 61 ∧ bitsOf (t.reg (R.HST_WIN w)) 60 40 = 0) := by
  refine ⟨_, congrArg Host.Outcome.next (State.byHost_full reach full), rfl, fun o other => s.reg_setReg_ne _ other,
    fun inv => ?_⟩
  have entry : (s.setReg (R.HST_WIN w) (data &&& 0xE00000FFFFFFF000)).reg (R.HST_WIN w) = data &&& 0xE00000FFFFFFF000 :=
    (s.reg_setReg inv.regs _ _ _).trans (if_pos rfl)
  show bitsOf (State.reg (s.setReg _ _) _) 39 12 = _ ∧ bitsOf (State.reg (s.setReg _ _) _) 63 61 = _ ∧
    bitsOf (State.reg (s.setReg _ _) _) 60 40 = _
  rw [entry]
  exact windowEntry_fields data

/-! ### A resize of BAR2 (R302, R306) -/

/-- Make one window invalid. -/
def State.closeWindow (s : State) (w : Nat) : State :=
  s.setReg (R.HST_WIN w) (setBits (s.reg (R.HST_WIN w)) 63 63 0)

theorem HST_WIN_inj {w v : Nat} (same : R.HST_WIN w = R.HST_WIN v) : w = v := by
  unfold R.HST_WIN at same
  omega

theorem State.closeWindow_valid {s : State} (form : twf regReset s.regs = true) (w v : Nat) :
    bitOf ((s.closeWindow w).reg (R.HST_WIN v)) 63 = (decide (v ≠ w) && bitOf (s.reg (R.HST_WIN v)) 63) := by
  rw [State.closeWindow, s.reg_setReg form]
  split
  case isTrue same =>
    obtain rfl := HST_WIN_inj same
    rw [bitOf_setBits _ _ _ _ _ (by decide) (by decide)]
    simp
  case isFalse other =>
    have apart : v ≠ w := fun same => other (same ▸ rfl)
    simp [apart]

/-- A window that a run over windows meets is invalid after it, and stays so. -/
theorem State.closeWindows_valid : ∀ (l : List Nat) (s : State), twf regReset s.regs = true → ∀ v,
    v ∈ l ∨ bitOf (s.reg (R.HST_WIN v)) 63 = false → bitOf ((l.foldl State.closeWindow s).reg (R.HST_WIN v)) 63 = false
  | [], _, _, _, met => met.resolve_left List.not_mem_nil
  | w :: l, s, form, v, met => by
    refine State.closeWindows_valid l (s.closeWindow w) (s.twf_setReg form _ _) v ?_
    rw [State.closeWindow_valid form]
    rcases met with listed | shut
    · rcases List.mem_cons.mp listed with rfl | later
      · exact Or.inr (by simp)
      · exact Or.inl later
    · exact Or.inr (by rw [shut, Bool.and_false])

theorem State.closeWindows_frame (l : List Nat) (s : State) : l.foldl State.closeWindow s =
    { s with regs := (l.foldl State.closeWindow s).regs } :=
  List.foldlRecOn (motive := fun u : State => u = { s with regs := u.regs }) _ _ rfl fun u same w _ =>
    congrArg (fun x : State => { x with regs := (u.closeWindow w).regs }) same

theorem execBarResize_closes {s : State} {log2 : Fin 37} (enough : 24 ≤ log2.val) : ∃ t,
    exec (.barResize log2) s = .next t ∧ t.host = { s.host with bar2Log := log2.val } ∧
      t = { s with host := t.host, regs := t.regs } ∧ (Inv s → ∀ w : Fin 16, bitOf (t.reg (R.HST_WIN w)) 63 = false) := by
  have run : exec (.barResize log2) s = .next ((List.range 16).foldl State.closeWindow
      (s.modHost fun h => { h with bar2Log := log2.val })) :=
    congrArg Host.Outcome.next (if_neg (Nat.not_lt.mpr enough))
  have frame := State.closeWindows_frame (List.range 16) (s.modHost fun h => { h with bar2Log := log2.val })
  have shut := State.closeWindows_valid (List.range 16) (s.modHost fun h => { h with bar2Log := log2.val })
  generalize (List.range 16).foldl State.closeWindow (s.modHost fun h => { h with bar2Log := log2.val }) = t at *
  have host : t.host = { s.host with bar2Log := log2.val } := congrArg State.host frame
  exact ⟨t, run, host, frame.trans (congrArg (fun h => { s with host := h, regs := t.regs }) host.symm), fun inv w =>
    shut inv.regs w (Or.inl (List.mem_range.mpr w.isLt))⟩

/-! ### Requests through BAR2 (R308, R309) -/

section
variable {s : State} {off : BitVec 36} (up : s.host.linkUp = true) (awake : s.host.d3hot = false)
  (inside : off.toNat < 2 ^ s.host.bar2Log) {write : Bool} {size : Fin 4097} {data : List Byte} {finds : EccFinds}

include up awake inside

/-- A request that reaches its window while the interface is not frozen. -/
theorem execBar2Request_thawed (thawed : s.flag F.HST_STATUS_FROZEN = false) :
    exec (.bar2Request write off size data finds) s =
      let room := 2 ^ s.host.bar2Log / 16
      let entry := s.reg (R.HST_WIN (off.toNat / room))
      let a := bitsOf entry 39 12 * 4096 + off.toNat % room
      .next (if bitOf entry 63 = false ∨ bitOf entry (if write then 62 else 61) = false then
          (s.winRefused 1 (off.toNat / room) (off.toNat % room) (!write)).emit .unsupported
        else if write then s.bar2Write (off.toNat / room) (off.toNat % room) a size.val (padTo size.val data) finds
        else s.bar2Read (off.toNat / room) (off.toNat % room) a size.val finds) := by
  have linked : ¬ (s.host.linkUp = false ∨ 2 ^ s.host.bar2Log ≤ off.toNat) := by
    rw [up]
    simp [inside]
  refine congrArg Host.Outcome.next ((if_neg linked).trans ((if_neg (ne_true_of_eq_false awake)).trans (if_neg ?_)))
  rw [thawed, Bool.and_false]
  exact Bool.false_ne_true

theorem execBar2Request_frozen (frozen : s.flag F.HST_STATUS_FROZEN = true) :
    exec (.bar2Request true off size data finds) s = .next (s.count R.HST_C_FROZEN_DROP) := by
  have linked : ¬ (s.host.linkUp = false ∨ 2 ^ s.host.bar2Log ≤ off.toNat) := by
    rw [up]
    simp [inside]
  refine congrArg Host.Outcome.next ((if_neg linked).trans ((if_neg (ne_true_of_eq_false awake)).trans (if_pos ?_)))
  rw [frozen]
  rfl

end

/-- A permitted request is not refused by its window. -/
theorem permitted_iff {entry : W64} {write : Bool} : (bitOf entry 63 && bitOf entry (if write then 62 else 61)) = true ↔
    ¬ (bitOf entry 63 = false ∨ bitOf entry (if write then 62 else 61) = false) := by
  rw [not_or, Bool.and_eq_true, Bool.not_eq_false, Bool.not_eq_false]

/-- Settles O43: each access goes through its own test, and a request through BAR2 is answered by its target. -/
theorem windowAccess : Obligations.WindowAccess := by
  refine fun s => ⟨fun off awake => ⟨?_, ?_⟩, fun asleep off w => ⟨?_, ?_⟩, fun w reach full =>
      ⟨execWinEntryWrite_wide reach full, fun data => ?_⟩, fun w awake => ?_, fun write off size data finds up awake thawed
      inside => ?_, fun off size data finds up awake frozen inside => execBar2Request_frozen up awake inside frozen,
    fun log2 enough => execBarResize_closes enough⟩
  · exact congrArg Host.Outcome.next (State.hostRead_awake awake _)
  · exact congrArg Host.Outcome.next (State.hostRead_awake awake _)
  · exact congrArg Host.Outcome.next (if_pos asleep)
  · exact congrArg Host.Outcome.next (if_pos asleep)
  · exact congrArg Host.Outcome.next (State.byHost_full reach full)
  · exact congrArg Host.Outcome.next (State.hostRead_awake awake _)
  · rw [execBar2Request_thawed up awake inside thawed]
    refine ⟨fun refused => congrArg _ (if_pos ?_), fun allowed unmapped => ?_, fun allowed target wr => ?_,
      fun allowed target rd => ?_, fun allowed target wr => ?_⟩
    · exact not_not.mp fun no => Bool.false_ne_true (refused.symm.trans (permitted_iff.mpr no))
    · refine congrArg _ ((if_neg (permitted_iff.mp allowed)).trans ?_)
      rw [State.bar2Write, State.bar2Read, unmapped]
      cases write
      · rfl
      · rfl
    · subst wr
      refine congrArg _ ((if_neg (permitted_iff.mp allowed)).trans ((if_pos rfl).trans ?_))
      rw [State.bar2Write, target]
    · subst rd
      refine congrArg _ ((if_neg (permitted_iff.mp allowed)).trans ((if_neg Bool.false_ne_true).trans ?_))
      unfold State.bar2Read
      rw [target]
    · subst wr
      refine congrArg _ ((if_neg (permitted_iff.mp allowed)).trans ((if_pos rfl).trans ?_))
      rw [State.bar2Write, target]

end Sys2Proof.Machine
end


section
/-! DMA channels and rings (R321 to R325). -/

namespace Sys2Proof.Machine

/-- The host interface's own registers are written below role FULL too (R278). -/
theorem roleExempt_host {off : Nat} (low : 0x400000 ≤ off) (high : off < 0x500000) : roleExempt off = true := by
  have block : off / 2 ^ 20 = 4 := by omega
  rw [roleExempt, block]
  rfl

section
variable (c : Chan) (k : Ring)

theorem roleExempt_chCtrl : roleExempt (R.DMA_CH_CTRL c) = true :=
  roleExempt_host (by unfold R.DMA_CH_CTRL; omega) (by unfold R.DMA_CH_CTRL; omega)

theorem roleExempt_ringCfg : roleExempt (R.DMA_RING_CFG k) = true :=
  roleExempt_host (by unfold R.DMA_RING_CFG; omega) (by unfold R.DMA_RING_CFG; omega)

theorem roleExempt_ringDb : roleExempt (R.DMA_RING_DB k) = true :=
  roleExempt_host (by unfold R.DMA_RING_DB; omega) (by unfold R.DMA_RING_DB; omega)

end

/-! ### Channels (R323, R325) -/

/-- A START that finds the channel running, or the interface closed, is ignored. -/
theorem State.chanStart_ignored {s : State} {c : Nat} (closed : s.dmaBlocked = true ∨ s.fld (F.DMA_CH_STATUS_STATE c) ≠ 0) :
    s.chanStart c = s := by
  refine if_pos ?_
  rw [Bool.or_eq_true, bne_iff_ne]
  exact closed

theorem State.chanStart_stopped {s : State} {c : Nat} (unblocked : s.dmaBlocked = false)
    (stopped : s.fld (F.DMA_CH_STATUS_STATE c) = 0) : s.chanStart c =
      (s.setFld (F.DMA_CH_STATUS_STATE c) 1).setFld (F.DMA_CH_STATUS_STOP_CODE c) 0 := by
  refine if_neg ?_
  rw [unblocked, stopped]
  decide

/-- With no descriptor that retries a NONE, no ring of the channel is taken to a boundary. -/
theorem State.poolBoundaries_none {s : State} {l : List Nat}
    (none_ : ∀ k ∈ l, ∀ i r, s.injecting k ≠ some (.frame i r true)) : l.foldl State.poolBoundary s = s :=
  List.foldlRecOn (motive := fun u : State => u = s) _ _ rfl fun u same k listed => by
    rw [same, State.poolBoundary]
    split
    · next i r found => exact absurd found (none_ k listed i r)
    · rfl

/-- A stop code that is recorded once the channel stops. -/
def State.stopPending (s : State) (c code : Nat) : State :=
  { s with host := { s.host with stopping := tput (fun _ => none) s.host.stopping c (some code) } }

theorem State.stopAtBoundary_running {s : State} {c code : Nat} (running : s.fld (F.DMA_CH_STATUS_STATE c) = 1)
    (none_ : ∀ k ∈ chanRings c, ∀ i r, s.injecting k ≠ some (.frame i r true)) : s.stopAtBoundary c code =
      ((s.stopPending c code).setFld (F.DMA_CH_STATUS_STATE c) 2).chanSettle c := by
  rw [State.stopAtBoundary, if_neg (not_not.mpr running), State.poolBoundaries_none none_]
  rfl

/-- A channel with a descriptor under way is STOPPING. -/
theorem State.chanStop_busy {s : State} {c : Nat} (running : s.fld (F.DMA_CH_STATUS_STATE c) = 1)
    (none_ : ∀ k ∈ chanRings c, ∀ i r, s.injecting k ≠ some (.frame i r true))
    (busy : ∃ k ∈ chanRings c, s.injecting k ≠ none) :
    s.chanStop c = (s.stopPending c 1).setFld (F.DMA_CH_STATUS_STATE c) 2 := by
  obtain ⟨k, ring, injects⟩ := busy
  refine (State.stopAtBoundary_running running none_).trans (if_neg ?_)
  rintro ⟨-, idle⟩
  exact injects (Option.isNone_iff_eq_none.mp (List.all_eq_true.mp idle k ring))

/-- A stop of a channel at a boundary, for the code recorded by `stopPending`, below 2. -/
theorem State.stopChan_asked {s : State} {c : Nat} (runs : s.fld (F.DMA_CH_STATUS_STATE c) ≠ 0)
    (asked : tget (fun _ => none) s.host.stopping c = some 1) : s.stopChan c 1 =
      ((s.modHost fun h => { h with stopping := tput (fun _ => none) h.stopping c none }).setFld
        (F.DMA_CH_STATUS_STATE c) 0).setFld (F.DMA_CH_STATUS_STOP_CODE c) 1 := by
  rw [State.stopChan, if_neg runs, asked]
  exact if_neg (by decide)

theorem State.chanSettle_idle {s : State} {c : Nat} (leaves : s.fld (F.DMA_CH_STATUS_STATE c) = 2)
    (idle : ∀ k ∈ chanRings c, s.injecting k = none) : s.chanSettle c = s.stopChan c 1 :=
  if_pos ⟨leaves, List.all_eq_true.mpr fun k ring => Option.isNone_iff_eq_none.mpr (idle k ring)⟩

theorem State.chanSettle_other {s : State} {c : Nat} (stays : s.fld (F.DMA_CH_STATUS_STATE c) ≠ 2) :
    s.chanSettle c = s :=
  if_neg fun both => stays both.1

section
variable {s : State} (form : twf regReset s.regs = true) (c n : Nat)
include form

theorem State.chState_set : (s.setFld (F.DMA_CH_STATUS_STATE c) n).fld (F.DMA_CH_STATUS_STATE c) = n % 4 :=
  s.fld_setFld_same form _ n (show 30 ≤ 31 by decide) (show 31 < 64 by decide)

theorem State.chStopCode_set : (s.setFld (F.DMA_CH_STATUS_STOP_CODE c) n).fld (F.DMA_CH_STATUS_STOP_CODE c) = n % 8 :=
  s.fld_setFld_same form _ n (show 24 ≤ 26 by decide) (show 26 < 64 by decide)

theorem State.chState_setStopCode :
    (s.setFld (F.DMA_CH_STATUS_STOP_CODE c) n).fld (F.DMA_CH_STATUS_STATE c) = s.fld (F.DMA_CH_STATUS_STATE c) :=
  s.fld_setFld_other form _ _ n (show 24 ≤ 26 by decide) (show 26 < 64 by decide) (Or.inr (Or.inr (show 26 < 30 by decide)))

end

/-- A channel at its boundary stops with code 1 at once (R325). -/
theorem State.chanStop_idle {s : State} {c : Nat} (running : s.fld (F.DMA_CH_STATUS_STATE c) = 1)
    (idle : ∀ k ∈ chanRings c, s.injecting k = none) :
      s.chanStop c = { s with
        regs := (s.chanStop c).regs, host := { s.host with stopping := (s.chanStop c).host.stopping } } ∧
      (∀ o, o ≠ R.DMA_CH_STATUS c → (s.chanStop c).reg o = s.reg o) ∧
      (Inv s → (s.chanStop c).fld (F.DMA_CH_STATUS_STATE c) = 0 ∧
        (s.chanStop c).fld (F.DMA_CH_STATUS_STOP_CODE c) = 1) := by
  have none_ : ∀ k ∈ chanRings c, ∀ i r, s.injecting k ≠ some (.frame i r true) := fun k ring i r retries => by
    rw [idle k ring] at retries
    cases retries
  have settled : s.chanStop c = ((s.stopPending c 1).setFld (F.DMA_CH_STATUS_STATE c) 2).chanSettle c :=
    State.stopAtBoundary_running running none_
  have asked : tget (fun _ => none) ((s.stopPending c 1).setFld (F.DMA_CH_STATUS_STATE c) 2).host.stopping c = some 1 :=
    tget_tput_listed _ _ _ _ nofun
  rw [settled]
  by_cases leaves : ((s.stopPending c 1).setFld (F.DMA_CH_STATUS_STATE c) 2).fld (F.DMA_CH_STATUS_STATE c) = 2
  · rw [State.chanSettle_idle leaves idle, State.stopChan_asked (by omega) asked]
    refine ⟨rfl, fun o other => ?_, fun inv => ?_⟩
    · exact (State.reg_setReg_ne _ _ other).trans ((State.reg_setReg_ne _ _ other).trans (State.reg_setReg_ne s _ other))
    · have form : twf regReset ((s.stopPending c 1).setFld (F.DMA_CH_STATUS_STATE c) 2).regs = true :=
        State.twf_setFld _ inv.regs _ _
      have form' := State.twf_setFld (((s.stopPending c 1).setFld (F.DMA_CH_STATUS_STATE c) 2).modHost fun h =>
        { h with stopping := tput (fun _ => none) h.stopping c none }) form (F.DMA_CH_STATUS_STATE c) 0
      exact ⟨(State.chState_setStopCode form' c 1).trans (State.chState_set form c 0), State.chStopCode_set form' c 1⟩
  · rw [State.chanSettle_other leaves]
    refine ⟨rfl, fun o other => State.reg_setReg_ne s _ other, fun inv => ?_⟩
    exact absurd (State.chState_set (s := s.stopPending c 1) inv.regs c 2) leaves

/-! ### Rings (R321) -/

section
variable {s : State} (form : twf regReset s.regs = true) (k n : Nat)
include form

theorem State.ringState_set : (s.setRingState k n).ringState k = n % 4 :=
  s.fld_setFld_same form _ n (show 30 ≤ 31 by decide) (show 31 < 64 by decide)

theorem State.ringEn_set (on : Bool) : (s.setFlag (F.DMA_RING_CFG_EN k) on).flag (F.DMA_RING_CFG_EN k) = on :=
  s.flag_setFlag_same form _ on rfl (show 31 < 64 by decide)

end

theorem DMA_RING_CFG_ne_STATE (k : Nat) : (F.DMA_RING_CFG_EN k).off ≠ (F.DMA_RING_STATE_STATE k).off := by
  show 0x420000 + 64 * k ≠ 0x420018 + 64 * k
  omega

theorem State.ringEn_setRingState (s : State) (k n : Nat) :
    (s.setRingState k n).flag (F.DMA_RING_CFG_EN k) = s.flag (F.DMA_RING_CFG_EN k) :=
  flag_congr _ (s.reg_setReg_ne _ (DMA_RING_CFG_ne_STATE k))

/-- EN and the words that a ring reads again, as RING_DISABLE leaves them. -/
def State.ringDisabled (s : State) (k : Nat) : State :=
  (s.setFlag (F.DMA_RING_CFG_EN k) false).modHost fun h => { h with reread := h.reread.filter (· != k) }

theorem State.ringDisabled_state (s : State) (k : Nat) : (s.ringDisabled k).ringState k = s.ringState k :=
  fld_congr _ (s.reg_setReg_ne _ (DMA_RING_CFG_ne_STATE k).symm)

/-- Disabling a ring: CLOSING while its descriptor is under way, IDLE at once otherwise. -/
theorem State.ringOff_cases (s : State) (k : Nat) :
    (s.ringState k = 1 ∧ s.injecting k ≠ none ∧ s.ringOff k = (s.ringDisabled k).setRingState k 3) ∨
    (s.ringState k = 3 ∧ s.ringOff k = s.ringDisabled k) ∨
    (s.ringState k ≠ 3 ∧ (s.ringState k = 1 → s.injecting k = none) ∧
      s.ringOff k = (s.ringDisabled k).setRingState k 0) := by
  by_cases busy : s.ringState k = 1 ∧ (s.injecting k).isSome = true
  · exact Or.inl ⟨busy.1, Option.isSome_iff_ne_none.mp busy.2, if_pos busy⟩
  · by_cases closing : s.ringState k = 3
    · exact Or.inr (Or.inl ⟨closing, (if_neg busy).trans (if_pos closing)⟩)
    · refine Or.inr (Or.inr ⟨closing, fun active => ?_, (if_neg busy).trans (if_neg closing)⟩)
      exact Option.not_isSome_iff_eq_none.mp fun some_ => busy ⟨active, some_⟩

theorem execRingDisable_closes {s : State} {k : Ring} (reach : s.barOpen (R.DMA_RING_CFG k) = true) :
    ∃ t, exec (.ringDisable k) s = .next t ∧ t = { s with regs := t.regs, host := t.host } ∧
      (Inv s → t.flag (F.DMA_RING_CFG_EN k) = false) ∧
      (Inv s → s.ringState k ≠ 3 → s.injecting k = none → t.ringState k = 0) ∧
      (Inv s → s.ringState k = 1 → s.injecting k ≠ none → t.ringState k = 3) ∧
      (Inv s → s.ringState k = 3 → t.ringState k = 3) := by
  have run : exec (.ringDisable k) s = .next (s.ringOff k) :=
    congrArg Host.Outcome.next (State.byHost_exempt reach (roleExempt_ringCfg k))
  have en (inv : Inv s) : (s.ringDisabled k).flag (F.DMA_RING_CFG_EN k) = false := State.ringEn_set inv.regs k false
  have form (inv : Inv s) : twf regReset (s.ringDisabled k).regs = true := s.twf_setFlag inv.regs _ _
  rcases s.ringOff_cases k with ⟨active, injects, off⟩ | ⟨closing, off⟩ | ⟨other, idle, off⟩
  · refine ⟨_, run.trans (congrArg _ off), rfl, fun inv => ?_, fun _ _ none_ => absurd none_ injects, fun inv _ _ => ?_,
      fun _ closing => ?_⟩
    · exact (State.ringEn_setRingState _ _ _).trans (en inv)
    · exact State.ringState_set (form inv) k 3
    · omega
  · refine ⟨_, run.trans (congrArg _ off), rfl, en, fun _ other => absurd closing other, fun _ active => ?_, fun _ _ => ?_⟩
    · omega
    · exact (s.ringDisabled_state k).trans closing
  · refine ⟨_, run.trans (congrArg _ off), rfl, fun inv => ?_, fun inv _ _ => ?_, fun _ active injects => ?_,
      fun _ closing => absurd closing other⟩
    · exact (State.ringEn_setRingState _ _ _).trans (en inv)
    · exact State.ringState_set (form inv) k 0
    · exact absurd (idle active) injects

/-! ### Word 1 of a descriptor (R312, R321) -/

theorem State.injectFinish_ready {s : State} {k i : Nat} {r w : W64} (injects : s.injecting k = some (.frame i r false))
    (held : (s.frame i).isSome = true) (cells : (s.injectNeeds k).1 = false) (edit : (s.injectNeeds k).2 = false) :
    s.injectFinish k w = (s.commitInjected k i r w).chanSettle (k / 16) := by
  have kept : (s.frame i).isNone = false := by
    rw [Option.isNone_eq_false_iff]
    exact held
  rw [State.injectFinish, injects]
  dsimp only
  rw [kept, cells, edit]
  rfl

section
variable {s : State} {k : Ring} {w : W64} (parked : s.ringState k = 2)
include parked

theorem State.word1Arrived_next (linked : bitOf w 0 = false) : s.word1Arrived k w =
    (({ s with host := { s.host with reread := s.host.reread.filter (· != k.val) } } : State).setReg
      (R.DMA_RING_CUR k) (w64 (w.toNat / 32 * 32))).setRingState k 1 :=
  (if_neg (by rw [parked]; decide)).trans (if_pos linked)

theorem State.word1Arrived_last (ends : bitOf w 0 = true) : s.word1Arrived k w =
    { s with host := { s.host with reread := s.host.reread.filter (· != k.val) } } :=
  (if_neg (by rw [parked]; decide)).trans ((if_neg (ne_false_of_eq_true ends)).trans (if_pos parked))

end

theorem execDescWord1Read_again {s : State} {k : Ring} {w : W64} (again : s.host.reread.contains k.val = true)
    (unblocked : s.dmaBlocked = false) (idle : s.injecting k = none) :
    exec (.descWord1Read k w) s = .next (s.word1Arrived k w) := by
  refine congrArg Host.Outcome.next ((if_neg (ne_true_of_eq_false unblocked)).trans ((if_neg ?_).trans (if_pos again)))
  rw [idle]
  exact Bool.false_ne_true

/-- Settles O44: each command's test of the channel or of the ring. -/
theorem ringsAndChannels : Obligations.RingsAndChannels := by
  refine fun s => ⟨fun c reach => ⟨fun unblocked stopped => ?_, fun blocked => ?_, fun runs => ?_, fun running idle => ?_,
      fun running none_ busy => ?_, fun stopped => ?_⟩, fun k reach => ⟨fun idle => ?_, fun active => ?_,
      execRingDisable_closes reach⟩, fun k reach => ⟨fun active => ?_, fun parked fresh => ?_, fun idle => ?_⟩,
    fun k w i r unblocked injects held cells edit => ?_, fun k w again unblocked idle =>
      ⟨execDescWord1Read_again again unblocked idle, fun parked linked => ?_, fun parked ends => ?_⟩,
    fun k w closed => ?_⟩
  · exact congrArg Host.Outcome.next ((State.byHost_exempt reach (roleExempt_chCtrl c)).trans
      (State.chanStart_stopped unblocked stopped))
  · exact congrArg Host.Outcome.next ((State.byHost_exempt reach (roleExempt_chCtrl c)).trans
      (State.chanStart_ignored (Or.inl blocked)))
  · exact congrArg Host.Outcome.next ((State.byHost_exempt reach (roleExempt_chCtrl c)).trans
      (State.chanStart_ignored (Or.inr runs)))
  · exact ⟨_, congrArg Host.Outcome.next (State.byHost_exempt reach (roleExempt_chCtrl c)),
      State.chanStop_idle running idle⟩
  · exact congrArg Host.Outcome.next ((State.byHost_exempt reach (roleExempt_chCtrl c)).trans
      (State.chanStop_busy running none_ busy))
  · refine congrArg Host.Outcome.next ((State.byHost_exempt reach (roleExempt_chCtrl c)).trans (if_pos ?_))
    rw [stopped]
    decide
  · exact congrArg Host.Outcome.next ((State.byHost_exempt reach (roleExempt_ringCfg k)).trans (if_pos idle))
  · exact congrArg Host.Outcome.next ((State.byHost_exempt reach (roleExempt_ringCfg k)).trans (if_neg active))
  · exact congrArg Host.Outcome.next ((State.byHost_exempt reach (roleExempt_ringDb k)).trans (if_pos active))
  · exact congrArg Host.Outcome.next ((State.byHost_exempt reach (roleExempt_ringDb k)).trans
      ((if_neg (by rw [parked]; decide)).trans (if_pos ⟨parked, fresh⟩)))
  · exact congrArg Host.Outcome.next ((State.byHost_exempt reach (roleExempt_ringDb k)).trans
      ((if_neg (by rw [idle]; decide)).trans (if_neg (by rw [idle]; rintro ⟨two, -⟩; cases two))))
  · refine congrArg Host.Outcome.next ((if_neg (ne_true_of_eq_false unblocked)).trans ((if_pos ?_).trans
      (State.injectFinish_ready injects held cells edit)))
    rw [injects]
    rfl
  · exact (execDescWord1Read_again again unblocked idle).trans (congrArg _ (State.word1Arrived_next parked linked))
  · exact (execDescWord1Read_again again unblocked idle).trans (congrArg _ (State.word1Arrived_last parked ends))
  · show execDescWord1Read k w s = _
    rcases closed with blocked | ⟨idle, fresh⟩
    · exact congrArg _ (if_pos blocked)
    · rw [execDescWord1Read, idle, if_neg (ne_true_of_eq_false fresh)]
      simp

end Sys2Proof.Machine
end


section
/-! The resets of the PCIe endpoint (R304, R329, R330): what the end of its transfers leaves as it is. -/

namespace Sys2Proof.Machine

/-- The units that no transfer of the host interface reaches into, and the link. -/
def State.otherUnits (s : State) := (s.time, s.ledger, s.wbl, s.ddr, s.forme, s.boot, s.host.linkUp)

/-- `t` differs from `s` neither in the units beside the host interface nor in the link. -/
def SameUnits (s t : State) : Prop := t.otherUnits = s.otherUnits

namespace SameUnits

variable {s t u : State}

theorem refl (s : State) : SameUnits s s := rfl

theorem branch {p : Prop} [Decidable p] (yes : SameUnits s t) (no : SameUnits s u) : SameUnits s (if p then t else u) := by
  split
  · exact yes
  · exact no

theorem fold {β : Type} {l : List β} {g : State → β → State} (h : SameUnits s t)
    (step : ∀ u, SameUnits s u → ∀ x, SameUnits s (g u x)) : SameUnits s (l.foldl g t) :=
  List.foldlRecOn (motive := SameUnits s) _ _ h fun u hu x _ => step u hu x

section
variable (h : SameUnits s t)
include h

/-- A change elsewhere. -/
theorem elsewhere (same : u.otherUnits = t.otherUnits := by rfl) : SameUnits s u := same.trans h

/-- A step that one branch takes and the other leaves out. -/
theorem thenStep {p : Prop} [Decidable p] (step : SameUnits s t → SameUnits s u) : SameUnits s (if p then u else t) :=
  (step h).branch h

theorem elseStep {p : Prop} [Decidable p] (step : SameUnits s t → SameUnits s u) : SameUnits s (if p then t else u) :=
  h.branch (step h)

/-! ### Registers and events -/

theorem setReg (o : Nat) (v : W64) : SameUnits s (t.setReg o v) := h.elsewhere
theorem withRegs (v : Tbl W64) : SameUnits s { t with regs := v } := h.elsewhere
theorem withCmd (v : CmdUnit) : SameUnits s { t with cmd := v } := h.elsewhere
theorem logFirst (off vbit rec : Nat) : SameUnits s (t.logFirst off vbit rec) := (h.setReg _ _).branch (h.setReg _ _)
theorem emit (e : Emission) : SameUnits s (t.emit e) := h.elsewhere

theorem raiseG (g b : Nat) : SameUnits s (t.raiseG g b) := by
  rw [State.raiseG, State.raise_frame]
  exact h.elsewhere

theorem flushPba : SameUnits s t.flushPba := h.fold fun _ hu _ => hu.thenStep fun x => (x.setReg _ _).emit _

theorem modHost (g : HostUnit → HostUnit) (link : (g t.host).linkUp = t.host.linkUp := by rfl) :
    SameUnits s (t.modHost g) := by
  refine h.elsewhere ?_
  rw [State.otherUnits, State.otherUnits]
  exact congrArg (fun l => (t.time, t.ledger, t.wbl, t.ddr, t.forme, t.boot, l)) link

/-! ### Cells and frames -/

theorem poolEvents (before : State) : SameUnits s (t.poolEvents before) :=
  (h.thenStep fun x => x.raiseG _ _).thenStep fun y => y.raiseG _ _

theorem rejectFree (kind req cell addr : Nat) : SameUnits s (t.rejectFree kind req cell addr) :=
  ((h.logFirst _ _ _).thenStep fun x => x.setReg _ _).raiseG _ _

theorem withGal (v : Galley) : SameUnits s { t with gal := v } := h.elsewhere
theorem setCellRam (i : Nat) (v : BitVec 8) : SameUnits s (t.setCellRam i v) := h.withGal _
theorem setBankList (b : Nat) (l : List (Nat × Nat)) : SameUnits s (t.setBankList b l) := h.withGal _
theorem setFrame (i : Nat) (f : Frame) : SameUnits s (t.setFrame i f) := h.elsewhere
theorem dropFrame (i : Nat) : SameUnits s (t.dropFrame i) := h.elsewhere
theorem setPort (p : Nat) (v : PortState) : SameUnits s (t.setPort p v) := h.elsewhere
theorem setQueue (q : Nat) (v : EgrQueue) : SameUnits s (t.setQueue q v) := h.elsewhere

theorem modFrame (i : Nat) (g : Frame → Frame) : SameUnits s (t.modFrame i g) := by
  unfold State.modFrame
  split
  · exact h.setFrame _ _
  · exact h

theorem freeIndex (req i : Nat) : SameUnits s (t.freeIndex req i) := by
  unfold State.freeIndex
  split
  · exact h.rejectFree _ _ _ _
  · split
    · exact h.rejectFree _ _ _ _
    · exact (h.setCellRam _ _).elseStep fun x => ((x.withGal _).raiseG _ _).branch
        (((h.setCellRam _ _).withGal _).elseStep fun y => y.setBankList _ _)

theorem freeCell (req i : Nat) : SameUnits s (t.freeCell req i) := (h.freeIndex _ _).branch (h.rejectFree _ _ _ _)

theorem freeCells (req : Nat) (l : List Nat) : SameUnits s (l.foldl (fun u c => u.freeCell req c) t) :=
  h.fold fun _ hu _ => hu.freeCell _ _

theorem checkSettled : SameUnits s t.checkSettled := by
  unfold State.checkSettled
  split
  · exact h.elseStep fun x => x.elseStep fun y => (y.setReg _ _).raiseG _ _
  · exact h

theorem releaseCells (i code : Nat) : SameUnits s (t.releaseCells i code) := by
  unfold State.releaseCells
  split
  · exact h
  · refine (((withGal ?_ _).dropFrame _).poolEvents _).checkSettled
    split
    · exact (h.freeCells _ _).freeCell _ _
    · exact h.freeCells _ _

theorem releaseRef (i code : Nat) : SameUnits s (t.releaseRef i code) := by
  unfold State.releaseRef
  split
  · exact h
  · exact (h.releaseCells _ _).branch (h.setFrame _ _)

theorem loseCells (i : Nat) : SameUnits s (t.loseCells i) := by
  unfold State.loseCells
  split
  · exact h
  · dsimp only
    split
    · exact ((h.setPort _ _).releaseCells _ _).branch ((h.setPort _ _).setFrame _ _)
    · exact (((((h.freeCells _ _).withGal _).setPort _ _).poolEvents _).setFrame _ _).checkSettled.branch
        (((((h.freeCells _ _).withGal _).setPort _ _).poolEvents _).dropFrame _).checkSettled

/-! ### The residue, served when cells come free (R66) -/

theorem bringCredit (q : Nat) : SameUnits s (t.bringCredit q) := by
  unfold State.bringCredit
  dsimp only
  split
  · exact h.setQueue _ _
  · exact h.setQueue _ _

theorem watermark (q : Nat) : SameUnits s (t.watermark q) :=
  h.elseStep fun x => (((x.setQueue _ _).logFirst _ _ _).raiseG _ _).branch (x.thenStep fun y => y.setQueue _ _)

theorem count (o : Nat) : SameUnits s (t.count o) := h.setReg _ _

theorem ageDrop (q : Nat) (held : Bool) : SameUnits s (t.ageDrop q held) :=
  ((h.count _).raiseG _ _).thenStep fun x => x.count _

theorem enqueue (q i : Nat) (mirror : Bool) : SameUnits s (t.enqueue q i mirror) := by
  unfold State.enqueue
  split
  · exact h
  · exact (h.count _).branch (((h.count _).count _).branch (((h.count _).ageDrop _ _).branch
      (((((h.bringCredit _).setQueue _ _).modFrame _ _).count _).watermark _)))

theorem serveResidue (n q : Nat) : SameUnits s (State.serveResidue n q t) := by
  induction n generalizing t with
  | zero => exact h
  | succ n ih =>
    rw [State.serveResidue]
    dsimp only
    split
    · exact h
    · split
      · exact h
      · have queued := h.enqueue q
        exact h.branch (branch (ih ((((queued _ _).withGal _).modFrame _ _).releaseRef _ _))
          (ih ((queued _ _).withGal _)))

theorem serveAll : SameUnits s t.serveAll := h.fold fun _ hu _ => hu.serveResidue _ _

/-! ### The end of the host interface's transfers (R304, R327, R328) -/

theorem flushPunts : SameUnits s t.flushPunts :=
  h.fold fun _ hu _ => (hu.fold fun _ hv _ => (((hv.count _).raiseG _ _).releaseRef _ _).serveAll).modHost _

theorem dropInjected (k : Nat) : SameUnits s (t.dropInjected k) := by
  unfold State.dropInjected
  split
  · exact ((h.modHost _).loseCells _).serveAll
  · exact h.modHost _
  · exact h

theorem stopChan (c code : Nat) : SameUnits s (t.stopChan c code) :=
  h.elseStep fun x => (((x.modHost _).setReg _ _).setReg _ _).thenStep fun y => y.raiseG _ _

theorem issuedTags : SameUnits s t.issuedTags.2 := by
  unfold State.issuedTags
  dsimp only
  split
  · exact h
  · exact h.elsewhere

theorem abortAll (code : Nat) : SameUnits s (t.abortAll code) :=
  ((h.issuedTags.fold fun _ hu _ => hu.dropInjected _).modHost _).fold fun _ hv _ => hv.stopChan _ _

theorem hostReset (code : Nat) : SameUnits s (t.hostReset code) := by
  unfold State.hostReset
  extract_lets aborted codes status emptied stopped shown _ mute
  have ended : SameUnits s aborted := (h.abortAll code).flushPunts
  have unset : SameUnits s emptied := ended.withRegs _
  have coded : SameUnits s stopped := unset.fold fun _ hu _ => hu.setReg _ _
  exact (((coded.setReg _ _).setReg _ _).withCmd _).modHost _

end
end SameUnits

/-! ### What each reset does -/

@[simp] theorem State.raiseG_host (s : State) (g b : Nat) : (s.raiseG g b).host = s.host := by
  rw [State.raiseG, State.raise_frame]

theorem State.flushPba_host (s : State) : s.flushPba.host = s.host :=
  List.foldlRecOn (motive := fun u : State => u.host = s.host) _ _ rfl fun u same v _ => by
    split
    · exact same
    · exact same

/-- A host reset clears Bus Master Enable. -/
theorem State.hostReset_bme (s : State) (code : Nat) : (s.hostReset code).host.bme = false := rfl

theorem State.linkReset_host (s : State) : s.linkReset.host = { (s.hostReset 4).host with linkUp := false } := by
  show { (State.host (State.raiseG _ _ _)) with linkUp := false } = _
  rw [State.raiseG_host]
  rfl

/-- The units beside the link and the host interface, after a reset of the link. -/
theorem State.linkReset_units (s : State) : s.linkReset.time = s.time ∧ s.linkReset.ledger = s.ledger ∧
    s.linkReset.wbl = s.wbl ∧ s.linkReset.ddr = s.ddr ∧ s.linkReset.forme = s.forme ∧ s.linkReset.boot = s.boot := by
  have same := ((((SameUnits.refl s).hostReset 4).count R.HST_C_LINK_RESETS).raiseG 43 3)
  simp only [SameUnits, State.otherUnits, Prod.mk.injEq] at same
  obtain ⟨time, ledger, wbl, ddr, forme, boot, -⟩ := same
  exact ⟨time, ledger, wbl, ddr, forme, boot⟩

/-- A link that came up notes a change of its rate or width and sends what waited. -/
theorem State.linkNoted (t : State) (changed : Bool) : (if changed then t.raiseG 43 10 else t).flushPba.host = t.host ∧
    (if changed then t.raiseG 43 10 else t).flushPba.forme = t.forme ∧
    (if changed then t.raiseG 43 10 else t).flushPba.boot = t.boot := by
  have noted : (if changed then t.raiseG 43 10 else t).host = t.host := by
    split
    · exact t.raiseG_host _ _
    · rfl
  have same := ((SameUnits.refl t).thenStep (p := changed = true) fun x => x.raiseG 43 10).flushPba
  simp only [SameUnits, State.otherUnits, Prod.mk.injEq] at same
  obtain ⟨-, -, -, -, forme, boot, -⟩ := same
  exact ⟨(State.flushPba_host _).trans noted, forme, boot⟩

theorem execPcieLinkUp_trains {s : State} (speed : Fin 5) (width : Fin 9) (high : s.boot.perstLow = false)
    (released : s.held = false) : ∃ t, exec (.pcieLinkUp speed width) s = .next t ∧ t.host.linkUp = true ∧
      t.host.bme = s.host.bme ∧ t.forme = s.forme ∧ t.boot = s.boot := by
  have up : ¬ (s.boot.perstLow || s.held) = true := by
    rw [high, released]
    exact Bool.false_ne_true
  have run : exec (.pcieLinkUp speed width) s = .next _ := congrArg Host.Outcome.next (if_neg up)
  refine ⟨_, run, ?_⟩
  dsimp only
  obtain ⟨host, forme, boot⟩ := State.linkNoted (((s.setFld F.HST_STATUS_SPEED speed.val).setFld F.HST_STATUS_WIDTH
    width.val).modHost fun h => { h with linkUp := true })
    (s.fld F.HST_STATUS_SPEED != speed.val || s.fld F.HST_STATUS_WIDTH != width.val)
  rw [host, forme, boot]
  exact ⟨rfl, rfl, rfl, rfl⟩

/-- Settles O46: no end of a transfer reaches another unit, and each reset sets the link and the host's own state. -/
theorem linkAndResets : Obligations.LinkAndResets := by
  intro s
  obtain ⟨time, ledger, wbl, ddr, forme, boot⟩ := s.linkReset_units
  have link : s.linkReset.host.linkUp = false := congrArg HostUnit.linkUp s.linkReset_host
  have bme : s.linkReset.host.bme = false := congrArg HostUnit.bme s.linkReset_host
  refine ⟨⟨_, rfl, link, ?_, forme, ledger, wbl, ddr, time⟩, rfl,
    ⟨_, rfl, rfl, link, bme, boot, forme, ledger, wbl, ddr, time⟩, ?_, rfl, rfl, rfl, fun _ => rfl,
    fun speed width high released => ?_, fun speed width low => ?_⟩
  · exact congrArg (fun b : BootUnit => { b with perstLow := true }) boot
  · have same := (((SameUnits.refl s).hostReset 3).count R.HST_C_FLRS).raiseG 43 2
    simp only [SameUnits, State.otherUnits, Prod.mk.injEq] at same
    obtain ⟨time, ledger, wbl, ddr, forme, boot, up⟩ := same
    refine ⟨_, rfl, up, ?_, boot, forme, ledger, wbl, ddr, time⟩
    rw [State.raiseG_host]
    rfl
  · exact execPcieLinkUp_trains speed width high released
  · refine congrArg Host.Outcome.next (if_pos ?_)
    rw [low]
    rfl

end Sys2Proof.Machine
end


section
/-! The freeze of the host interface, its messages and its quarantined tags (R328, R331 to R334). -/

namespace Sys2Proof.Machine

/-- A PCIe error of AER in the state, as FREEZING_ERROR leaves it. -/
theorem State.aerError_frozen (s : State) (bit : Nat) (header : BitVec 128) :
    (s.aerError bit header).flag F.HST_STATUS_FROZEN = s.flag F.HST_STATUS_FROZEN := rfl

theorem execFreezingError_marked {s : State} {bit : BitVec 5} (header : BitVec 128) (marked : freezing bit.toNat = true) :
    exec (.freezingError bit header) s = .next (if s.flag F.HST_STATUS_FROZEN then s.aerError bit.toNat header
      else (s.aerError bit.toNat header).freeze.setFld F.HST_FREEZE_CAUSE bit.toNat) :=
  congrArg Host.Outcome.next (if_neg (ne_false_of_eq_true marked))

/-! ### The release (R333) -/

section
variable {s : State} (frozen : s.flag F.HST_STATUS_FROZEN = true) (free : s.freezeHeld = false)
include frozen free

theorem State.unfreeze_refused (stands : ∃ b < 32, freezing b = true ∧ bitOf s.host.aer.uncorrectable b = true) :
    s.unfreeze = s.setFlag F.HST_FREEZE_REL_REFUSED true := by
  obtain ⟨b, inside, marked, set_⟩ := stands
  have found : (List.range 32).any (fun b => freezing b && bitOf s.host.aer.uncorrectable b) = true :=
    List.any_eq_true.mpr ⟨b, List.mem_range.mpr inside, by rw [marked, set_]; rfl⟩
  refine (if_neg (ne_false_of_eq_true frozen)).trans (if_pos ?_)
  rw [free, found]
  rfl

theorem State.unfreeze_released (clear : ∀ b < 32, freezing b = true → bitOf s.host.aer.uncorrectable b = false) :
    s.unfreeze = (s.setFlag F.HST_STATUS_FROZEN false).flushPba := by
  have none_ : (List.range 32).any (fun b => freezing b && bitOf s.host.aer.uncorrectable b) = false :=
    List.any_eq_false.mpr fun b listed both => by
      rw [Bool.and_eq_true] at both
      exact Bool.false_ne_true ((clear b (List.mem_range.mp listed) both.1).symm.trans both.2)
  refine (if_neg (ne_false_of_eq_true frozen)).trans (if_neg ?_)
  rw [free, none_]
  exact Bool.false_ne_true

end

/-! ### Tags in quarantine (R328) -/

/-- Clearing one bit of a word leaves every other one. -/
theorem bitOf_clear {w : Nat} (v : BitVec w) (k n : Nat) :
    bitOf (v &&& ~~~ BitVec.ofNat w (2 ^ k)) n = (bitOf v n && decide (n ≠ k)) := by
  by_cases inside : n < w
  · have bit : (BitVec.ofNat w (2 ^ k)).getLsbD n = decide (k = n) := by
      rw [BitVec.getLsbD_ofNat, Nat.testBit_two_pow, decide_eq_true inside, Bool.true_and]
    rw [bitOf, BitVec.getLsbD_and, BitVec.getLsbD_not, bit]
    simp [bitOf, inside, eq_comm]
  · simp [bitOf, BitVec.getLsbD_of_ge _ _ (Nat.le_of_not_lt inside)]

/-- Settles O47: the test of each command, and the AER bits that a release looks at. -/
theorem freezeAndMessages : Obligations.FreezeAndMessages := by
  refine fun s => ⟨fun bit header marked => ⟨fun thawed => ?_, fun frozen => ?_⟩, fun bit header unmarked =>
      congrArg _ (if_pos unmarked), fun reach frozen free v => ⟨fun clear => ?_, fun stands => ?_⟩,
    fun k runs => ⟨fun quiet => ?_, fun waits => ?_⟩, fun k ended => congrArg _ (if_pos ended), fun v reach full =>
      congrArg Host.Outcome.next (State.byHost_full reach full), fun tag => rfl,
    fun tag => ⟨_, rfl, ?_, fun n other => ?_, rfl⟩, fun bit => rfl⟩
  · rw [execFreezingError_marked header marked, if_neg (ne_true_of_eq_false thawed), State.freeze,
      State.aerError_frozen, if_neg (ne_true_of_eq_false thawed)]
    rfl
  · exact (execFreezingError_marked header marked).trans (congrArg _ (if_pos frozen))
  · exact congrArg Host.Outcome.next ((State.byHost_exempt (s := s.aerClear v) reach (by decide)).trans
      (State.unfreeze_released (s := s.aerClear v) frozen free clear))
  · exact congrArg Host.Outcome.next ((State.byHost_exempt (s := s.aerClear v) reach (by decide)).trans
      (State.unfreeze_refused (s := s.aerClear v) frozen free stands))
  · refine congrArg Host.Outcome.next ((if_neg (ne_false_of_eq_true runs)).trans ?_)
    dsimp only
    rw [if_neg (ne_true_of_eq_false quiet)]
    rfl
  · refine congrArg Host.Outcome.next ((if_neg (ne_false_of_eq_true runs)).trans ?_)
    dsimp only
    rw [if_pos waits]
    rfl
  · exact (bitOf_clear _ _ _).trans (by simp)
  · exact (bitOf_clear _ _ _).trans (by simp [other])

end Sys2Proof.Machine
end


section
/-! The DRAM's requests (R339, R342, R345, R347). -/

namespace Sys2Proof.Machine

/-! ### A fault leaves the DRAM as it is -/

@[simp] theorem State.raiseG_ddr (s : State) (g b : Nat) : (s.raiseG g b).ddr = s.ddr := by
  rw [State.raiseG, State.raise_frame]

theorem State.writeRecord_ddr (s : State) (src kind level base addr : Nat) (coded esc : Bool) :
    (s.writeRecord src kind level base addr coded esc).ddr = s.ddr := by
  unfold State.writeRecord
  split
  · exact State.raiseG_ddr _ _ _
  · extract_lets seq quiet w0 flt t1 t2 t3 t4 t5 t6
    have recorded : t4.ddr = s.ddr := rfl
    have raised : t5.ddr = t4.ddr := by
      unfold t5
      split
      · rfl
      · exact State.raiseG_ddr _ _ _
    have wired : t6.ddr = t5.ddr := by
      unfold t6
      split
      · exact State.raiseG_ddr _ _ _
      · rfl
    split
    · exact (State.raiseG_ddr _ _ _).trans (wired.trans (raised.trans recorded))
    · exact wired.trans (raised.trans recorded)

theorem State.setSignal_ddr (s : State) (p : Nat) (b : Bool) : (s.setSignal p b).ddr = s.ddr := by
  unfold State.setSignal
  dsimp only
  split
  · rfl
  · rfl

theorem State.portsOff_ddr (s : State) : s.portsOff.ddr = s.ddr :=
  List.foldlRecOn (motive := fun u : State => u.ddr = s.ddr) _ _ rfl fun _ same _ _ =>
    (State.setSignal_ddr _ _ _).trans same

theorem State.loadRecovery_ddr (s : State) : s.loadRecovery.ddr = s.ddr := by
  unfold State.loadRecovery
  split
  · rfl
  · rfl

theorem State.enterSafeHold_ddr (s : State) : s.enterSafeHold.ddr = s.ddr :=
  (State.raiseG_ddr _ _ _).trans ((State.loadRecovery_ddr _).trans (State.portsOff_ddr _))

theorem State.thermalStop_ddr (s : State) : s.thermalStop.ddr = s.ddr :=
  (State.setFlag_ddr _ _ _).trans (State.portsOff_ddr _)

theorem State.answer_ddr (s : State) (src kind level : Nat) : (s.answer src kind level).ddr = s.ddr := by
  unfold State.answer
  split
  · exact s.thermalStop_ddr
  · split
    · split
      · rfl
      · have noted (u : State) (h : u.ddr = s.ddr) : (if s.boot.starting then u else s).ddr = s.ddr := by
          split
          · exact h
          · rfl
        exact (State.enterSafeHold_ddr _).trans (noted _ (State.setReg_ddr _ _ _))
    · split
      · rfl
      · rfl

theorem State.spoilTest_ddr (s : State) (src : Nat) : (s.spoilTest src).ddr = s.ddr := by
  unfold State.spoilTest
  split
  · rfl
  · split
    · exact State.raiseG_ddr _ _ _
    · rfl

theorem State.faultAt_ddr (s : State) (src kind base addr : Nat) (coded : Bool) :
    (s.faultAt src kind base addr coded).ddr = s.ddr := by
  unfold State.faultAt
  extract_lets quiet prev level level' t1 t2 t3 t4
  have counted : t2.ddr = s.ddr := by
    unfold t2
    split
    · rfl
    · rfl
  have recorded : t3.ddr = t2.ddr := State.writeRecord_ddr _ _ _ _ _ _ _ _
  have escalated : t4.ddr = t3.ddr := by
    unfold t4
    split
    · exact State.raiseG_ddr _ _ _
    · rfl
  exact (State.spoilTest_ddr _ _).trans ((State.answer_ddr _ _ _ _).trans (escalated.trans (recorded.trans counted)))

theorem State.logFirst_ddr (s : State) (off vbit rec : Nat) : (s.logFirst off vbit rec).ddr = s.ddr := by
  unfold State.logFirst
  split
  · rfl
  · rfl

/-- An uncorrectable codeword marks its burst and changes no byte. -/
theorem State.ddrUncorrectable_ddr (s : State) (req o : Nat) : (s.ddrUncorrectable req o).ddr.mem = s.ddr.mem ∧
    o / 64 ∈ (s.ddrUncorrectable req o).ddr.bad := by
  have kept : (s.ddrUncorrectable req o).ddr = { s.ddr with
      bad := if s.ddr.bad.contains (o / 64) then s.ddr.bad else s.ddr.bad ++ [o / 64] } := by
    unfold State.ddrUncorrectable
    refine (State.faultAt_ddr _ _ _ _ _ _).trans ((State.raiseG_ddr _ _ _).trans ?_)
    exact State.logFirst_ddr _ _ _ _
  rw [kept]
  refine ⟨rfl, ?_⟩
  split
  case isTrue known => exact List.contains_iff_mem.mp known
  case isFalse fresh => exact List.mem_append_right _ List.mem_cons_self

/-! ### Writes of sound bursts (R345) -/

theorem Memory.writeN_append (fill : Byte) : ∀ (xs ys : List Byte) (m : Memory) (a : Nat),
    Memory.writeN fill m a (xs ++ ys) = Memory.writeN fill (Memory.writeN fill m a xs) (a + xs.length) ys
  | [], _, _, _ => rfl
  | x :: xs, ys, m, a => by
    show Memory.writeN fill (Memory.write fill m a x) (a + 1) (xs ++ ys) = _
    rw [Memory.writeN_append fill xs ys, List.length_cons, Nat.add_right_comm, Nat.add_assoc]
    rfl

/-- The state with bytes written to DDR and nothing else changed. -/
def State.ddrStore (s : State) (o : Nat) (bs : List Byte) : State :=
  { s with ddr := { s.ddr with mem := Memory.writeN 0 s.ddr.mem o bs } }

theorem State.ddrWriteBurst_sound {s : State} {o : Nat} (req : Nat) (bs : List Byte) (sound : o / 64 ∉ s.ddr.bad) :
    s.ddrWriteBurst req o bs .clean = s.ddrStore o bs := by
  have same : s.ddr.bad.filter (· != o / 64) = s.ddr.bad := List.filter_eq_self.mpr fun b listed =>
    bne_iff_ne.mpr (ne_of_mem_of_not_mem listed sound)
  have absent : s.ddr.bad.contains (o / 64) = false := by
    rw [← Bool.not_eq_true, List.contains_iff_mem]
    exact sound
  have good : s.ddrBurst req (o / 64) .clean = (true, s) := by
    rw [State.ddrBurst, absent]
    rfl
  unfold State.ddrWriteBurst
  dsimp only
  split
  · rw [same]
    rfl
  · rw [good]
    rfl

/-- The parts of a write, each in one sound burst, together store its bytes. -/
theorem State.ddrWriteParts_sound (req : Nat) : ∀ (n o : Nat) (bs : List Byte) (s : State), bs.length < n →
    (∀ i < bs.length, (o + i) / 64 ∉ s.ddr.bad) →
    (burstParts n o bs).foldl (fun t x => t.ddrWriteBurst req x.1 x.2 .clean) s = s.ddrStore o bs
  | 0, _, _, _, fuel, _ => absurd fuel (Nat.not_lt_zero _)
  | n + 1, o, bs, s, fuel, sound => by
    unfold burstParts
    split
    case isTrue empty =>
      obtain rfl := List.isEmpty_iff.mp empty
      rfl
    case isFalse more =>
      have some_ : 0 < bs.length := List.length_pos_iff.mpr fun empty => more (List.isEmpty_iff.mpr empty)
      have first : o / 64 ∉ s.ddr.bad := sound 0 some_
      show (burstParts n _ _).foldl _ (s.ddrWriteBurst req o _ .clean) = _
      rw [State.ddrWriteBurst_sound req _ first, State.ddrWriteParts_sound req n _ _ _ (by
        rw [List.length_drop]
        omega) fun i inside => ?_]
      · show (s.ddrStore o (bs.take (64 - o % 64))).ddrStore (o + (64 - o % 64)) (bs.drop (64 - o % 64)) = s.ddrStore o bs
        have whole : Memory.writeN 0 s.ddr.mem o bs = Memory.writeN 0 (Memory.writeN 0 s.ddr.mem o
            (bs.take (64 - o % 64))) (o + (64 - o % 64)) (bs.drop (64 - o % 64)) := by
          by_cases long : 64 - o % 64 ≤ bs.length
          · conv => lhs; rw [← List.take_append_drop (64 - o % 64) bs, Memory.writeN_append, List.length_take_of_le long]
          · rw [List.take_of_length_le (by omega), List.drop_of_length_le (by omega)]
            rfl
        rw [State.ddrStore, State.ddrStore, State.ddrStore, whole]
      · rw [List.length_drop] at inside
        have reached := sound (64 - o % 64 + i) (by omega)
        rwa [← Nat.add_assoc] at reached

theorem mem_burstsOf {o len i : Nat} (inside : i < len) : (o + i) / 64 ∈ burstsOf o len := by
  rw [burstsOf, if_neg (by omega)]
  refine List.mem_map.mpr ⟨(o + i) / 64 - o / 64, List.mem_range.mpr ?_, ?_⟩
  · omega
  · omega

theorem padTo_length (bs : List Byte) : padTo bs.length bs = bs := by
  simp [padTo, bytesAt]

/-- A write without errors to sound bursts stores its bytes. -/
theorem State.ddrWrite_sound {s : State} {addr : Nat} {bs : List Byte} (req : Nat)
    (sound : ∀ b ∈ burstsOf (addr - ddrBase) bs.length, b ∉ (s.ddrWake (addr - ddrBase)).ddr.bad) :
    s.ddrWrite req addr bs [] = (s.ddrWake (addr - ddrBase)).ddrStore (addr - ddrBase) bs := by
  have parts (l : List (Nat × List Byte)) (u : State) :
      ((List.range l.length).zip l).foldl (fun t x => t.ddrWriteBurst req x.2.1 x.2.2 (EccFinds.at_ [] x.1)) u =
        l.foldl (fun t x => t.ddrWriteBurst req x.1 x.2 .clean) u := by
    conv => rhs; rw [← List.map_snd_zip (l₁ := List.range l.length) (l₂ := l) (by simp), List.foldl_map]
    rfl
  unfold State.ddrWrite
  rw [parts, State.ddrWriteParts_sound req _ _ _ _ (Nat.lt_succ_self _) fun i inside => sound _ (mem_burstsOf inside)]

end Sys2Proof.Machine
end


section
/-! The DRAM's reads, its upkeep and its frequency change (R342 to R349). -/

namespace Sys2Proof.Machine

/-! ### Reads (R345, R347) -/

theorem State.ddrBurst_sound {s : State} {b : Nat} (req : Nat) (sound : b ∉ s.ddr.bad) :
    s.ddrBurst req b .clean = (true, s) := by
  have absent : s.ddr.bad.contains b = false := by
    rw [← Bool.not_eq_true, List.contains_iff_mem]
    exact sound
  rw [State.ddrBurst, absent]
  rfl

theorem State.ddrBursts_sound {s : State} (req : Nat) : ∀ (k : Nat) (bs : List Nat), (∀ b ∈ bs, b ∉ s.ddr.bad) →
    State.ddrBursts req [] k bs s = (bs.length, s)
  | _, [], _ => rfl
  | k, b :: bs, sound => by
    have first : s.ddrBurst req b (EccFinds.at_ [] k) = (true, s) :=
      State.ddrBurst_sound req (sound b List.mem_cons_self)
    have rest := State.ddrBursts_sound req (k + 1) bs fun c later => sound c (List.mem_cons_of_mem _ later)
    rw [State.ddrBursts, first]
    dsimp only
    rw [if_pos rfl, rest]
    rfl

/-- A read of sound bursts without errors answers the bytes stored. -/
theorem State.ddrRead_sound {s : State} {addr len : Nat} (req : Nat)
    (sound : ∀ b ∈ burstsOf (addr - ddrBase) len, b ∉ (s.ddrWake (addr - ddrBase)).ddr.bad) : s.ddrRead req addr len [] =
      (some (Memory.readN 0 s.ddr.mem (addr - ddrBase) len), s.ddrWake (addr - ddrBase)) := by
  have read : s.ddrReadTo req addr len [] =
      (Memory.readN 0 s.ddr.mem (addr - ddrBase) len, true, s.ddrWake (addr - ddrBase)) := by
    unfold State.ddrReadTo
    dsimp only
    rw [State.ddrBursts_sound req 0 _ sound, s.ddrWake_mem]
    exact if_pos rfl
  rw [State.ddrRead, read]

/-- The first burst of a read that is not empty. -/
theorem burstsOf_cons {o len : Nat} (some_ : 0 < len) : ∃ rest, burstsOf o len = o / 64 :: rest := by
  rw [burstsOf, if_neg (by omega)]
  obtain ⟨n, count⟩ : ∃ n, (o + len - 1) / 64 + 1 - o / 64 = n + 1 := ⟨(o + len - 1) / 64 - o / 64, by omega⟩
  rw [count, List.range_succ_eq_map]
  exact ⟨_, rfl⟩

/-- A read whose first burst is uncorrectable answers no data (R347). -/
theorem State.ddrRead_first {s : State} {addr len : Nat} (req : Nat) (some_ : 0 < len) :
    s.ddrRead req addr len [(0, .uncorrectable)] = (none, (s.ddrWake (addr - ddrBase)).ddrUncorrectable req
      (64 * ((addr - ddrBase) / 64))) := by
  obtain ⟨rest, bursts⟩ := burstsOf_cons (o := addr - ddrBase) some_
  have failed (u : State) (b : Nat) : u.ddrBurst req b (EccFinds.at_ [(0, .uncorrectable)] 0) =
      (false, u.ddrUncorrectable req (64 * b)) := if_pos (Bool.or_true _)
  have stopped (u : State) (b : Nat) : State.ddrBursts req [(0, .uncorrectable)] 0 (b :: rest) u =
      (0, u.ddrUncorrectable req (64 * b)) := by
    rw [State.ddrBursts, failed]
    rfl
  unfold State.ddrRead State.ddrReadTo
  dsimp only
  rw [bursts, stopped]
  dsimp only
  rw [if_neg (show ¬ 0 = ((addr - ddrBase) / 64 :: rest).length from (Nat.succ_ne_zero _).symm)]

/-! ### Requests (R339, R343) -/

section
variable {s : State} {rq : BitVec 6} {addr : BitVec 40} {len : Fin 4097} (mapped : s.ddrMapped addr.toNat len.val = true)
include mapped

theorem execDdrRequest_write (data : List Byte) (finds : EccFinds) : exec (.ddrRequest rq true addr len data finds) s =
    .next (s.ddrWrite rq.toNat addr.toNat (padTo len.val data) finds) :=
  congrArg Host.Outcome.next ((if_neg (ne_false_of_eq_true mapped)).trans (if_pos rfl))

theorem execDdrRequest_good {data : List Byte} {finds : EccFinds} {bs : List Byte} {t : State}
    (read : s.ddrRead rq.toNat addr.toNat len.val finds = (some bs, t)) :
    exec (.ddrRequest rq false addr len data finds) s = .next (t.emit (.readData bs false)) := by
  refine congrArg Host.Outcome.next ((if_neg (ne_false_of_eq_true mapped)).trans ((if_neg Bool.false_ne_true).trans ?_))
  rw [read]

theorem execDdrRequest_poisoned {data : List Byte} {finds : EccFinds} {t : State}
    (read : s.ddrRead rq.toNat addr.toNat len.val finds = (none, t)) : exec (.ddrRequest rq false addr len data finds) s =
      .next ((t.freeBytes len.val).2.emit (.readData (t.freeBytes len.val).1 true)) := by
  refine congrArg Host.Outcome.next ((if_neg (ne_false_of_eq_true mapped)).trans ((if_neg Bool.false_ne_true).trans ?_))
  rw [read]

end

theorem State.ddrWake_bad (s : State) (o : Nat) : (s.ddrWake o).ddr.bad = s.ddr.bad := by
  show s.changeWait.ddr.bad = _
  unfold State.changeWait
  split
  · unfold State.changeEnd
    rw [State.raiseG_ddr]
    rfl
  · rfl

/-- An answer is the last that the block gave. -/
theorem State.emit_last (s : State) (e : Emission) :
    s.emit e = { s.emit e with out := (s.emit e).out.dropLast ++ [e] } := by
  have last : (s.out ++ [e]).dropLast ++ [e] = s.out ++ [e] := by
    rw [List.dropLast_concat]
  exact congrArg (fun out => { s with out := out }) last.symm

/-- The three answers of a request to mapped DDR whose bursts are sound. -/
theorem execDdrRequest_sound {s : State} {rq : BitVec 6} {addr : BitVec 40} {len : Fin 4097}
    (mapped : s.ddrMapped addr.toNat len.val = true)
    (sound : ∀ b ∈ burstsOf (addr.toNat - ddrBase) len.val, b ∉ s.ddr.bad) :
    (∀ data : List Byte, data.length = len.val → ∃ t, exec (.ddrRequest rq true addr len data []) s = .next t ∧
      t = { s.changeWait with ddr := t.ddr } ∧ t.ddr.bad = s.ddr.bad ∧ (Inv s → ∀ a, Memory.read 0 t.ddr.mem a =
        if addr.toNat - ddrBase ≤ a ∧ a < addr.toNat - ddrBase + len.val then data.getD (a - (addr.toNat - ddrBase)) 0
        else Memory.read 0 s.ddr.mem a)) ∧
    (∀ data, ∃ t, exec (.ddrRequest rq false addr len data []) s = .next t ∧ t.ddr.mem = s.ddr.mem ∧
      t.out = s.changeWait.out ++ [.readData ((List.range len.val).map fun k =>
        Memory.read 0 s.ddr.mem (addr.toNat - ddrBase + k)) false]) ∧
    (∀ data, 0 < len.val → ∃ t bs, exec (.ddrRequest rq false addr len data [(0, .uncorrectable)]) s = .next t ∧
      t = { t with out := (t.out.dropLast) ++ [.readData bs true] } ∧ t.ddr.mem = s.ddr.mem ∧
      (addr.toNat - ddrBase) / 64 ∈ t.ddr.bad) := by
  generalize place : addr.toNat - ddrBase = o at *
  have sound' : ∀ b ∈ burstsOf o len.val, b ∉ (s.ddrWake o).ddr.bad := by
    rw [s.ddrWake_bad]
    exact sound
  refine ⟨fun data whole => ?_, fun data => ?_, fun data some_ => ?_⟩
  · have stored : s.ddrWrite rq.toNat addr.toNat (padTo len.val data) [] = (s.ddrWake o).ddrStore o data := by
      rw [← whole, padTo_length, ← place]
      refine State.ddrWrite_sound _ ?_
      rw [place, whole]
      exact sound'
    refine ⟨_, (execDdrRequest_write mapped _ _).trans (congrArg _ stored), rfl, s.ddrWake_bad o, fun inv a => ?_⟩
    have bytes := Memory.read_writeN 0 data s.ddr.mem o a inv.mem
    rw [whole] at bytes
    show Memory.read 0 (Memory.writeN 0 (s.ddrWake o).ddr.mem o data) a = _
    rw [s.ddrWake_mem]
    exact bytes
  · have read := State.ddrRead_sound (s := s) (addr := addr.toNat) rq.toNat (place.symm ▸ sound')
    rw [place] at read
    exact ⟨_, execDdrRequest_good mapped read, s.ddrWake_mem o, rfl⟩
  · have read := State.ddrRead_first (s := s) (addr := addr.toNat) rq.toNat some_
    rw [place] at read
    obtain ⟨mem, bad⟩ := (s.ddrWake o).ddrUncorrectable_ddr rq.toNat (64 * (o / 64))
    rw [Nat.mul_div_cancel_left _ (by decide)] at bad
    exact ⟨_, _, execDdrRequest_poisoned mapped read, State.emit_last _ _, mem.trans (s.ddrWake_mem o), bad⟩

/-! ### Temperature, rank power and refresh (R346, R377) -/

/-- Bit `n` of a mask of `w` conditions. -/
theorem testBit_maskOf (f : Nat → Bool) : ∀ (w n : Nat), (maskOf w f).testBit n = (decide (n < w) && f n)
  | 0, n => by simp [maskOf]
  | w + 1, n => by
    have below : maskOf w f < 2 ^ w := Nat.lt_pow_two_of_testBit _ fun i high => by
      rw [testBit_maskOf f w i, decide_eq_false (Nat.not_lt.mpr high), Bool.false_and]
    have step : maskOf (w + 1) f = maskOf w f + b2n (f w) * 2 ^ w := by
      rw [maskOf, List.range_succ, List.foldl_append]
      rfl
    rw [step, Nat.add_comm, Nat.mul_comm, Nat.testBit_two_pow_mul_add _ below, testBit_maskOf f w n]
    rcases Nat.lt_trichotomy n w with low | rfl | high
    · rw [if_pos low, decide_eq_true low, decide_eq_true (Nat.lt_succ_of_lt low)]
    · rw [if_neg (Nat.lt_irrefl n), Nat.sub_self, decide_eq_true (Nat.lt_succ_self n), Bool.true_and]
      cases f n
      · rfl
      · rfl
    · obtain ⟨k, gap⟩ : ∃ k, n - w = k + 1 := ⟨n - w - 1, by omega⟩
      rw [if_neg (by omega), gap, decide_eq_false (by omega), Bool.false_and]
      cases f w
      · exact Nat.zero_testBit _
      · exact Nat.testBit_lt_two_pow (Nat.one_lt_two_pow (Nat.succ_ne_zero k))

/-- Setting one bit of a word leaves every other one. -/
theorem bitOf_mark {w : Nat} (v : BitVec w) {k : Nat} (inside : k < w) (n : Nat) :
    bitOf (v ||| BitVec.ofNat w (2 ^ k)) n = (bitOf v n || decide (n = k)) := by
  have bit : (BitVec.ofNat w (2 ^ k)).getLsbD n = decide (n = k) := by
    rw [BitVec.getLsbD_ofNat, Nat.testBit_two_pow]
    by_cases same : n = k
    · simp [same, inside]
    · simp [same, Ne.symm same]
  rw [bitOf, BitVec.getLsbD_or, bit]
  rfl

/-- The devices known to be hot after a report (R346). -/
def hotAfter (hot : BitVec 8) (k : Nat) (now : Bool) : BitVec 8 :=
  if now then hot ||| BitVec.ofNat 8 (2 ^ k) else hot &&& ~~~ BitVec.ofNat 8 (2 ^ k)

theorem hotAfter_same (hot : BitVec 8) {k : Nat} (inside : k < 8) (now : Bool) : bitOf (hotAfter hot k now) k = now := by
  cases now
  · exact (bitOf_clear hot k k).trans (by simp)
  · exact (bitOf_mark hot inside k).trans (by simp)

theorem hotAfter_other (hot : BitVec 8) {k j : Nat} (inside : k < 8) (now : Bool) (other : j ≠ k) :
    bitOf (hotAfter hot k now) j = bitOf hot j := by
  cases now
  · exact (bitOf_clear hot k j).trans (by simp [other])
  · exact (bitOf_mark hot inside j).trans (by simp [other])

/-- A temperature report: the device's bit, and the refresh rate of the subchannels (R346). -/
def State.hotNoted (s : State) (hot : BitVec 8) : State :=
  ({ s with ddr := { s.ddr with hot := hot } } : State).setFld F.DDR_STATUS_THERM_2X
    (maskOf 4 fun i => bitOf hot (2 * i) || bitOf hot (2 * i + 1))

theorem State.hotNoted_therm {s : State} (form : twf regReset s.regs = true) (hot : BitVec 8) (i : Fin 4) :
    Nat.testBit ((s.hotNoted hot).fld F.DDR_STATUS_THERM_2X) i.val =
      (bitOf hot (2 * i.val) || bitOf hot (2 * i.val + 1)) := by
  have field : (s.hotNoted hot).fld F.DDR_STATUS_THERM_2X =
      maskOf 4 (fun i => bitOf hot (2 * i) || bitOf hot (2 * i + 1)) % 2 ^ 4 :=
    State.fld_setFld_same _ form _ _ (by decide) (by decide)
  rw [field, Nat.testBit_mod_two_pow, testBit_maskOf, decide_eq_true i.isLt]
  rfl

theorem execDdrTempReport_marks (s : State) (sub : Fin 4) (rank : Fin 2) (hot : Bool) :
    ∃ t, exec (.ddrTempReport sub rank hot) s = .next t ∧
      t.ddr = { s.ddr with hot := t.ddr.hot } ∧ bitOf t.ddr.hot (2 * sub.val + rank.val) = hot ∧
      (∀ j, j ≠ 2 * sub.val + rank.val → bitOf t.ddr.hot j = bitOf s.ddr.hot j) ∧ (Inv s → ∀ i : Fin 4,
        Nat.testBit (t.fld F.DDR_STATUS_THERM_2X) i.val =
          (bitOf t.ddr.hot (2 * i.val) || bitOf t.ddr.hot (2 * i.val + 1))) := by
  have inside : 2 * sub.val + rank.val < 8 := by omega
  let noted := s.hotNoted (hotAfter s.ddr.hot (2 * sub.val + rank.val) hot)
  have run : exec (.ddrTempReport sub rank hot) s = .next (if hot && !bitOf s.ddr.hot (2 * sub.val + rank.val) then
      noted.raiseG 44 7 else noted) := rfl
  have same : ∃ t, exec (.ddrTempReport sub rank hot) s = .next t ∧ t.ddr = noted.ddr ∧
      t.fld F.DDR_STATUS_THERM_2X = noted.fld F.DDR_STATUS_THERM_2X := by
    rw [run]
    split
    · exact ⟨_, rfl, State.raiseG_ddr _ _ _, fld_congr _ (State.reg_raiseG_ne _ (by decide) (by decide) (by decide))⟩
    · exact ⟨_, rfl, rfl, rfl⟩
  obtain ⟨t, done, ddr, therm⟩ := same
  refine ⟨t, done, ?_, ?_, fun j other => ?_, fun inv i => ?_⟩
  · rw [ddr]
    rfl
  · rw [ddr]
    exact hotAfter_same _ inside hot
  · rw [ddr]
    exact hotAfter_other _ inside hot other
  · rw [ddr, therm]
    exact State.hotNoted_therm inv.regs _ i

section
variable {s : State} (ready : s.ddrReady = true) (rank : Fin 4)
include ready

theorem execRankSelfRefresh_sets : ∃ t, exec (.rankSelfRefresh rank) s = .next t ∧
    t = { s with ddr := { s.ddr with rankMode := t.ddr.rankMode } } ∧
    tget (fun _ => 0) t.ddr.rankMode rank.val = 2 :=
  ⟨_, congrArg Host.Outcome.next (if_pos ready), rfl, tget_tput_listed _ _ _ _ (by decide)⟩

theorem execRankPowerDown_sets (awake : tget (fun _ => 0) s.ddr.rankMode rank.val = 0) :
    ∃ t, exec (.rankPowerDown rank) s = .next t ∧ t = { s with ddr := { s.ddr with rankMode := t.ddr.rankMode } } ∧
      tget (fun _ => 0) t.ddr.rankMode rank.val = 1 := by
  have may : (s.ddrReady && tget (fun _ => 0) s.ddr.rankMode rank.val == 0) = true := by
    rw [ready, awake]
    rfl
  exact ⟨_, congrArg Host.Outcome.next (if_pos may), rfl, tget_tput_listed _ _ _ _ (by decide)⟩

end

/-- What one bank index of a rank does at a tREFI. -/
def State.refreshIndex (rank : Fin 4) (blocked : BitVec 4) (t : State) (i : Nat) : State :=
  let k := 4 * rank.val + i
  let lag := if bitOf blocked i then tget (fun _ => 0) t.ddr.lag k + 1 else 0
  let forced := decide (2 ≤ lag)
  let t := { t with ddr := { t.ddr with lag := tput (fun _ => 0) t.ddr.lag k (if forced then 0 else lag) } }
  if forced then t.count R.DDR_C_REFSB_FORCED else t

theorem execRefreshInterval_ready {s : State} (ready : s.ddrReady = true) (rank : Fin 4) (blocked : BitVec 4) :
    exec (.refreshInterval rank blocked) s = .next ((List.range 4).foldl (State.refreshIndex rank blocked) s) :=
  congrArg Host.Outcome.next (if_neg (ne_false_of_eq_true ready))

/-- The state with another table of refresh debts. -/
def State.withLag (s : State) (lag : Tbl Nat) : State := { s with ddr := { s.ddr with lag := lag } }

theorem State.refreshIndex_idle {t : State} {rank : Fin 4} {blocked : BitVec 4} {i : Nat}
    (moment : bitOf blocked i = false) : t.refreshIndex rank blocked i =
      t.withLag (tput (fun _ => 0) t.ddr.lag (4 * rank.val + i) 0) := by
  unfold State.refreshIndex
  rw [moment]
  rfl

theorem State.refreshIndex_forced {t : State} {rank : Fin 4} {blocked : BitVec 4} {i : Nat}
    (busy : bitOf blocked i = true) (owed : tget (fun _ => 0) t.ddr.lag (4 * rank.val + i) = 1) :
    t.refreshIndex rank blocked i =
      (t.withLag (tput (fun _ => 0) t.ddr.lag (4 * rank.val + i) 0)).count R.DDR_C_REFSB_FORCED := by
  unfold State.refreshIndex
  dsimp only
  rw [busy, owed]
  rfl

/-- Bank indexes that found an idle moment touch their own debts alone. -/
theorem State.refresh_idle {rank : Fin 4} {blocked : BitVec 4} : ∀ (l : List Nat) (t : State),
    (∀ j ∈ l, bitOf blocked j = false) → ∃ lag, l.foldl (State.refreshIndex rank blocked) t = t.withLag lag ∧
      ∀ i, i ∉ l → tget (fun _ => 0) lag (4 * rank.val + i) = tget (fun _ => 0) t.ddr.lag (4 * rank.val + i)
  | [], t, _ => ⟨t.ddr.lag, rfl, fun _ _ => rfl⟩
  | j :: l, t, moment => by
    obtain ⟨lag, run, kept⟩ := State.refresh_idle l (t.withLag (tput (fun _ => 0) t.ddr.lag (4 * rank.val + j) 0))
      fun k later => moment k (List.mem_cons_of_mem _ later)
    refine ⟨lag, ?_, fun i out => ?_⟩
    · rw [List.foldl_cons, State.refreshIndex_idle (moment j List.mem_cons_self), run]
      rfl
    · have apart : i ≠ j := fun same => out (same ▸ List.mem_cons_self)
      exact (kept i fun later => out (List.mem_cons_of_mem _ later)).trans (tget_tput_ne _ _ _ _ _ (by omega))

theorem refresh_order : ∀ i : Fin 4, List.range 4 = List.range i.val ++ i.val :: (List.range 4).drop (i.val + 1) ∧
    (∀ j ∈ List.range i.val, bitOf (BitVec.ofNat 4 (2 ^ i.val)) j = false) ∧
    (∀ j ∈ (List.range 4).drop (i.val + 1), bitOf (BitVec.ofNat 4 (2 ^ i.val)) j = false) ∧
    bitOf (BitVec.ofNat 4 (2 ^ i.val)) i.val = true ∧ i.val ∉ List.range i.val := by
  decide

/-- A bank index that was blocked before is refreshed by force (R346). -/
theorem execRefreshInterval_forces {s : State} (ready : s.ddrReady = true) (rank i : Fin 4)
    (owed : tget (fun _ => 0) s.ddr.lag (4 * rank.val + i.val) = 1) :
    ∃ t, exec (.refreshInterval rank (BitVec.ofNat 4 (2 ^ i.val))) s = .next t ∧
      t = { s.count R.DDR_C_REFSB_FORCED with ddr := { s.ddr with lag := t.ddr.lag } } := by
  obtain ⟨order, before, after, busy, out⟩ := refresh_order i
  obtain ⟨lag, first, kept⟩ := State.refresh_idle (rank := rank) (List.range i.val) s before
  have forced := State.refreshIndex_forced (t := s.withLag lag) busy ((kept i.val out).trans owed)
  obtain ⟨lag', last, -⟩ := State.refresh_idle (rank := rank) ((List.range 4).drop (i.val + 1))
    (((s.withLag lag).withLag (tput (fun _ => 0) lag (4 * rank.val + i.val) 0)).count R.DDR_C_REFSB_FORCED) after
  refine ⟨(s.count R.DDR_C_REFSB_FORCED).withLag lag', ?_, rfl⟩
  rw [execRefreshInterval_ready ready, order, List.foldl_append, first, List.foldl_cons, forced]
  exact congrArg _ last

/-! ### Frequency changes and the scrub (R348, R349) -/

theorem State.ddrFreqGo_starts {s : State} {set : Nat} (ready : s.ddrReady = true)
    (valid : s.flag (F.DDR_TSET_VALID set) = true) (trained : bitOf s.ddr.trained set = true) (rests : s.ddr.change = none)
    (other : s.fld F.DDR_STATUS_SET_ACTIVE ≠ set) : s.ddrFreqGo set =
      { s with ddr := { (s.setRanks 2).ddr with change := some (set, s.time.cycles) } } := by
  refine (if_neg ?_).trans (if_neg other)
  rw [ready, valid, trained, rests]
  decide

theorem State.ddrFreqGo_refused {s : State} {set : Nat} (refused : bitOf s.ddr.trained set = false ∨ s.ddr.change ≠ none) :
    s.ddrFreqGo set = s.raiseG 44 5 := by
  refine if_pos ?_
  rcases refused with untrained | runs
  · exact Or.inr (Or.inr (Or.inr untrained))
  · exact Or.inr (Or.inl (Option.isSome_iff_ne_none.mpr runs))

theorem w64_succ (v : W64) : v + w64 1 = w64 (v.toNat + 1) := by
  unfold w64
  rw [BitVec.ofNat_add, BitVec.ofNat_toNat, BitVec.setWidth_eq]

/-- DDR stays ready when the set that a GO names is written. -/
theorem State.ddrReady_freqSet (s : State) (set : Nat) :
    (s.setFld F.DDR_FREQ_CTRL_SET set).ddrReady = s.ddrReady := by
  have apart (f : Fld) (other : f.off ≠ R.DDR_FREQ_CTRL) : (s.setFld F.DDR_FREQ_CTRL_SET set).flag f = s.flag f :=
    flag_congr f (s.reg_setReg_ne _ other)
  unfold State.ddrReady
  rw [apart _ (by decide), apart _ (by decide)]
  rfl

/-- The end of a change: its set is in use, and it has been counted (R349). -/
theorem State.changeEnd_effect {s : State} (form : twf regReset s.regs = true) {set : Nat} (inside : set < 2) :
    (s.changeEnd set).ddr.change = none ∧ (s.changeEnd set).fld F.DDR_STATUS_SET_ACTIVE = set ∧
      (s.changeEnd set).reg R.DDR_C_FREQ_CHANGES = w64 ((s.reg R.DDR_C_FREQ_CHANGES).toNat + 1) := by
  let woken : State := { s.setRanks 0 with ddr := { (s.setRanks 0).ddr with change := none } }
  have woken_form : twf regReset woken.regs = true := form
  refine ⟨?_, ?_, ?_⟩
  · unfold State.changeEnd
    rw [State.raiseG_ddr]
    rfl
  · refine (fld_congr _ ((State.reg_raiseG_ne _ (by decide) (by decide) (by decide)).trans
      (State.reg_count_ne _ (by decide)))).trans ?_
    exact (State.fld_setFld_same woken woken_form _ set (by decide) (by decide)).trans (Nat.mod_eq_of_lt inside)
  · refine (State.reg_raiseG_ne _ (by decide) (by decide) (by decide)).trans ?_
    refine (State.reg_countN (woken.setFld F.DDR_STATUS_SET_ACTIVE set) (woken.twf_setFld woken_form _ _) _ 1).trans ?_
    rw [show (woken.setFld F.DDR_STATUS_SET_ACTIVE set).reg R.DDR_C_FREQ_CHANGES = s.reg R.DDR_C_FREQ_CHANGES from
      woken.reg_setReg_ne _ (by decide), w64_succ]

/-- A scrub step that reads a clean burst (R348). -/
theorem execScrubStep_clean {s : State} (ready : s.ddrReady = true) (on : s.flag F.DDR_SCRUB_CFG_SCRUB_EN = true)
    (sound : s.ddr.bad.contains s.ddr.scrubAt = false) (o : Bool) : exec (.scrubStep .clean o) s =
      .next (if s.ddrCapacity ≤ 64 * (s.ddr.scrubAt + 1) then
          ({ s with ddr := { s.ddr with scrubAt := 0, ceRows := [] } } : State).raiseG 44 6
        else { s with ddr := { s.ddr with scrubAt := s.ddr.scrubAt + 1 } }) := by
  have enabled : ¬ (s.ddrReady = false ∨ s.flag F.DDR_SCRUB_CFG_SCRUB_EN = false) := by
    rw [ready, on]
    decide
  refine congrArg Host.Outcome.next ((if_neg enabled).trans ?_)
  rw [sound]
  rfl

/-- Settles O48: the answers of a request, the ranks' own commands, and the change of the frequency. -/
theorem dramRequestsAndUpkeep : Obligations.DramRequestsAndUpkeep := by
  refine ⟨fun s rq addr len => ⟨fun unmapped w data e => congrArg _ (if_pos unmapped), execDdrRequest_sound,
      execDdrTempReport_marks s, fun rank ready => ⟨execRankSelfRefresh_sets ready rank, execRankPowerDown_sets ready rank⟩⟩,
    fun s => ⟨fun set reach full => ⟨fun inv ready valid trained rests other => ?_, fun refused => ?_⟩,
      fun set at_ runs inv => ?_, fun ready rank => ⟨?_, fun i owed => ?_⟩, fun off rank b => congrArg _ (if_pos off),
      fun ready on sound o => ⟨fun more => ?_, fun last => ?_⟩, fun off e o => congrArg _ (if_pos (Or.inr off))⟩⟩
  · refine congrArg Host.Outcome.next ((State.byHost_full reach full).trans ?_)
    have apart : ∀ f : Fld, f.off ≠ R.DDR_FREQ_CTRL → (s.setFld F.DDR_FREQ_CTRL_SET set.val).fld f = s.fld f :=
      fun f other => fld_congr f (s.reg_setReg_ne _ other)
    have tset : (F.DDR_TSET_VALID set.val).off ≠ R.DDR_FREQ_CTRL := by
      show 0x1800100 + 256 * set.val ≠ 0x1800010
      omega
    exact State.ddrFreqGo_starts ((s.ddrReady_freqSet _).trans ready)
      ((flag_congr _ (s.reg_setReg_ne _ tset)).trans valid) trained rests ((apart _ (by decide)).trans_ne other)
  · exact congrArg Host.Outcome.next ((State.byHost_full reach full).trans (State.ddrFreqGo_refused refused))
  · have ends : s.changeWait = s.changeEnd set.val := by
      rw [State.changeWait, runs]
    rw [ends]
    exact State.changeEnd_effect inv.regs set.isLt
  · obtain ⟨lag, run, -⟩ := State.refresh_idle (rank := rank) (blocked := 0) (List.range 4) s fun j _ => bitOf_zero j
    exact ⟨_, (execRefreshInterval_ready ready rank 0).trans (congrArg _ run), rfl⟩
  · exact execRefreshInterval_forces ready rank i ((owed i).trans (if_pos rfl))
  · exact (execScrubStep_clean ready on sound o).trans (congrArg _ (if_neg (Nat.not_le.mpr more)))
  · exact (execScrubStep_clean ready on sound o).trans (congrArg _ (if_pos last))

end Sys2Proof.Machine
end


section
/-! The four kinds of DMA descriptor (R313 to R320). -/

namespace Sys2Proof.Machine

variable {s : State} {k : Ring} {d : Desc}

/-! ### TX_FRAME (R317) -/

/-- The frame that a TX_FRAME descriptor makes (R317). -/
def State.injectedFrame (s : State) (k : Ring) (r : W64) (bytes : List Byte) : Frame :=
  { Frame.start (.host k) s.builtTag 0 false s.stamp (bitsOf r 29 23) with
    bytes := bytes
    complete := true
    tsreq := if bitOf r 30 then some (bitsOf r 53 46) else none
    ptpCf := if bitOf r 31 then some (bitsOf r 45 32) else none }

/-- The class of an injection is under admission in the active forme. -/
def State.injectAdmitted (s : State) (r : W64) : Bool :=
  match s.activeTag with
  | some t => s.admClass t (bitsOf r 29 23 / 16)
  | none => false

section
variable (ready : s.ringReady k 1 d.word1 = true) (data : List Byte)
include ready

theorem execTxFrameInject_malformed (bad : descBad 1 d.request = true) :
    exec (.txFrameInject k d data) s = .next (s.descError k d.word1) :=
  congrArg Host.Outcome.next ((if_neg (ne_false_of_eq_true ready)).trans (if_pos bad))

variable (sound : descBad 1 d.request = false)
include sound

theorem execTxFrameInject_admitted (admitted : s.injectAdmitted d.request = true) :
    exec (.txFrameInject k d data) s = .next (s.descDone k 2 0 false false d.word1) :=
  congrArg Host.Outcome.next ((if_neg (ne_false_of_eq_true ready)).trans
    ((if_neg (ne_true_of_eq_false sound)).trans (if_pos admitted)))

variable (free : s.injectAdmitted d.request = false)
include free

/-- An injection past the admission test. -/
theorem execTxFrameInject_free : exec (.txFrameInject k d data) s = .next
    (if s.fld (F.PRT_MODE_MODE (bitsOf d.request 22 16)) = 0 ∨ s.flag (F.PRT_STATUS_FUSED_SUB (bitsOf d.request 22 16)) = true
      then s.descDone k 3 0 false false d.word1
    else if bitsOf d.request 15 0 < 60 ∨ 9724 < bitsOf d.request 15 0 then s.descDone k 4 0 false false d.word1
    else if data.length < bitsOf d.request 15 0 then s.descHostError k 0 d.word1
    else
      let q := s.newFrame (s.injectedFrame k d.request (data.take (bitsOf d.request 15 0)))
      (State.injectCells injectMax k false (q.2.setInjecting k (some (.frame q.1 d.request false)))).injectFinish k
        d.word1) :=
  congrArg Host.Outcome.next ((if_neg (ne_false_of_eq_true ready)).trans
    ((if_neg (ne_true_of_eq_false sound)).trans (if_neg (ne_true_of_eq_false free))))

end

theorem State.injectAdmitted_true {r : W64}
    (admitted : ∃ t, s.activeTag = some t ∧ s.admClass t (bitsOf r 29 23 / 16) = true) : s.injectAdmitted r = true := by
  obtain ⟨t, active, class_⟩ := admitted
  rw [State.injectAdmitted, active]
  exact class_

theorem State.injectAdmitted_false {r : W64}
    (free : ∀ t, s.activeTag = some t → s.admClass t (bitsOf r 29 23 / 16) = false) : s.injectAdmitted r = false := by
  unfold State.injectAdmitted
  split
  · next t active => exact free t active
  · rfl

theorem portOn {port : Nat} (on : s.fld (F.PRT_MODE_MODE port) ≠ 0 ∧ s.flag (F.PRT_STATUS_FUSED_SUB port) = false) :
    ¬ (s.fld (F.PRT_MODE_MODE port) = 0 ∨ s.flag (F.PRT_STATUS_FUSED_SUB port) = true) := by
  rw [not_or, Bool.not_eq_true]
  exact on

theorem lengthOk {len : Nat} (low : 60 ≤ len) (high : len ≤ 9724) : ¬ (len < 60 ∨ 9724 < len) := by
  omega

/-! ### COPY (R318) -/

section
variable (ready : s.ringReady k 3 d.word1 = true) (data : List Byte) (finds : EccFinds)
include ready

theorem execDmaCopy_malformed (bad : descBad 3 d.request = true) :
    exec (.dmaCopy k d data finds) s = .next (s.descError k d.word1) :=
  congrArg Host.Outcome.next ((if_neg (ne_false_of_eq_true ready)).trans (if_pos bad))

/-- A COPY that is well formed; LEN 0 stands for 65,536. -/
theorem execDmaCopy_sound (sound : descBad 3 d.request = false) : exec (.dmaCopy k d data finds) s =
    let len := if bitsOf d.request 15 0 = 0 then 65536 else bitsOf d.request 15 0
    let addr := bitsOf d.request 55 16
    .next (if s.ddrMapped addr len = false then s.descDone k 8 0 false false d.word1
      else if bitOf d.request 56 = false then
        if data.length < len then s.descHostError k 0 d.word1
        else (s.ddrWrite 4 addr (data.take len) finds).descDone k 0 len false false d.word1
      else
        let (bs, ok, t) := s.ddrReadTo 4 addr len finds
        let t := if bs.isEmpty then t else t.emit (.hostWrite d.buf.toNat bs s.host.cfg.relaxed)
        t.descDone k (if ok then 0 else 9) bs.length false false d.word1) :=
  congrArg Host.Outcome.next ((if_neg (ne_false_of_eq_true ready)).trans (if_neg (ne_true_of_eq_false sound)))

end

/-! ### RX_FRAME and RX_STREAM (R316, R320) -/

section
variable {r : PuntRef} {rest : List PuntRef} (front : s.puntQueue k = r :: rest) (ready : s.ringReady k 0 d.word1 = true)
include front ready

theorem execRxFrameDeliver_malformed (bad : descBad 0 d.request = true) :
    exec (.rxFrameDeliver k d) s = .next (s.descError k d.word1) := by
  show execRxFrameDeliver k d s = _
  rw [execRxFrameDeliver, front]
  dsimp only
  rw [if_neg (ne_false_of_eq_true ready), if_pos bad]

/-- The oldest punted frame goes out behind its header, as far as the buffer reaches. -/
theorem execRxFrameDeliver_sound (sound : descBad 0 d.request = false) {f : Frame} (held : s.frame r.frame = some f) :
    exec (.rxFrameDeliver k d) s =
      let bs := s.puntHeader f r.reason ++ f.bytes
      let len := bitsOf d.request 15 0
      let t := s.emit (.hostWrite d.buf.toNat (bs.take len) s.host.cfg.relaxed)
      .next (((t.setPuntQueue k rest).descDone k 0 (min len bs.length) (decide (len < bs.length)) false d.word1).release
        r.frame 0x11) := by
  show execRxFrameDeliver k d s = _
  rw [execRxFrameDeliver, front]
  dsimp only
  rw [if_neg (ne_false_of_eq_true ready), if_neg (ne_true_of_eq_false sound), held]

end

section
variable {bs : List Byte} {rest : List (List Byte)} (front : s.streams k = bs :: rest)
  (ready : s.ringReady k 2 d.word1 = true)
include front ready

theorem execRxStreamDeliver_malformed (bad : descBad 2 d.request = true) (w : Option (BitVec 16)) :
    exec (.rxStreamDeliver k d w) s = .next (s.descError k d.word1) := by
  show execRxStreamDeliver k d w s = _
  rw [execRxStreamDeliver, front]
  dsimp only
  rw [if_neg (ne_false_of_eq_true ready), if_pos bad]

variable (sound : descBad 2 d.request = false)
include sound

/-- A requester that withdraws gets the bytes delivered by then. -/
theorem execRxStreamDeliver_withdrawn (n : BitVec 16) : exec (.rxStreamDeliver k d (some n)) s =
    let now := bs.take (min n.toNat (bitsOf d.request 15 0))
    .next (((if now.isEmpty then s else s.emit (.hostWrite d.buf.toNat now s.host.cfg.relaxed)).setStreams k
      rest).descDone k 1 now.length false false d.word1) := by
  show execRxStreamDeliver k d (some n) s = _
  rw [execRxStreamDeliver, front]
  dsimp only
  rw [if_neg (ne_false_of_eq_true ready), if_neg (ne_true_of_eq_false sound)]
  rfl

/-- A requester that stays gets the buffer full, or the stream's end. -/
theorem execRxStreamDeliver_kept : exec (.rxStreamDeliver k d none) s =
    let len := bitsOf d.request 15 0
    let now := bs.take len
    .next (((if now.isEmpty then s else s.emit (.hostWrite d.buf.toNat now s.host.cfg.relaxed)).setStreams k
      (if decide (bs.length ≤ len) then rest else bs.drop len :: rest)).descDone k 0 now.length false
        (decide (bs.length ≤ len)) d.word1) := by
  show execRxStreamDeliver k d none s = _
  rw [execRxStreamDeliver, front]
  dsimp only
  rw [if_neg (ne_false_of_eq_true ready), if_neg (ne_true_of_eq_false sound)]
  rfl

end

theorem take_isEmpty {α : Type} (b : α) (bs : List α) {n : Nat} (some_ : 0 < n) : ((b :: bs).take n).isEmpty = false := by
  obtain ⟨m, rfl⟩ := Nat.exists_eq_succ_of_ne_zero some_.ne'
  rfl

/-- Settles O45: for each kind the tests in their order, and what the descriptor completes with. -/
theorem descriptorTransfers : Obligations.DescriptorTransfers := by
  refine fun s k d => ⟨fun ready sound => ⟨fun data free off => ?_, fun data admitted => ?_, fun data free on short => ?_,
      fun data free on low high fewer => ?_, fun data free on low high enough => ?_⟩, fun data ready bad =>
      execTxFrameInject_malformed ready data bad, fun data e ready bad => execDmaCopy_malformed ready data e bad,
    fun r rest front ready bad => execRxFrameDeliver_malformed front ready bad, fun b rest w front ready bad =>
      execRxStreamDeliver_malformed front ready bad w, fun empty => ?_, fun r rest f front ready sound held =>
      execRxFrameDeliver_sound front ready sound held, fun ready sound => ⟨fun data e unmapped => ?_,
      fun data e mapped dir enough => ?_, fun data e b bs ok t mapped dir read => ?_, fun data e t mapped dir read => ?_⟩,
    fun empty w => ?_, fun b bs rest front ready sound room => ⟨?_, fun n some_ => ?_, fun fits => ?_, fun longer => ?_⟩⟩
  · refine (execTxFrameInject_free ready data sound (State.injectAdmitted_false free)).trans (congrArg _ (if_pos ?_))
    rwa [not_and_or, not_not, Bool.not_eq_false] at off
  · exact execTxFrameInject_admitted ready data sound (State.injectAdmitted_true admitted)
  · rw [execTxFrameInject_free ready data sound (State.injectAdmitted_false free), if_neg (portOn on), if_pos short]
  · rw [execTxFrameInject_free ready data sound (State.injectAdmitted_false free), if_neg (portOn on),
      if_neg (lengthOk low high), if_pos fewer]
  · rw [execTxFrameInject_free ready data sound (State.injectAdmitted_false free), if_neg (portOn on),
      if_neg (lengthOk low high), if_neg (Nat.not_lt.mpr enough)]
    rfl
  · show execRxFrameDeliver k d s = _
    rw [execRxFrameDeliver, empty]
  · rw [execDmaCopy_sound ready data e sound]
    exact congrArg _ (if_pos unmapped)
  · rw [execDmaCopy_sound ready data e sound]
    exact congrArg _ ((if_neg (ne_false_of_eq_true mapped)).trans ((if_pos dir).trans (if_neg (Nat.not_lt.mpr enough))))
  · rw [execDmaCopy_sound ready data e sound]
    refine congrArg _ ((if_neg (ne_false_of_eq_true mapped)).trans ((if_neg (ne_false_of_eq_true dir)).trans ?_))
    rw [read]
    rfl
  · rw [execDmaCopy_sound ready data e sound]
    refine congrArg _ ((if_neg (ne_false_of_eq_true mapped)).trans ((if_neg (ne_false_of_eq_true dir)).trans ?_))
    rw [read]
    rfl
  · show execRxStreamDeliver k d w s = _
    rw [execRxStreamDeliver, empty]
  · rw [execRxStreamDeliver_withdrawn front ready sound]
    simp
  · rw [execRxStreamDeliver_withdrawn front ready sound]
    dsimp only
    rw [take_isEmpty b bs (by omega)]
    rfl
  · rw [execRxStreamDeliver_kept front ready sound]
    dsimp only
    rw [take_isEmpty b bs room, List.take_of_length_le fits, decide_eq_true fits]
    rfl
  · rw [execRxStreamDeliver_kept front ready sound]
    dsimp only
    rw [take_isEmpty b bs room, decide_eq_false (Nat.not_le.mpr longer), List.length_take_of_le longer.le]
    rfl

end Sys2Proof.Machine
end


section
/-! The Archive's states and checkpoints (R361, R368). -/

namespace Sys2Proof.Machine

variable {s t : State}

@[simp] theorem State.raiseG_arc (s : State) (g b : Nat) : (s.raiseG g b).arc = s.arc := by
  rw [State.raiseG, State.raise_frame]

@[simp] theorem State.modArc_reg (s : State) (g : ArcUnit → ArcUnit) (o : Nat) : (s.modArc g).reg o = s.reg o := rfl

/-! ### Checkpoints -/

/-- The checkpoint that `writeCheckpoint` writes: its pages take the PSEQs from the next one on. -/
def State.nextCheckpoint (s : State) : Checkpoint :=
  { first := s.arc.pseq, frontier := s.arc.pseq + (s.takeFree 8).1.toNat
    bad := (s.arc.blocks.filter fun x => x.2.bad).map Prod.fst
    erases := s.arc.blocks.map fun x => (x.1, x.2.erases), formats := s.arc.formats, events := s.arc.events
    nextEvent := s.arc.nextEvent }

/-- A checkpoint changes the roots, the next PSEQ and the count of pages since the last one. -/
theorem State.writeCheckpoint_arc (s : State) : s.writeCheckpoint.arc = { s.arc with
    rootA := if s.arc.nextB then s.arc.rootA else some s.nextCheckpoint
    rootB := if s.arc.nextB then some s.nextCheckpoint else s.arc.rootB
    nextB := !s.arc.nextB, pseq := s.arc.pseq + ((s.takeFree 8).1.toNat + 1), sinceCheckpoint := 0 } := rfl

theorem State.writeCheckpoint_reg_ne (s : State) {o : Nat} (h : o ≠ R.ARC_C_PAGES) :
    s.writeCheckpoint.reg o = s.reg o := State.reg_countN_ne _ _ h

/-- A root holds the checkpoint. -/
theorem State.writeCheckpoint_root (s : State) :
    s.writeCheckpoint.arc.rootA = some s.nextCheckpoint ∨ s.writeCheckpoint.arc.rootB = some s.nextCheckpoint := by
  rw [State.writeCheckpoint_arc]
  cases hb : s.arc.nextB
  · exact .inl rfl
  · exact .inr rfl

/-- A checkpoint records the frontier and the event table as the store then has them. -/
theorem State.writeCheckpoint_records (s : State) : s.writeCheckpoint.arc.sinceCheckpoint = 0 ∧
    s.nextCheckpoint.events = s.writeCheckpoint.arc.events ∧
    s.nextCheckpoint.frontier + 1 = s.writeCheckpoint.arc.pseq ∧
    s.nextCheckpoint.nextEvent = s.writeCheckpoint.arc.nextEvent := ⟨rfl, rfl, rfl, rfl⟩

/-! ### The state of the Archive -/

theorem State.arcState_set (form : twf regReset s.regs = true) {n : Nat} (small : n < 8) :
    (s.setArcState n).arcState = n :=
  (State.fld_setFld_same _ form _ _ (by decide) (by decide)).trans (Nat.mod_eq_of_lt small)

theorem State.arcUnavailable_state (form : twf regReset s.regs = true) : s.arcUnavailable.arcState = 5 := by
  rw [State.arcUnavailable]
  by_cases already : s.arcState = 5
  · rw [if_pos already]; exact already
  · rw [if_neg already]
    exact (fld_congr _ (State.reg_raiseG_ne _ (by decide) (by decide) (by decide))).trans
      (State.arcState_set form (by decide))

theorem State.usableDies_congr (room : t.reg R.ARC_GEOM1 = s.reg R.ARC_GEOM1) (arc : t.arc.dies = s.arc.dies)
    (dead : t.arc.deadDies = s.arc.deadDies) : t.usableDies = s.usableDies := by
  have same (f : Fld) (h : f.off = R.ARC_GEOM1) : t.fld f = s.fld f := fld_congr f (h ▸ room)
  rw [State.usableDies, State.usableDies, State.dieRoom, State.dieRoom, same _ rfl, same _ rfl, arc, dead]

/-- A die within the geometry that answered leaves the store usable. -/
theorem State.usableDies_some (none : s.arc.deadDies = []) {d : Nat} (room : d < s.dieRoom)
    (answered : bitOf s.arc.dies d = true) : s.usableDies.isEmpty = false := by
  have mem : d ∈ s.usableDies := List.mem_filter.mpr ⟨List.mem_range.mpr room, by simp [answered, none]⟩
  cases h : s.usableDies with
  | nil => rw [h] at mem; cases mem
  | cons _ _ => rfl

/-! ### EN (R361) -/

/-- EN is set and the NAND has shown its dies: the state in which an enable decides what follows. -/
def State.nandShown (s : State) (formatted : Bool) (dies : BitVec 128) : State :=
  let t := (s.setFlag F.ARC_CTRL_EN true).modArc fun a =>
    { a with dies := dies, formatted := a.formatted || formatted, reach := s.stamp }
  t.setFld F.ARC_STATUS_DIES_OK t.usableDies.length

theorem State.nandShown_reg (s : State) (formatted : Bool) (dies : BitVec 128) {o : Nat} (en : o ≠ R.ARC_CTRL)
    (count : o ≠ R.ARC_STATUS) : (s.nandShown formatted dies).reg o = s.reg o :=
  (State.reg_setFld_ne _ _ _ count).trans (s.reg_setFlag_ne _ _ en)

theorem State.nandShown_form (form : twf regReset s.regs = true) (formatted : Bool) (dies : BitVec 128) :
    twf regReset (s.nandShown formatted dies).regs = true :=
  State.twf_setFld ((s.setFlag F.ARC_CTRL_EN true).modArc _) (s.twf_setFlag form _ _) _ _

theorem State.nandShown_ddrReady (s : State) (formatted : Bool) (dies : BitVec 128) :
    (s.nandShown formatted dies).ddrReady = s.ddrReady := by
  have flag (f : Fld) (h : f.off ≠ R.ARC_CTRL ∧ f.off ≠ R.ARC_STATUS) :
      (s.nandShown formatted dies).flag f = s.flag f :=
    flag_congr f (s.nandShown_reg _ _ h.1 h.2)
  rw [State.ddrReady, State.ddrReady, flag _ (by decide), flag _ (by decide)]
  rfl

theorem State.arcOn_busy (busy : s.arcState ≠ 0) (formatted : Bool) (dies : BitVec 128) :
    s.arcOn formatted dies = s.setFlag F.ARC_CTRL_EN true := if_pos busy

theorem State.arcOn_unavailable (idle : s.arcState = 0) {formatted : Bool} {dies : BitVec 128}
    (ddr : s.ddrReady = false) : s.arcOn formatted dies = (s.nandShown formatted dies).arcUnavailable :=
  (if_neg (not_not.mpr idle)).trans (if_pos (.inl ((s.nandShown_ddrReady _ _).trans ddr)))

theorem State.arcOn_recovers (idle : s.arcState = 0) {dies : BitVec 128} (ddr : s.ddrReady = true)
    (usable : (s.nandShown true dies).usableDies.isEmpty = false) :
    s.arcOn true dies = (s.nandShown true dies).setArcState 2 := by
  have ready := (s.nandShown_ddrReady true dies).trans ddr
  have formatted : (s.nandShown true dies).arc.formatted = true := Bool.or_true _
  exact (if_neg (not_not.mpr idle)).trans ((if_neg (not_or.mpr ⟨ne_false_of_eq_true ready,
    ne_true_of_eq_false usable⟩)).trans (if_pos formatted))

theorem State.nandShown_usable {dies : BitVec 128} (dead : s.arc.deadDies = [])
    (some : ∃ d < s.dieRoom, bitOf dies d = true) : (s.nandShown true dies).usableDies.isEmpty = false := by
  obtain ⟨d, room, answered⟩ := some
  have geom : (s.nandShown true dies).reg R.ARC_GEOM1 = s.reg R.ARC_GEOM1 := s.nandShown_reg _ _ (by decide) (by decide)
  refine State.usableDies_some (d := d) dead ?_ answered
  rw [State.dieRoom, fld_congr F.ARC_GEOM1_CES geom, fld_congr F.ARC_GEOM1_DIES_CE geom]
  exact room

/-! ### What leaves ARC_CTRL as it is -/

theorem State.reclaim_regs {t : State} (h : s.reclaim = some t) : t.regs = s.regs := by
  rw [State.reclaim] at h
  split at h
  · cases h
  · cases h; rfl

theorem State.keepErased_regs (d n : Nat) (s : State) : (State.keepErased d n s).regs = s.regs := by
  induction n generalizing s with
  | zero => rfl
  | succ n ih =>
    rw [State.keepErased]
    split
    · rfl
    · split
      next t found => exact (ih t).trans (State.reclaim_regs found)
      next => rfl

theorem State.nextBlock_regs {b : Nat} (h : s.nextBlock = some (b, t)) : t.regs = s.regs := by
  rw [State.nextBlock] at h
  split at h
  · cases h; rfl
  · split at h
    · cases h
    · obtain ⟨_, _, out⟩ := Option.map_eq_some_iff.mp h
      cases out
      exact State.keepErased_regs _ _ s

theorem State.retireBlock_ctrl (s : State) (b : Nat) (failed : Bool) :
    (s.retireBlock b failed).reg R.ARC_CTRL = s.reg R.ARC_CTRL := by
  have raised (t : State) (b : Nat) (h : b < 32) : (t.raiseG 45 b).reg R.ARC_CTRL = t.reg R.ARC_CTRL :=
    t.reg_raiseG_ne h (by decide) (by decide)
  have retired (n : NandBlock) : (((s.setNandBlock b n).count R.ARC_C_RETIRED).raiseG 45 6).reg R.ARC_CTRL
      = s.reg R.ARC_CTRL := (raised _ _ (by decide)).trans (State.reg_count_ne _ (by decide))
  have lost (t : State) (n : Nat) : ((t.setFld F.ARC_STATUS_DIES_OK n).raiseG 45 10).reg R.ARC_CTRL
      = t.reg R.ARC_CTRL := (raised _ _ (by decide)).trans (State.reg_setFld_ne _ _ _ (by decide))
  rw [State.retireBlock]
  dsimp only
  split
  · exact retired _
  · split
    · exact retired _
    · split
      · exact (raised _ _ (by decide)).trans ((State.reg_setFld_ne _ _ _ (by decide)).trans
          ((lost _ _).trans (retired _)))
      · exact (lost _ _).trans (retired _)

theorem State.program_ctrl {done : State → State} (kept : ∀ u, (done u).reg R.ARC_CTRL = u.reg R.ARC_CTRL)
    (ok : Bool) (page : NandPage) : (s.program ok page done).reg R.ARC_CTRL = s.reg R.ARC_CTRL := by
  rw [State.program]
  split
  · rfl
  next b t found =>
    have before : t.reg R.ARC_CTRL = s.reg R.ARC_CTRL := congrArg (tget regReset · _) (State.nextBlock_regs found)
    dsimp only
    split
    · exact (kept _).trans ((State.reg_count_ne _ (by decide)).trans before)
    · exact (State.retireBlock_ctrl _ _ _).trans before

theorem State.programEvent_ctrl (s : State) :
    (s.programEvent true true fun _ u => u).reg R.ARC_CTRL = s.reg R.ARC_CTRL := by
  rw [State.programEvent]
  split
  · rfl
  · exact State.program_ctrl (fun u => u.modArc_reg _ _) _ _

theorem State.lastPage_ctrl (s : State) : s.lastPage.reg R.ARC_CTRL = s.reg R.ARC_CTRL := by
  rw [State.lastPage]
  split
  · rfl
  · extract_lets cut cutOff
    split
    · rfl
    · exact State.programEvent_ctrl _

theorem State.shutEvent_ctrl (s : State) : s.shutEvent.reg R.ARC_CTRL = s.reg R.ARC_CTRL :=
  (State.reg_setReg_ne _ _ (by decide)).trans ((State.writeCheckpoint_reg_ne _ (by decide)).trans
    ((State.reg_raiseG_ne _ (by decide) (by decide) (by decide)).trans (State.reg_count_ne _ (by decide))))

theorem State.openEvent_ctrl (s : State) (e : ArcEvent) : (s.openEvent e).reg R.ARC_CTRL = s.reg R.ARC_CTRL := by
  have opened (u : State) (n : Nat) (m : W64) :
      (((u.setReg R.ARC_EVENT_CUR m).setArcState n).raiseG 45 1).reg R.ARC_CTRL = u.reg R.ARC_CTRL :=
    (State.reg_raiseG_ne _ (by decide) (by decide) (by decide)).trans
      ((State.reg_setFld_ne _ _ _ (by decide)).trans (State.reg_setReg_ne _ _ (by decide)))
  rw [State.openEvent]
  dsimp only
  split
  · rfl
  next u room =>
    refine (opened _ _ _).trans ((State.modArc_reg u _ _).trans (congrArg (tget regReset · _) ?_))
    split at room
    · cases room; rfl
    · exact State.reclaim_regs room

theorem State.closeEvent_ctrl (s : State) : s.closeEvent.reg R.ARC_CTRL = s.reg R.ARC_CTRL := by
  have shut : s.lastPage.shutEvent.reg R.ARC_CTRL = s.reg R.ARC_CTRL := (State.shutEvent_ctrl _).trans s.lastPage_ctrl
  rw [State.closeEvent]
  split
  · rfl
  · dsimp only
    split
    · rw [State.openEvent_ctrl, State.reg_setFlag_ne _ _ _ (by decide), State.modArc_reg, State.setArcState,
        State.reg_setFld_ne _ _ _ (by decide)]
      exact shut
    · rw [State.setArcState, State.reg_setFld_ne _ _ _ (by decide)]
      exact shut

/-! ### EN written 0 (R361) -/

/-- The state that an EN of 0 leaves: DISABLED, with EN 0. -/
theorem State.arcStop_off (inv : Inv s) : s.arcStop.arcState = 0 ∧ s.arcStop.flag F.ARC_CTRL_EN = false := by
  have en := State.flag_setFlag_same s inv.regs F.ARC_CTRL_EN false rfl (by decide)
  have stopped (u : State) (form : twf regReset u.regs = true)
      (ctrl : u.reg R.ARC_CTRL = (s.setFlag F.ARC_CTRL_EN false).reg R.ARC_CTRL) :
      (u.setArcState 0).arcState = 0 ∧ (u.setArcState 0).flag F.ARC_CTRL_EN = false :=
    ⟨State.arcState_set form (by decide),
      (flag_congr _ ((State.reg_setFld_ne _ _ _ (by decide)).trans ctrl)).trans en⟩
  have cleared (u : State) (g : ArcUnit → ArcUnit) :
      ((u.modArc g).setFlag F.ARC_STATUS_PENDING false).reg R.ARC_CTRL = u.reg R.ARC_CTRL :=
    (State.reg_setFlag_ne _ _ _ (by decide)).trans (u.modArc_reg _ _)
  have k := ((((Keeps.refl s).setFlag F.ARC_CTRL_EN false).modArc fun a =>
    { a with pendingEvent := none, held := none }).setFlag F.ARC_STATUS_PENDING false)
  rw [State.arcStop]
  dsimp only
  split
  next idle => exact ⟨(fld_congr _ (State.reg_setFlag_ne _ _ _ (by decide))).trans idle, en⟩
  next =>
    split
    · exact stopped _ (k.regs inv.regs) (cleared _ _)
    · split
      · exact stopped _ (k.writeCheckpoint.regs inv.regs)
          ((State.writeCheckpoint_reg_ne _ (by decide)).trans (cleared _ _))
      · exact stopped _ ((k.modArc _).closeEvent.regs inv.regs)
          ((State.closeEvent_ctrl _).trans ((State.modArc_reg _ _ _).trans (cleared _ _)))

/-! ### The end of a format (R361, R366) -/

/-- What the retirement of a worn block changes of the Archive is its block table. -/
structure OnlyBlocks (s t : State) : Prop where
  arc : t.arc = { s.arc with blocks := t.arc.blocks }
  geom : t.reg R.ARC_GEOM1 = s.reg R.ARC_GEOM1

theorem OnlyBlocks.retire {b : Nat} (h : OnlyBlocks s t) : OnlyBlocks s (t.retireBlock b false) := by
  have eq : t.retireBlock b false
      = ((t.setNandBlock b { t.nandBlock b with bad := true, dirty := false }).count R.ARC_C_RETIRED).raiseG 45 6 := rfl
  constructor
  · rw [eq, State.raiseG_arc, State.count_arc, State.setNandBlock, State.modArc_arc, h.arc]
  · rw [eq]
    exact (State.reg_raiseG_ne _ (by decide) (by decide) (by decide)).trans
      ((State.reg_count_ne _ (by decide)).trans h.geom)

/-- The store with every event and page gone, before the worn blocks are retired. -/
def State.wiped (s : State) (dies : BitVec 128) : State :=
  s.modArc fun a => { a with
    dies := dies, formatted := true, pages := [], events := [], pendingEvent := none, nextEvent := 1, pseq := 0
    programs := 0, openBlock := [], formats := a.formats + 1, patrolAt := 0, failed := [], rootA := none, rootB := none
    nextB := false, blocks := (s.arc.blocks.map fun x => (x.1, { x.2 with used := 0, dirty := false })).filter fun x =>
      decide (x.2 ≠ NandBlock.init) }

theorem State.eraseStore_wiped (s : State) (dies : BitVec 128) : OnlyBlocks (s.wiped dies) (s.eraseStore [] dies) :=
  List.foldlRecOn (motive := fun t => OnlyBlocks (s.wiped dies) t) _ _
    ⟨rfl, State.reg_countN_ne _ _ (by decide)⟩ fun _ h _ _ => h.retire

theorem State.eraseStore_usable {dies : BitVec 128} (dead : s.arc.deadDies = [])
    (some : ∃ d < s.dieRoom, bitOf dies d = true) : (s.eraseStore [] dies).usableDies.isEmpty = false := by
  obtain ⟨d, room, answered⟩ := some
  have only := s.eraseStore_wiped dies
  rw [State.usableDies_congr (s := s.wiped dies) only.geom (by rw [only.arc]) (by rw [only.arc])]
  exact State.usableDies_some (d := d) dead room answered

/-- The store after a format whose dies are usable, before its first checkpoint. -/
def State.formatted (s : State) (dies : BitVec 128) : State :=
  (s.eraseStore [] dies).setFld F.ARC_STATUS_DIES_OK (s.eraseStore [] dies).usableDies.length

theorem State.formatted_arc (s : State) (dies : BitVec 128) :
    (s.formatted dies).arc = { (s.wiped dies).arc with blocks := (s.formatted dies).arc.blocks } :=
  (s.eraseStore_wiped dies).arc

theorem execFormatDone_formats {dies : List (Fin 128 × DieParams)} (formatting : s.arcState = 1)
    (dead : s.arc.deadDies = []) (some : ∃ d < s.dieRoom, bitOf (s.agreeing dies) d = true) :
    execFormatDone [] dies s = .next ((s.formatted (s.agreeing dies)).writeCheckpoint.setArcState 0) := by
  have usable : (s.formatted (s.agreeing dies)).usableDies.isEmpty = false := by
    have same : (s.formatted (s.agreeing dies)).usableDies = (s.eraseStore [] (s.agreeing dies)).usableDies :=
      State.usableDies_congr (State.reg_setFld_ne _ _ _ (by decide)) (by rw [State.formatted, State.setFld_arc])
        (by rw [State.formatted, State.setFld_arc])
    rw [same]
    exact State.eraseStore_usable dead some
  exact congrArg Host.Outcome.next ((if_neg (not_not.mpr formatting)).trans (if_neg (ne_true_of_eq_false usable)))

/-! ### A recovery that finds no event (R368) -/

/-- The counters and the fault event of step 2. -/
def State.runCounted (s : State) (soft : Nat) (torn : Bool) : State :=
  let t := s.countN R.ARC_C_SOFT_DECODES soft
  if torn then (t.count R.ARC_C_UNCORRECTABLE).raiseG 45 5 else t

theorem State.runCounted_arc (s : State) (soft : Nat) (torn : Bool) : (s.runCounted soft torn).arc = s.arc := by
  cases torn
  · rfl
  · exact State.raiseG_arc _ _ _

theorem State.runCounted_keeps (s : State) (soft : Nat) (torn : Bool) : Keeps s (s.runCounted soft torn) := by
  cases torn
  · exact (Keeps.refl s).countN _ _
  · exact (((Keeps.refl s).countN _ _).count _).raiseG _ _

/-- The store brought up to the frontier `f`, with the next PSEQ above it. -/
def State.broughtUp (s : State) (f : Nat) : State :=
  (s.bringUp f).modArc fun a => { a with resume := false, pseq := max (f + 1) a.pseq }

theorem State.broughtUp_events (s : State) (empty : s.arc.events = []) (f : Nat) : (s.broughtUp f).arc.events = [] := by
  simp [State.broughtUp, State.bringUp, State.freeDead, State.modArc, empty]

/-- What a recovery without an event leaves, of the store brought up to its frontier. -/
def State.readyAt (s : State) (shown : W64) : State :=
  ((((((s.setReg R.ARC_RECOVERY shown).setReg R.ARC_RECOVERY_EVT 0).writeCheckpoint).raiseG 45 7).setReg
    R.ARC_EVENT_CUR 0).setArcState 3)

theorem State.readyAt_arc (s : State) (shown : W64) : (s.readyAt shown).arc = s.writeCheckpoint.arc := by
  rw [State.readyAt, State.setArcState, State.setFld_arc, State.setReg_arc, State.raiseG_arc]
  rfl

theorem State.recovered_empty {bad : BitVec 2} {reads rereads : List (Nat × NandRead)} (empty : s.arc.events = [])
    (free : s.arc.held = none) (resume : s.arc.resume = true) :
    let root := s.arc.newestRoot bad
    let run := s.arc.run reads (s.fld F.ARC_GEOM1_RETRY) (s.arc.pages.length + s.arc.failed.length + 3)
      ((root.map fun c => c.frontier + 1).getD 0) 0
    let f := s.pairReads rereads run.1
    let above := (s.arc.pages.filter fun p => decide (f < p.pseq)).length
    s.recovered bad reads rereads
      = ((s.runCounted run.2.1 run.2.2).broughtUp f).readyAt (w64 (f * 2 ^ 16 + min 65535 above)) := by
  intro root run f above
  unfold State.recovered
  extract_lets from_
  have ran : s.arc.run reads (s.fld F.ARC_GEOM1_RETRY) (s.arc.pages.length + s.arc.failed.length + 3) from_ 0 = run :=
    rfl
  rw [ran]
  clear ran
  clear_value run
  obtain ⟨f0, soft, torn⟩ := run
  have counted : (s.runCounted soft torn).arc = s.arc := s.runCounted_arc _ _
  have events : ((s.runCounted soft torn).broughtUp f).arc.events = [] :=
    State.broughtUp_events _ (by rw [counted]; exact empty) _
  have held (t : State) (h : t.arc.held = none) : t.releaseHeld = t := by
    rw [State.releaseHeld, h]
  split
  next _ _ _ split =>
    cases split
    extract_lets frontier beyond t0 t1 t2 opened t3 lost shut t4 t5 t6 t7 t8
    have sameRoot : t2 = s.runCounted soft torn := by
      simp only [t2, resume]
      rfl
    have brought : t3 = (s.runCounted soft torn).broughtUp f := congrArg (State.broughtUp · f) sameRoot
    have noLost : lost = [] := by simp only [lost, brought, events, List.filter_nil]
    have noOpen : opened = [] := by simp only [opened, sameRoot, counted, empty, List.filter_nil]
    have noted : t5 = t4.setReg R.ARC_RECOVERY_EVT 0 := by simp only [t5, noLost, List.getLast?_nil]
    have calm : t6 = t5 := by simp only [t6, shut, noOpen, List.filter_nil, List.isEmpty_nil, if_true]
    have written : t7.arc = t3.writeCheckpoint.arc := by
      simp only [t7, State.raiseG_arc, calm, noted]
      rfl
    have idle : t7.arc.openEvent = none := by
      rw [written, State.writeCheckpoint_arc, ArcUnit.openEvent, brought]
      dsimp only
      rw [events]
      rfl
    have ready : t8 = t3.readyAt (w64 (f * 2 ^ 16 + min 65535 above)) := by
      have last : t8 = (t7.setReg R.ARC_EVENT_CUR 0).setArcState 3 := by simp only [t8, idle]
      rw [last]
      simp only [t7, calm, noted]
      rfl
    have unheld : t8.arc.held = none := by
      rw [ready, State.readyAt_arc, State.writeCheckpoint_arc]
      change t3.arc.held = none
      rw [brought]
      change (s.runCounted soft torn).arc.held = none
      rw [counted]
      exact free
    rw [held t8 unheld, ready, brought]

/-- The state that a recovery without an event leaves: READY, above its frontier, which ARC_RECOVERY shows. -/
theorem State.readyAt_recovered {brought : State} {f : Nat} {base : State} (from_ : brought = base.broughtUp f)
    (form : twf regReset brought.regs = true) (shown : W64) : (brought.readyAt shown).arcState = 3 ∧
      f < (brought.readyAt shown).arc.pseq ∧ (brought.readyAt shown).reg R.ARC_RECOVERY = shown ∧
      (brought.readyAt shown).arc.resume = false := by
  have k := ((((((Keeps.refl brought).setReg R.ARC_RECOVERY shown).setReg R.ARC_RECOVERY_EVT 0).writeCheckpoint).raiseG
    45 7).setReg R.ARC_EVENT_CUR 0)
  refine ⟨State.arcState_set (k.regs form) (by decide), ?_, ?_, ?_⟩
  · rw [State.readyAt_arc, State.writeCheckpoint_arc, from_]
    change f < max (f + 1) _ + _
    omega
  · rw [State.readyAt, State.setArcState, State.reg_setFld_ne _ _ _ (by decide), State.reg_setReg_ne _ _ (by decide),
      State.reg_raiseG_ne _ (by decide) (by decide) (by decide), State.writeCheckpoint_reg_ne _ (by decide),
      State.reg_setReg_ne _ _ (by decide), State.reg_setReg _ form, if_pos rfl]
  · rw [State.readyAt_arc, State.writeCheckpoint_arc, from_]
    rfl

/-! ### The obligation -/

/-- Settles O50: each control write by the branch of `arcOn`, `arcStop` and `arcErase` that the state takes; a format
through what the retirement of worn blocks leaves (`OnlyBlocks`); a recovery without an event through the states that
its steps pass (`State.recovered_empty`). -/
theorem archiveControl : Obligations.ArchiveControl := by
  unfold Obligations.ArchiveControl
  intro s inv
  refine ⟨fun reach full => ⟨?_, ?_, ?_, ?_, ?_, ?_⟩, ?_, ?_, ?_, ?_, ?_, ?_⟩
  · intro dies idle ddr dead usable
    refine ⟨_, congrArg Host.Outcome.next ((State.byHost_full reach full).trans
      (State.arcOn_recovers idle ddr (State.nandShown_usable dead usable))), ?_, Bool.or_true _, rfl, rfl, rfl⟩
    exact State.arcState_set (State.nandShown_form inv.regs _ _) (by decide)
  · intro f dies idle ddr
    exact ⟨_, congrArg Host.Outcome.next ((State.byHost_full reach full).trans (State.arcOn_unavailable idle ddr)),
      State.arcUnavailable_state (State.nandShown_form inv.regs _ _)⟩
  · intro f dies busy
    exact congrArg Host.Outcome.next ((State.byHost_full reach full).trans (State.arcOn_busy busy _ _))
  · exact ⟨_, congrArg Host.Outcome.next (State.byHost_full reach full), State.arcStop_off inv⟩
  · intro idle
    exact congrArg Host.Outcome.next ((State.byHost_full reach full).trans (if_pos idle))
  · intro busy
    exact congrArg Host.Outcome.next ((State.byHost_full reach full).trans (if_neg busy))
  · intro dies formatting dead usable
    have arc := s.formatted_arc (s.agreeing dies)
    have form : twf regReset (s.formatted (s.agreeing dies)).writeCheckpoint.regs = true :=
      (((Keeps.refl s).eraseStore _ _).setFld _ _).writeCheckpoint.regs inv.regs
    refine ⟨_, (s.formatted (s.agreeing dies)).nextCheckpoint, execFormatDone_formats formatting dead usable,
      State.arcState_set form (by decide), ?_⟩
    rw [State.setArcState, State.setFld_arc, State.writeCheckpoint_arc, State.nextCheckpoint, arc]
    exact ⟨rfl, rfl, rfl, rfl, rfl, rfl, rfl⟩
  · intro b dies other
    exact congrArg Host.Outcome.next (if_pos other)
  · intro bad reads rereads recovering empty free resume root run f above
    have form : twf regReset ((s.runCounted run.2.1 run.2.2).broughtUp f).regs = true :=
      (((s.runCounted_keeps _ _).bringUp _).modArc _).regs inv.regs
    have ends : execArcRecoveryDone bad reads rereads s = .next
        (((s.runCounted run.2.1 run.2.2).broughtUp f).readyAt (w64 (f * 2 ^ 16 + min 65535 above))) :=
      congrArg Host.Outcome.next ((if_neg (not_not.mpr recovering)).trans (State.recovered_empty empty free resume))
    exact ⟨_, ends, State.readyAt_recovered rfl form _⟩
  · intro bad reads rereads other
    exact congrArg Host.Outcome.next (if_pos other)
  · intro finds none
    exact congrArg Host.Outcome.next (if_pos none)
  · intro finds some
    obtain ⟨count, records⟩ := (s.drainPage true true finds).writeCheckpoint_records
    exact ⟨_, _, congrArg Host.Outcome.next (if_neg some), count, State.writeCheckpoint_root _, records⟩

end Sys2Proof.Machine
end


section
/-! Case sleep, points, rails, voltage scaling and clock losses (R376 to R382, R388). -/

namespace Sys2Proof.Machine

variable {s : State}

/-! ### Case sleep (R377) -/

theorem execCaseSleep_asks {k : Case} (may : s.effSleep k = true) (open_ : s.caseFenced k = false)
    (idle : s.caseBusy k = false) :
    (s.fld (F.PWR_CASE_STATE k) = 0 → execCaseSleep k s = .next (s.setFld (F.PWR_CASE_STATE k) 1)) ∧
      (s.fld (F.PWR_CASE_STATE k) = 1 → execCaseSleep k s = .next (s.setFld (F.PWR_CASE_STATE k) 2)) := by
  constructor
  · intro awake
    simp only [execCaseSleep, may, open_, idle, awake, Bool.not_true, Bool.or_self, Bool.false_eq_true, if_false]
  · intro entering
    simp only [execCaseSleep, may, open_, idle, entering, Bool.not_true, Bool.or_self, Bool.false_eq_true, if_false]

theorem execCaseSleep_stays {k : Case} (awake : s.effSleep k = false) : execCaseSleep k s = .next s := by
  simp only [execCaseSleep, awake, Bool.not_false, Bool.true_or, if_true]

/-! ### Raises (R381) -/

theorem execRailConfirm_none {k : Case} (settled : (s.caseOf k).raise = none) (ok : Bool) :
    execRailConfirm k ok s = .next s := by
  unfold execRailConfirm
  dsimp only
  rw [settled]

theorem execRailConfirm_raising {k : Case} {p n : Nat} (raising : (s.caseOf k).raise = some (p, n)) (ok : Bool) :
    execRailConfirm k ok s = .next (
      if ok then ((s.setCase k { s.caseOf k with raise := none }).setRail (k.val / 2)
        (max p (s.railPoint (k.val / 2)))).switchPoint k p
      else if n < 2 then (s.setCase k { s.caseOf k with raise := some (p, n + 1) }).writeRail (k.val / 2) p
      else (s.setCase k { s.caseOf k with raise := none }).raiseG 46 6) := by
  unfold execRailConfirm
  dsimp only
  rw [raising]

/-! ### Voltage scaling (R382) -/

/-- A region's mark that it needs more than +25 mV. -/
def State.markShort (s : State) (k : Nat) (b : Bool) : State :=
  s.modPwr fun p => { p with avsShort := setBits p.avsShort k k (b2n b) }

/-- Two's complement of 8 bits spells the numbers of its range. -/
theorem signed_wrap {v : Int} (low : -128 ≤ v) (high : v < 128) : signed 8 (wrap 8 v % 2 ^ 8) = v := by
  unfold signed wrap
  split <;> omega

theorem State.markShort_short (s : State) (r : Region) : bitOf (s.markShort r true).pwr.avsShort r = true := by
  show bitOf (setBits s.pwr.avsShort r r 1) r = true
  rw [bitOf_setBits _ _ _ _ _ (le_refl _) r.isLt]
  simp

section
variable {r : Region} {m : Int} (on : s.flag F.PWR_AVS_CFG_AVS_EN = true) (fresh : bitOf s.pwr.avsShort r.val = false)
include on fresh

/-- A margin of less than one step leaves the trim. -/
theorem execAvsTick_holds (enough : 0 ≤ m) (small : m < 5) : execAvsTick r m s = .next (s.markShort r false) := by
  have calm : decide (m < 0) = false := decide_eq_false (not_lt.mpr enough)
  have kept : ¬ (5 ≤ m ∧ -25 < signed 8 (s.fld (F.PWR_REGION_TRIM r))) := fun up => absurd up.1 (not_le.mpr small)
  simp only [execAvsTick, on, fresh, calm, kept, State.markShort, Bool.false_and, Bool.true_eq_false,
    Bool.false_eq_true, if_false]

/-- A negative margin raises the trim by one step of 5 mV. -/
theorem execAvsTick_raises (short : m < 0) (room : signed 8 (s.fld (F.PWR_REGION_TRIM r)) < 25) :
    execAvsTick r m s = .next (((s.markShort r false).setFld (F.PWR_REGION_TRIM r)
      (wrap 8 (signed 8 (s.fld (F.PWR_REGION_TRIM r)) + 5))).writeRail r ((s.markShort r false).railPoint r)) := by
  have full : decide (25 ≤ signed 8 (s.fld (F.PWR_REGION_TRIM r))) = false := decide_eq_false (not_le.mpr room)
  simp only [execAvsTick, on, fresh, full, short, State.markShort, decide_true, Bool.and_false, Bool.true_eq_false,
    Bool.false_eq_true, if_false, if_true]

/-- A negative margin at +25 mV is reported. -/
theorem execAvsTick_reports (short : m < 0) (full : 25 ≤ signed 8 (s.fld (F.PWR_REGION_TRIM r))) :
    execAvsTick r m s = .next ((((s.markShort r true).raiseG 46 5).fault (0x580 + r.val) 0x68 0 false).refitAll) := by
  simp only [execAvsTick, on, fresh, full, short, State.markShort, decide_true, Bool.and_true, Bool.true_eq_false,
    Bool.false_eq_true, if_false, if_true]

end

/-! ### Heat (R388) -/

theorem execThrottleStep_cool {k : Case} (cool : s.caseHot k = false) : execThrottleStep k s = .next s :=
  congrArg Host.Outcome.next (if_pos (.inl cool))

theorem execThrottleStep_hot {k : Case} (hot : s.caseHot k = true) (above : s.lowerLimit k < s.casePoint k) :
    execThrottleStep k s = .next (((s.setHeatCut k (s.upperLimit k - s.capCut k - (s.casePoint k - 1))).setPoint k
      (s.casePoint k - 1)).raiseRegion (k.val / 2) 4) :=
  congrArg Host.Outcome.next (if_neg (not_or.mpr ⟨ne_false_of_eq_true hot, not_le.mpr above⟩))

/-! ### The obligation -/

/-- Settles O52: each command by the branch that the case's state, the raise under way, the margin or the sensor
selects. -/
theorem casesAndRails : Obligations.CasesAndRails := by
  unfold Obligations.CasesAndRails
  intro s
  refine ⟨fun k may open_ idle => execCaseSleep_asks may open_ idle, fun k => execCaseSleep_stays,
    fun k => ⟨fun fenced => congrArg Host.Outcome.next (if_pos fenced),
      fun open_ => congrArg Host.Outcome.next (if_neg (ne_true_of_eq_false open_))⟩,
    fun k => ⟨fun ok settled => execRailConfirm_none settled ok, fun p n raising => ?_⟩, fun r m => ⟨?_, ?_⟩,
    fun k => ⟨execThrottleStep_cool, execThrottleStep_hot⟩, rfl, fun r => rfl, rfl⟩
  · intro rest again
    refine ⟨execRailConfirm_raising raising true, fun few => ?_, fun many => ?_⟩
    · exact (execRailConfirm_raising raising false).trans (congrArg Host.Outcome.next (if_pos few))
    · exact (execRailConfirm_raising raising false).trans (congrArg Host.Outcome.next (if_neg (not_lt.mpr many)))
  · intro off
    exact congrArg Host.Outcome.next (if_pos off)
  · intro on fresh trim
    refine ⟨fun enough small _ => ⟨_, execAvsTick_holds on fresh enough small, rfl, rfl⟩,
      fun short low room inv => ?_, fun short full =>
        ⟨s.markShort r true, rfl, s.markShort_short r, execAvsTick_reports on fresh short full⟩⟩
    refine ⟨_, execAvsTick_raises on fresh short room, ?_⟩
    have put := State.fld_setFld_same (s.markShort r false) inv.regs (F.PWR_REGION_TRIM r)
      (wrap 8 (signed 8 (s.fld (F.PWR_REGION_TRIM r)) + 5)) (show 16 ≤ 23 by decide)
      (show 23 < 64 by decide)
    exact (congrArg (signed 8) put).trans (signed_wrap (by omega) (by omega))

end Sys2Proof.Machine
end


section
/-! The power estimate, the cap, shedding and the sensors (R385 to R387, R389, R390). -/

namespace Sys2Proof.Machine

variable {s t u : State}

@[simp] theorem State.raiseG_pwr (s : State) (g b : Nat) : (s.raiseG g b).pwr = s.pwr := by
  rw [State.raiseG, State.raise_frame]

@[simp] theorem State.raiseG_boot (s : State) (g b : Nat) : (s.raiseG g b).boot = s.boot := by
  rw [State.raiseG, State.raise_frame]

/-! ### What a refit leaves (R380, R381) -/

/-- What a change of point leaves as it is: the governor but for the rails, and the register of the estimate. -/
structure PointFrame (s t : State) : Prop where
  pwr : t.pwr = { s.pwr with rail := t.pwr.rail }
  est : t.reg R.PWR_EST = s.reg R.PWR_EST

namespace PointFrame

theorem refl (s : State) : PointFrame s s := ⟨rfl, rfl⟩

theorem trans (h : PointFrame s t) (g : PointFrame t u) : PointFrame s u :=
  ⟨g.pwr.trans (by rw [h.pwr]), g.est.trans h.est⟩

theorem samples (h : PointFrame s t) : t.pwr.samples = s.pwr.samples := by rw [h.pwr]

theorem capBinds (h : PointFrame s t) : t.pwr.capBinds = s.pwr.capBinds := by rw [h.pwr]

/-- A change that leaves the whole governor. -/
theorem of_pwr (h : t.pwr = s.pwr) (est : t.reg R.PWR_EST = s.reg R.PWR_EST) : PointFrame s t := ⟨by rw [h], est⟩

theorem switchPoint (s : State) (c p : Nat) : PointFrame s (s.switchPoint c p) := by
  have point : R.PWR_EST ≠ (F.PWR_CASE_POINT c).off := by
    show 0x200010 ≠ 0x200100 + 4 * c
    omega
  have counted : ((s.setFld (F.PWR_CASE_POINT c) p).count R.PWR_C_POINT_CHANGES).reg R.PWR_EST = s.reg R.PWR_EST :=
    (State.reg_count_ne _ (by decide)).trans (s.reg_setFld_ne _ _ point)
  unfold State.switchPoint
  dsimp only
  split
  · exact of_pwr (State.raiseG_pwr _ _ _)
      ((State.reg_raiseG_ne _ (by decide) (by decide) (by decide)).trans counted)
  · exact ⟨rfl, counted⟩

theorem setCase (s : State) (c : Nat) (v : CaseState) : PointFrame s (s.setCase c v) := ⟨rfl, rfl⟩

theorem setRail (s : State) (r p : Nat) : PointFrame s (s.setRail r p) := ⟨rfl, rfl⟩

theorem writeRail (s : State) (r p : Nat) : PointFrame s (s.writeRail r p) := ⟨rfl, rfl⟩

theorem setPoint (s : State) (c p : Nat) : PointFrame s (s.setPoint c p) := by
  unfold State.setPoint
  extract_lets cs r t need
  have switched := ((setCase s c { cs with raise := none }).trans (switchPoint _ c p))
  split
  · split
    · exact switched.trans ((setRail _ _ _).trans (writeRail _ _ _))
    · exact switched
  · split
    · exact setCase _ _ _
    · split
      · exact switched
      · split
        · exact refl s
        · exact (setCase _ _ _).trans (writeRail _ _ _)

theorem refit (s : State) (c : Nat) : PointFrame s (s.refit c) := by
  unfold State.refit
  split
  · exact refl s
  · split
    · exact setPoint _ _ _
    · split
      · exact setPoint _ _ _
      · split
        · exact setPoint _ _ _
        · exact refl s

theorem refitAll (s : State) : PointFrame s s.refitAll :=
  List.foldlRecOn (motive := fun t => PointFrame s t) _ _ (refl s) fun t h c _ => h.trans (refit t c)

end PointFrame

/-! ### Estimates (R385) -/

/-- The state in which a new estimate is shown and counted in its window. -/
def State.estimateShown (s : State) (old : List Nat) (tenths : Nat) : State :=
  (s.setFld F.PWR_EST_ESTIMATE tenths).modPwr fun p =>
    { p with samples := (tenths :: old).take (s.setFld F.PWR_EST_ESTIMATE tenths).windowLen }

/-- The rest of a new estimate changes of the governor the rails and whether the cap binds. -/
theorem State.newEstimate_frame (s : State) (old : List Nat) (tenths : Nat) :
    PointFrame ((s.estimateShown old tenths).modPwr fun p => { p with
      capBinds := (s.estimateShown old tenths).flag F.PWR_CAP_CAP_EN && (s.estimateShown old tenths).overCap })
      (s.newEstimate old tenths) := by
  unfold State.newEstimate
  extract_lets t0 t1 binds t2 was active t3 t4 t5
  have flagged (u : State) (f : Fld) (b : Bool) (h : f.off = R.PWR_STATUS) : PointFrame u (u.setFlag f b) :=
    ⟨rfl, State.reg_setFlag_ne _ _ _ (h ▸ by decide)⟩
  have third : PointFrame t2 t3 := flagged _ _ _ rfl
  have fourth : PointFrame t3 t4 := by
    unfold t4
    split
    · exact .refl _
    · exact flagged _ _ _ rfl
  have fifth : PointFrame t4 t5 := by
    unfold t5
    split
    · exact .of_pwr (State.raiseG_pwr _ _ _) (State.reg_raiseG_ne _ (by decide) (by decide) (by decide))
    · exact .refl _
  exact third.trans (fourth.trans (fifth.trans (.refitAll _)))

theorem State.windowLen_estimate (s : State) (n : Nat) :
    (s.setFld F.PWR_EST_ESTIMATE n).windowLen = 10 * max 1 (s.fld F.PWR_CAP_CFG_WINDOW) := by
  rw [State.windowLen, fld_congr F.PWR_CAP_CFG_WINDOW (s.reg_setFld_ne F.PWR_EST_ESTIMATE n (by decide))]

theorem State.newEstimate_samples (s : State) (old : List Nat) (tenths : Nat) : (s.newEstimate old tenths).pwr.samples
    = (tenths :: old).take (10 * max 1 (s.fld F.PWR_CAP_CFG_WINDOW)) := by
  rw [(s.newEstimate_frame old tenths).pwr, ← s.windowLen_estimate tenths]
  rfl

/-- The cap binds while it is enabled and the average of the window is above it. -/
theorem State.newEstimate_binds (s : State) (old : List Nat) (tenths : Nat) :
    let seen := (tenths :: old).take (10 * max 1 (s.fld F.PWR_CAP_CFG_WINDOW))
    (s.newEstimate old tenths).pwr.capBinds = (s.flag F.PWR_CAP_CAP_EN &&
      decide (s.fld F.PWR_CAP_CAP * seen.length < seen.foldl (· + ·) 0)) := by
  intro seen
  have cap : (s.estimateShown old tenths).reg R.PWR_CAP = s.reg R.PWR_CAP := s.reg_setFld_ne _ _ (by decide)
  have enable : (s.estimateShown old tenths).flag F.PWR_CAP_CAP_EN = s.flag F.PWR_CAP_CAP_EN := flag_congr _ cap
  have counted : (s.estimateShown old tenths).pwr.samples = seen := by
    show (tenths :: old).take (s.setFld F.PWR_EST_ESTIMATE tenths).windowLen = _
    rw [s.windowLen_estimate]
  rw [(s.newEstimate_frame old tenths).pwr]
  show ((s.estimateShown old tenths).flag F.PWR_CAP_CAP_EN && (s.estimateShown old tenths).overCap) = _
  rw [State.overCap, State.capTenths, enable, counted, fld_congr F.PWR_CAP_CAP cap]
  cases s.flag F.PWR_CAP_CAP_EN
  · rfl
  · rfl

theorem State.newEstimate_shown (form : twf regReset s.regs = true) (old : List Nat) (v : BitVec 16) :
    (s.newEstimate old v.toNat).fld F.PWR_EST_ESTIMATE = v.toNat := by
  have put : (s.setFld F.PWR_EST_ESTIMATE v.toNat).fld F.PWR_EST_ESTIMATE = v.toNat % 2 ^ 16 :=
    State.fld_setFld_same s form _ _ (by decide) (by decide)
  rw [fld_congr F.PWR_EST_ESTIMATE (s.newEstimate_frame old v.toNat).est]
  exact put.trans (Nat.mod_eq_of_lt v.isLt)

/-- The counts of POWER_ESTIMATE leave the estimate and the governor as they are. -/
theorem execPowerEstimate_frame (v : BitVec 16) :
    ∃ t, execPowerEstimate v s = .next t ∧ PointFrame (s.newEstimate s.pwr.samples v.toNat) t := by
  refine ⟨_, rfl, ?_⟩
  extract_lets t1 t2
  have counted (u : State) {o : Nat} (h : R.PWR_EST ≠ o) : PointFrame u (u.countN o 10) :=
    ⟨rfl, State.reg_countN_ne _ _ h⟩
  have capped : PointFrame t1 t2 := by
    unfold t2
    split
    · exact counted _ (by decide)
    · exact .refl _
  split
  · exact capped.trans (counted _ (by decide))
  · exact capped

/-! ### Recalibration (R385) -/

/-- The rails' readings, shown. -/
def State.voutsShown (s : State) (vouts : List (BitVec 16)) : State :=
  ((List.range 8).zip vouts).foldl (fun t x => t.setFld (F.PWR_REGION_VOUT x.1) x.2.toNat) s

theorem State.voutsShown_keeps (s : State) (vouts : List (BitVec 16)) : Keeps s (s.voutsShown vouts) :=
  List.foldlRecOn (motive := fun t => Keeps s t) _ _ (Keeps.refl s) fun _ h _ _ => h.setFld _ _

theorem State.voutsShown_config (s : State) (vouts : List (BitVec 16)) :
    (s.voutsShown vouts).reg R.PWR_CAP_CFG = s.reg R.PWR_CAP_CFG := by
  refine List.foldlRecOn (motive := fun t : State => t.reg R.PWR_CAP_CFG = s.reg R.PWR_CAP_CFG) _ _ rfl
    fun t h x _ => ?_
  refine (t.reg_setFld_ne _ _ ?_).trans h
  show 0x20000c ≠ 0x200200 + 4 * x.1
  omega

theorem execPowerRecalibrate_eq (vouts : List (BitVec 16)) (v : BitVec 16) : execPowerRecalibrate vouts v s
    = .next ((s.voutsShown vouts).newEstimate (s.pwr.samples.drop 1) v.toNat) := rfl

/-! ### The cap (R386) -/

theorem State.putCap_refused {v : W32} (some : s.inForce ≠ [])
    (low : 100 * min (bitsOf v 15 0) s.maxPower < s.guaranteedMw s.inForce) : s.putCap v = s.raiseG 46 4 := by
  have nonempty : s.inForce.isEmpty = false := List.isEmpty_eq_false_iff.mpr some
  rw [State.putCap, nonempty, decide_eq_true low]
  rfl

theorem State.putCap_taken {v : W32}
    (enough : s.inForce = [] ∨ s.guaranteedMw s.inForce ≤ 100 * min (bitsOf v 15 0) s.maxPower) :
    s.putCap v = (s.setFlag F.PWR_CAP_CAP_EN (bitOf v 31)).setFld F.PWR_CAP_CAP (min (bitsOf v 15 0) s.maxPower) := by
  refine if_neg fun refused => ?_
  rw [Bool.and_eq_true, Bool.not_eq_true', decide_eq_true_eq] at refused
  rcases enough with none | enough
  · rw [none] at refused
    exact absurd refused.1 (by decide)
  · omega

/-! ### Shedding (R389) -/

theorem execShedStep_calm (calm : s.shedCause = false) : execShedStep s = .next s :=
  congrArg Host.Outcome.next (if_pos calm)

theorem execShedWithdraw_cause (cause : s.shedCause = true) : execShedWithdraw s = .next s :=
  congrArg Host.Outcome.next (if_pos cause)

section
variable (calm : s.shedCause = false)
include calm

/-- With the cause gone a step is withdrawn by what it had done. -/
theorem execShedWithdraw_none (step : s.pwr.step = 0) : execShedWithdraw s = .next s := by
  simp only [execShedWithdraw, calm, step, Bool.false_eq_true, if_false]

theorem execShedWithdraw_boost (step : s.pwr.step = 1) : execShedWithdraw s = .next (s.setStep 0).refitAll := by
  simp only [execShedWithdraw, calm, step, Bool.false_eq_true, if_false]

theorem execShedWithdraw_level {n : Nat} (step : s.pwr.step = n + 3) :
    execShedWithdraw s = .next (s.setStep (n + 2)) := by
  simp only [execShedWithdraw, calm, step, Bool.false_eq_true, if_false]
  rfl

end

section
variable (cause : s.shedCause = true)
include cause

theorem execShedStep_first (step : s.pwr.step = 0) :
    execShedStep s = .next (State.shedEvent s (s.setStep 1).refitAll) := by
  simp only [execShedStep, cause, step, Bool.true_eq_false, if_false]

theorem execShedStep_level {n : Nat} (step : s.pwr.step = n + 3) (more : n < 10) :
    execShedStep s = .next (State.shedEvent s (s.setStep (n + 4))) := by
  have below : n + 3 < 13 := by omega
  simp only [execShedStep, cause, step, below, Bool.true_eq_false, if_false, if_true]

/-- Step 13 is the last one: a cap that still binds is unmet. -/
theorem execShedStep_unmet {n : Nat} (step : s.pwr.step = n + 13) (binds : s.pwr.capBinds = true) :
    execShedStep s = .next (State.shedEvent s ((s.setFlag F.PWR_STATUS_CAP_UNMET true).raiseG 46 3)) := by
  have last : ¬ n + 13 < 13 := by omega
  simp only [execShedStep, cause, step, last, binds, Bool.true_eq_false, if_false, if_true]

end

/-! ### The DRAM's lower set (R386) -/

theorem execDdrLowSwitch_off (off : s.flag F.PWR_CAP_CFG_DDR_LOW_EN = false) (lower : Bool) :
    execDdrLowSwitch lower s = .next s := by
  cases lower
  · simp only [execDdrLowSwitch, off, Bool.and_false, Bool.false_and, Bool.false_eq_true, if_false]
  · simp only [execDdrLowSwitch, off, Bool.and_false, Bool.false_and, Bool.false_eq_true, if_false, if_true]

theorem execDdrLowSwitch_down (on : s.flag F.PWR_CAP_CFG_DDR_LOW_EN = true)
    (valid : s.flag (F.DDR_TSET_VALID (1 - s.fld F.DDR_STATUS_SET_ACTIVE)) = true)
    (trained : bitOf s.ddr.trained (1 - s.fld F.DDR_STATUS_SET_ACTIVE) = true)
    (active : s.flag F.PWR_STATUS_CAP_ACTIVE = true)
    (slower : s.fld (F.DDR_TSET_RATE (1 - s.fld F.DDR_STATUS_SET_ACTIVE))
      < s.fld (F.DDR_TSET_RATE (s.fld F.DDR_STATUS_SET_ACTIVE))) :
    execDdrLowSwitch true s = .next (s.ddrFreqGo (1 - s.fld F.DDR_STATUS_SET_ACTIVE)) := by
  simp only [execDdrLowSwitch, on, valid, trained, active, slower, decide_true, Bool.and_self, if_true]

/-! ### What a fault leaves of the sensors' readings -/

/-- The governor and the start machine are the same. -/
structure SameWatch (s t : State) : Prop where
  pwr : t.pwr = s.pwr
  boot : t.boot = s.boot

namespace SameWatch

theorem refl (s : State) : SameWatch s s := ⟨rfl, rfl⟩

theorem trans (h : SameWatch s t) (g : SameWatch t u) : SameWatch s u := ⟨g.pwr.trans h.pwr, g.boot.trans h.boot⟩

theorem raiseG {g b : Nat} (h : SameWatch s t) : SameWatch s (t.raiseG g b) :=
  ⟨(t.raiseG_pwr _ _).trans h.pwr, (t.raiseG_boot _ _).trans h.boot⟩

/-- A change made only under a condition keeps what it keeps when made. -/
theorem orElse {c : Prop} [Decidable c] (h : SameWatch s t) : SameWatch s (if c then t else s) := by
  split
  · exact h
  · exact refl s

theorem writeRecord (s : State) (src kind level base addr : Nat) (coded esc : Bool) :
    SameWatch s (s.writeRecord src kind level base addr coded esc) := by
  unfold State.writeRecord
  split
  · exact raiseG ⟨rfl, rfl⟩
  · extract_lets seq quiet w0 flt t1 t2 t3 t4 t5 t6
    have recorded : SameWatch s t4 := ⟨rfl, rfl⟩
    have raised : SameWatch t4 t5 := by
      unfold t5
      split
      · exact refl _
      · exact (refl _).raiseG
    have wired : SameWatch t5 t6 := (refl _).raiseG.orElse
    have all := recorded.trans (raised.trans wired)
    split
    · exact all.raiseG
    · exact all

theorem setSignal (s : State) (p : Nat) (b : Bool) : SameWatch s (s.setSignal p b) := by
  unfold State.setSignal
  extract_lets stops t
  split
  · exact ⟨rfl, rfl⟩
  · exact ⟨rfl, rfl⟩

theorem portsOff (s : State) : SameWatch s s.portsOff :=
  List.foldlRecOn (motive := fun t => SameWatch s t) _ _ (refl s) fun _ h p _ =>
    h.trans ⟨(setSignal _ p false).pwr, (setSignal _ p false).boot⟩

theorem spoilTest (s : State) (src : Nat) : SameWatch s (s.spoilTest src) := by
  unfold State.spoilTest
  split
  · exact refl s
  · split
    · exact raiseG ⟨rfl, rfl⟩
    · exact refl s

end SameWatch

/-- What a fault leaves of the governor: all but the thermal stop. -/
structure OnlyStop (s t : State) : Prop where
  pwr : t.pwr = { s.pwr with tstop := t.pwr.tstop }

theorem OnlyStop.of_pwr (h : t.pwr = s.pwr) : OnlyStop s t := ⟨by rw [h]⟩

theorem SameWatch.onlyStop (h : SameWatch s t) : OnlyStop s t := .of_pwr h.pwr

theorem OnlyStop.trans (h : OnlyStop s t) (g : OnlyStop t u) : OnlyStop s u := ⟨g.pwr.trans (by rw [h.pwr])⟩

/-- The start machine and the governor as a thermal stop leaves them. -/
def State.clocksStopped (s : State) : State :=
  { s with boot := { s.boot with mode := .stopped, starting := false }, pwr := { s.pwr with tstop := true } }

theorem State.thermalStop_watch (s : State) : SameWatch s.clocksStopped s.thermalStop :=
  (SameWatch.portsOff s.clocksStopped).trans ⟨State.setFlag_pwr _ _ _, State.setFlag_boot _ _ _⟩

theorem State.thermalStop_stops (s : State) : s.thermalStop.boot.mode = .stopped ∧ s.thermalStop.pwr.tstop = true ∧
    OnlyStop s s.thermalStop := by
  have watch := s.thermalStop_watch
  refine ⟨?_, ?_, ⟨?_⟩⟩
  · rw [watch.boot]
    rfl
  · rw [watch.pwr]
    rfl
  · rw [watch.pwr]
    rfl

theorem State.enterSafeHold_onlyStop (s : State) : OnlyStop s s.enterSafeHold := by
  unfold State.enterSafeHold
  extract_lets before t
  have off := SameWatch.portsOff t
  have loaded : t.portsOff.loadRecovery.pwr = t.portsOff.pwr := by
    unfold State.loadRecovery
    split
    · rfl
    · rfl
  exact .of_pwr ((State.raiseG_pwr _ _ _).trans (loaded.trans off.pwr))

theorem State.answer_onlyStop (s : State) (src kind level : Nat) : OnlyStop s (s.answer src kind level) := by
  unfold State.answer
  split
  · exact s.thermalStop_stops.2.2
  · split
    · split
      · exact (SameWatch.refl s).onlyStop
      · have noted (u : State) (h : OnlyStop s u) : OnlyStop s (if s.boot.starting then u else s) := by
          split
          · exact h
          · exact (SameWatch.refl s).onlyStop
        have held (u : State) (h : OnlyStop s u) : OnlyStop s u.enterSafeHold := h.trans u.enterSafeHold_onlyStop
        refine held _ (noted _ ?_)
        exact .of_pwr (State.setReg_pwr _ _ _)
    · split
      · exact .of_pwr rfl
      · exact .of_pwr rfl

/-- A fault is recorded before the device acts on it. -/
theorem State.fault_recorded (s : State) (src kind addr : Nat) (coded : Bool) : ∃ t level,
    SameWatch s t ∧ s.fault src kind addr coded = (t.answer src kind level).spoilTest src := by
  unfold State.fault State.faultAt
  extract_lets quiet prev level level' t1 t2 t3 t4
  have counted : SameWatch s t2 := (⟨rfl, rfl⟩ : SameWatch s t1).trans (SameWatch.orElse ⟨rfl, rfl⟩)
  have escalated : SameWatch t3 t4 :=
    SameWatch.orElse (SameWatch.raiseG (s := t3) (t := t3.count R.FLT_C_ESCALATIONS) ⟨rfl, rfl⟩)
  exact ⟨t4, level', counted.trans ((SameWatch.writeRecord _ _ _ _ _ _ _ _).trans escalated), rfl⟩

theorem State.fault_onlyStop (s : State) (src kind addr : Nat) (coded : Bool) :
    OnlyStop s (s.fault src kind addr coded) := by
  obtain ⟨t, level, recorded, eq⟩ := s.fault_recorded src kind addr coded
  rw [eq]
  exact recorded.onlyStop.trans ((t.answer_onlyStop _ _ _).trans (SameWatch.spoilTest _ _).onlyStop)

/-- A fault of class THERMAL stops the device (R390). -/
theorem State.fault_thermal (s : State) (src addr : Nat) (coded : Bool) :
    (s.fault src 0x6A addr coded).boot.mode = .stopped ∧ (s.fault src 0x6A addr coded).pwr.tstop = true := by
  obtain ⟨t, level, _, eq⟩ := s.fault_recorded src 0x6A addr coded
  have spoilt := SameWatch.spoilTest (t.answer src 0x6A level) src
  have stops : t.answer src 0x6A level = t.thermalStop := if_pos rfl
  obtain ⟨mode, tstop, _⟩ := t.thermalStop_stops
  rw [eq, spoilt.boot, spoilt.pwr, stops]
  exact ⟨mode, tstop⟩

/-! ### Samples (R387, R388, R390) -/

/-- The readings of the sensors, and which have failed, are the same. -/
structure SameReadings (s t : State) : Prop where
  temp : t.pwr.temp = s.pwr.temp
  temp0 : t.pwr.temp0 = s.pwr.temp0
  failed : t.pwr.failed = s.pwr.failed

namespace SameReadings

theorem refl (s : State) : SameReadings s s := ⟨rfl, rfl, rfl⟩

theorem trans (h : SameReadings s t) (g : SameReadings t u) : SameReadings s u :=
  ⟨g.temp.trans h.temp, g.temp0.trans h.temp0, g.failed.trans h.failed⟩

theorem orElse {c : Prop} [Decidable c] (h : SameReadings s t) : SameReadings s (if c then t else s) := by
  split
  · exact h
  · exact refl s

theorem raiseG (s : State) (g b : Nat) : SameReadings s (s.raiseG g b) := by
  constructor
  all_goals rw [State.raiseG_pwr]

theorem fault (s : State) (src kind addr : Nat) (coded : Bool) : SameReadings s (s.fault src kind addr coded) := by
  constructor
  all_goals rw [(s.fault_onlyStop src kind addr coded).pwr]

theorem refitAll (s : State) : SameReadings s s.refitAll := by
  constructor
  all_goals rw [(PointFrame.refitAll s).pwr]

theorem showHottest (s : State) : SameReadings s s.showHottest := ⟨rfl, rfl, rfl⟩

theorem shedEvent (before s : State) : SameReadings s (State.shedEvent before s) := (raiseG s 46 1).orElse

/-- Cases that are no longer hot get their points back. -/
theorem coolsDown (s : State) : SameReadings s
    ((List.range 16).foldl (fun u c => if u.caseHot c then u else u.setHeatCut c 0) s) :=
  List.foldlRecOn (motive := fun t => SameReadings s t) _ _ (refl s) fun t h c _ => by
    split
    · exact h
    · exact h.trans ⟨rfl, rfl, rfl⟩

end SameReadings

/-- The state in which a sample is taken and, where it fails its sensor, the failure marked. -/
def State.sampled (s : State) (k : Nat) (v : Int) (fails : Bool) : State :=
  s.modPwr fun p => { p with
    temp0 := tput (fun _ => 0) p.temp0 k (tget (fun _ => 0) p.temp k)
    temp := tput (fun _ => 0) p.temp k v
    failed := if fails then p.failed ||| BitVec.ofNat 24 (2 ^ k) else p.failed }

/-- A sample is kept with the one before it, and two at 125 °C of a sound sensor are a fault of class THERMAL. -/
theorem execSensorSample_reads (i : Fin 24) (temp : BitVec 8) : ∃ t, SameReadings
      (s.sampled i.val temp.toInt (decide (temp.toInt < -50) && !bitOf s.pwr.failed i.val)) t ∧
    execSensorSample i temp false s = .next (
      if bitOf t.pwr.failed i.val = false ∧ 125 ≤ temp.toInt ∧ 125 ≤ tget (fun _ => 0) t.pwr.temp0 i.val then
        t.fault 0x611 0x6A 0 false
      else t) := by
  unfold execSensorSample
  extract_lets k v fails t0 t1 shown t2 wasHot t3 t4 t5 t6 t7
  refine ⟨t7, ?_, rfl⟩
  have failed : SameReadings t0 t1 := ((SameReadings.raiseG _ _ _).trans (SameReadings.fault _ _ _ _ _)).orElse
  have displayed : SameReadings t1 t2 := by
    unfold t2
    split
    · exact ⟨rfl, rfl, rfl⟩
    · exact ⟨rfl, rfl, rfl⟩
  have marked : SameReadings t2 t3 := ⟨rfl, rfl, rfl⟩
  have throttled : SameReadings t3 t4 := (SameReadings.raiseG _ _ _).orElse
  have shed : SameReadings t4 t5 := (SameReadings.showHottest _).trans (SameReadings.shedEvent _ _)
  exact failed.trans (displayed.trans (marked.trans (throttled.trans (shed.trans
    ((SameReadings.coolsDown _).trans (SameReadings.refitAll _))))))

/-! ### The obligation -/

/-- Settles O53: an estimate through what the rest of its command leaves of the governor (`PointFrame`); each step of
the governor by its number; a sample through what a fault leaves of the readings (`fault_onlyStop`). -/
theorem capAndShedding : Obligations.CapAndShedding := by
  unfold Obligations.CapAndShedding
  intro s
  refine ⟨fun v => ?_, fun vouts v => ?_, fun reach full v => ⟨fun some low => ?_, fun enough => ?_⟩,
    fun binds off => ?_, fun binds => ?_, execDdrLowSwitch_off, execDdrLowSwitch_down, fun i v => ?_⟩
  · obtain ⟨t, ends, frame⟩ := execPowerEstimate_frame (s := s) v
    refine ⟨t, ends, fun inv => ⟨?_, ?_, ?_⟩⟩
    · exact (fld_congr F.PWR_EST_ESTIMATE frame.est).trans (State.newEstimate_shown inv.regs s.pwr.samples v)
    · exact frame.samples.trans (s.newEstimate_samples s.pwr.samples v.toNat)
    · exact frame.capBinds.trans (s.newEstimate_binds s.pwr.samples v.toNat)
  · have shown (inv : Inv s) := State.newEstimate_shown ((s.voutsShown_keeps vouts).regs inv.regs)
    have counted := (s.voutsShown vouts).newEstimate_samples (s.pwr.samples.drop 1) v.toNat
    rw [fld_congr F.PWR_CAP_CFG_WINDOW (s.voutsShown_config vouts)] at counted
    exact ⟨_, execPowerRecalibrate_eq vouts v, fun inv => ⟨shown inv _ v, counted⟩⟩
  · exact congrArg Host.Outcome.next ((State.byHost_full reach full).trans (State.putCap_refused some low))
  · exact congrArg Host.Outcome.next ((State.byHost_full reach full).trans (State.putCap_taken enough))
  · have calm : s.shedCause = false := by
      rw [State.shedCause, binds, off]
      rfl
    refine ⟨execShedStep_calm calm, execShedWithdraw_none calm, execShedWithdraw_boost calm, fun high => ?_⟩
    obtain ⟨n, step⟩ := Nat.exists_eq_add_of_le' high
    rw [step]
    exact execShedWithdraw_level calm step
  · have cause : s.shedCause = true := by
      rw [State.shedCause, binds]
      rfl
    refine ⟨execShedWithdraw_cause cause, execShedStep_first cause, fun n => execShedStep_level cause,
      fun last => ?_⟩
    obtain ⟨n, step⟩ := Nat.exists_eq_add_of_le' last
    exact execShedStep_unmet cause step binds
  · obtain ⟨t, reads, ends⟩ := execSensorSample_reads (s := s) i v
    have stops (sound : bitOf s.pwr.failed i.val = false) (hot : 125 ≤ v.toInt)
        (before : 125 ≤ tget (fun _ => 0) s.pwr.temp i.val) :
        bitOf t.pwr.failed i.val = false ∧ 125 ≤ v.toInt ∧ 125 ≤ tget (fun _ => 0) t.pwr.temp0 i.val := by
      have cold : decide (v.toInt < -50) = false := decide_eq_false (by omega)
      rw [reads.failed, reads.temp0, cold]
      refine ⟨sound, hot, ?_⟩
      show 125 ≤ tget (fun _ => 0) (tput (fun _ => 0) s.pwr.temp0 i.val (tget (fun _ => 0) s.pwr.temp i.val)) i.val
      rw [tget_tput_listed]
      · exact before
      · omega
    by_cases thermal :
        bitOf t.pwr.failed i.val = false ∧ 125 ≤ v.toInt ∧ 125 ≤ tget (fun _ => 0) t.pwr.temp0 i.val
    · have faulted := reads.trans (SameReadings.fault t 0x611 0x6A 0 false)
      exact ⟨_, ends.trans (congrArg Host.Outcome.next (if_pos thermal)), faulted.temp0, faulted.temp,
        fun _ _ _ => t.fault_thermal _ _ _⟩
    · exact ⟨_, ends.trans (congrArg Host.Outcome.next (if_neg thermal)), reads.temp0, reads.temp,
        fun sound hot before => absurd (stops sound hot before) thermal⟩

end Sys2Proof.Machine
end


section
/-! Power-on, resets, restarts and the start watchdog (R419, R420, R422, R430, R470, R471). -/

namespace Sys2Proof.Machine

variable {s : State}

/-! ### What a reset keeps (R409, R420, R457) -/

/-- A map of the entries that keeps every value of a key, with the defaults left out, keeps what is read there. -/
theorem tget_map_kept {α : Type} [DecidableEq α] {d : Nat → α} {g : Nat × α → α} {k : Nat}
    (kept : ∀ v, g (k, v) = v) :
    ∀ (t : Tbl α) (b : Option Nat), twfFrom d b t = true →
      tget d ((t.map fun x => (x.1, g x)).filter fun x => decide (x.2 ≠ d x.1)) k = tget d t k
  | [], _, _ => rfl
  | (j, v) :: t, b, form => by
    simp only [twfFrom, Bool.and_eq_true, decide_eq_true_eq] at form
    have rest := tget_map_kept kept t (some j) form.2
    rw [List.map_cons, List.filter_cons]
    by_cases same : j = k
    · subst same
      rw [if_pos (decide_eq_true (by rw [kept]; exact form.1.2)), tget, tget, if_pos rfl, if_pos rfl, kept]
    · rw [tget, if_neg same]
      split
      · rw [tget, if_neg same, rest]
      · exact rest

/-- How far the registers of a family reach beyond its base. -/
def dimsSpan (dims : List (Nat × Nat)) : Nat := (dims.map fun x => x.1 * x.2).sum

theorem dimsMatch_le : ∀ (dims : List (Nat × Nat)) (rem : Nat), dimsMatch dims rem = true → rem ≤ dimsSpan dims
  | [], rem, h => (beq_iff_eq.mp h).le
  | (count, stride) :: dims, rem, h => by
    rw [dimsMatch, Bool.and_eq_true, decide_eq_true_eq] at h
    have rest := dimsMatch_le dims _ h.2
    have index : rem / stride * stride ≤ count * stride := Nat.mul_le_mul_right _ h.1.le
    show rem ≤ count * stride + dimsSpan dims
    omega

/-- Only a power-on resets a word of the fault log. -/
theorem regAt_log {k j : Nat} (slot : k < 256) (word : j < 4) :
    ∃ d, regAt (R.FLT_LOG k j) = some d ∧ d.powerOn = BitVec.allOnes 64 := by
  have block : regBlock (R.FLT_LOG k j) = regsFlt := by
    have number : R.FLT_LOG k j / 0x100000 = 1 := by
      unfold R.FLT_LOG
      omega
    rw [regBlock, number]
    rfl
  have family :
      (⟨0x101000, [(256, 32), (4, 8)], true, 0, 0, 0, 0, 0xffffffffffffffff, false⟩ : RegDesc) ∈ regsFlt := by
    decide
  have found : (regAt (R.FLT_LOG k j)).isSome = true := by
    rw [regAt, block, List.find?_isSome]
    refine ⟨_, family, ?_⟩
    unfold R.FLT_LOG
    simp only [RegDesc.covers, dimsMatch, Bool.and_eq_true, decide_eq_true_eq, beq_iff_eq]
    omega
  obtain ⟨d, at_⟩ := Option.isSome_iff_exists.mp found
  have others : ∀ d ∈ regsFlt, d.powerOn = BitVec.allOnes 64 ∨ d.base + dimsSpan d.dims < 0x101000 := by decide
  have covers := List.find?_some at_
  rw [RegDesc.covers, Bool.and_eq_true, decide_eq_true_eq] at covers
  refine ⟨d, at_, (others d (block ▸ List.mem_of_find?_eq_some at_)).resolve_right fun below => ?_⟩
  have reach := dimsMatch_le _ _ covers.2
  unfold R.FLT_LOG at reach covers
  omega

/-- A reset keeps the fault log. -/
theorem State.cleared_log (form : twf regReset s.regs = true) {k j : Nat} (slot : k < 256) (word : j < 4) :
    s.cleared.reg (R.FLT_LOG k j) = s.reg (R.FLT_LOG k j) := by
  obtain ⟨d, at_, all⟩ := regAt_log slot word
  have other : R.FLT_LOG k j ≠ F.PWR_CAP_CAP.off := by
    show 0x101000 + 32 * k + 8 * j ≠ 0x200008
    omega
  refine (State.reg_setFld_ne _ _ _ other).trans (tget_map_kept (fun v => ?_) s.regs none form)
  dsimp only
  rw [at_]
  dsimp only
  rw [all, BitVec.and_allOnes, BitVec.not_allOnes, BitVec.and_zero, BitVec.or_zero]

/-! ### Requests (R419, R430) -/

theorem State.restartCold_unkeyed {key : Nat} (facts : StartFacts) (wrong : key ≠ 0x5245) :
    s.restartCold key facts = s := if_pos (.inl wrong)

theorem State.restartWarm_unkeyed {key : Nat} (facts : StartFacts) (wrong : key ≠ 0x5245) :
    s.restartWarm key facts = s := if_pos (.inl wrong)

theorem State.clrFails_unkeyed {key : Nat} (wrong : key ≠ 0x5245) : s.clrFails key = s := if_pos (.inl wrong)

theorem State.restartCold_starting {key : Nat} (facts : StartFacts) (starting : s.boot.starting = true) :
    s.restartCold key facts = s := if_pos (.inr starting)

theorem State.restartWarm_starting {key : Nat} (facts : StartFacts) (starting : s.boot.starting = true) :
    s.restartWarm key facts = s := if_pos (.inr (.inl starting))

section
variable {facts : StartFacts} (settled : s.boot.starting = false) (running : s.boot.mode = .running)
include settled running

theorem State.restartCold_runs : s.restartCold 0x5245 facts = s.coldStart facts := by
  simp only [State.restartCold, settled, running, ne_eq, not_true_eq_false, Bool.false_eq_true, or_self, if_false]

theorem State.clrFails_clears : s.clrFails 0x5245 = s.setFld F.BOOT_STATUS_WARM_FAILS 0 := by
  simp only [State.clrFails, settled, running, ne_eq, not_true_eq_false, Bool.false_eq_true, or_self, if_false]

theorem State.restartWarm_cold (cold : s.flag F.BOOT_STATUS_FORCE_COLD = true ∨ s.fld F.BOOT_STATUS_WARM_FAILS = 2) :
    s.restartWarm 0x5245 facts = (s.coldStart facts).raiseG 47 18 := by
  simp only [State.restartWarm, settled, running, cold, ne_eq, not_true_eq_false, Bool.false_eq_true, or_self, if_false,
    if_true]

theorem State.restartWarm_runs (may : s.flag F.BOOT_STATUS_FORCE_COLD = false)
    (few : s.fld F.BOOT_STATUS_WARM_FAILS ≠ 2) : s.restartWarm 0x5245 facts = s.warmStart facts := by
  simp only [State.restartWarm, settled, running, may, few, ne_eq, not_true_eq_false, Bool.false_eq_true, or_self,
    if_false]

end

/-- A warm start in time, whose stages succeed, leaves what they leave. -/
theorem State.warmStart_succeeds {facts : StartFacts} {u : State} (inTime : facts.startUs ≤ 200000)
    (stages : s.warmBegin.warmStages facts = (none, u)) : s.warmStart facts = u := by
  refine (if_neg (not_lt.mpr inTime)).trans ?_
  rw [stages]

/-! ### The watchdog (R429) -/

theorem execStartWatchdog_none (none : s.boot.facts = none) : execStartWatchdog s = .next s := by
  rw [execStartWatchdog, none]

/-- The first two failures of a cold start are counted, and the start begins again. -/
theorem State.coldCount_again {f : StartFail} (cause : f.cause ≠ 1) (few : s.fld F.BOOT_STATUS_COLD_FAILS ≤ 1) :
    s.coldCount f = (true, (s.startFailed false f).setFld F.BOOT_STATUS_COLD_FAILS
      (s.fld F.BOOT_STATUS_COLD_FAILS + 1)) := (if_neg cause).trans (if_pos few)

section
variable {facts : StartFacts} (hangs : s.boot.facts = some facts) (starting : s.boot.starting = true)
include hangs starting

theorem execStartWatchdog_warm (warm : s.boot.mode = .warm) :
    execStartWatchdog s = .next (s.warmFailed facts ⟨0x0B, 0, s.fld F.BOOT_STATUS_STEP⟩) := by
  simp only [execStartWatchdog, hangs, starting, warm, Bool.true_eq_false, if_false, if_true]

theorem execStartWatchdog_cold (cold : s.boot.mode = .cold) (few : s.fld F.BOOT_STATUS_COLD_FAILS ≤ 1) :
    execStartWatchdog s = .next (((s.startFailed false ⟨0x0B, 0, s.fld F.BOOT_STATUS_STEP⟩).setFld
      F.BOOT_STATUS_COLD_FAILS (s.fld F.BOOT_STATUS_COLD_FAILS + 1)).coldStart facts) := by
  have again := State.coldCount_again (f := ⟨0x0B, 0, s.fld F.BOOT_STATUS_STEP⟩) (show 11 ≠ 1 by decide)
    few
  simp only [execStartWatchdog, hangs, starting, cold, again, Bool.true_eq_false, reduceCtorEq, if_false, if_true]

end

/-! ### The obligation -/

/-- Settles O58: each reset by what `cleared` and `clearWatch` leave, the fault log through its registers' power-on
masks (`cleared_log`), each request and the watchdog by the branch that the start machine's state selects. -/
theorem starts : Obligations.Starts := by
  unfold Obligations.Starts
  intro s
  refine ⟨⟨_, rfl, rfl, rfl, rfl, rfl, rfl, rfl, rfl, rfl, rfl, rfl, rfl⟩,
    ⟨_, rfl, rfl, rfl, rfl, rfl, rfl, rfl, rfl, rfl, rfl,
      fun inv k slot j word => State.cleared_log inv.regs slot word⟩,
    ⟨_, rfl, rfl, rfl, rfl, rfl⟩, ⟨_, rfl, rfl, rfl, rfl⟩, fun facts => ?_, fun reach full => ⟨?_, ?_, ?_⟩,
    execStartWatchdog_none, fun facts hangs starting => ?_⟩
  · refine ⟨fun high => congrArg Host.Outcome.next (if_pos high),
      fun sound => congrArg Host.Outcome.next (if_pos sound),
      fun low sound => ?_, fun high fault => ?_⟩
    · exact congrArg Host.Outcome.next ((if_neg (ne_false_of_eq_true low)).trans (if_neg (ne_true_of_eq_false sound)))
    · exact congrArg Host.Outcome.next ((if_neg (ne_false_of_eq_true fault)).trans (if_neg (ne_true_of_eq_false high)))
  · intro key facts wrong
    exact ⟨congrArg Host.Outcome.next ((State.byHost_full reach full).trans (State.restartCold_unkeyed facts wrong)),
      congrArg Host.Outcome.next ((State.byHost_full reach full).trans (State.restartWarm_unkeyed facts wrong)),
      congrArg Host.Outcome.next ((State.byHost_full reach full).trans (State.clrFails_unkeyed wrong))⟩
  · intro facts starting
    have written (f : State → State) (h : f s = s) : s.byHost R.BOOT_RESTART f = s :=
      (State.byHost_full reach full).trans h
    exact ⟨congrArg Host.Outcome.next (written _ (State.restartCold_starting facts starting)),
      congrArg Host.Outcome.next (written _ (State.restartWarm_starting facts starting))⟩
  · intro facts settled running
    refine ⟨congrArg Host.Outcome.next ((State.byHost_full reach full).trans ?_),
      congrArg Host.Outcome.next ((State.byHost_full reach full).trans ?_), fun cold => ?_,
      fun may few inTime u stages => ?_⟩
    · exact State.restartCold_runs settled running
    · exact State.clrFails_clears settled running
    · exact congrArg Host.Outcome.next ((State.byHost_full reach full).trans
        (State.restartWarm_cold settled running cold))
    · exact congrArg Host.Outcome.next ((State.byHost_full reach full).trans
        ((State.restartWarm_runs settled running may few).trans (State.warmStart_succeeds inTime stages)))
  · exact ⟨execStartWatchdog_warm hangs starting, execStartWatchdog_cold hangs starting⟩

end Sys2Proof.Machine
end


section
/-! The QSPI device, key slots, attestation and the forme hash (R437, R445 to R447, R449). -/

namespace Sys2Proof.Machine

variable {s : State}

/-! ### The QSPI device (R449) -/

/-- The state in which an operation of the QSPI device is under way. -/
def State.qspiStarts (s : State) (op len : Nat) : State :=
  { s.setFld F.BOOT_QSPI_CTRL_RESULT 0 with
    boot := { s.boot with qspiOp := some (op, len, s.fld F.BOOT_QSPI_ADDR_ADDR) } }

theorem State.qspiGo_waits {op : Nat × Nat × Nat} (busy : s.boot.qspiOp = some op) (code len : Nat) :
    s.qspiGo code len = s := by
  rw [State.qspiGo, busy]
  rfl

section
variable (idle : s.boot.qspiOp = none) (settled : s.boot.starting = false) {op len : Nat}
include idle settled

theorem State.qspiGo_refused (bad : qspiRefused op len (s.fld F.BOOT_QSPI_ADDR_ADDR) = true) :
    s.qspiGo op len = (s.setFld F.BOOT_QSPI_CTRL_RESULT 3).raiseG 47 21 := by
  rw [State.qspiGo, idle, settled]
  exact if_pos bad

theorem State.qspiGo_starts (good : qspiRefused op len (s.fld F.BOOT_QSPI_ADDR_ADDR) = false) :
    s.qspiGo op len = s.qspiStarts op len := by
  rw [State.qspiGo, idle, settled]
  exact if_neg (ne_true_of_eq_false good)

end

/-- What R449 refuses of a read: a length that is none, too long, or beyond the device. -/
theorem qspiRefused_read (len addr : Nat) :
    qspiRefused 0 len addr = decide (len = 0 ∨ 256 < len ∨ qspiSize < addr + len) := by
  simp [qspiRefused, Bool.decide_or, Bool.or_assoc]

theorem qspiRefused_program (len addr : Nat) : qspiRefused 1 len addr
    = decide (len = 0 ∨ 256 < len ∨ qspiSize < addr + len ∨ 256 < addr % 256 + len) := by
  simp [qspiRefused, Bool.decide_or, Bool.or_assoc]

theorem qspiRefused_erase (addr : Nat) :
    qspiRefused 2 0 addr = decide (addr % 65536 ≠ 0 ∨ qspiSize < addr + 65536) := by
  simp [qspiRefused, Bool.decide_or, bne, Bool.beq_eq_decide_eq]

theorem execQspiDone_none (idle : s.boot.qspiOp = none) (error : Bool) : execQspiDone error s = .next s := by
  rw [execQspiDone, idle]

/-- The state in which an operation, its effect done, has ended with its result. -/
def State.qspiEnded (s : State) (error : Bool) : State :=
  ((s.modBoot fun b => { b with qspiOp := none }).setFld F.BOOT_QSPI_CTRL_RESULT (if error then 2 else 1)).raiseG 47 21

theorem execQspiDone_ends {op len addr : Nat} (busy : s.boot.qspiOp = some (op, len, addr)) (error : Bool) :
    execQspiDone error s = .next ((s.qspiEffect op len addr error).qspiEnded error) := by
  rw [execQspiDone, busy]
  rfl

theorem State.qspiEnded_boot (s : State) (error : Bool) : (s.qspiEnded error).boot = { s.boot with qspiOp := none } :=
  State.raiseG_boot _ _ _

theorem State.qspiEnded_result (form : twf regReset s.regs = true) :
    (s.qspiEnded false).fld F.BOOT_QSPI_CTRL_RESULT = 1 :=
  (fld_congr _ (State.reg_raiseG_ne _ (by decide) (by decide) (by decide))).trans
    (State.fld_setFld_same (s.modBoot fun b => { b with qspiOp := none }) form _ _ (by decide) (by decide))

/-- The state with a block of the flash at 0xFF. -/
def State.blanked (s : State) (addr n : Nat) : State := s.setFlash addr (List.replicate n 0xFF)

theorem State.read_blanked (form : Memory.wf 0xFF s.boot.qspi = true) (addr n k : Nat) :
    Memory.read 0xFF (s.blanked addr n).boot.qspi k
      = if addr ≤ k ∧ k < addr + n then 0xFF else Memory.read 0xFF s.boot.qspi k := by
  show Memory.read 0xFF (Memory.writeN 0xFF s.boot.qspi addr (List.replicate n 0xFF)) k = _
  rw [Memory.read_writeN _ _ _ _ _ form, List.length_replicate]
  split
  case isTrue inside => rw [List.getD_replicate _ (by omega)]
  case isFalse outside => rfl

/-- An erase that succeeds leaves its block at 0xFF and nothing else of the flash changed. -/
theorem State.blanked_ends (inv : Inv s) (addr n : Nat) : ((s.blanked addr n).qspiEnded false).boot.qspiOp = none ∧
    ((s.blanked addr n).qspiEnded false).fld F.BOOT_QSPI_CTRL_RESULT = 1 ∧
    ∀ k, Memory.read 0xFF ((s.blanked addr n).qspiEnded false).boot.qspi k =
      if addr ≤ k ∧ k < addr + n then 0xFF else Memory.read 0xFF s.boot.qspi k := by
  refine ⟨?_, State.qspiEnded_result inv.regs, fun k => ?_⟩
  · rw [State.qspiEnded_boot]
  · rw [State.qspiEnded_boot]
    exact State.read_blanked inv.flash addr n k

theorem State.qspiEffect_erase (s : State) (addr : Nat) : s.qspiEffect 2 0 addr false = s.blanked addr 65536 := rfl

/-! ### Key slots (R437) -/

/-- The state in which a key operation is under way. -/
def State.keyStarts (s : State) (op slot : Nat) : State :=
  { s.setFld F.SEC_KEY_CTRL_RESULT 0 with boot := { s.boot with keyOp := some (op, slot) } }

section
variable (idle : s.boot.keyOp = none) {op slot confirm : Nat}
include idle

theorem State.keyGo_refused (bad : s.keyRefused op slot confirm = true) :
    s.keyGo op slot confirm = (s.setFld F.SEC_KEY_CTRL_RESULT 2).raiseG 47 22 := by
  rw [State.keyGo, idle]
  exact if_pos bad

theorem State.keyGo_starts (good : s.keyRefused op slot confirm = false) :
    s.keyGo op slot confirm = s.keyStarts op slot := by
  rw [State.keyGo, idle]
  exact if_neg (ne_true_of_eq_false good)

end

theorem State.keyRefused_unconfirmed (op slot : Nat) {confirm : Nat} (wrong : confirm ≠ 0xA5C3) :
    s.keyRefused op slot confirm = true := by
  simp only [State.keyRefused, bne_iff_ne.mpr wrong, Bool.true_or]

theorem State.keyRefused_program (s : State) (slot : Nat) :
    s.keyRefused 1 slot 0xA5C3 = (s.keySlot slot).programmed := rfl

theorem State.keyRefused_revokeEmpty {slot : Nat} (empty : (s.keySlot slot).programmed = false) :
    s.keyRefused 2 slot 0xA5C3 = true := by
  simp only [State.keyRefused, empty, Bool.not_false, Bool.true_or, Bool.or_true]

/-- A programmed slot may be revoked while the image that runs is under another key and another usable slot stays. -/
theorem State.keyRefused_revoke {k j : Fin 4} (programmed : (s.keySlot k).programmed = true)
    (unused : ∀ r, s.boot.run = some r → r.keySlot ≠ k.val) (other : j ≠ k)
    (stays : (s.keySlot j).programmed = true) (valid : (s.keySlot j).revoked = false) :
    s.keyRefused 2 k 0xA5C3 = false := by
  have running : (s.boot.run.map fun r => r.keySlot == k.val).getD false = false := by
    cases run : s.boot.run with
    | none => rfl
    | some r => exact beq_eq_false_iff_ne.mpr (unused r run)
  have usable : ((List.range 4).any fun i => i != k.val && (s.keySlot i).programmed && !(s.keySlot i).revoked) = true :=
    List.any_eq_true.mpr ⟨j, List.mem_range.mpr j.isLt, by simp [stays, valid, Fin.val_ne_of_ne other]⟩
  simp only [State.keyRefused, programmed, running, usable, bne_self_eq_false, Bool.not_true, Bool.or_self]

/-- The state in which a key operation has had its effect. -/
def State.keyEffect (s : State) (op slot : Nat) (ok : Bool) : State :=
  let t := s.modBoot fun b => { b with keyOp := none }
  if ok = false then t
  else if op = 1 then t.setKeySlot slot
    { t.keySlot slot with programmed := true, hash := beNat (s.windowBytes (R.SEC_KEY_DATA 0) 8) }
  else t.setKeySlot slot { t.keySlot slot with revoked := true }

theorem execKeyOpDone_none (idle : s.boot.keyOp = none) (ok : Bool) : execKeyOpDone ok s = .next s := by
  rw [execKeyOpDone, idle]

/-- The end of a key operation leaves the security core as its effect does. -/
theorem execKeyOpDone_ends {op slot : Nat} (busy : s.boot.keyOp = some (op, slot)) (ok : Bool) :
    ∃ t, execKeyOpDone ok s = .next t ∧ t.boot = (s.keyEffect op slot ok).boot := by
  rw [execKeyOpDone, busy]
  exact ⟨_, rfl, State.raiseG_boot _ _ _⟩

theorem State.keySlot_setKeySlot {k : Nat} (slots : s.boot.otp.keys.length = 4) (slot : k < 4) (v : KeySlot) :
    (s.setKeySlot k v).keySlot k = v := by
  show (s.boot.otp.keys.set k v).getD k ⟨false, false, 0⟩ = v
  rw [List.getD_eq_getElem _ _ (by rw [List.length_set, slots]; exact slot), List.getElem_set_self]

theorem State.keySlot_congr {t u : State} (boot : t.boot = u.boot) (k : Nat) : t.keySlot k = u.keySlot k :=
  congrArg (fun b : BootUnit => b.otp.keys.getD k ⟨false, false, 0⟩) boot

section
variable {k : Nat} (slots : s.boot.otp.keys.length = 4) (slot : k < 4)
include slots slot

theorem State.keyEffect_program : (s.keyEffect 1 k true).boot.keyOp = none ∧
    ((s.keyEffect 1 k true).keySlot k).programmed = true ∧
    ((s.keyEffect 1 k true).keySlot k).hash = beNat (s.windowBytes (R.SEC_KEY_DATA 0) 8) := by
  have eq : (s.keyEffect 1 k true).keySlot k = _ :=
    State.keySlot_setKeySlot (s := s.modBoot fun b => { b with keyOp := none }) slots slot _
  rw [eq]
  exact ⟨rfl, rfl, rfl⟩

theorem State.keyEffect_revoke : (s.keyEffect 2 k true).boot.keyOp = none ∧
    ((s.keyEffect 2 k true).keySlot k).revoked = true ∧
    ((s.keyEffect 2 k true).keySlot k).hash = (s.keySlot k).hash := by
  have eq : (s.keyEffect 2 k true).keySlot k = _ :=
    State.keySlot_setKeySlot (s := s.modBoot fun b => { b with keyOp := none }) slots slot _
  rw [eq]
  exact ⟨rfl, rfl, rfl⟩

end

/-! ### Attestation (R445, R446) -/

theorem State.attest_waits {r : List Byte} (busy : s.boot.attest = some r) : s.attest = s := by
  rw [State.attest, busy]
  rfl

/-- The measurement is sampled and the report under way. -/
def State.sampleTaken (s : State) (bs : List Byte) : State :=
  (s.modBoot fun b => { b with attest := some bs }).setFlag F.SEC_ATTEST_CTRL_VALID false

theorem State.attest_samples (idle : s.boot.attest = none) (open_ : s.fencedSrc 0x605 = false) :
    s.attest = s.measure.2.sampleTaken s.measure.1 := by
  rw [State.attest, idle, open_]
  rfl

/-- The report that stands: its bytes in the window, signed with the salt drawn. -/
def State.reported (s : State) (bs : List Byte) : State :=
  ((s.freeBytes 32).2.modBoot fun b => { b with attest := none }).putWindow (R.SEC_ATTEST_REPORT 0)
    (bs ++ pssSign s.boot.otp.idModulus s.boot.otp.idExponent bs (s.freeBytes 32).1)

theorem execAttestDone_reports {bs : List Byte} (busy : s.boot.attest = some bs) (open_ : s.fencedSrc 0x605 = false) :
    execAttestDone s = .next (((s.reported bs).setFlag F.SEC_ATTEST_CTRL_VALID true).raiseG 47 23) := by
  rw [execAttestDone, busy]
  exact congrArg Host.Outcome.next (if_neg (ne_true_of_eq_false open_))

theorem State.putWindow_boot (s : State) (off : Nat) (bs : List Byte) : (s.putWindow off bs).boot = s.boot :=
  List.foldlRecOn (motive := fun t : State => t.boot = s.boot) _ _ rfl fun _ same _ _ => same

theorem State.putWindow_form (form : twf regReset s.regs = true) (off : Nat) (bs : List Byte) :
    twf regReset (s.putWindow off bs).regs = true :=
  List.foldlRecOn (motive := fun t : State => twf regReset t.regs = true) _ _ form fun t kept _ _ =>
    t.twf_setReg kept _ _

theorem execAttestDone_none (idle : s.boot.attest = none) : execAttestDone s = .next s := by
  rw [execAttestDone, idle]

theorem State.reported_attest (s : State) (bs : List Byte) : (s.reported bs).boot.attest = none := by
  rw [State.reported, State.putWindow_boot]
  rfl

theorem State.reported_form (form : twf regReset s.regs = true) (bs : List Byte) :
    twf regReset (s.reported bs).regs = true :=
  State.putWindow_form (s := (s.freeBytes 32).2.modBoot fun b => { b with attest := none }) form _ _

/-! ### The forme hash (R447) -/

theorem execFormeHashDone_none (inactive : s.activeTag = none) : execFormeHashDone s = .next s := by
  rw [execFormeHashDone, inactive]

theorem execFormeHashDone_delivers {a : Nat} (active : s.activeTag = some a) (busy : s.boot.formeHashBusy = true) :
    execFormeHashDone s = .next ((s.modBoot fun b =>
      { b with formeHash := some (s.formeDigest a), formeHashBusy := false }).raiseG 47 24) := by
  rw [execFormeHashDone, active]
  exact congrArg Host.Outcome.next (if_neg (ne_false_of_eq_true busy))

/-! ### The obligation -/

/-- Settles O59: an operation of the flash or of a key slot by what `qspiRefused` and `keyRefused` say of it, its end by
the effect that it has, a report and the forme hash by the security core's state. -/
theorem flashKeysAndAttestation : Obligations.FlashKeysAndAttestation := by
  unfold Obligations.FlashKeysAndAttestation
  intro s
  refine ⟨fun reach full settled => ⟨fun op busy len => ?_, fun idle => ?_⟩, execQspiDone_none,
    fun op len a e busy => execQspiDone_ends busy e, fun a busy start fits inv => ?_, fun reach full idle k => ?_,
    execKeyOpDone_none, fun inv k slot => ⟨fun busy => ?_, fun busy => ?_, fun op busy => ?_⟩,
    fun reach full => ⟨fun r busy => ?_, fun idle open_ => ?_⟩, fun idle => ?_, fun r busy open_ => ?_,
    execFormeHashDone_none, fun a active busy => execFormeHashDone_delivers active busy⟩
  · have waits (code n : Nat) : s.byHost R.BOOT_QSPI_CTRL (fun s => s.qspiGo code n) = s :=
      (State.byHost_full reach full).trans (State.qspiGo_waits busy code n)
    exact ⟨congrArg Host.Outcome.next (waits _ _), congrArg Host.Outcome.next (waits _ _),
      congrArg Host.Outcome.next (waits _ _)⟩
  · intro a starts refused
    have goes {op n : Nat} (good : qspiRefused op n a = false) :
        s.byHost R.BOOT_QSPI_CTRL (fun s => s.qspiGo op n) = starts op n :=
      (State.byHost_full reach full).trans (State.qspiGo_starts idle settled good)
    have stays {op n : Nat} (bad : qspiRefused op n a = true) :
        s.byHost R.BOOT_QSPI_CTRL (fun s => s.qspiGo op n) = refused :=
      (State.byHost_full reach full).trans (State.qspiGo_refused idle settled bad)
    refine ⟨fun len some short fits => ⟨?_, fun page => ?_, fun cross => ?_⟩, fun len bad => ⟨?_, ?_⟩,
      fun start fits => ?_, fun bad => ?_⟩
    · exact congrArg Host.Outcome.next (goes ((qspiRefused_read _ _).trans (decide_eq_false (by omega))))
    · exact congrArg Host.Outcome.next (goes ((qspiRefused_program _ _).trans (decide_eq_false (by omega))))
    · exact congrArg Host.Outcome.next (stays ((qspiRefused_program _ _).trans (decide_eq_true (by omega))))
    · exact congrArg Host.Outcome.next (stays ((qspiRefused_read _ _).trans (decide_eq_true bad)))
    · exact congrArg Host.Outcome.next (stays ((qspiRefused_program _ _).trans (decide_eq_true (by omega))))
    · exact congrArg Host.Outcome.next (goes ((qspiRefused_erase _).trans (decide_eq_false (by omega))))
    · exact congrArg Host.Outcome.next (stays ((qspiRefused_erase _).trans (decide_eq_true bad)))
  · have ends := execQspiDone_ends busy false
    rw [State.qspiEffect_erase] at ends
    exact ⟨_, ends, State.blanked_ends inv a 65536⟩
  · intro refused starts
    have goes {op : Nat} (good : s.keyRefused op k 0xA5C3 = false) :
        s.byHost R.SEC_KEY_CTRL (fun s => s.keyGo op k 0xA5C3) = starts op :=
      (State.byHost_full reach full).trans (State.keyGo_starts idle good)
    have stays {op c : Nat} (bad : s.keyRefused op k c = true) :
        s.byHost R.SEC_KEY_CTRL (fun s => s.keyGo op k c) = refused :=
      (State.byHost_full reach full).trans (State.keyGo_refused idle bad)
    refine ⟨fun c wrong => ⟨?_, ?_⟩, fun programmed => ?_, fun empty => ?_, fun empty => ?_,
      fun j programmed unused other stay valid => ?_⟩
    · exact congrArg Host.Outcome.next (stays (State.keyRefused_unconfirmed _ _ wrong))
    · exact congrArg Host.Outcome.next (stays (State.keyRefused_unconfirmed _ _ wrong))
    · exact congrArg Host.Outcome.next (stays ((s.keyRefused_program _).trans programmed))
    · exact congrArg Host.Outcome.next (goes ((s.keyRefused_program _).trans empty))
    · exact congrArg Host.Outcome.next (stays (State.keyRefused_revokeEmpty empty))
    · exact congrArg Host.Outcome.next (goes (State.keyRefused_revoke programmed unused other stay valid))
  · obtain ⟨t, ends, boot⟩ := execKeyOpDone_ends busy true
    refine ⟨t, ends, ?_⟩
    rw [State.keySlot_congr boot, boot]
    exact State.keyEffect_program inv.slots slot
  · obtain ⟨t, ends, boot⟩ := execKeyOpDone_ends busy true
    refine ⟨t, ends, ?_⟩
    rw [State.keySlot_congr boot, boot]
    exact State.keyEffect_revoke inv.slots slot
  · obtain ⟨t, ends, boot⟩ := execKeyOpDone_ends busy false
    refine ⟨t, ends, ?_⟩
    rw [boot]
    exact ⟨rfl, rfl⟩
  · exact congrArg Host.Outcome.next ((State.byHost_full reach full).trans (State.attest_waits busy))
  · exact ⟨_, congrArg Host.Outcome.next ((State.byHost_full reach full).trans (State.attest_samples idle open_)),
      rfl, fun inv => State.flag_setFlag_same _ inv.regs _ _ rfl (by decide)⟩
  · exact execAttestDone_none idle
  · refine ⟨_, execAttestDone_reports busy open_, ?_, fun inv => ?_⟩
    · exact (State.raiseG_boot _ _ _).symm ▸ s.reported_attest r
    · refine (flag_congr _ (State.reg_raiseG_ne _ (by decide) (by decide) (by decide))).trans ?_
      exact State.flag_setFlag_same _ (State.reported_form inv.regs r) _ _ rfl (by decide)

end Sys2Proof.Machine
end

section
/-! Reception (R12, R15, R23, R24, R35, R262) and the peer-delay responder (R212, R267): what the growth of a received
frame leaves of the frame table, and the rule of each of their commands. -/

namespace Sys2Proof.Machine

/-! ### The frame that is received -/

@[simp] theorem State.watermark_frames (s : State) (q : Nat) : (s.watermark q).frames = s.frames := by
  rw [State.watermark]
  split
  · rfl
  · split
    · rw [State.raiseG_frames, State.logFirst]
      split <;> rfl
    · split <;> rfl

@[simp] theorem State.watermarksOf_frames (s : State) (i : Nat) : (s.watermarksOf i).frames = s.frames := by
  refine List.foldlRecOn (motive := fun t : State => t.frames = s.frames) _ _ rfl fun t ht q _ => ?_
  split
  · exact (t.watermark_frames q).trans ht
  · exact ht

@[simp] theorem State.endStall_frames (s : State) (i : Nat) : (s.endStall i).frames = s.frames := by
  rw [State.endStall]
  split
  · split
    · split <;> rfl
    · rfl
  · rfl

/-- A frame that grows keeps its place and its stage, and its record stands with the bytes that it has now. -/
theorem State.frame_grown (s : State) (i : Nat) (f : Frame) :
    (((s.setFrame i f).endStall i).watermarksOf i).frame i = some f := by
  refine Eq.trans (congrArg (tget _ · i) ?_) (s.frame_setFrame i f)
  rw [State.watermarksOf_frames, State.endStall_frames]

/-! ### FRAME_START and FRAME_BYTES_ARRIVE (R12, R15) -/

theorem exec_frameStart_loop {p : Port} {s : State} (h : s.loop p = 1) : exec (.frameStart p) s = .next s :=
  congrArg Host.Outcome.next (if_pos h)

theorem exec_frameStart {p : Port} {s : State} (h : s.loop p ≠ 1) :
    exec (.frameStart p) s = .next (s.startFrame p) := congrArg Host.Outcome.next (if_neg h)

/-- A start of frame on an up port that receives and is between frames: a full staging buffer drops the new frame. -/
theorem State.startFrame_opens {p : Nat} {s : State} (up : s.flag (F.PRT_STATUS_LINK_UP p) = true)
    (on : s.flag (F.PRT_MAC_CFG_RX_EN p) = true) (idle : (s.port p).rx = none) :
    s.startFrame p =
      let tag := (s.port p).tag.getD 2
      let adm := decide (tag < 2) && s.admittedPort tag p
      let cls := if tag < 2 then s.fld (F.FRM_PORT_DECL_DEF_CLASS tag p) else 0
      let t := (({ s with nextFrame := s.nextFrame + 1 } : State).setFrame s.nextFrame
        (Frame.start (.port p) tag (s.fld (F.PRT_ROLE_ROLE p)) adm (s.rxStamp p) (16 * cls))).setPort p
          { s.port p with rx := some s.nextFrame, staging := (s.port p).staging ++ [s.nextFrame] }
      let u := if adm then t.wakeForAdmitted p else t
      if stagingSize ≤ s.stagingBytes p then u.stagingDrop p s.nextFrame else u := by
  have opens : (s.flag (F.PRT_STATUS_LINK_UP p) && s.flag (F.PRT_MAC_CFG_RX_EN p) && (s.port p).rx.isNone) = true := by
    rw [up, on, idle]
    rfl
  exact if_pos opens

/-- Bytes that arrive between frames are no frame's. -/
theorem State.takeBytes_idle {p : Nat} {s : State} (idle : (s.port p).rx = none) (bytes : List Byte) :
    s.takeBytes p bytes = s := by
  rw [State.takeBytes, idle]

/-- Bytes that arrive join the frame being received, which is dropped where it stands in staging and overflows it. -/
theorem State.takeBytes_joins {p i : Nat} {s : State} {f : Frame} (rx : (s.port p).rx = some i)
    (frame : s.frame i = some f) (bytes : List Byte) :
    s.takeBytes p bytes =
      let t := ((s.setFrame i { f with bytes := f.bytes ++ bytes }).endStall i).watermarksOf i
      if f.stage = .staged ∧ stagingSize < t.stagingBytes p then t.stagingDrop p i else t := by
  simp only [State.takeBytes, rx, State.modFrame, frame, State.frame_grown]

/-! ### FRAME_END (R23, R24) -/

/-- What the MAC counts of the end of a frame before it looks at the frame. -/
def State.countEnd (s : State) (p n m : Nat) (bad : Bool) : State :=
  let t := (s.countN (R.PRT_C_MERGE_RX_FRAGMENTS p) n).countN (R.PRT_C_MERGE_RX_SMD_ERR p) m
  if bad then t.count (R.PRT_C_MERGE_RX_ASSEMBLY_ERR p) else t

theorem exec_frameEnd (p : Port) (n m : Nat) (bad : Bool) (s : State) :
    exec (.frameEnd p n m bad) s = .next ((s.countEnd p n m bad).endFrame p bad) := rfl

/-- The count at a frame's end is registers' alone. -/
theorem State.countEnd_frame (s : State) (p n m : Nat) (bad : Bool) :
    s.countEnd p n m bad = { s with regs := (s.countEnd p n m bad).regs } := by
  cases bad <;> rfl

@[simp] theorem State.port_countEnd (s : State) (p n m : Nat) (bad : Bool) (q : Nat) :
    (s.countEnd p n m bad).port q = s.port q := by
  rw [s.countEnd_frame]
  rfl

@[simp] theorem State.frame_countEnd (s : State) (p n m : Nat) (bad : Bool) (i : Nat) :
    (s.countEnd p n m bad).frame i = s.frame i := by
  rw [s.countEnd_frame]
  rfl

/-- The frame `f` that port `p` received is over: the port is between frames, and a far-end loopback has sent it. -/
def State.rxEnded (s : State) (p : Nat) (f : Frame) : State :=
  (s.setPort p { s.port p with rx := none }).farEnd p f.bytes

/-- No frame ends between frames. -/
theorem State.endFrame_idle {p : Nat} {s : State} (idle : (s.port p).rx = none) (bad : Bool) : s.endFrame p bad = s := by
  rw [State.endFrame, idle]

section
variable {s : State} {p i : Nat} {f : Frame} (rx : (s.port p).rx = some i) (frame : s.frame i = some f)
include rx frame

/-- A frame that was assembled wrongly is dropped, whatever else holds of it. -/
theorem State.endFrame_misassembled : s.endFrame p true = (s.rxEnded p f).macDrop i := by
  have here : (s.setPort p { s.port p with rx := none }).frame i = some f := frame
  simp only [State.endFrame, rx, here, if_true]
  rfl

theorem State.endFrame_runt (short : f.bytes.length < 64) :
    s.endFrame p false = ((s.rxEnded p f).count (R.PRT_C_RX_RUNT p)).macDrop i := by
  have here : (s.setPort p { s.port p with rx := none }).frame i = some f := frame
  simp only [State.endFrame, rx, here, Bool.false_eq_true, if_false, if_pos short]
  rfl

section
variable (long : 64 ≤ f.bytes.length)
include long

theorem State.endFrame_oversize (big : (s.rxEnded p f).maxFrame p < f.bytes.length) :
    s.endFrame p false = ((s.rxEnded p f).count (R.PRT_C_RX_OVERSIZE p)).macDrop i := by
  have here : (s.setPort p { s.port p with rx := none }).frame i = some f := frame
  simp only [State.endFrame, rx, here, Bool.false_eq_true, if_false, if_neg (Nat.not_lt.mpr long)]
  exact if_pos big

variable (fits : f.bytes.length ≤ (s.rxEnded p f).maxFrame p)
include fits

theorem State.endFrame_damaged (fcs : fcsCheck f.bytes = .bad) :
    s.endFrame p false = ((s.rxEnded p f).count (R.PRT_C_RX_FCS_ERR p)).macDrop i := by
  have here : (s.setPort p { s.port p with rx := none }).frame i = some f := frame
  simp only [State.endFrame, rx, here, Bool.false_eq_true, if_false, if_neg (Nat.not_lt.mpr long), fcs]
  exact if_neg (Nat.not_lt.mpr fits)

theorem State.endFrame_stomped (fcs : fcsCheck f.bytes = .stomped) :
    s.endFrame p false = ((s.rxEnded p f).count (R.PRT_C_RX_STOMPED p)).macDrop i := by
  have here : (s.setPort p { s.port p with rx := none }).frame i = some f := frame
  simp only [State.endFrame, rx, here, Bool.false_eq_true, if_false, if_neg (Nat.not_lt.mpr long), fcs]
  exact if_neg (Nat.not_lt.mpr fits)

/-- A good frame is counted and complete; one that still stands in staging goes to reception. -/
theorem State.endFrame_good (fcs : fcsCheck f.bytes = .good) (alive : f.stage ≠ .dropped) :
    s.endFrame p false =
      let t := ((s.rxEnded p f).count (R.PRT_C_RX_FRAMES_OK p)).countN (R.PRT_C_RX_BYTES_OK p) f.bytes.length
      let u := (t.setFrame i { f with complete := true }).endStall i
      if f.stage = .staged then u.received p i { f with complete := true } else u := by
  have here : (s.setPort p { s.port p with rx := none }).frame i = some f := frame
  simp only [State.endFrame, rx, here, Bool.false_eq_true, if_false, if_neg (Nat.not_lt.mpr long), fcs, if_neg alive]
  refine (if_neg (Nat.not_lt.mpr fits)).trans ?_
  cases f.stage <;> rfl

end
end

/-! ### The peer-delay responder (R212, R267) -/

theorem exec_pdelayResponse_idle {p : Port} {s : State} (h : (s.port p).pdelayReq = none) :
    exec (.pdelayResponse p) s = .next s := by
  show execPdelayResponse p s = _
  rw [execPdelayResponse, h]

section
variable {p : Port} {s : State} {req : List Byte} {rx : Stamp} (h : (s.port p).pdelayReq = some (req, rx))
include h

/-- A response that a queue takes waits at the port for its departure, and counts. -/
theorem exec_pdelayResponse_taken {k : Nat} {t : State} (built : s.pdelayBuild p req rx = (some k, t)) :
    exec (.pdelayResponse p) s =
      .next ((t.setPort p { t.port p with pdelay := some k }).count R.TIM_C_PDELAY_ANSWERED) := by
  show execPdelayResponse p s = _
  simp only [execPdelayResponse, h, built]

theorem exec_pdelayResponse_refused {t : State} (built : s.pdelayBuild p req rx = (none, t)) :
    exec (.pdelayResponse p) s = .next t := by
  show execPdelayResponse p s = _
  simp only [execPdelayResponse, h, built]

/-- A waiting request is answered: the response waits at the port if a queue takes it. -/
theorem exec_pdelayResponse : exec (.pdelayResponse p) s =
    let r := s.pdelayBuild p req rx
    .next (match r.1 with
      | some k => (r.2.setPort p { r.2.port p with pdelay := some k }).count R.TIM_C_PDELAY_ANSWERED
      | none => r.2) := by
  rcases built : s.pdelayBuild p req rx with ⟨_ | k, t⟩
  · exact exec_pdelayResponse_refused h built
  · exact exec_pdelayResponse_taken h built

end

/-- Settles O13: each clause is the rule of its command. That near-end loopback hears only itself, that a port without a
forme counts in class 0, that a length error is counted alone, that bytes which overflow staging drop their frame, and
the octets of a peer-delay response are the model's choices (log entries 95, 96, 101, 19 and 20). -/
theorem framesArrive : Obligations.FramesArrive := by
  refine ⟨fun p s => ⟨exec_frameStart_loop, fun near up on idle => ⟨fun room => ?_, fun full => ?_⟩, fun bytes idle => ?_,
    fun i f bytes rx frame => ⟨fun fits => ?_, fun staged full => ?_⟩, fun n m bad => ⟨fun idle => ?_,
    fun i f rx frame => ?_⟩⟩, fun p s => ⟨exec_pdelayResponse_idle, fun req rx h => exec_pdelayResponse h⟩⟩
  · rw [exec_frameStart near, State.startFrame_opens up on idle]
    exact congrArg Host.Outcome.next (if_neg (Nat.not_le.mpr room))
  · rw [exec_frameStart near, State.startFrame_opens up on idle]
    exact congrArg Host.Outcome.next (if_pos full)
  · exact congrArg Host.Outcome.next (State.takeBytes_idle idle bytes)
  · refine congrArg Host.Outcome.next ((State.takeBytes_joins rx frame bytes).trans (if_neg ?_))
    rintro ⟨staged, full⟩
    exact fits.elim (absurd staged) (Nat.not_le.mpr full)
  · exact congrArg Host.Outcome.next ((State.takeBytes_joins rx frame bytes).trans (if_pos ⟨staged, full⟩))
  · exact congrArg Host.Outcome.next (State.endFrame_idle ((congrArg _ (s.port_countEnd p n m bad p)).trans idle) bad)
  · have rx' : ((s.countEnd p n m bad).port p).rx = some i := (congrArg _ (s.port_countEnd p n m bad p)).trans rx
    have frame' : (s.countEnd p n m bad).frame i = some f := (s.frame_countEnd p n m bad i).trans frame
    refine ⟨?_, ?_, ?_, fun sound long fits => ⟨?_, ?_, fun fcs => ⟨?_, ?_⟩⟩⟩
    · rintro rfl
      exact congrArg Host.Outcome.next (State.endFrame_misassembled rx' frame')
    · rintro rfl short
      exact congrArg Host.Outcome.next (State.endFrame_runt rx' frame' short)
    · rintro rfl long big
      exact congrArg Host.Outcome.next (State.endFrame_oversize rx' frame' long big)
    · subst sound
      exact fun fcs => congrArg Host.Outcome.next (State.endFrame_damaged rx' frame' long fits fcs)
    · subst sound
      exact fun fcs => congrArg Host.Outcome.next (State.endFrame_stomped rx' frame' long fits fcs)
    · subst sound
      intro staged
      have alive : f.stage ≠ .dropped := by simp [staged]
      exact congrArg Host.Outcome.next ((State.endFrame_good rx' frame' long fits fcs alive).trans (if_pos staged))
    · subst sound
      intro gone alive
      exact congrArg Host.Outcome.next ((State.endFrame_good rx' frame' long fits fcs alive).trans (if_neg gone))

end Sys2Proof.Machine
end

section
/-! Dispatch (R13 to R16, R125, R383), the offers of a recirculation path (R126, R127) and CASE_BACKLOG (R99): one rule per
choice of the dispatcher. -/

namespace Sys2Proof.Machine

/-! ### DISPATCH (R13 to R16, R383) -/

theorem exec_dispatch_idle {p : Port} {s : State} (h : s.offered p = none) : exec (.dispatch p) s = .next s := by
  show execDispatch p s = _
  simp only [execDispatch, h]

section
variable {p : Port} {s u : State} {i : Nat} {f : Frame} (offered : s.offered p = some (i, f))
  (wakes : s.wakesEnd (eligible (p.val / 16)) = u)
include offered wakes

theorem exec_dispatch_drop (choice : u.choose (p.val / 16) f.admPort (u.defClass f) = .drop) :
    exec (.dispatch p) s = .next ((u.shedDrop (p.val / 16) f).loseFrame i) := by
  show execDispatch p s = _
  simp only [execDispatch, offered, wakes, choice]

theorem exec_dispatch_wait (choice : u.choose (p.val / 16) f.admPort (u.defClass f) = .wait) :
    exec (.dispatch p) s =
      .next (if f.admPort then u.wakeForAdmitted p else u.wakeForWaiting (p.val / 16)) := by
  show execDispatch p s = _
  simp only [execDispatch, offered, wakes, choice]

/-- A frame whose compositor's case accepts it leaves staging for the reorder buffer and starts (R16, R125). -/
theorem exec_dispatch_starts {k : Nat} (choice : u.choose (p.val / 16) f.admPort (u.defClass f) = .comp k)
    (accepted : u.accepts (k / 8) (p.val / 16) f.admPort = true) :
    exec (.dispatch p) s =
      let r := p.val / 16
      let t := u.setPort p { u.port p with
        staging := (u.port p).staging.filter (· != i), reorder := (u.port p).reorder ++ [i] }
      let t := if (u.port p).reorder.length = 63 then t.raiseRegion r 0 else t
      .next (((t.offerCase (k / 8)).rotate (k / 8) r).startPass i k (u.fld (F.FRM_PORT_DECL_PROFILE f.tag p)) f) := by
  show execDispatch p s = _
  simp only [execDispatch, offered, wakes, choice, accepted, Bool.true_eq_false, if_false]

end

/-! ### RECIRC_OFFER (R126, R127) -/

theorem exec_recircOffer_empty {r : Region} {s : State} (h : s.path r = []) (ecc : EccRead) :
    exec (.recircOffer r ecc) s = .next s := by
  show execRecircOffer r ecc s = _
  simp only [execRecircOffer, h]

section
variable {r : Region} {s : State} {ecc : EccRead} {i : Nat} {rest : List Nat} {f : Frame}
  (head : s.path r = i :: rest) (frame : s.frame i = some f)
include head frame

/-- A head whose cells fail their read is dropped (R127). -/
theorem exec_recircOffer_unread (fails : (s.readFrame f.cells ecc).1 = true) :
    exec (.recircOffer r ecc) s =
      .next ((((s.readFrame f.cells ecc).2.setPath r rest).recircDropped r).pathDrop r i) := by
  show execRecircOffer r ecc s = _
  simp only [execRecircOffer, head, frame, fails, if_true]

/-- The entry point of the fresh pass that an action set asks for (R126). -/
def PassAction.entry (a : PassAction) : Nat := match a.dlv with
  | some (.second e) => e
  | _ => 0

/-- A head whose compositor's case accepts it starts its next pass (R126, R127). -/
theorem exec_recircOffer_starts {k : Nat} {u : State} (reads : (s.readFrame f.cells ecc).1 = false)
    (wakes : (s.readFrame f.cells ecc).2.wakesEnd (eligible r) = u)
    (choice : u.choose r f.admPort (u.defClass f) = .comp k) (accepted : u.accepts (k / 8) r f.admPort = true) :
    exec (.recircOffer r ecc) s =
      let g := (u.freePassCell f).1
      let t := (((u.freePassCell f).2.setPath r rest).offerCase (k / 8)).rotate (k / 8) r
      let t := t.setPort f.inPort { t.port f.inPort with again := (t.port f.inPort).again ++ [i] }
      .next ((t.startPass i k f.act.entry { g with pass := f.pass + 1, refcnt := f.refcnt - 1 }).serveAll) := by
  show execRecircOffer r ecc s = _
  simp only [execRecircOffer, head, frame, reads, Bool.false_eq_true, if_false, wakes, choice, accepted,
    Bool.true_eq_false]
  rfl

end

/-! ### CASE_BACKLOG (R99) -/

theorem exec_caseBacklog {c : Case} {s : State}
    (unfenced : ((List.range 8).map fun i => 8 * c.val + i).filter (fun k => !s.compFenced k) ≠ [])
    (busy : ∀ k ∈ ((List.range 8).map fun i => 8 * c.val + i).filter fun k => !s.compFenced k,
      (s.comp k).frame.isSome = true) : exec (.caseBacklog c) s = .next (s.raiseCase c 3) := by
  refine congrArg Host.Outcome.next (if_pos ?_)
  rw [Bool.and_eq_true, Bool.not_eq_true', List.isEmpty_eq_false_iff, List.all_eq_true]
  exact ⟨unfenced, busy⟩

/-- Settles O14: each clause is the rule of its command. That a waking case is ready at the next offer is the model's
choice (log entry 33), and so is the cell that an uncorrectable read names (log entry 92). -/
theorem framesReachCompositors : Obligations.FramesReachCompositors := by
  refine ⟨fun p s i f => ⟨exec_dispatch_idle, fun offered => ⟨exec_dispatch_drop offered rfl,
      exec_dispatch_wait offered rfl, fun k => exec_dispatch_starts offered rfl⟩⟩,
    fun r s ecc => ⟨fun empty => exec_recircOffer_empty empty ecc, fun i rest f head frame =>
      ⟨exec_recircOffer_unread head frame, fun k e reads second => ?_⟩, fun c => exec_caseBacklog⟩⟩
  intro u choice accepted
  have entry : f.act.entry = e := by rw [PassAction.entry, second]
  exact entry ▸ exec_recircOffer_starts head frame reads rfl choice accepted

end Sys2Proof.Machine
end

section
/-! Commands that complete: their forms, and the instructions that a compositor issues (R71 to R124). -/

namespace Sys2Proof.Machine

-- The first proof that unfolds `effect` makes its 257 equations. Without this option every later proof that unfolds it
-- starts beside that one and waits, each on a thread of its own.
set_option Elab.async false

/-- Command `i` leaves its effect wherever the spec's conditions for it hold. -/
def Completes (i : Instr) : Prop := ∀ s, Runs i s → exec i s = .next (effect i s)

/-! ### The forms of an instruction that a compositor issues (R71, R86, R104) -/

/-- The flow of an instruction that has run: it neither stalls nor waits. -/
def Flow.moves : Flow → Bool
  | .seq | .goto _ => true
  | .stall _ | .wait _ => false

section
variable {s : State} {f : Fetch} {p : CompState → Frame → Prop} (h : s.issuing f p)
include h

/-- Where every compositor that `p` admits runs the body as `g`, that is what the instruction leaves. -/
theorem State.issueOn_runs {n : Nat} {body : State → CompState → Frame → Issue}
    {g : CompState → Frame → Flow × CompState × State}
    (runs : ∀ cs fr, p cs fr → body s cs fr = ⟨(g cs fr).1, n, (g cs fr).2.1, (g cs fr).2.2⟩)
    (moves : ∀ cs fr, (g cs fr).1.moves = true) : s.issueOn f body = s.ranOn f n g := by
  obtain ⟨cs, fr, issues, holds⟩ := h
  rw [State.issueOn_eq issues, State.ranOn_eq issues, runs cs fr holds]
  have goes := moves cs fr
  generalize g cs fr = r at goes ⊢
  obtain ⟨_ | _ | _ | _, cs', t⟩ := r
  case seq => rfl
  case goto => rfl
  case stall => cases goes
  case wait => cases goes

theorem State.issueOn_runsSeq {n : Nat} {body : State → CompState → Frame → Issue} {g : CompState → Frame → CompState}
    (runs : ∀ cs fr, p cs fr → body s cs fr = ⟨.seq, n, g cs fr, s⟩) : s.issueOn f body = s.ranSeq f n g :=
  State.issueOn_runs (g := fun cs fr => (.seq, g cs fr, s)) h runs fun _ _ => rfl

theorem State.issue_runs {n : Nat} {body g : CompState → Frame → Flow × CompState}
    (runs : ∀ cs fr, p cs fr → body cs fr = g cs fr) (moves : ∀ cs fr, (g cs fr).1.moves = true) :
    s.issue f n body = .next (s.ran f n g) :=
  congrArg Host.Outcome.next (State.issueOn_runs h (fun cs fr holds => by rw [runs cs fr holds]) moves)

theorem State.issue_runsSeq {n : Nat} {body : CompState → Frame → Flow × CompState} {g : CompState → Frame → CompState}
    (runs : ∀ cs fr, p cs fr → body cs fr = (.seq, g cs fr)) : s.issue f n body = .next (s.ranSeq f n g) :=
  State.issue_runs h runs fun _ _ => rfl

theorem State.issueSeq_runs {n : Nat} {body g : CompState → Frame → CompState}
    (runs : ∀ cs fr, p cs fr → body cs fr = g cs fr) : s.issueSeq f n body = .next (s.ranSeq f n g) :=
  State.issue_runsSeq h fun cs fr holds => by rw [runs cs fr holds]

theorem State.issueLoop_runs (count : CompState → Nat) (len : BitVec 14) :
    s.issueLoop f count len = .next (s.ran f 1 fun cs _ =>
      (.goto (cs.openLoop (count cs) len.toNat).pc, { cs with loops := (cs.openLoop (count cs) len.toNat).loops })) :=
  congrArg Host.Outcome.next (State.issueOn_runs (g := fun cs _ => (.goto (cs.openLoop (count cs) len.toNat).pc,
    { cs with loops := (cs.openLoop (count cs) len.toNat).loops }, s)) h (fun _ _ _ => rfl) fun _ _ => rfl)

end

/-- An edit joins a list with room (R123). -/
theorem State.edit_runs {s : State} {f : Fetch} (h : s.mayEdit f) (code off : Nat) (value : CompState → W64) :
    s.edit f code off value = .next (s.ranEdit f code off value) :=
  State.issueSeq_runs h fun _ _ room => if_neg (Nat.not_le.mpr room)

/-- A waybill operation on a waybill whose words are sound carries its outcome under its tag (R114, R203). -/
theorem State.wbop_runs {s : State} {f : Fetch} {rs1 : GReg} {bad : Option (Fin 16)} (h : s.mayWbop f rs1 bad)
    (tag : BitVec 3) (op : Option (Fin 16) → State → Nat → OpCtx → CompState → Nat × W64 × State) :
    s.wbop f tag rs1 (op bad) = .next (s.ranWbop f tag rs1 (op none s)) := by
  obtain ⟨issuing, rfl⟩ := h
  exact congrArg Host.Outcome.next (State.issueOn_runs issuing (fun _ _ _ => rfl) fun _ _ => rfl)

/-! ### Reads and writes of the host (R278, R304) -/

/-- A write that the host may make leaves what it makes of the block (R278, R304). -/
theorem State.byHost_completes {s t : State} {off : Nat} {f : State → State} (may : s.hostMay off)
    (leaves : f s = t) : (.next (s.byHost off f) : Out State) = .next t := by
  rw [State.byHost_may may, leaves]

/-- A read of the host while the function is not in D3hot answers (R304). -/
theorem State.hostRead_completes {s t : State} {f : State → State} (awake : s.host.d3hot = false) (leaves : f s = t) :
    (.next (s.hostRead f) : Out State) = .next t := by
  rw [State.hostRead_awake awake, leaves]

/-! ### Classes A, F and B (R81 to R90) -/

/-- MTS writes one of six registers, and no other (R83). -/
theorem mts_completes (f : Fetch) (spec : BitVec 5) (rs1 : GReg) : Completes (.mts f spec rs1) := fun s h =>
  State.issueSeq_runs h fun cs _ _ => by
    dsimp only
    split
    case h_7 no6 no9 no10 no11 no18 no22 =>
      rw [if_neg no6, if_neg no9, if_neg no10, if_neg no11, if_neg no18, if_neg no22]
    all_goals simp only [*, Nat.reduceEqDiff, if_true, if_false]

/-- MFS of LEN runs once the frame is whole (R83). -/
theorem mfs_completes (f : Fetch) (rd : GReg) (spec : BitVec 5) : Completes (.mfs f rd spec) := fun _ h =>
  State.issue_runsSeq h fun _ _ ready => if_neg fun ⟨len, part⟩ => ready.elim (absurd len) fun whole => by
    rw [whole] at part
    cases part

/-- EXT of scratch, or of frame bytes that are there (R85, R86). -/
theorem ext_completes (f : Fetch) (rd rs1 : GReg) (scratch : Bool) (off : BitVec 14) (bit : BitVec 3) (wm1 : BitVec 6)
    (sx : Bool) : Completes (.ext f rd rs1 scratch off bit wm1 sx) := fun _ h =>
  State.issue_runsSeq h fun cs fr there => by
    cases scratch with
    | true => rfl
    | false =>
      obtain ⟨v, read⟩ := there.resolve_left Bool.false_ne_true
      simp only [Bool.false_eq_true, if_false, read, readOr]

/-- BR, and with it every conditional branch, goes on to a word either way (R88). -/
theorem Flow.moves_branch (c : Bool) (t : Nat) : (if c then Flow.goto t else .seq).moves = true := by
  cases c <;> rfl

/-- END of a program whose frame still stands (R90, R117). -/
theorem end_completes (f : Fetch) : Completes (.end_ f) := fun s h => by
  obtain ⟨cs, fv, issues, stands⟩ := h
  obtain ⟨fr, found, rfl⟩ := Option.map_eq_some_iff.mp issues.frame
  obtain ⟨i, running, frame⟩ := Option.bind_eq_some_iff.mp found
  have alive : fr.stage ≠ .dropped := by
    rw [State.frameView] at stands
    split at stands <;> exact stands
  have comp := issues.comp
  refine (exec_end issues running frame).trans (congrArg Host.Outcome.next ?_)
  simp only [effect, comp, running, frame, if_neg alive]

/-- WATCHDOG of a program past its worst path (R93). -/
theorem watchdog_completes (c : Comp) : Completes (.watchdog c) := fun s h => by
  obtain ⟨fr, frame, past⟩ := h
  refine congrArg Host.Outcome.next ?_
  simp only [frame, if_pos past]
  rfl

/-! ### Classes L, H and D (R104 to R113) -/

/-- A scan of a good set that an engine will serve (R166, R168). -/
theorem lkiWatch_completes (f : Fetch) (tag : BitVec 3) (rs2 : GReg) (set : BitVec 8) :
    Completes (.lkiWatch f tag rs2 set) := fun s h => by
  rw [effect]
  refine congrArg Host.Outcome.next (State.issueOn_runs h (fun cs fr ⟨valid, sound, room⟩ => ?_) fun _ _ => rfl)
  have taken : ¬ (s.admClass fr.tag (cs.qoff / 16) = false ∧ 256 ≤ s.waitingBe) := fun ⟨other, full⟩ =>
    room.elim (fun adm => by rw [adm] at other; cases other) (Nat.not_lt.mpr full)
  simp only [valid, sound, taken, Bool.true_eq_false, Bool.false_eq_true, if_false]

/-- The result of a lookup that waits (R104, R105). -/
theorem lookupComplete_completes (c : Comp) (tag : BitVec 3) (bad : Bool) : Completes (.lookupComplete c tag bad) :=
  fun s h => by
    obtain ⟨fr, req, frame, waits⟩ := h
    show execLookupComplete c tag bad s = _
    simp only [execLookupComplete, effect, frame, waits]

/-- LKW of a result that is there (R104). -/
theorem lkw_completes (f : Fetch) (rd : GReg) (tag : BitVec 3) (bm : Bool) (disp : BitVec 14) :
    Completes (.lkw f rd tag bm disp) := fun _ h =>
  State.issue_runs h (fun cs fr ⟨st, w0, w1, ready⟩ => by simp only [ready]) fun cs _ => by
    dsimp only
    split
    · exact Flow.moves_branch _ _
    · rfl

/-- HACF of frame bytes that are there (R110). -/
theorem hacf_completes (f : Fetch) (rs1 : GReg) (off : BitVec 14) (nm1 : BitVec 6) :
    Completes (.hacf f rs1 off nm1) := fun _ h =>
  State.issue_runsSeq h fun cs fr ⟨v, read⟩ => by simp only [read, readOr]

/-- BERX of a wanted tag under a length form of at most three bytes (R112). -/
theorem berx_completes (f : Fetch) (rd : GReg) (any : Bool) (btag : BitVec 8) (disp : BitVec 14) (skip : Bool) :
    Completes (.berx f rd any btag disp skip) := fun s h =>
  congrArg Host.Outcome.next (State.issueOn_runsSeq h
    fun cs fr ⟨hd, ext, header, short, wanted, n, small, form, length⟩ => by
      have takes : ¬ (any = false ∧ (byteAt hd.1 0).toNat ≠ btag.toNat) := fun ⟨other, differs⟩ =>
        wanted.elim (fun all => by rw [all] at other; cases other) differs
      have bytes : min n 2 = n := by omega
      have few : n ≠ 3 := by omega
      simp only [header, if_neg short, if_neg takes, form, bytes, length, if_neg few, readOr, Option.getD_some])

/-- ASDU of a field that is there, as wide as R113 gives it. -/
theorem asdu_completes (f : Fetch) (rd : GReg) (fld : BitVec 4) (rs2 : GReg) (disp : BitVec 14) :
    Completes (.asdu f rd fld rs2 disp) := fun s h =>
  congrArg Host.Outcome.next (State.issueOn_runsSeq h fun cs fr ⟨c, len, v, find, value⟩ => by
    simp only [find, value])

/-! ### Class X (R116 to R124) -/

theorem dlvFwd_completes (f : Fetch) (imm : Bool) (port : BitVec 7) (rs1 : GReg) :
    Completes (.dlvFwd f imm port rs1) := fun _ h =>
  State.issueSeq_runs h fun cs _ there => if_pos (by
    cases imm with
    | true => exact port.isLt
    | false => exact there.resolve_left Bool.false_ne_true)

/-- SIDE.MIRROR of a valid session that is new and one of two (R122). -/
theorem sideMirror_completes (f : Fetch) (session : BitVec 4) : Completes (.sideMirror f session) := fun _ h =>
  State.issueSeq_runs h fun cs fr ⟨valid, new, room⟩ => by
    simp only [valid, new, Bool.true_eq_false, Bool.false_eq_true, or_self, if_false, if_neg (Nat.not_le.mpr room)]

end Sys2Proof.Machine
end

section
/-! Commands that complete: the ports (R12 to R37, R267) and the Galley (R38 to R69, R125 to R127). -/

namespace Sys2Proof.Machine

/-! ### Ports (R12 to R31, R267) -/

theorem frameStart_completes (p : Port) : Completes (.frameStart p) := fun _ ⟨near, _⟩ => exec_frameStart near

theorem frameEnd_completes (p : Port) (n m : Nat) (bad : Bool) : Completes (.frameEnd p n m bad) := by
  rintro s ⟨rfl, -⟩
  rfl

theorem pdelayResponse_completes (p : Port) : Completes (.pdelayResponse p) := by
  rintro s ⟨req, rx, k, waits, taken⟩
  rcases built : s.pdelayBuild p req rx with ⟨_ | j, t⟩
  · rw [built] at taken
    cases taken
  · rw [exec_pdelayResponse_taken waits built]
    simp only [effect, waits, built]

theorem pcsLockLoss_completes (p : Port) (lock lf rf : Bool) : Completes (.pcsLockLoss p lock lf rf) := by
  intro s faulty
  have unsound : (lock && !lf && !rf) = false := by
    rcases faulty with rfl | rfl | rfl
    · rfl
    · rw [Bool.not_true, Bool.and_false, Bool.false_and]
    · rw [Bool.not_true, Bool.and_false]
  exact congrArg Host.Outcome.next (if_neg (Bool.eq_false_iff.mp unsound))

theorem linkDown_completes (p : Port) : Completes (.linkDown p) := fun s ⟨down, up⟩ => exec_linkDown p s down up

theorem linkUp_completes (p : Port) : Completes (.linkUp p) := fun s ⟨up, sound, lock⟩ =>
  congrArg Host.Outcome.next (if_pos (by rw [up, sound, lock]; rfl))

theorem dispatch_completes (p : Port) : Completes (.dispatch p) := by
  rintro s ⟨i, f, k, offered, choice, accepted⟩
  rw [exec_dispatch_starts offered rfl choice accepted]
  simp only [effect, offered, choice]

/-- Each lane of the region begins training as `trainLane` has it (R31). -/
theorem regionTrainingStart_completes (r : Region) : Completes (.regionTrainingStart r) := fun s _ => by
  rw [exec_regionTrainingStart, effect]
  exact congrArg Host.Outcome.next (List.foldl_ext _ _ _ fun _ _ _ => rfl)

/-! ### The Galley (R42 to R69, R125 to R127) -/

/-- A single request that is granted (R46, R47). -/
theorem cellRequest_completes (reqs : List (CellReq × Bool)) : Completes (.cellRequest reqs) := by
  rintro s ⟨q, b, rfl, granted, kind, ingress, recirc⟩
  rw [exec_cellRequest_single s q b kind (s.regionOrder_count q ingress recirc), if_pos granted]
  cases q <;> rfl

theorem sweepDone_completes (b : Fin 32) : Completes (.sweepDone b) := fun s sweeping => exec_sweepDone b s sweeping

/-- A free of a cell that there is, by its index or by its address (R48). -/
theorem cellFree_completes (req : BitVec 6) (byAddr : Bool) (x : BitVec 40) : Completes (.cellFree req byAddr x) := by
  rintro s (⟨rfl, cell⟩ | ⟨rfl, named⟩)
  · rw [exec_cellFree_index, State.freeCell, if_pos cell]
    simp only [effect, Bool.false_eq_true, if_false]
  · rw [exec_cellFree_address, State.freeAddr, if_pos named]
    simp only [effect, if_true]

theorem galleyCommit_completes (p : Port) (bad : Bool) : Completes (.galleyCommit p bad) := by
  rintro s ⟨⟨i, f⟩, found, -⟩
  show execGalleyCommit p bad s = _
  simp only [execGalleyCommit, effect, found]

theorem residueTimeout_completes (k : Fin 16384) : Completes (.residueTimeout k) := by
  rintro s ⟨e, entry⟩
  show execResidueTimeout k s = _
  simp only [execResidueTimeout, effect, entry]

theorem recircOffer_completes (r : Region) (ecc : EccRead) : Completes (.recircOffer r ecc) := by
  rintro s ⟨i, rest, f, k, head, frame, reads, choice, accepted⟩
  rw [exec_recircOffer_starts head frame reads rfl choice accepted]
  simp only [effect, head, frame, choice]
  rfl

/-- A case all of whose unfenced compositors are busy, of which there is one (R99). -/
theorem caseBacklog_completes (c : Case) : Completes (.caseBacklog c) := by
  rintro s ⟨busy, i, eight, unfenced⟩
  refine exec_caseBacklog (List.ne_nil_of_mem (a := 8 * c.val + i) ?_) fun k member => ?_
  · exact List.mem_filter.mpr ⟨List.mem_map.mpr ⟨i, List.mem_range.mpr eight, rfl⟩, by rw [unfenced]; rfl⟩
  · obtain ⟨listed, sound⟩ := List.mem_filter.mp member
    obtain ⟨j, small, rfl⟩ := List.mem_map.mp listed
    exact busy j (List.mem_range.mp small) (by rwa [Bool.not_eq_true'] at sound)

end Sys2Proof.Machine
end

section
/-! Commands that complete: the Ledger, the Watchlist and the Waybills (R142 to R208). -/

namespace Sys2Proof.Machine

/-! ### The Ledger (R142 to R146) -/

/-- A visit of a learned entry where its first seed places it, or that is nowhere under that seed (R142, R146). -/
theorem ageingStep_completes (bad : ParityBad) : Completes (.ageingStep bad) := by
  rintro s ⟨working, ageing, valid, learned, sound, placed⟩
  show execAgeingStep bad s = _
  refine congrArg Host.Outcome.next ((if_neg ?_).trans ?_)
  · rw [working, ageing]
    exact Bool.false_ne_true
  · refine (if_neg ?_).trans ((if_neg ?_).trans (if_neg ?_))
    · rw [valid]
      exact Bool.false_ne_true
    · rw [sound]
      exact Bool.false_ne_true
    · rw [learned]
      rcases placed with none | there
      · rw [none]
        exact Bool.false_ne_true
      · rw [there, Bool.not_true, Bool.and_false]
        exact Bool.false_ne_true

/-! ### The Watchlist (R166 to R175, R377) -/

/-- A scan that waits starts on a free engine: an admitted one before any best-effort one (R168). -/
theorem scanStart_completes : Completes .scanStart := by
  rintro s ⟨sc, e, adm, oldest, free, first⟩
  show execScanStart s = _
  cases adm with
  | true => simp only [execScanStart, effect, oldest, free, Option.orElse_some, Option.isSome_some]
  | false =>
    simp only [execScanStart, effect, oldest, free, first rfl, Option.orElse_none, Option.isSome_none]

theorem scanDone_completes (engine : Fin 42) (bad : Option (BitVec 17)) : Completes (.scanDone engine bad) := by
  rintro s ⟨rfl, sc, bs, runs, arrived⟩
  show execScanDone engine none s = _
  simp only [execScanDone, effect, runs, arrived, Option.getD_some]

/-- The patrol compares an item that is not failed with its shadow (R174). -/
theorem wchPatrolStep_completes (differs : Bool) (shadow : EccRead) : Completes (.wchPatrolStep differs shadow) := by
  rintro s ⟨shadowed, patrols, sound, mapped⟩
  refine (exec_wchPatrolStep_on shadowed patrols).trans ?_
  have unfailed : s.watch.patrolAt ∉ s.watch.failed := fun failed =>
    Bool.false_ne_true (sound.symm.trans (List.contains_iff_mem.mpr failed))
  simp only [State.patrolVisit_read unfailed mapped rfl]
  rfl

theorem wchRepair_completes (line : BitVec 17) (shadow : EccRead) : Completes (.wchRepair line shadow) := by
  rintro s ⟨shadowed, ⟨item, kind⟩, bs, t, queued, read⟩
  show execWchRepair line shadow s = _
  simp only [execWchRepair, effect, if_pos shadowed, queued]
  have readShadow : (s.modWatch fun w => { w with repairs := w.repairs.filter fun y => y.1 != item }).ddrRead 2
      ((s.modWatch fun w => { w with repairs := w.repairs.filter fun y => y.1 != item }).shadowAddr item)
      (if item < 65536 then 64 else 16) [(0, shadow)] = (some bs, t) := read
  rw [readShadow, read]

/-! ### The Waybills (R182 to R208) -/

/-- A write of a whole word that R183 allows. -/
theorem wblHostWrite_completes (addr : BitVec 22) (size : Fin 17) (data : W64) (bad : Bool) :
    Completes (.wblHostWrite addr size data bad) := by
  rintro s ⟨awake, rfl, whole, aligned, word, allowed⟩
  have names : ¬(size.val ≠ 8 ∨ addr.toNat % 8 ≠ 0 ∨ 2 ^ 21 ≤ addr.toNat) := by omega
  rw [exec_wblHostWrite awake, State.wblWrite, if_neg names]
  simp only [effect, if_pos word, Bool.false_and, Bool.false_eq_true, if_false]
  by_cases first : addr.toNat / 8 % 8 = 0
  · rw [if_pos first] at allowed
    simp only [if_pos first, allowed, Bool.false_eq_true, if_false]
  · rw [if_neg first] at allowed
    have writable : ¬(3 ≤ addr.toNat / 8 % 8 ∧ wVALID (((s.wrepair (addr.toNat / 64)).count R.WBL_C_OPS).wword
        (addr.toNat / 64) 0) = true) := fun ⟨late, valid⟩ =>
      allowed.elim (Nat.not_lt.mpr late) fun invalid => Bool.false_ne_true (invalid.symm.trans valid)
    simp only [if_neg first, if_neg writable]

theorem wblPatrolVisit_completes (bad : Option (Fin 8)) : Completes (.wblPatrolVisit bad) := by
  rintro s rfl
  rfl

end Sys2Proof.Machine
end

section
/-! Commands that complete: the egress (R211 to R230) and the formes (R238 to R258). -/

namespace Sys2Proof.Machine

/-! ### Egress (R214 to R227) -/

/-- The best head that has room is picked where nothing is picked yet (R214, R215). -/
theorem egressPick_completes (p : Port) : Completes (.egressPick p) := by
  rintro s ⟨idle, w, best, room⟩
  rw [exec_egressPick_best s p idle best, if_pos room]
  simp only [effect, best]

/-- A picked frame starts on an idle wire, where it is not held back (R216, R220). -/
theorem frameTxStart_completes (p : Port) (ecc : EccRead) : Completes (.frameTxStart p ecc) := by
  rintro s ⟨k, idle, picked, whole, free⟩
  have goes : ¬(s.isPre p k && s.holdOn p) = true := by
    rw [Bool.not_eq_true, Bool.and_eq_false_iff]
    exact free
  show execFrameTxStart p ecc s = _
  simp only [execFrameTxStart, effect, idle, picked, whole, if_neg goes]

/-- The end of a frame that went out whole and sound (R217, R227). -/
theorem frameTxEnd_completes (p : Port) (bad : Option Nat) : Completes (.frameTxEnd p bad) := by
  rintro s ⟨w, f, wire, frame, complete, sound⟩
  show execFrameTxEnd p bad s = _
  simp only [execFrameTxEnd, effect, wire, frame, complete, sound, Bool.true_eq_false, Bool.false_eq_true, if_false]

theorem ttEntryChange_completes (p : Port) (t : Tag) : Completes (.ttEntryChange p t) := fun _ ⟨on, runs, other⟩ =>
  exec_ttEntryChange_moves on runs other

theorem ttOperationalBase_completes (p : Port) (t : Tag) : Completes (.ttOperationalBase p t) :=
  fun _ ⟨on, waits, due⟩ => exec_ttOperationalBase_starts on waits due

/-! ### Formes (R242 to R258) -/

/-- A control instruction that is carried out comes in RUNNING (R280, R431). -/
theorem State.ctrlOk.running {s : State} {r : KRes × State} (carried : s.ctrlOk r) : s.boot.mode = .running := by
  obtain ⟨opened, unheld, -⟩ := carried
  simp only [State.cmdOpen, Bool.or_eq_true, Bool.and_eq_true, beq_iff_eq] at opened
  exact opened.elim id fun held => absurd held.1 unheld

theorem drainComplete_completes : Completes .drainComplete := by
  rintro s ⟨t, drains, gone⟩
  rw [exec_drainComplete drains, gone]
  simp only [effect, drains]
  rfl

theorem tagReleaseDone_completes (bad : ParityBad) : Completes (.tagReleaseDone bad) := by
  rintro s ⟨t, releases, working⟩
  show execTagReleaseDone bad s = _
  simp only [execTagReleaseDone, effect, releases, working, Bool.false_eq_true, if_false]

end Sys2Proof.Machine
end

section
/-! Commands that complete: the command unit (R277 to R296). -/

namespace Sys2Proof.Machine

theorem ringDoorbell_completes (pi : BitVec 16) : Completes (.ringDoorbell pi) := fun _ ⟨may, room⟩ =>
  State.byHost_completes may (if_neg (Nat.not_lt.mpr room))

/-- A well-formed block that its agent's role allows joins the queue (R277, R280). -/
theorem State.blockEnter_queues {s : State} {b : CmdBlock} (sound : blockBad b.source b.words = false)
    (allowed : b.forbidden = false) :
    s.blockEnter b = { s with cmd := { s.cmd with queue := s.cmd.queue ++ [b] } } := by
  rw [State.blockEnter, sound, allowed, if_neg Bool.false_ne_true, if_neg Bool.false_ne_true]

theorem ringBlockFetched_completes (words : List W64) : Completes (.ringBlockFetched words) :=
  fun _ ⟨unblocked, on, waits, room, sound, allowed⟩ => (execRingBlockFetched_open unblocked on waits room).trans
    (congrArg Host.Outcome.next (State.blockEnter_queues sound allowed))

theorem i2cGo_completes (words : List W32) : Completes (.i2cGo words) := fun _ ⟨runs, room, sound, allowed⟩ =>
  congrArg Host.Outcome.next ((if_neg (ne_true_of_eq_false runs)).trans
    ((if_neg (ne_true_of_eq_false room)).trans (State.blockEnter_queues sound allowed)))

theorem blockExecute_completes (found : List Found) : Completes (.blockExecute found) := by
  rintro s ⟨b, rest, front, opened, allowed⟩
  rw [execBlockExecute_front front opened, if_neg (ne_true_of_eq_false allowed)]
  simp only [effect, front]

/-- A control instruction that the safe-hold gate does not stop, carried out by itself (R290). -/
theorem State.ctrlAlone_completes {s : State} {f : State → KRes × State} (carried : s.ctrlOk (f s)) :
    (.next (s.ctrlAlone f) : Out State) = .next (State.did (f s)) :=
  congrArg Host.Outcome.next (State.ctrlAlone_running carried.running f)

theorem nop_completes : Completes .nop := fun _ carried =>
  State.ctrlAlone_completes (f := fun s => ((0, 0, []), s)) carried

theorem snapshot_completes (units : BitVec 26) (addr : BitVec 40) (finds : EccFinds) :
    Completes (.snapshot units addr finds) := fun _ carried =>
  State.ctrlAlone_completes (f := (·.snapshot units addr.toNat finds)) carried

theorem caparm_completes (selector : BitVec 8) (arm : Bool) (data : List W64) : Completes (.caparm selector arm data) :=
  fun _ carried => State.ctrl_running carried.running (·.capArmCmd selector.toNat arm data) rfl

theorem captrig_completes (cause : BitVec 8) : Completes (.captrig cause) := fun _ carried =>
  State.ctrl_running carried.running (·.capTrig cause.toNat) rfl

theorem role_completes (source : BitVec 8) (r : BitVec 2) : Completes (.role source r) := fun _ carried =>
  State.ctrl_running carried.running (·.roleWrite source.toNat r.toNat) rfl

theorem arcread_completes (word0 word1 : W64) (reads : List NandRead) : Completes (.arcread word0 word1 reads) :=
  fun _ carried => State.ctrl_running carried.running (·.arcRead word0 word1 reads) rfl

end Sys2Proof.Machine
end

section
/-! Commands that complete: the host's windows and DMA (R304 to R333). -/

namespace Sys2Proof.Machine

/-! ### BAR0, BAR2 and the windows (R304 to R310) -/

/-- A request through an open window that allows it (R306 to R308). -/
theorem bar2Request_completes (write : Bool) (off : BitVec 36) (size : Fin 4097) (data : List Byte) (finds : EccFinds) :
    Completes (.bar2Request write off size data finds) := by
  rintro s ⟨up, inside, awake, thawed, opened, allowed, -⟩
  have reaches : ¬(s.host.linkUp = false ∨ 2 ^ s.host.bar2Log ≤ off.toNat) := fun out =>
    out.elim (fun down => Bool.false_ne_true (down.symm.trans up)) (Nat.not_le.mpr inside)
  have runs : (write && s.flag F.HST_STATUS_FROZEN) = false := by
    cases write with
    | true => exact thawed rfl
    | false => rfl
  show execBar2Request write off size data finds s = _
  simp only [execBar2Request, effect, if_neg reaches, awake, runs, opened, allowed, Bool.true_eq_false,
    Bool.false_eq_true, or_self, if_false]

theorem winEntryWrite_completes (w : Fin 16) (wide : Bool) (data : W64) : Completes (.winEntryWrite w wide data) :=
  fun _ ⟨may, whole⟩ => State.byHost_completes may (if_pos whole)

theorem barResize_completes (log2 : Fin 37) : Completes (.barResize log2) := fun _ enough =>
  congrArg Host.Outcome.next (if_neg (Nat.not_lt.mpr enough))

/-! ### DMA (R311 to R325) -/

theorem dmaChStart_completes (c : Chan) : Completes (.dmaChStart c) := fun s ⟨may, unblocked, idle⟩ =>
  State.byHost_completes may (if_neg (by
    rw [unblocked, idle]
    exact Bool.false_ne_true))

theorem descWord1Read_completes (k : Ring) (w : W64) : Completes (.descWord1Read k w) := by
  rintro s ⟨unblocked, free, again⟩
  show execDescWord1Read k w s = _
  simp only [execDescWord1Read, effect, unblocked, free, again, Option.isSome_none, Bool.false_eq_true, if_false,
    if_true]

/-- An injection to a port that is on, of a length that R319 allows, outside the classes under admission. -/
theorem txFrameInject_completes (k : Ring) (d : Desc) (data : List Byte) : Completes (.txFrameInject k d data) := by
  rintro s ⟨ready, sound, free, on, whole, long, short, there⟩
  rw [execTxFrameInject_free ready data sound (State.injectAdmitted_false free), if_neg (portOn ⟨on, whole⟩),
    if_neg (lengthOk long short), if_neg (Nat.not_lt.mpr there)]
  rfl

theorem rxFrameDeliver_completes (k : Ring) (d : Desc) : Completes (.rxFrameDeliver k d) := by
  rintro s ⟨r, rest, f, front, ready, sound, frame⟩
  show execRxFrameDeliver k d s = _
  simp only [execRxFrameDeliver, effect, front, ready, sound, frame, Bool.true_eq_false, Bool.false_eq_true, if_false]

/-- A COPY of mapped memory, whose data the host gives or whose read is good (R318). -/
theorem dmaCopy_completes (k : Ring) (d : Desc) (data : List Byte) (finds : EccFinds) :
    Completes (.dmaCopy k d data finds) := by
  rintro s ⟨ready, sound, mapped, room, good⟩
  rw [execDmaCopy_sound ready data finds sound]
  cases toHost : bitOf d.request 56 with
  | false =>
    have there := room toHost
    simp only [effect, toHost, mapped, Bool.true_eq_false, if_false, if_true, if_neg (Nat.not_lt.mpr there)]
  | true =>
    have read := good toHost
    simp only [effect, toHost, mapped, Bool.true_eq_false, if_false, read, if_true]

theorem rxStreamDeliver_completes (k : Ring) (d : Desc) (withdraw : Option (BitVec 16)) :
    Completes (.rxStreamDeliver k d withdraw) := by
  rintro s ⟨rfl, waits, ready, sound⟩
  obtain ⟨bs, rest, front⟩ := List.exists_cons_of_ne_nil waits
  show execRxStreamDeliver k d none s = _
  simp only [execRxStreamDeliver, effect, front, ready, sound, Bool.true_eq_false, Bool.false_eq_true, if_false,
    Option.isSome_none, decide_eq_true_eq]

/-! ### The freeze (R331, R333) -/

theorem freezingError_completes (bit : BitVec 5) (header : BitVec 128) : Completes (.freezingError bit header) := by
  rintro s ⟨freezes, thawed⟩
  show execFreezingError bit header s = _
  simp only [execFreezingError, effect, freezes, thawed, Bool.true_eq_false, Bool.false_eq_true, if_false]

/-- A release of a freeze that no marked bit of AER and no fence holds (R333). -/
theorem freezeRelease_completes (cleared : W32) : Completes (.freezeRelease cleared) :=
  fun s ⟨may, frozen, unheld, clear⟩ => State.byHost_completes (s := s.aerClear cleared) may
    (State.unfreeze_released (s := s.aerClear cleared) frozen unheld clear)

end Sys2Proof.Machine
end

section
/-! Commands that complete: DRAM (R338 to R350), captures and the archive (R351 to R374). -/

namespace Sys2Proof.Machine

/-! ### DRAM (R339 to R349) -/

/-- A frequency change to a valid, trained set that is not in use (R348, R349). -/
theorem ddrFreqChange_completes (set : Fin 2) : Completes (.ddrFreqChange set) :=
  fun _ ⟨may, ready, rests, valid, trained, other⟩ =>
    State.byHost_completes may (State.ddrFreqGo_starts ready valid trained rests other)

/-- Each bank index is refreshed as `refreshIndex` has it (R346). -/
theorem refreshInterval_completes (rank : Fin 4) (blocked : BitVec 4) : Completes (.refreshInterval rank blocked) :=
  fun s ready => by
    rw [execRefreshInterval_ready ready, effect]
    refine congrArg Host.Outcome.next (List.foldl_ext _ _ _ fun t i _ => ?_)
    simp only [State.refreshIndex, decide_eq_true_eq]

theorem scrubStep_completes (ecc : EccRead) (overtaken : Bool) : Completes (.scrubStep ecc overtaken) := by
  rintro s ⟨ready, on, sound⟩
  show execScrubStep ecc overtaken s = _
  simp only [execScrubStep, effect, ready, on, sound, Bool.true_eq_false, Bool.false_eq_true, or_self, if_false]

theorem rankPowerDown_completes (rank : Fin 4) : Completes (.rankPowerDown rank) := fun s ⟨ready, awake⟩ =>
  congrArg Host.Outcome.next (if_pos (by rw [ready, awake]; rfl))

/-! ### Captures and events (R354 to R361) -/

/-- The record cell is none of what a charge of the token bucket touches. -/
theorem State.capCharge_recCell (s : State) (sel rlen : Nat) :
    (s.capCharge sel rlen).2.arc.recCell = s.arc.recCell := by
  unfold State.capCharge
  extract_lets rate cap dt have_ need left
  split
  · rfl
  · rfl

/-- A capture within its selector's budget, with the record cell at hand (R354, R355). -/
theorem captureServe_completes (ecc : EccRead) (finds : EccFinds) : Completes (.captureServe ecc finds) := by
  rintro s ⟨q, rest, f, front, frame, there, within, c, spare⟩
  have goes : ¬(f.complete = false ∧ f.bad = false) := fun ⟨part, good⟩ =>
    there.elim (fun whole => Bool.false_ne_true (part.symm.trans whole)) fun bad =>
      Bool.false_ne_true (good.symm.trans bad)
  have cell := (s.capCharge_recCell q.sel (48 + ceilDiv (s.capLen q.sel f.len) 8 * 8)).trans spare
  show execCaptureServe ecc finds s = _
  simp only [execCaptureServe, effect, front, frame, if_neg goes, within, cell, Bool.true_eq_false, if_false]

theorem trigInEdge_completes : Completes .trigInEdge := fun _ ⟨enabled, rested, _⟩ =>
  execTrigInEdge_triggers enabled rested

/-- An event all of whose records are out is closed (R360, R361). -/
theorem eventClose_completes : Completes .eventClose := by
  rintro s ⟨e, opened, recording, ended, drained⟩
  show execEventClose s = _
  simp only [execEventClose, effect, opened, recording, ended, drained, List.isEmpty_nil, and_self, if_true]

/-! ### The archive (R361 to R369) -/

theorem arcFormat_completes : Completes .arcFormat := fun _ ⟨may, off⟩ => State.byHost_completes may (if_pos off)

theorem blockEraseDone_completes (block : Nat) (ok : Bool) : Completes (.blockEraseDone block ok) := by
  rintro s ⟨rfl, dirty⟩
  exact congrArg Host.Outcome.next ((if_neg (ne_false_of_eq_true dirty)).trans (if_neg Bool.noConfusion))

/-- The patrol of the flash reads a page whose errors do not call for a relocation (R367). -/
theorem nandPatrolRead_completes (r : NandRead) : Completes (.nandPatrolRead r) := by
  rintro s ⟨on, p, n, next, hard, few⟩
  show execNandPatrolRead r s = _
  have outcome : r.outcome ((s.modArc fun a => { a with patrolAt := p.pseq + 1 }).fld F.ARC_GEOM1_RETRY) = .hard n :=
    hard
  have kept : ¬(s.modArc fun a => { a with patrolAt := p.pseq + 1 }).fld F.ARC_PATROL_CFG_REFRESH_BITS < n :=
    Nat.not_lt.mpr few
  simp only [execNandPatrolRead, effect, on, next, outcome, if_neg kept, Bool.false_eq_true, if_false]

/-- KEEP of an event that there is can be taken back (R366). -/
theorem keepSet_completes (keep : Bool) : Completes (.keepSet keep) := by
  rintro s ⟨may, rfl, e, listed, number⟩
  obtain ⟨x, found⟩ := Option.isSome_iff_exists.mp 
    (List.find?_isSome (p := fun e : ArcEvent => e.num == bitsOf (s.reg R.ARC_KEEP) 31 0).mpr
      ⟨e, listed, beq_iff_eq.mpr number⟩)
  refine State.byHost_completes may ?_
  simp only [State.putKeep, effect, found, Bool.false_eq_true, false_and, if_false]

end Sys2Proof.Machine
end

section
/-! Commands that complete: power (R376 to R390). -/

namespace Sys2Proof.Machine

theorem caseSleep_completes (k : Case) : Completes (.caseSleep k) := by
  rintro s ⟨may, unfenced, idle, early⟩
  obtain ⟨awake, entering⟩ := execCaseSleep_asks may unfenced idle
  have state : s.fld (F.PWR_CASE_STATE k) = 0 ∨ s.fld (F.PWR_CASE_STATE k) = 1 := by omega
  rcases state with state | state
  · exact (awake state).trans (by simp only [effect, state])
  · exact (entering state).trans (by simp only [effect, state])

theorem casePointIdle_completes (k : Case) : Completes (.casePointIdle k) := fun _ unfenced =>
  congrArg Host.Outcome.next (if_neg (ne_true_of_eq_false unfenced))

theorem railConfirm_completes (k : Case) (ok : Bool) : Completes (.railConfirm k ok) := by
  rintro s ⟨rfl, ⟨p, tries⟩, raising⟩
  refine (execRailConfirm_raising raising true).trans ?_
  simp only [effect, raising, if_true]

theorem avsTick_completes (r : Region) (marginMv : Int) : Completes (.avsTick r marginMv) :=
  fun _ ⟨on, enough, small, fresh⟩ => execAvsTick_holds on fresh enough small

/-- DRAM changes to its slower set under the cap, and back once the estimate allows it (R386). -/
theorem ddrLowSwitch_completes (lower : Bool) : Completes (.ddrLowSwitch lower) := by
  rintro s ⟨valid, trained, on, down, up⟩
  cases lower with
  | true =>
    obtain ⟨slower, active⟩ := down rfl
    exact execDdrLowSwitch_down on valid trained active slower
  | false =>
    obtain ⟨faster, low⟩ := up rfl
    show execDdrLowSwitch false s = _
    simp only [execDdrLowSwitch, effect, valid, trained, on, faster, low, decide_true, Bool.and_self, if_true,
      Bool.false_eq_true, if_false]

/-- One more step of shedding, of which there are thirteen (R389). -/
theorem shedStep_completes : Completes .shedStep := by
  rintro s ⟨cause, more⟩
  refine congrArg Host.Outcome.next ((if_neg (ne_false_of_eq_true cause)).trans (congrArg (State.shedEvent s) ?_))
  generalize s.pwr.step = step at more ⊢
  match step, more with
  | 0, _ | 1, _ | 2, _ => rfl
  | n + 3, more => exact if_pos more

theorem shedWithdraw_completes : Completes .shedWithdraw := fun _ ⟨calm, _⟩ =>
  congrArg Host.Outcome.next (if_neg (ne_true_of_eq_false calm))

/-- A sample of a sensor that works, below the temperature that stops the chip (R388, R390). -/
theorem sensorSample_completes (i : Fin 24) (temp : BitVec 8) (frozen : Bool) :
    Completes (.sensorSample i temp frozen) := by
  rintro s ⟨cool, warm, rfl⟩
  have works : decide (temp.toInt < -50) = false := decide_eq_false (not_lt.mpr warm)
  have safe : ∀ {c d : Prop}, ¬(c ∧ 125 ≤ temp.toInt ∧ d) := fun ⟨_, hot, _⟩ => absurd hot (not_le.mpr cool)
  show execSensorSample i temp false s = _
  unfold execSensorSample
  extract_lets k v fails t0 t1 shown t2 wasHot t3 t4 t5 t6 t7
  have sound : fails = false := by
    show ((false || decide (temp.toInt < -50)) && _) = false
    rw [works]
    rfl
  refine congrArg Host.Outcome.next ((if_neg safe).trans ?_)
  clear_value fails
  subst sound
  rfl

theorem capWrite_completes (v : W32) : Completes (.capWrite v) := fun _ ⟨may, none_⟩ =>
  State.byHost_completes may (State.putCap_taken (.inl none_))

theorem throttleStep_completes (k : Case) : Completes (.throttleStep k) := fun _ ⟨hot, above⟩ =>
  execThrottleStep_hot hot above

end Sys2Proof.Machine
end

section
/-! Commands that complete: faults and fences (R395 to R418). -/

namespace Sys2Proof.Machine

/-- A pair of a class whose level its kind alone decides (R395, R400). -/
theorem dualRailError_completes (source : BitVec 12) (kind : BitVec 8) : Completes (.dualRailError source kind) := by
  rintro s ⟨reports, unstuck, other⟩
  show execDualRailError source kind s = _
  simp only [execDualRailError, effect, reports, if_neg unstuck, if_neg other, Bool.true_eq_false, if_false]

theorem wireFault_completes (source : BitVec 12) : Completes (.wireFault source) := by
  rintro s ⟨valid, outside⟩
  have unwired : (decide (0x601 ≤ source.toNat) && decide (source.toNat ≤ 0x605)) = false := by
    rw [Bool.and_eq_false_iff, decide_eq_false_iff_not, decide_eq_false_iff_not]
    exact outside.imp Nat.not_le.mpr Nat.not_le.mpr
  exact congrArg Host.Outcome.next (if_pos (by rw [valid, unwired]; rfl))

theorem faultClear_completes (k : Fin 256) : Completes (.faultClear k) := fun _ ⟨may, acked⟩ =>
  State.byHost_completes may (if_pos acked)

/-- A self-test before a fence is lifted starts where nothing stands against it (R412). -/
theorem unfence_completes (source : BitVec 12) : Completes (.unfence source) := by
  rintro s ⟨may, liftable_, fenced, cleared, region, free⟩
  refine State.byHost_completes may (if_neg ?_)
  rw [liftable_, fenced, cleared, free]
  cases place : regionOf source.toNat with
  | none => exact Bool.noConfusion
  | some r =>
    dsimp only
    rw [region r place]
    exact Bool.noConfusion

theorem bistDone_completes (pass : Bool) : Completes (.bistDone pass) := by
  rintro s ⟨rfl, src, testing⟩
  show execBistDone true s = _
  simp only [execBistDone, effect, testing, if_true]

theorem faultInject_completes (level : BitVec 3) (source : BitVec 12) : Completes (.faultInject level source) :=
  fun _ ⟨may, low, valid⟩ => State.byHost_completes may (if_pos ⟨low, valid⟩)

end Sys2Proof.Machine
end

section
/-! Commands that complete: starts (R419 to R431), the boot flash, keys and attestation (R437 to R449), and events. -/

namespace Sys2Proof.Machine

theorem resetNRelease_completes (facts : StartFacts) : Completes (.resetNRelease facts) := fun _ ⟨low, sound⟩ =>
  congrArg Host.Outcome.next ((if_neg (ne_false_of_eq_true low)).trans (if_neg (ne_true_of_eq_false sound)))

theorem railRestoreRelease_completes (facts : StartFacts) : Completes (.railRestoreRelease facts) :=
  fun _ ⟨fault, high⟩ =>
    congrArg Host.Outcome.next ((if_neg (ne_false_of_eq_true fault)).trans (if_neg (ne_true_of_eq_false high)))

theorem restartCold_completes (key : BitVec 16) (facts : StartFacts) : Completes (.restartCold key facts) := by
  rintro s ⟨may, keyed, settled, mode⟩
  refine State.byHost_completes may ?_
  rw [keyed]
  rcases mode with running | held
  · exact State.restartCold_runs settled running
  · simp only [State.restartCold, effect, settled, held, ne_eq, not_true_eq_false, Bool.false_eq_true, or_self,
      if_false]

theorem restartWarm_completes (key : BitVec 16) (facts : StartFacts) : Completes (.restartWarm key facts) := by
  rintro s ⟨may, keyed, settled, running, warm, few⟩
  refine State.byHost_completes may ?_
  rw [keyed]
  exact State.restartWarm_runs settled running warm few

theorem clrFails_completes (key : BitVec 16) : Completes (.clrFails key) := by
  rintro s ⟨may, keyed, settled, running⟩
  refine State.byHost_completes may ?_
  rw [keyed]
  exact State.clrFails_clears settled running

/-- The watchdog of a start that does not end (R429). -/
theorem startWatchdog_completes : Completes .startWatchdog := by
  rintro s ⟨some_, starting⟩
  obtain ⟨facts, hangs⟩ := Option.isSome_iff_exists.mp some_
  show execStartWatchdog s = _
  simp only [execStartWatchdog, effect, hangs, starting, Bool.true_eq_false, if_false]

theorem qspiRead_completes (len : BitVec 9) : Completes (.qspiRead len) := fun _ ⟨may, idle, settled, good⟩ =>
  State.byHost_completes may (State.qspiGo_starts idle settled good)

theorem qspiProgram_completes (len : BitVec 9) : Completes (.qspiProgram len) := fun _ ⟨may, idle, settled, good⟩ =>
  State.byHost_completes may (State.qspiGo_starts idle settled good)

theorem qspiErase_completes : Completes .qspiErase := fun _ ⟨may, idle, settled, good⟩ =>
  State.byHost_completes may (State.qspiGo_starts idle settled good)

theorem qspiDone_completes (error : Bool) : Completes (.qspiDone error) := by
  rintro s ⟨rfl, ⟨op, len, addr⟩, busy⟩
  show execQspiDone false s = _
  simp only [execQspiDone, effect, busy, Bool.false_eq_true, if_false]

theorem keyProgram_completes (k : Fin 4) (confirm : BitVec 16) : Completes (.keyProgram k confirm) :=
  fun _ ⟨may, idle, good⟩ => State.byHost_completes may (State.keyGo_starts idle good)

theorem keyRevoke_completes (k : Fin 4) (confirm : BitVec 16) : Completes (.keyRevoke k confirm) :=
  fun _ ⟨may, idle, good⟩ => State.byHost_completes may (State.keyGo_starts idle good)

theorem keyOpDone_completes (ok : Bool) : Completes (.keyOpDone ok) := by
  rintro s ⟨rfl, ⟨op, slot⟩, busy⟩
  show execKeyOpDone true s = _
  simp only [execKeyOpDone, effect, busy, Bool.true_eq_false, if_false, if_true]
  split
  · rfl
  · rfl

theorem attestGo_completes : Completes .attestGo := fun _ ⟨may, idle, unfenced⟩ =>
  State.byHost_completes may (State.attest_samples idle unfenced)

theorem attestDone_completes : Completes .attestDone := by
  rintro s ⟨some_, unfenced⟩
  obtain ⟨bs, busy⟩ := Option.isSome_iff_exists.mp some_
  refine (execAttestDone_reports busy unfenced).trans ?_
  simp only [effect, busy]
  rfl

theorem formeHashDone_completes : Completes .formeHashDone := by
  rintro s ⟨some_, busy⟩
  obtain ⟨a, active⟩ := Option.isSome_iff_exists.mp some_
  refine (execFormeHashDone_delivers active busy).trans ?_
  simp only [effect, active]

theorem evtLatchClear_completes (g : Fin 48) (mask now : W32) : Completes (.evtLatchClear g mask now) := fun _ may =>
  congrArg (fun t : State => (Host.Outcome.next (t.raiseMask g (now.setWidth 64)) : Out State)) (State.byHost_may may)

theorem pcieLinkUp_completes (speed : Fin 5) (width : Fin 9) : Completes (.pcieLinkUp speed width) := by
  rintro s ⟨high, runs⟩
  show execPcieLinkUp speed width s = _
  simp only [execPcieLinkUp, effect, high, runs, Bool.or_self, Bool.false_eq_true, if_false, Bool.or_eq_true,
    bne_iff_ne]

end Sys2Proof.Machine
end

section
/-! Every command completes: each by its form, or by the lemma that says why its conditions open its way. -/

namespace Sys2Proof.Machine

theorem completes (i : Instr) : Completes i := by
  cases i with
  | frameStart => exact frameStart_completes _
  | frameEnd => exact frameEnd_completes _ _ _ _
  | pdelayResponse => exact pdelayResponse_completes _
  | pcsLockLoss => exact pcsLockLoss_completes _ _ _ _
  | pcsLockGain | checkpointTimer =>
    exact fun _ applies => congrArg Host.Outcome.next (if_neg applies)
  | linkDown => exact linkDown_completes _
  | linkUp => exact linkUp_completes _
  | holdTimeExpiry | laneModeInForce | mergeVerifyTimer | mergeRespond | parityInvalidate | wblStateRepair
  | ppsOutRise | ppsOutFall | bmeClear | lateCompletion | rankSelfRefresh | codedMessage | watchlistEngineSleep =>
    exact fun _ applies => congrArg Host.Outcome.next (if_pos applies)
  | prtModeWrite | stickyClear | clrBlocked | clrQual | perTagTableWrite | ttDataWrite | dmaChStop | arcEnable
  | registerWrite =>
    exact fun _ ⟨may, _⟩ => State.byHost_completes may rfl
  | regionTrainingStart => exact regionTrainingStart_completes _
  | dispatch => exact dispatch_completes _
  | cellRequest => exact cellRequest_completes _
  | sweepDone => exact sweepDone_completes _
  | dmaPoolRetry | pmRepairDone | learnRequest | maintWrite | ageDecisionTick | drainTimeout | slewEnd | perstNFall
  | perstNRise | hotReset | pcieLinkDown | flr | d3hotEntry | d0Return | bmeSet | tagQuarantineEnd | ddrTempReport
  | eventEndPass | pageProgramDone | powerEstimate | powerRecalibrate | crystalLoss | pllLockLoss | fenceComplete
  | powerOn | resetNAssert | watchRailLoss | railUndervolt | frameBytesArrive | hiBerChange | fecCodeword
  | correctableError =>
    exact fun _ _ => rfl
  | cellFree => exact cellFree_completes _ _ _
  | galleyCommit => exact galleyCommit_completes _ _
  | residueTimeout => exact residueTimeout_completes _
  | recircOffer => exact recircOffer_completes _ _
  | alu | alui | movhi | mul | ins | setc | advc | lkiL2dst | lkiL2src | lkiIpv4 | lkiIpv6 | lkiRule | lkiFork | hini
  | hacc | hfin | dlvDrop | dlvMcast | dlvFork | dlvPunt | dlvSecond | qsel | sideCapmark | sideCaptrig | sideTstamp
  =>
    exact fun _ h => State.issueSeq_runs h fun _ _ _ => rfl
  | mfs => exact mfs_completes _ _ _
  | mts => exact mts_completes _ _ _
  | ext => exact ext_completes _ _ _ _ _ _ _ _
  | br | bri =>
    exact fun _ h => State.issue_runs h (fun _ _ _ => rfl) fun _ _ => Flow.moves_branch _ _
  | jmp | jtab =>
    exact fun _ h => State.issue_runs h (fun _ _ _ => rfl) fun _ _ => rfl
  | loop | loopr =>
    exact fun _ h => State.issueLoop_runs h _ _
  | end_ => exact end_completes _
  | watchdog => exact watchdog_completes _
  | lkiWatch => exact lkiWatch_completes _ _ _ _
  | lookupComplete => exact lookupComplete_completes _ _ _
  | lkw => exact lkw_completes _ _ _ _ _
  | hacf => exact hacf_completes _ _ _ _
  | berx => exact berx_completes _ _ _ _ _ _
  | asdu => exact asdu_completes _ _ _ _ _
  | wbopRead _ _ _ word =>
    exact fun _ h => State.wbop_runs h _ fun bad s i _ _ => s.wRead i word.val bad
  | wbopAdd _ _ _ rs2 word =>
    exact fun _ h => State.wbop_runs h _ fun bad s i _ cs => s.wAdd i word.val (cs.greg rs2) bad
  | dupchk _ _ _ rs2 =>
    exact fun _ h => State.wbop_runs h _ fun bad s i x cs => s.wDupchk i x (cs.greg rs2) bad
  | svchk _ _ _ rs2 =>
    exact fun _ h => State.wbop_runs h _ fun bad s i x cs => s.wSvchk i x (cs.greg rs2) bad
  | gschk _ _ _ rs2 =>
    exact fun _ h => State.wbop_runs h _ fun bad s i x cs => s.wGschk i x (cs.greg rs2) bad
  | meter _ _ _ rs2 =>
    exact fun _ h => State.wbop_runs h _ fun bad s i x cs => s.wMeter i x (cs.greg rs2) bad
  | wbind =>
    exact fun _ h => State.issueSeq_runs h fun _ _ there => if_pos there
  | dlvFwd => exact dlvFwd_completes _ _ _ _
  | sideMirror => exact sideMirror_completes _ _
  | editVpush | editVpop | editVswap | editHsrIns | editHsrRem | editPrpAdd | editPrpStrip | editMacDa | editMacSa
  | editTtlDec | editPtpCf =>
    exact fun _ h => State.edit_runs h _ _ _
  | ageingStep => exact ageingStep_completes _
  | scanStart => exact scanStart_completes
  | scanDone => exact scanDone_completes _ _
  | wchPatrolStep => exact wchPatrolStep_completes _ _
  | wchRepair => exact wchRepair_completes _ _
  | wblHostWrite => exact wblHostWrite_completes _ _ _ _
  | wblHostRead | evlogPop | timeNowLatch | txtsPop | resultHeaderRead | bar0BadAccess | winEntryRead =>
    exact fun _ awake => State.hostRead_completes awake rfl
  | wblPatrolVisit => exact wblPatrolVisit_completes _
  | wblSnapshot | meterClr | queueFlush | queuePause | freqTrim | slew | timeStep | timeSet | ringEnable
  | ringDisable | dmaRingDb | msixUnmask | arcDisable | faultAck | faultAckAll | faultClearAll | evtSet
  | evtEnableWrite | evtTargetWrite | evtVecAck =>
    exact fun _ may => State.byHost_completes may rfl
  | egressPick => exact egressPick_completes _
  | frameTxStart => exact frameTxStart_completes _ _
  | frameTxEnd => exact frameTxEnd_completes _ _
  | ttEntryChange => exact ttEntryChange_completes _ _
  | ttOperationalBase => exact ttOperationalBase_completes _ _
  | fstage => exact fun _ carried => exec_fstage carried.running rfl
  | fdiscard => exact fun _ carried => exec_fdiscard carried.running rfl
  | fcommit => exact fun _ carried => exec_fcommit carried.running rfl
  | fverify => exact fun _ carried => exec_fverify carried.running rfl
  | fload => exact fun _ carried => exec_fload carried.running rfl
  | drainComplete => exact drainComplete_completes
  | tagReleaseDone => exact tagReleaseDone_completes _
  | ppsInEdge | irqHoldExpiry | ddrRequest | recheckDone =>
    exact fun _ applies => congrArg Host.Outcome.next (if_neg (ne_false_of_eq_true applies))
  | ringDoorbell => exact ringDoorbell_completes _
  | ringBlockFetched => exact ringBlockFetched_completes _
  | i2cGo => exact i2cGo_completes _
  | blockExecute => exact blockExecute_completes _
  | twrite => exact fun _ carried => exec_twrite carried.running rfl
  | tdelete => exact fun _ carried => exec_tdelete carried.running rfl
  | tread => exact fun _ carried => exec_tread carried.running rfl
  | tsearch => exact fun _ carried => exec_tsearch carried.running rfl
  | tnext => exact fun _ carried => exec_tnext carried.running rfl
  | tflush => exact fun _ carried => exec_tflush carried.running rfl
  | nop => exact nop_completes
  | snapshot => exact snapshot_completes _ _ _
  | caparm => exact caparm_completes _ _ _
  | captrig => exact captrig_completes _
  | role => exact role_completes _ _
  | arcread => exact arcread_completes _ _ _
  | bar2Request => exact bar2Request_completes _ _ _ _ _
  | winEntryWrite => exact winEntryWrite_completes _ _ _
  | barResize => exact barResize_completes _
  | dmaChStart => exact dmaChStart_completes _
  | descWord1Read => exact descWord1Read_completes _ _
  | txFrameInject => exact txFrameInject_completes _ _ _
  | rxFrameDeliver => exact rxFrameDeliver_completes _ _
  | dmaCopy => exact dmaCopy_completes _ _ _ _
  | rxStreamDeliver => exact rxStreamDeliver_completes _ _ _
  | freezingError => exact freezingError_completes _ _
  | freezeRelease => exact freezeRelease_completes _
  | ddrFreqChange => exact ddrFreqChange_completes _
  | refreshInterval => exact refreshInterval_completes _ _
  | scrubStep => exact scrubStep_completes _ _
  | rankPowerDown => exact rankPowerDown_completes _
  | captureServe => exact captureServe_completes _ _
  | trigInEdge => exact trigInEdge_completes
  | eventClose => exact eventClose_completes
  | arcFormat => exact arcFormat_completes
  | formatDone | arcRecoveryDone =>
    exact fun _ at_ => congrArg Host.Outcome.next (if_neg (not_not_intro at_))
  | blockEraseDone => exact blockEraseDone_completes _ _
  | nandPatrolRead => exact nandPatrolRead_completes _
  | keepSet => exact keepSet_completes _
  | caseSleep => exact caseSleep_completes _
  | casePointIdle => exact casePointIdle_completes _
  | railConfirm => exact railConfirm_completes _ _
  | avsTick => exact avsTick_completes _ _
  | ddrLowSwitch => exact ddrLowSwitch_completes _
  | shedStep => exact shedStep_completes
  | shedWithdraw => exact shedWithdraw_completes
  | sensorSample => exact sensorSample_completes _ _ _
  | capWrite => exact capWrite_completes _
  | dualRailError => exact dualRailError_completes _ _
  | wireFault => exact wireFault_completes _
  | faultClear => exact faultClear_completes _
  | unfence => exact unfence_completes _
  | bistDone => exact bistDone_completes _
  | faultInject => exact faultInject_completes _ _
  | resetNRelease => exact resetNRelease_completes _
  | restartCold => exact restartCold_completes _ _
  | restartWarm => exact restartWarm_completes _ _
  | clrFails => exact clrFails_completes _
  | startWatchdog => exact startWatchdog_completes
  | railRestoreRelease => exact railRestoreRelease_completes _
  | qspiRead => exact qspiRead_completes _
  | qspiProgram => exact qspiProgram_completes _
  | qspiErase => exact qspiErase_completes
  | qspiDone => exact qspiDone_completes _
  | keyProgram => exact keyProgram_completes _ _
  | keyRevoke => exact keyRevoke_completes _ _
  | keyOpDone => exact keyOpDone_completes _
  | attestGo => exact attestGo_completes
  | attestDone => exact attestDone_completes
  | formeHashDone => exact formeHashDone_completes
  | evtLatchClear => exact evtLatchClear_completes _ _ _
  | pcieLinkUp => exact pcieLinkUp_completes _ _
  | caseBacklog => exact caseBacklog_completes _
  | throttleStep => exact throttleStep_completes _

/-- Settles O60: a command whose conditions decide a test of its own has a lemma above; the others have their effect
by the form of their operation alone. The model's choices come in through `effect`. -/
theorem everyCommandCompletes : Obligations.EveryCommandCompletes := fun i s => completes i s

end Sys2Proof.Machine
end
